-- ==== Sys2Proof/Word.lean ====
section
/-! DEFINITION. The machine's words and the identifiers of its units (00_scope R5, R7; 05_queues R113). -/

namespace Sys2Proof

/-- A 64-bit word: scalar registers, block registers, counters. -/
abbrev Word := BitVec 64
/-- One byte. -/
abbrev Byte := BitVec 8
/-- A 48-bit device address (R222). -/
abbrev Addr := BitVec 48
/-- A configuration epoch (R339). -/
abbrev Epoch := BitVec 32
/-- A scalar register number, s0 to s31 (R77). -/
abbrev Reg := BitVec 5
/-- A partition number, 0 to 31 (R349). -/
abbrev PartId := BitVec 5
/-- A region number, 0 to 3 (R7). -/
abbrev RegionId := BitVec 2
/-- A Stage Table entry number, 0 to 63 (R141). -/
abbrev StageId := BitVec 6
/-- A plan number, 0 to 1023 (R177). -/
abbrev PlanId := BitVec 10

/-- A logical block, written region.block (R7). -/
structure BlockId where
  region : RegionId
  block  : BitVec 6
  deriving DecidableEq, Repr

/-- The number region × 64 + logical block, which is also the block's Sceolink stream number (R302). -/
def BlockId.idx (b : BlockId) : Nat := b.region.toNat * 64 + b.block.toNat

/-- The logical quad that holds a block: bit 16r + q of a quad mask (R141). -/
def BlockId.quadBit (b : BlockId) : Nat := b.region.toNat * 16 + b.block.toNat / 4

/-- A sparse table: entries in strictly rising key order; a key that is not listed holds the table's default. -/
abbrev Tab (α : Type) := List (Nat × α)

/-- A queue address (Table 5.1). -/
abbrev QAddr := BitVec 32

/-- Device field of a queue address, bits 31:16 (Table 5.1). -/
def QAddr.device (q : QAddr) : BitVec 16 := q.extractLsb' 16 16
/-- Region field of a queue address, bits 15:14 (Table 5.1). -/
def QAddr.region (q : QAddr) : BitVec 2 := q.extractLsb' 14 2
/-- Block field of a queue address, bits 13:8 (Table 5.1). -/
def QAddr.block (q : QAddr) : BitVec 6 := q.extractLsb' 8 6
/-- Queue field of a queue address, bits 7:1 (Table 5.1). -/
def QAddr.queue (q : QAddr) : BitVec 7 := q.extractLsb' 1 7
/-- Class bit of a queue address: 0 Request, 1 Response (Table 5.1). -/
def QAddr.cls (q : QAddr) : Bool := q.getLsbD 0
/-- The block that a queue address names. -/
def QAddr.blockId (q : QAddr) : BlockId := ⟨QAddr.region q, QAddr.block q⟩
/-- A queue address built from its fields (Table 5.1). -/
def QAddr.mk (dev : BitVec 16) (b : BlockId) (q : BitVec 7) (cls : Bool) : QAddr :=
  (dev ++ b.region ++ b.block ++ q ++ BitVec.ofBool cls : BitVec 32)
/-- Two queue addresses name the same queue, with the class bit ignored (R122, R147). -/
def QAddr.sameQueue (a b : QAddr) : Bool := a.extractLsb' 1 31 == b.extractLsb' 1 31

end Sys2Proof
end

