-- ==== Sys2Proof/Syntax.lean ====
section
/-! DEFINITION. The commands of the DZ48 block: their operand types, then `Instr`, one constructor per row of the opcode table. -/

namespace Sys2Proof

/-! ## Operands that name outcomes the hardware reports -/

/-- An error of a burst of stacked memory: the data bits and check bits that differ from what was written (R230). -/
structure BurstErr where
  data : BitVec 256
  check : BitVec 16
  deriving DecidableEq, Repr

/-- What a stack controller's code check finds on a burst (R231). -/
inductive BurstCheck where
  | clean         -- no detection
  | single        -- a class W error corrected on the read that finds it
  | retryOk       -- a detection that the re-read clears or corrects
  | fails         -- a detection that the re-read does not clear
  deriving DecidableEq, Repr

/-- The command, address and write-data parity of an access to a stack (R235). -/
inductive BusCheck where
  | ok | retried | fails
  deriving DecidableEq, Repr

/-- What a read of a burst meets: bits that have turned over in the stack since it was written or last read, bits wrong on the first read only, the parity on the way, and a correction that the stack's on-die ECC reports (R231, R235). -/
structure BurstFault where
  upset : BurstErr
  transient : BurstErr
  bus : BusCheck
  onDie : Bool
  deriving DecidableEq, Repr

/-- A check inside a block, as CHECK_RERUN names it (R17, R19, Table 15.5); `exponent` is the range check that residue mode runs as well (R67). -/
inductive CellCheck where
  | pass | ecc1 | ecc2 | parity | residue | range | exponent | pair
  deriving DecidableEq, Repr

/-- A fault that strikes a block while the array runs a pass. What it changes goes on through the pass; the checks of the group's mode decide whether it is found (R17, R19, R66 to R68). -/
inductive ArrayFault where
  | none
  | ecc1                                        -- a single-bit scratchpad error, corrected (R19)
  | ecc2                                        -- a double-bit scratchpad error (R19)
  | parity                                      -- a parity error on a path inside the block (R19)
  | weight (i j : BitVec 7) (flip : BitVec 16)  -- bits of active register (i, j) turn over
  | exponent (m n seg : Nat) (add : Int)        -- the exponent that a segment of element (m, n) aligns to is off
  | segment (m n seg : Nat) (add : Int)         -- a segment sum of element (m, n) is off by so many units
  | accumulator (m n seg : Nat) (flip : BitVec 32)  -- bits of the sum after segment seg of element (m, n) turn over
  | output (m n : Nat) (flip : Nat)             -- bits of the converted element (m, n) turn over
  deriving DecidableEq, Repr

/-- The four engines, numbered as the bits of WAIT's mask (R84). -/
inductive EngineId where
  | array | vector | fetch | queue
  deriving DecidableEq, Repr

/-- Why a group is killed (R102, R104, R137, R163, R312, Table 9.6). -/
inductive KillCause where
  | check (c : CellCheck)   -- an error under R19
  | dip                     -- a supply dip under R416
  | abort                   -- an abort under R104
  | memA (burst : Addr)     -- class A data dropped (Table 9.6)
  | memW (burst : Addr)     -- class W uncorrectable (Table 9.6)
  | relayAbandoned (num : BitVec 32)  -- a read reached an abandoned ring segment (R137)
  | coder                   -- a coded difference of the wrong length (R163)
  | companion               -- a companion read lost to a flush (R312)
  deriving DecidableEq, Repr

/-- Status of a response packet (Tables 11.5 and 12.3). -/
inductive RespStatus where
  | ok | refused | dataError
  deriving DecidableEq, Repr

/-! ## Command words (Tables 4.4 to 4.8) -/

/-- Fields of MATMUL (Table 4.6). -/
structure MatmulFields where
  amaxEn : Bool
  amaxIdx : BitVec 3
  t : BitVec 8
  n : BitVec 16
  k : BitVec 16
  m : BitVec 20
  fmtZ : BitVec 4
  fmtC : BitVec 4
  fmtB : BitVec 4
  fmtA : BitVec 4
  st : Reg
  ss : Reg
  sz : Reg
  sb : Reg
  sa : Reg
  sd : Reg
  roundSr : Bool
  tiled : Bool
  zShape : BitVec 2
  fusedMul : Bool
  fusedEn : Bool
  deriving DecidableEq, Repr

/-- Fields of VEC and CONVERT (Table 4.7). -/
structure VecFields where
  t : BitVec 8
  vop : BitVec 8
  rowLen : BitVec 16
  count : BitVec 32
  fmtD : BitVec 4
  fmtB : BitVec 4
  fmtA : BitVec 4
  sc : Reg
  sb : Reg
  sa : Reg
  sd : Reg
  bcastB : Bool
  scalarB : Bool
  amaxIdx : BitVec 3
  amaxEn : Bool
  roundSr : Bool
  deriving DecidableEq, Repr

/-- Fields of FETCH and COPY (Table 4.8). -/
structure FetchFields where
  t : BitVec 8
  fmtDst : BitVec 4
  fmtSrc : BitVec 4
  sv : Reg
  sb : Reg
  sa : Reg
  sd : Reg
  amaxIdx : BitVec 3
  amaxEn : Bool
  versionEn : Bool
  toShadow : Bool
  deriving DecidableEq, Repr

/-! ## Queue messages -/

/-- A descriptor (Table 5.2). The reserved bits are zero and are not held. -/
structure Descriptor where
  crc : BitVec 32
  body : BitVec 160
  len1 : BitVec 32
  ptr1 : Addr
  len0 : BitVec 32
  ptr0 : Addr
  stream : Bool
  relay : Bool
  rider : Bool
  epoch : Epoch
  sendSeq : BitVec 16
  tag : BitVec 16
  src : QAddr
  dst : QAddr
  deriving DecidableEq, Repr

/-- Which message of a block an answer or a timer names: its destination queue and send_seq (R116, R246). -/
structure MsgRef where
  block : BlockId
  dst : QAddr
  seq : BitVec 16
  deriving DecidableEq, Repr

/-- A Relay as its receiver names it: its source device, and the number that this device gave it (R131). -/
structure RelayId where
  dev : BitVec 16
  num : BitVec 32
  deriving DecidableEq, Repr

/-- A Relay open as the receiving hub takes it (R131): its number, its source device, its descriptor. -/
structure RelayOpenMsg where
  num : BitVec 32
  srcDev : BitVec 16
  desc : Descriptor
  deriving DecidableEq, Repr

/-! ## Links (chapter 10) -/

/-- A link: fabric ports 0 to 23, and 24 for Sceolink, which runs the same link layer (R293). -/
abbrev LinkId := Nat

/-- A packet header and its data (Table 10.4). -/
structure Packet where
  ext : BitVec 32
  flow : BitVec 32
  kind : BitVec 8
  hops : BitVec 8
  length : BitVec 12
  srcDev : BitVec 16
  dstDev : BitVec 16
  data : List Byte
  deriving DecidableEq, Repr

/-- Virtual channels (R242). -/
inductive Channel where
  | bypass | request | response
  deriving DecidableEq, Repr

/-- A DATA flit as its sender holds it for replay and its receiver stores it (Table 10.2): the ack fields and the crc are formed anew at each transmission. -/
structure Flit where
  vc : Channel
  first : Bool
  npkt : BitVec 2
  seq : BitVec 12
  payload : List Byte                         -- 240 bytes
  deriving DecidableEq, Repr

/-- The acknowledgement fields that every flit carries (Table 10.2). -/
structure FlitAck where
  ackValid : Bool
  ackSeq : BitVec 12
  replayReq : Bool
  deriving DecidableEq, Repr

/-- A CREDIT link record (Table 10.3). -/
structure CreditRec where
  consSeq : BitVec 12
  consValid : Bool
  bypTotal : BitVec 16
  reqTotal : BitVec 16
  rspTotal : BitVec 16
  deriving DecidableEq, Repr

/-- A LANE link record (Table 10.3): command number, lane mask (width on Sceolink) and cause. -/
structure LaneRec where
  cmd : BitVec 8
  mask : BitVec 8
  cause : BitVec 4
  deriving DecidableEq, Repr

/-- An IDENT link record (Table 10.3). -/
structure IdentRec where
  device : BitVec 16
  port : BitVec 5
  idValid : Bool
  fresh : Bool
  lanes : BitVec 8
  version : BitVec 16
  deriving DecidableEq, Repr

/-- A RESUME link record (Table 10.3). -/
structure ResumeRec where
  rxExpected : BitVec 12
  bypTotal : BitVec 16
  reqTotal : BitVec 16
  rspTotal : BitVec 16
  deriving DecidableEq, Repr

/-- A link record as its receiver takes it, with the acknowledgement fields of the LINK flit that carries it (R243, R250). -/
structure Carried (α : Type) where
  ack : FlitAck
  body : α
  deriving DecidableEq, Repr

/-- The ack timer of a link: it runs from an acknowledged point (R251, R272). -/
structure AckTimer where
  link : LinkId
  point : BitVec 12
  deriving DecidableEq, Repr

/-- An entry at the routing unit, by its place among what is on its way, with the bytes of a body that the spec does not lay out (R265, log 44). -/
structure Outgoing where
  index : Nat
  body : List Byte
  deriving DecidableEq, Repr

/-! ## Sceolink (chapter 12) -/

/-- A direction of Sceolink, as the device sees it (R294). -/
inductive SclDir where
  | tx | rx
  deriving DecidableEq, Repr

/-- A REMOUNT link record (Table 12.2). -/
structure RemountRec where
  dir : SclDir
  cmd : BitVec 8
  logical : BitVec 4
  physFrom : BitVec 5
  physTo : BitVec 5
  cause : BitVec 4
  deriving DecidableEq, Repr

/-! ## The guest site (chapter 11) -/

/-- A guest request header (Table 11.5). -/
structure GuestReq where
  tag : BitVec 16
  address : Addr
  beats : BitVec 8
  opx : BitVec 24
  data : List Byte
  deriving DecidableEq, Repr

/-- What a failing bundle beat was carrying (Table 11.2): a descriptor; data that a block engine reads or writes in a group at an address; what a hub engine or an update unit writes or reads; a guest request, by its type, or data for the guest. -/
inductive BundleData where
  | descriptor (d : Descriptor)
  | blockData (b : BlockId) (addr : Addr)
  | updateWrite (region : RegionId)
  | updateRead (region : RegionId) (second : Bool)
  | instanceWrite (plan : PlanId)
  | instanceRead (plan : PlanId) (second : Bool)
  | relayWrite (q : QAddr) (id : RelayId)
  | relayRead (num : BitVec 32) (second : Bool)
  | guestRequest (type : BitVec 8) (tag : BitVec 16)
  | guestData (type : BitVec 8) (tag : BitVec 16)
  deriving DecidableEq, Repr

/-- One beat at a bundle's receiver: its 64 bytes, the 16 parity wires, one for each 32 data wires (R276). -/
structure Beat where
  data : BitVec 512
  parity : BitVec 16
  deriving DecidableEq, Repr

/-- A bundle end: its region and its number (Table 11.4). -/
structure BundleEnd where
  region : RegionId
  bundle : Nat
  deriving DecidableEq, Repr

/-- What a beat carries, with the beat as it was received (R276, R278). -/
structure OnBeat (α : Type) where
  beat : Beat
  what : α
  deriving DecidableEq, Repr

/-- What a refill adds to the firewall's buckets (R287). -/
structure Tokens where
  bytes : Nat
  descs : Nat
  deriving DecidableEq, Repr

/-- What the training of one bundle found (R280): per group the failing wires of order 3, and the group in which the verification of order 6 failed. -/
structure TrainResult where
  failedWires : List (List Nat)
  verifyFails : Option Nat
  deriving DecidableEq, Repr

/-! ## Faults and events the chip level acts on -/

/-- The hub faults of Table 15.6. -/
inductive HubFaultKind where
  | security | telemetry | crossbar | collector | alwaysOn
  | collectiveOp (plan : PlanId) | exportOp (p : PartId) | linkOp (num : BitVec 32) | versionOp (e : StageId)
  | routing (dst : BitVec 16) | workList (p : PartId)
  deriving DecidableEq, Repr

/-- A report that reaches the chip level (R24). -/
inductive ChipReport where
  | quadFault (r : RegionId) (quad : BitVec 4)   -- a region reports a quad with no spare (R22)
  | partitionFault (p : PartId)                  -- resources owned by one partition
  | regionFault (r : RegionId)                   -- a region's shared resources
  | hubFault (k : HubFaultKind)                  -- a fault in the hub itself
  deriving DecidableEq, Repr

/-- A crossing FIFO, named by the unit on its far side: between a block, or a stack's memory-side island, and its region's fabric; between a region's bundle ends and the hub; between a port or Sceolink and the hub; and those within the hub (R25, R275). -/
inductive Crossing where
  | block (b : BlockId)
  | region (r : RegionId)
  | memSide (stack : Nat)
  | port (p : Nat)
  | sceolink
  | hub
  deriving DecidableEq, Repr

/-- The requester of a memory access (Table 9.6). -/
inductive Requester where
  | engine (b : BlockId)
  | ld (b : BlockId)
  | relay (num : BitVec 32)
  | lane (b : BlockId) (tag : BitVec 32)
  | collective (plan : PlanId)
  | update (r : RegionId)
  | versionEntry (e : StageId)
  | scrub
  deriving DecidableEq, Repr

/-- The bytes of a write, and the parity on their way to the stack (R235). -/
structure WriteData where
  bytes : List Byte
  bus : BusCheck
  deriving DecidableEq, Repr

/-! ## FMP 2 records and payloads (chapter 13) -/

/-- What the control complex reads at a command ring's head: the fields of Table 13.10, and whether seq and crc match (R308, R325). -/
structure CmdHeader where
  opcode : BitVec 16
  units : BitVec 32
  tag : BitVec 32
  epoch : Epoch
  resultAddr : Addr
  seqOk : Bool
  crcOk : Bool
  payloadBytes : Nat
  deriving DecidableEq, Repr

/-- PART_CREATE's payload (Table 14.2). -/
structure PartCreateP where
  index : BitVec 8
  quadMask : BitVec 64
  checkMode : BitVec 2
  seqBase : BitVec 32
  seqCount : BitVec 32
  coalesce : BitVec 32
  deriving DecidableEq, Repr

/-- PART_MEM's payload (Table 14.2): stacked ranges as first GiB and count, companion ranges as base and size. -/
structure PartMemP where
  index : BitVec 8
  stacked : List (Nat × Nat)
  companion : List (Nat × Nat)
  deriving DecidableEq, Repr

/-- STAGE_SET's payload: the fields of Table 6.1 that are set by Cinch. -/
structure StageP where
  index : BitVec 8
  recoveryPc : Addr
  shardList : Addr
  shardCount : BitVec 12
  pred : QAddr
  succ : QAddr
  quadMask : BitVec 64
  mbPerStep : BitVec 16
  budget : BitVec 16
  bwdQ : BitVec 7
  fwdQ : BitVec 7
  pipeStage : BitVec 16
  job : BitVec 16
  staleS : BitVec 3
  partition : PartId
  last : Bool
  first : Bool
  valid : Bool
  deriving DecidableEq, Repr

/-- VTABLE_INIT's payload (Table 6.11). -/
structure VTableP where
  addr : Addr
  shardBytes : BitVec 32
  wholeA : Addr
  wholeB : Addr
  diffBase : Addr
  diffSize : BitVec 32
  v0 : BitVec 32
  deriving DecidableEq, Repr

/-- QUEUE_CONFIG's payload (Table 5.11). -/
structure QueueConfigP where
  partition : PartId
  blockMask : BitVec 64
  depths : List Nat
  stallPolicy : BitVec 2
  stallLimitLog2 : BitVec 5
  lossLimitMs : BitVec 32
  deriving DecidableEq, Repr

/-- A plan entry (Table 7.5), which is also COLL_PLAN_SET's payload. -/
structure PlanEntry where
  amax : Addr
  dst : Addr
  src0 : Addr
  halfLen : BitVec 32
  elements : BitVec 32
  planId : BitVec 16
  tOut : BitVec 8
  stage : StageId
  group : BitVec 6
  owner : BlockId
  ppIndex : BitVec 4
  op : BitVec 4
  alg : BitVec 2
  roundSr : Bool
  normEn : Bool
  countEn : Bool
  rbSrc : Bool
  partition : PartId
  root : BitVec 12
  ws : Addr
  valid : Bool
  deriving DecidableEq, Repr

/-- A task entry (Table 8.1), which is also UPD_TASK_SET's payload. -/
structure TaskEntry where
  prog : Addr
  momB : Addr
  momA : Addr
  ventry : Addr
  scaleList : Addr
  scaleCount : BitVec 8
  step0 : BitVec 32
  gFirst : BitVec 32
  plan : PlanId
  stage : StageId
  param : BitVec 5
  partition : PartId
  opt : BitVec 2
  momFmt : Bool
  countMode : Bool
  clipEn : Bool
  exportEn : Bool
  progBlock : Bool
  valid : Bool
  deriving DecidableEq, Repr

/-- A learning-rate segment (Table 8.4). -/
structure SchedSeg where
  lrEnd : BitVec 32
  lrStart : BitVec 32
  firstStep : BitVec 32
  length : BitVec 30
  kind : BitVec 2
  deriving DecidableEq, Repr

/-- Who receives an export ring's records (R213). -/
inductive ExportKind where
  | none | host | package
  deriving DecidableEq, Repr

/-- EXPORT_SET's payload (Table 8.11). -/
structure ExportP where
  partition : PartId
  kind : ExportKind
  base : Addr
  size : BitVec 64
  indexBlock : Addr
  queue : QAddr
  spanMax : BitVec 32
  dropPolicy : Bool
  deriving DecidableEq, Repr

/-- LINK_CONFIG's payload: a port mask and the fields of Table 10.10. -/
structure LinkConfigP where
  portMask : BitVec 24
  graceMs : BitVec 10
  laneMask : BitVec 8
  laneErrLimit : BitVec 8
  ackTimeoutUs : BitVec 7
  autoExclude : Bool
  enable : Bool
  deriving DecidableEq, Repr

/-- SCL_CONFIG's payload: the fields of Tables 12.9 and 12.12. -/
structure SclConfigP where
  heartbeatMs : BitVec 16
  graceMs : BitVec 10
  laneErrLimit : BitVec 8
  ackTimeoutUs : BitVec 7
  autoRemount : Bool
  sharedBase : Addr
  sharedEnable : Bool
  deriving DecidableEq, Repr

/-- A firewall window (Table 11.8). -/
structure FwWindow where
  end64k : BitVec 32
  base64k : BitVec 32
  memop : Bool
  write : Bool
  read : Bool
  valid : Bool
  deriving DecidableEq, Repr

/-- A firewall queue-list entry (Table 11.9). -/
structure FwQueue where
  replyTo : QAddr
  valid : Bool
  mask : BitVec 32
  required : BitVec 32
  deriving DecidableEq, Repr

/-- HUB_FW_RATE (Table 11.10). -/
structure FwRate where
  descRate : BitVec 16
  burstKib : BitVec 16
  byteRate : BitVec 11
  deriving DecidableEq, Repr

/-- GUEST_FW_SET's payload (Table 11.11). -/
structure GuestFwP where
  enable : Bool
  partition : PartId
  windows : List FwWindow
  queues : List FwQueue
  rate : FwRate
  deriving DecidableEq, Repr

/-- POWER_LIMIT_SET's payload: the fields of Table 16.9. -/
structure PowerLimitP where
  wdtMs : BitVec 16
  wdtReset : Bool
  memFloor : BitVec 2
  sustainedW : BitVec 12
  deriving DecidableEq, Repr

/-- MARGIN_TEST's payload (Table 15.10). -/
structure MarginP where
  region : BitVec 8
  quad : BitVec 8
  offsetMv : BitVec 8
  clockPct : BitVec 8
  action : BitVec 8
  repeats : BitVec 8
  patterns : BitVec 16
  deriving DecidableEq, Repr

/-- One block's margin-test outcome, as its known-answer patterns gave it (R388). -/
structure MarginResult where
  phys : Nat
  fail : Bool
  pattern : BitVec 8
  rep : BitVec 8
  temp : BitVec 8
  deriving DecidableEq, Repr

/-- An image header and board data, as the security engine reads them (Tables 17.1 and 17.2). -/
structure Image where
  magic : BitVec 32
  hdrVersion : BitVec 16
  part : BitVec 16
  imageVersion : BitVec 32
  secVersion : BitVec 32
  key : BitVec 8
  revokeBelow : BitVec 8
  flags : BitVec 8
  minStep : BitVec 8
  bodyLen : BitVec 32
  bodyHash : BitVec 256
  body : List Byte
  signature : List Byte
  pmbusAddr : BitVec 8
  profileCeiling : BitVec 8
  deriving DecidableEq, Repr

/-- A signed token: its 64-byte body and its signature (R402, R429). -/
structure Token where
  body : List Byte
  signature : List Byte
  deriving DecidableEq, Repr

/-- LC_TRANSITION's payload (Table 17.10). -/
structure LcP where
  target : BitVec 8
  action : BitVec 8
  slot : BitVec 8
  serial : BitVec 64
  ownerKey : BitVec 256
  token : Token
  deriving DecidableEq, Repr

/-- SEQ_ADD's payload (Table 14.6). -/
structure SeqAddP where
  kvList : Addr
  kvPages : BitVec 16
  position : BitVec 32
  remaining : BitVec 32
  ready : BitVec 16
  priority : BitVec 8
  user : BitVec 32
  deriving DecidableEq, Repr

/-- SEQ_UPDATE's payload (Table 14.6). -/
structure SeqUpdateP where
  index : BitVec 32
  kvList : Addr
  kvPages : BitVec 16
  readyAdd : BitVec 16
  priority : BitVec 8
  remaining : BitVec 32
  deriving DecidableEq, Repr

/-- BATCH_SET's payload (Table 14.6). -/
structure BatchP where
  listBase : Addr
  listDepth : BitVec 8
  maxEntries : BitVec 16
  batchMin : BitVec 32
  batchMax : BitVec 32
  deadlineUs : BitVec 32
  chunk : BitVec 32
  pageTokens : BitVec 32
  queue : QAddr
  deriving DecidableEq, Repr

/-- REPORT_SET's payload (Table 14.2). -/
structure ReportP where
  intervalMs : BitVec 32
  ring : Addr
  threshold : BitVec 32
  estimates : List (BitVec 32)
  deriving DecidableEq, Repr

/-- A permutation entry (Table 7.9). -/
structure PermEntry where
  length : BitVec 32
  cycle : BitVec 32
  pos : BitVec 16
  last : Bool
  dstDev : BitVec 16
  dstAddr : Addr
  srcDev : BitVec 16
  srcAddr : Addr
  deriving DecidableEq, Repr

/-- Operations of a scalar all-reduce (R192). -/
inductive ScalarOp where
  | a32Sum | a32Max | int64Sum | u32Min | u32Max
  deriving DecidableEq, Repr

/-- What a scalar all-reduce serves (R151, R191, R192). -/
inductive ScalarUse where
  | norm (job : BitVec 16) (step : BitVec 32)
  | jobVersion (job : BitVec 16)
  | command
  deriving DecidableEq, Repr

/-- A posted instance as packets name it: its plan_id and its step (R188). -/
structure InstanceId where
  planId : BitVec 16
  step : BitVec 32
  deriving DecidableEq, Repr

/-- One collective piece: header scalars and decoded position, with G16 elements and scales (R182 to R188). -/
structure Piece where
  gatherPhase : Bool
  ringStep : Nat
  chunk : Nat
  firstBlock : Nat
  t : BitVec 8
  elems : List (BitVec 16)
  scales : List Byte
  contrib : BitVec 32
  amax : BitVec 32
  lastOfChunk : Bool
  deriving DecidableEq, Repr

/-- What waits under COL_TIMEOUT (R195). -/
inductive ColWait where
  | instance_ (plan : PlanId)
  | scalar (use : ScalarUse) (group : BitVec 6)
  | permute (cycle : BitVec 32)
  deriving DecidableEq, Repr

/-- Why an update is interrupted (R211). -/
inductive UpdCause where
  | abort | mismatch | memory | coder | slowTier | fence
  deriving DecidableEq, Repr

/-- Settled data of a companion read (R301). -/
structure RdDataMsg where
  stream : Nat
  tag : BitVec 16
  status : RespStatus
  data : List Byte
  deriving DecidableEq, Repr

/-- One rail's readings over PMBus: voltage in mV, current in A, power in W, temperature in °C, fault status (R410). -/
structure RailReading where
  mv : BitVec 16
  amps : BitVec 16
  watts : BitVec 16
  temp : BitVec 8
  faults : BitVec 16
  deriving DecidableEq, Repr

/-- The readings of one poll, rail by rail in the order of Table 18.4 (R410). -/
abbrev PmbusReading := List RailReading

/-- One 10 µs estimate by the telemetry island (R412, R413). -/
structure PowerSample where
  power1ms : BitVec 12
  power1s : BitVec 12
  rising1ms : Bool      -- the 1 ms average would pass its limit at the present rate
  rising1s : Bool       -- the 1 s average would pass its limit at the present rate
  dieTemp : BitVec 8
  deriving DecidableEq, Repr

/-- Islands that take part in a cut (Table 13.16). -/
inductive Island where
  | block (b : BlockId)
  | spare (r : RegionId) (pos : BitVec 2)
  | regionFabric (r : RegionId)
  | memSide (stack : Nat)
  | port (p : Nat)
  | sceolink | hubCrossbar | collector | security | telemetry | control | alwaysOn
  deriving DecidableEq, Repr

/-- DEVICE_RESET's kinds as sources, and the reset kinds of Table 16.2. -/
inductive ResetKind where
  | powerOn | lifeCycle | cold | warm | warmPreserve
  deriving DecidableEq, Repr

/-! ## The commands -/

/-- The commands of the block, one constructor per row of spec/opcode_table.json, in its order but for the rows without operands and a few rare ones, which stand last: Lean compiles at most 245 constructors that carry data. -/
inductive Instr where
  /-- NOP (R79). -/
  | nop (b : BlockId)
  /-- LI (R81). -/
  | li (b : BlockId) (sd : Reg) (imm : Word)
  /-- ALU (R81). -/
  | alu (b : BlockId) (op : BitVec 4) (sd : Reg) (sa : Reg) (sb : Reg)
  /-- ALUI (R81). -/
  | alui (b : BlockId) (op : BitVec 4) (sd : Reg) (sa : Reg) (imm : Word)
  /-- LD (R81). -/
  | ld (b : BlockId) (sd : Reg) (sa : Reg) (imm : Word)
  /-- LD_DATA_RETURN (R81). `hit`: the bits that have turned over in the first burst of stacked memory that it reads. -/
  | ldDataReturn (b : BlockId) (hit : BurstErr)
  /-- ST (R81). -/
  | st (b : BlockId) (sa : Reg) (sb : Reg) (imm : Word)
  /-- BR (R81). -/
  | br (b : BlockId) (cond : BitVec 3) (sa : Reg) (sb : Reg) (offset : BitVec 32)
  /-- JMP (R81). -/
  | jmp (b : BlockId) (call : Bool) (indirect : Bool) (sa : Reg) (offset : BitVec 32)
  /-- LOOP (R81). -/
  | loop (b : BlockId) (sd : Reg) (offset : BitVec 32)
  /-- RDREG (R82). -/
  | rdreg (b : BlockId) (sd : Reg) (reg : BitVec 16)
  /-- WRREG (R82). -/
  | wrreg (b : BlockId) (sa : Reg) (reg : BitVec 16)
  /-- BLK_SR_SEED_WRITE (R45). -/
  | blkSrSeedWrite (b : BlockId) (sa : Reg)
  /-- BLK_LR_RELEASE_WRITE (R135). -/
  | blkLrReleaseWrite (b : BlockId) (sa : Reg)
  /-- BLK_COLL_POST_WRITE (R180). -/
  | blkCollPostWrite (b : BlockId) (sa : Reg)
  /-- BLK_WL_DONE_WRITE (R368). -/
  | blkWlDoneWrite (b : BlockId) (sa : Reg)
  /-- PARK (R83). -/
  | park (b : BlockId) (code : BitVec 16)
  /-- UNLISTED_COMMAND (R80). -/
  | unlistedCommand (b : BlockId)
  /-- GHDR (R97). -/
  | ghdr (b : BlockId) (sa : Reg) (n : BitVec 6) (tag : BitVec 32) (riderEn : Bool) (sb : Reg)
  /-- COMMIT (R103). -/
  | commit (b : BlockId) (quiet : Bool)
  /-- GROUP_COMMIT (R103). -/
  | groupCommit (b : BlockId) (cycles : Word)
  /-- GROUP_COMPLETION_POST (R103). -/
  | groupCompletionPost (b : BlockId)
  /-- WAIT (R84). -/
  | wait (b : BlockId) (mask : BitVec 4)
  /-- ENGINE_COMMAND_FINISH (R84). `hit`: the bits that have turned over in the first burst of stacked memory that it reads. -/
  | engineCommandFinish (b : BlockId) (e : EngineId) (hit : BurstErr)
  /-- MATMUL (R86). -/
  | matmul (b : BlockId) (f : MatmulFields)
  /-- VEC (R87). -/
  | vec (b : BlockId) (f : VecFields)
  /-- CONVERT (R87). -/
  | convert (b : BlockId) (f : VecFields)
  /-- FETCH (R88). -/
  | fetch (b : BlockId) (f : FetchFields)
  /-- VERSION_ENTRY_READ (R163). `hit`: the bits that have turned over in the first burst of stacked memory that it reads. -/
  | versionEntryRead (b : BlockId) (hit : BurstErr)
  /-- COPY (R88). -/
  | copy (b : BlockId) (f : FetchFields)
  /-- SEND (R89). -/
  | send (b : BlockId) (sa : Reg) (byAddr : Bool)
  /-- RECV (R126). -/
  | recv (b : BlockId) (q : BitVec 7) (sd : Reg) (sb : Reg) (nonblock : Bool) (byAddr : Bool)
  /-- RECV_WAKE (R126). -/
  | recvWake (b : BlockId)
  /-- RELAY (R131). -/
  | relay (b : BlockId) (sa : Reg) (byAddr : Bool)
  /-- ATOMIC (R99). -/
  | atomic (b : BlockId) (sd : Reg) (sa : Reg) (sb : Reg) (op : BitVec 24)
  /-- FENCE_READBACK (R303). -/
  | fenceReadback (b : BlockId)
  /-- READBACK_RETURN (R303). -/
  | readbackReturn (b : BlockId) (st : RespStatus)
  /-- GROUP_KILL (R102). -/
  | groupKill (b : BlockId) (cause : KillCause)
  /-- BLOCK_ABORT (R104). -/
  | blockAbort (b : BlockId)
  /-- COMMAND_FETCH_RETURN (R76). `hit`: the bits that have turned over in the first burst of stacked memory that it reads. -/
  | commandFetchReturn (b : BlockId) (hit : BurstErr)
  /-- SHADOW_LOAD_COMPLETE (R16). -/
  | shadowLoadComplete (b : BlockId)
  /-- ARRAY_PASS (R55). -/
  | arrayPass (b : BlockId) (fault : ArrayFault)
  /-- BLOCK_REPORT (R22). -/
  | blockReport (b : BlockId)
  /-- FENCE_DRAIN_TIMEOUT (R376). -/
  | fenceDrainTimeout (b : BlockId)
  /-- STARTUP_TEST_COMPLETE (R389). -/
  | startupTestComplete (region : RegionId) (phys : Nat) (pass : Bool)
  /-- REGION_REPORT (R24). -/
  | regionReport (rep : ChipReport)
  /-- DESCRIPTOR_ARRIVAL (R119). -/
  | descriptorArrival (d : Descriptor) (parityOk : Bool)
  /-- ANSWER_ACCEPT (R120). -/
  | answerAccept (m : MsgRef)
  /-- ANSWER_NACK_FULL (R121). -/
  | answerNackFull (m : MsgRef)
  /-- ANSWER_NACK_CRC (R120). -/
  | answerNackCrc (m : MsgRef)
  /-- ANSWER_NACK_STALE (R120). -/
  | answerNackStale (m : MsgRef)
  /-- ANSWER_NACK_GONE (R120). -/
  | answerNackGone (m : MsgRef)
  /-- ANSWER_NACK_BUSY (R121). -/
  | answerNackBusy (m : MsgRef)
  /-- BACKOFF_EXPIRY (R121). -/
  | backoffExpiry (m : MsgRef)
  /-- LOSS_LIMIT_EXPIRY (R125). -/
  | lossLimitExpiry (m : MsgRef)
  /-- SEND_STALL_LIMIT (R128). -/
  | sendStallLimit (m : MsgRef)
  /-- RELAY_OPEN (R132). -/
  | relayOpen (o : RelayOpenMsg)
  /-- LANDING_CREDIT (R131). `hit`: the bits that have turned over in the first burst of stacked memory that it reads. -/
  | landingCredit (num : BitVec 32) (hit : BurstErr)
  /-- RELAY_SEGMENT_DATA (R133). -/
  | relaySegmentData (q : QAddr) (id : RelayId) (off : BitVec 32) (data : List Byte)
  /-- RELAY_DESCRIPTOR_DELIVERY (R133). -/
  | relayDescriptorDelivery (q : QAddr) (id : RelayId)
  /-- LANDED_UPDATE (R134). -/
  | landedUpdate (q : QAddr)
  /-- RELAY_CANCEL (R137). -/
  | relayCancel (q : QAddr) (id : RelayId)
  /-- RELAY_SEGMENT_TIMEOUT (R137). -/
  | relaySegmentTimeout (q : QAddr) (id : RelayId)
  /-- ADMISSION_POST (R152). -/
  | admissionPost (e : StageId) (mismatch : Bool)
  /-- HOLD_NOTICE (R148). `mismatch`: the two computations of the version engine differ (R378); `hit`: the bits that have turned over in the shard list. -/
  | holdNotice (mismatch : Bool) (hit : BurstErr)
  /-- RELEASE_NOTICE (R148). `mismatch`: the two computations of the version engine differ (R378); `hit`: the bits that have turned over in the shard list. -/
  | releaseNotice (mismatch : Bool) (hit : BurstErr)
  /-- SLOT_ALLOCATION (R157). -/
  | slotAllocation (region : RegionId) (task : BitVec 8)
  /-- PUBLICATION (R159). -/
  | publication (region : RegionId) (task : BitVec 8)
  /-- DRAIN_MARK_ANSWER (R160). -/
  | drainMarkAnswer (b : BlockId) (ventry : Addr)
  /-- VERSION_DRAIN_COMPLETE (R160). -/
  | versionDrainComplete (ventry : Addr)
  /-- JOB_VERSION_CHECK (R151). -/
  | jobVersionCheck (job : BitVec 16)
  /-- JOB_VERSION_AGREED (R151). -/
  | jobVersionAgreed (job : BitVec 16) (version : BitVec 32)
  /-- INSTANCE_START (R181). -/
  | instanceStart (plan : PlanId)
  /-- COLLECTIVE_PIECE (R185). -/
  | collectivePiece (inst : InstanceId) (rank : BitVec 12) (p : Piece)
  /-- COLLECTIVE_CREDIT (R188). -/
  | collectiveCredit (inst : InstanceId) (rank : BitVec 12)
  /-- COLLECTIVE_ABORT_NOTICE (R195). -/
  | collectiveAbortNotice (planId : BitVec 16) (step : BitVec 32)
  /-- SCALAR_VALUE (R192). -/
  | scalarValue (group : BitVec 6) (use : ScalarUse) (value : Word) (down : Bool)
  /-- INSTANCE_COMPLETE (R187). -/
  | instanceComplete (plan : PlanId)
  /-- NORM_COMPLETE (R190). -/
  | normComplete (job : BitVec 16) (step : BitVec 32)
  /-- COL_TIMEOUT_EXPIRY (R195). -/
  | colTimeoutExpiry (w : ColWait)
  /-- PERMUTE_MOVE_LANDED (R194). -/
  | permuteMoveLanded (cycle : BitVec 32) (pos : BitVec 16)
  /-- VACATE_NOTICE (R194). -/
  | vacateNotice (cycle : BitVec 32) (pos : BitVec 16)
  /-- UPDATE_TASK_START (R202). -/
  | updateTaskStart (region : RegionId)
  /-- UPDATE_GROUP (R206). `hit`: the bits that have turned over in the first burst of stacked memory that it reads. -/
  | updateGroup (region : RegionId) (firstMatch : Bool) (secondMatch : Bool) (hit : BurstErr)
  /-- UPDATE_TASK_COMPLETE (R210). -/
  | updateTaskComplete (region : RegionId) (coderOk : Bool)
  /-- UPDATE_INTERRUPT (R211). -/
  | updateInterrupt (region : RegionId) (cause : UpdCause)
  /-- EXPORT_RECORD_APPEND (R214). -/
  | exportRecordAppend (p : PartId)
  /-- EXPORT_ROOM (R217). -/
  | exportRoom (p : PartId)
  /-- EXPORT_SPAN_SEND (R213). -/
  | exportSpanSend (p : PartId)
  /-- MEMORY_READ (R231). -/
  | memoryRead (addr : Addr) (req : Requester) (fault : BurstFault)
  /-- MEMORY_WRITE (R450). -/
  | memoryWrite (addr : Addr) (data : WriteData) (req : Requester)
  /-- MEMORY_SIDE_OPERATION (R176). The bits that have turned over in the first burst of its source and of its target. -/
  | memorySideOperation (srcHit : BurstErr) (dstHit : BurstErr)
  /-- STACK_TEMPERATURE_READ (R236). -/
  | stackTemperatureRead (stack : Nat) (temp : BitVec 8)
  /-- CLASS_SWITCH (R234). -/
  | classSwitch (stack : Nat)
  /-- WIPE_COMPLETE (R237). -/
  | wipeComplete (stack : Nat)
  /-- DATA_FLIT_RECEIVED (R248). The fields of Table 10.2, as the lanes deliver them. -/
  | dataFlitReceived (l : LinkId) (head : BitVec 42) (reserved : BitVec 54) (payload : List Byte) (crc : BitVec 32)
  /-- REPLAY_REQUEST (R251). -/
  | replayRequest (l : LinkId) (ack : FlitAck)
  /-- ACK_TIMEOUT_EXPIRY (R251). -/
  | ackTimeoutExpiry (timer : AckTimer)
  /-- ACK_FLIT_DUE (R249). -/
  | ackFlitDue (l : LinkId)
  /-- FLIT_SEND (R255). -/
  | flitSend (l : LinkId)
  /-- CREDIT (R254). -/
  | credit (l : LinkId) (c : Carried CreditRec)
  /-- IDENT (R260). -/
  | ident (l : LinkId) (i : Carried IdentRec)
  /-- RESUME (R258). -/
  | resume (l : LinkId) (r : Carried ResumeRec)
  /-- LANE_REQ (R261). -/
  | laneReq (l : LinkId) (ack : FlitAck) (r : LaneRec)
  /-- LANE_ACCEPT (R262). -/
  | laneAccept (l : LinkId) (cmd : Carried (BitVec 8))
  /-- LANE_REFUSE (R261). -/
  | laneRefuse (l : LinkId) (cmd : Carried (BitVec 8))
  /-- LANE_SWITCH (R262). -/
  | laneSwitch (l : LinkId) (cmd : Carried (BitVec 8))
  /-- LANE_REQ_TIMEOUT (R261). -/
  | laneReqTimeout (l : LinkId)
  /-- LANE_ERROR_WINDOW (R263). -/
  | laneErrorWindow (l : LinkId) (counts : List Nat)
  /-- FEC_LOCK_LOST (R257). -/
  | fecLockLost (l : LinkId)
  /-- UNCORRECTABLE_CODEWORD (R241). -/
  | uncorrectableCodeword (l : LinkId) (flits : Nat) (windowCount : Nat)
  /-- SIGNAL_LOST (R257). -/
  | signalLost (l : LinkId)
  /-- TRAINING_COMPLETE (R256). -/
  | trainingComplete (l : LinkId) (lanes : BitVec 18)
  /-- QUICK_RETRAIN_FAIL (R256). -/
  | quickRetrainFail (l : LinkId)
  /-- GRACE_EXPIRY (R259). -/
  | graceExpiry (l : LinkId)
  /-- PACKET_ROUTE (R265). -/
  | packetRoute (p : Outgoing)
  /-- PACKET_FORWARD (R266). -/
  | packetForward (l : LinkId) (vc : Channel) (parityOk : Bool)
  /-- PACKET_DELIVER (R266). -/
  | packetDeliver (l : LinkId) (vc : Channel)
  /-- BUNDLE_TRAINING (R279). -/
  | bundleTraining (region : RegionId) (bundle : Nat) (r : TrainResult)
  /-- CONTROL_ENTRY_FAIL (R278). The entry by its number at its sender. -/
  | controlEntryFail (at_ : BundleEnd) (x : OnBeat Nat)
  /-- BUNDLE_PARITY_FAIL (R278). -/
  | bundleParityFail (region : RegionId) (bundle : Nat) (x : OnBeat BundleData) (inWindow : Nat)
  /-- FIFO_CLOSE (R275). -/
  | fifoClose (c : Crossing) (entries : Nat)
  /-- FIFO_REOPEN (R275). -/
  | fifoReopen (c : Crossing)
  /-- GUEST_READ (R285). -/
  | guestRead (g : GuestReq)
  /-- GUEST_WRITE (R285). -/
  | guestWrite (g : GuestReq)
  /-- GUEST_MEMOP (R285). -/
  | guestMemop (g : GuestReq)
  /-- GUEST_SEND (R285). -/
  | guestSend (g : GuestReq) (d : Descriptor)
  /-- MBOX_UP (R286). -/
  | mboxUp (data : List Byte)
  /-- GUEST_CREDIT (R284). -/
  | guestCredit (hdrs : BitVec 16) (beats : BitVec 16)
  /-- C_RD (R299). -/
  | cRd (addr : Addr) (len : BitVec 12) (tag : BitVec 16)
  /-- C_WR (R299). -/
  | cWr (addr : Addr) (data : List Byte)
  /-- CSNP_INV (R307). -/
  | csnpInv (line : BitVec 47)
  /-- SNP_ACK (R306). -/
  | snpAck (line : Addr) (data : Option (List Byte))
  /-- SHARED_WINDOW_ACCESS (R306). -/
  | sharedWindowAccess (line : Addr) (write : Option (List Byte))
  /-- RD_DATA (R301). -/
  | rdData (r : RdDataMsg)
  /-- WR_ACK (R307). -/
  | wrAck (tag : BitVec 16)
  /-- SCEOLINK_PACKET_DROP (R297). -/
  | sceolinkPacketDrop (kind : BitVec 8) (tag : BitVec 16)
  /-- REMOUNT_REQ (R295). -/
  | remountReq (ack : FlitAck) (r : RemountRec)
  /-- REMOUNT_ACCEPT (R295). -/
  | remountAccept (dir : SclDir) (cmd : Carried (BitVec 8))
  /-- REMOUNT_REFUSE (R295). -/
  | remountRefuse (dir : SclDir) (cmd : Carried (BitVec 8))
  /-- REMOUNT_SWITCH (R295). -/
  | remountSwitch (dir : SclDir) (cmd : Carried (BitVec 8))
  /-- REMOUNT_TIMEOUT (R295). -/
  | remountTimeout (dir : SclDir)
  /-- SCEOLINK_LANE_WINDOW (R295). -/
  | sceolinkLaneWindow (dir : SclDir) (counts : List Nat)
  /-- SESSION_FLUSH (R311). The partner's IDENT where a fresh start of the link flushes the session, none where its grace expires. -/
  | sessionFlush (fresh : Option IdentRec)
  /-- SCL_ATTACH_NEW (R314). -/
  | sclAttachNew (number : BitVec 32)
  /-- SCL_ATTACH_RESUME (R311). -/
  | sclAttachResume (number : BitVec 32)
  /-- FMP_P_CMD_TAIL_WRITE (R308). -/
  | fmpPCmdTailWrite (p : PartId) (value : Word)
  /-- FMP_P_CPL_HEAD_WRITE (R329). -/
  | fmpPCplHeadWrite (p : PartId) (value : Word)
  /-- FMP_P_EVT_HEAD_WRITE (R329). -/
  | fmpPEvtHeadWrite (p : PartId) (value : Word)
  /-- FMP_BOOT_IMAGE_WRITE (R423). -/
  | fmpBootImageWrite (value : Word)
  /-- RING_REREAD (R308). -/
  | ringReread (p : PartId) (h : CmdHeader)
  /-- COMMAND_RECORD_READ (R332). -/
  | commandRecordRead (p : PartId) (h : CmdHeader)
  /-- PART_CREATE (R353). -/
  | partCreate (x : PartCreateP)
  /-- PART_DESTROY (R353). -/
  | partDestroy (index : BitVec 8)
  /-- PART_QUADS (R353). -/
  | partQuads (index : BitVec 8) (mask : BitVec 64)
  /-- PART_MEM (R353). -/
  | partMem (x : PartMemP)
  /-- PART_CHECK_MODE (R380). -/
  | partCheckMode (mode : BitVec 2)
  /-- PART_DRAIN (R356). -/
  | partDrain (timeoutMs : BitVec 32)
  /-- DRAIN_TIMEOUT (R356). -/
  | drainTimeout (p : PartId)
  /-- PARTITION_DRAINED (R357). -/
  | partitionDrained (p : PartId)
  /-- PART_RESET (R405). -/
  | partReset (wipeMem : Bool)
  /-- PROGRAM_START (R354). -/
  | programStart (mask : BitVec 64) (pc : Addr) (vals : List Word)
  /-- BLOCK_RESUME (R353). -/
  | blockResume (b : BlockId) (pc : Addr)
  /-- STALE_BLOCK_RESUME (R355). -/
  | staleBlockResume (b : BlockId)
  /-- QUAD_REPAIR (R359). -/
  | quadRepair (region : RegionId) (quad : BitVec 4) (action : BitVec 8) (block : BitVec 2)
  /-- REPORT_SET (R360). -/
  | reportSet (x : ReportP)
  /-- REGION_RESET (R404). -/
  | regionReset (region : RegionId)
  /-- STAGE_SET (R167). -/
  | stageSet (x : StageP)
  /-- STAGE_CLEAR (R167). -/
  | stageClear (index : BitVec 8)
  /-- STAGE_QUERY (R167). -/
  | stageQuery (index : BitVec 8)
  /-- ADMIT_START (R167). -/
  | admitStart (index : BitVec 8) (step : BitVec 32) (mb : BitVec 16)
  /-- ADMIT_STOP (R167). -/
  | admitStop (index : BitVec 8)
  /-- VTABLE_INIT (R167). -/
  | vtableInit (x : VTableP)
  /-- VTABLE_QUERY (R167). -/
  | vtableQuery (addr : Addr)
  /-- VERSION_PIN (R167). -/
  | versionPin (index : BitVec 8)
  /-- VERSION_UNPIN (R167). -/
  | versionUnpin (index : BitVec 8)
  /-- QUEUE_CONFIG (R140). -/
  | queueConfig (x : QueueConfigP)
  /-- LRING_BIND (R140). -/
  | lringBind (q : QAddr) (base : Addr) (segments : BitVec 32)
  /-- LRING_UNBIND (R140). -/
  | lringUnbind (q : QAddr)
  /-- COLL_GROUP_SET (R196). -/
  | collGroupSet (index : BitVec 8) (list : Addr) (count : BitVec 13)
  /-- COLL_PLAN_SET (R196). -/
  | collPlanSet (index : BitVec 16) (x : PlanEntry)
  /-- COLL_PLAN_CLEAR (R196). -/
  | collPlanClear (index : BitVec 16)
  /-- COLL_JOB_SET (R196). -/
  | collJobSet (job : BitVec 16) (group : BitVec 8) (norm : Addr) (timeoutMs : BitVec 32)
  /-- COLL_SCALAR (R192). -/
  | collScalar (group : BitVec 8) (op : ScalarOp) (value : Word) (result : Addr)
  /-- PERMUTE_START (R194). -/
  | permuteStart (group : BitVec 8) (table : Addr) (count : BitVec 32) (staging : Addr) (size : BitVec 64)
  /-- COLL_QUERY (R196). -/
  | collQuery (index : BitVec 16)
  /-- UPD_TASK_SET (R221). -/
  | updTaskSet (region : RegionId) (index : BitVec 8) (x : TaskEntry)
  /-- UPD_TASK_CLEAR (R221). -/
  | updTaskClear (region : RegionId) (index : BitVec 8)
  /-- UPD_PARAM_SET (R221). -/
  | updParamSet (region : RegionId) (index : BitVec 5) (words : BitVec 512)
  /-- UPD_SCHED_SET (R207). -/
  | updSchedSet (region : RegionId) (first : BitVec 8) (segs : List SchedSeg)
  /-- UPD_QUERY (R221). -/
  | updQuery (region : RegionId) (index : BitVec 16)
  /-- MEM_CLASS_SET (R234). -/
  | memClassSet (partition : PartId) (first : BitVec 16) (count : BitVec 16) (classA : Bool)
  /-- MEM_SCRUB_SET (R233). -/
  | memScrubSet (hours : BitVec 16)
  /-- LINK_CONFIG (R269). -/
  | linkConfig (x : LinkConfigP)
  /-- LINK_ROUTE_SET (R264). -/
  | linkRouteSet (first : BitVec 16) (count : BitVec 32) (addr : Addr)
  /-- LINK_ID_SET (R271). -/
  | linkIdSet (device : BitVec 16) (hopLimit : BitVec 8)
  /-- LINK_QUERY (R271). -/
  | linkQuery (mask : BitVec 24)
  /-- LINK_RETRAIN (R271). -/
  | linkRetrain (port : Nat)
  /-- LINK_FLUSH (R271). -/
  | linkFlush (port : Nat)
  /-- SCL_CONFIG (R318). -/
  | sclConfig (x : SclConfigP)
  /-- SCL_REMOUNT (R295). -/
  | sclRemount (dir : SclDir) (logical : BitVec 4)
  /-- PREPARED (R341). -/
  | prepared (i : Island)
  /-- CUT_RECEIVED (R341). -/
  | cutReceived (i : Island)
  /-- MARKER_RECEIVED (R341). -/
  | markerReceived (i : Island) (source : Island)
  /-- CUT_ACK (R341). -/
  | cutAck (i : Island)
  /-- ERR_QUERY (R393). -/
  | errQuery (partition : BitVec 8)
  /-- EVENT_MASK_SET (R374). -/
  | eventMaskSet (codes : List (BitVec 16))
  /-- MARGIN_TEST (R387). -/
  | marginTest (x : MarginP)
  /-- MARGIN_TEST_COMPLETE (R388). -/
  | marginTestComplete (results : List MarginResult)
  /-- POWER_LIMIT_SET (R419). -/
  | powerLimitSet (x : PowerLimitP)
  /-- ATTEST (R426). -/
  | attest (nonce : BitVec 256) (flags : BitVec 8)
  /-- LC_TRANSITION (R430). -/
  | lcTransition (x : LcP) (readBackOk : Bool)
  /-- PRESERVE_ARM (R402). -/
  | preserveArm (token : Option Token)
  /-- DEVICE_RESET (R419). -/
  | deviceReset (kind : BitVec 8)
  /-- FW_UPDATE (R346). -/
  | fwUpdate (addr : Addr) (length : BitVec 32) (image : Image) (selfTestOk : Bool)
  /-- HEALTH_WINDOW_END (R347). -/
  | healthWindowEnd (ok : Bool)
  /-- GUEST_FW_SET (R288). -/
  | guestFwSet (x : GuestFwP)
  /-- GUEST_RESET (R289). -/
  | guestReset (discarded : Nat)
  /-- GUEST_MSG (R291). -/
  | guestMsg (data : List Byte)
  /-- EXPORT_SET (R213). -/
  | exportSet (x : ExportP)
  /-- EXPORT_SHARD (R218). -/
  | exportShard (region : RegionId) (index : BitVec 8) (moments : Bool)
  /-- CHECKPOINT_MARK (R218). -/
  | checkpointMark (partition : PartId) (step : BitVec 32)
  /-- EXPORT_QUERY (R221). -/
  | exportQuery (partition : PartId)
  /-- SEQ_ADD (R366). -/
  | seqAdd (x : SeqAddP)
  /-- SEQ_UPDATE (R366). -/
  | seqUpdate (x : SeqUpdateP)
  /-- SEQ_REMOVE (R366). -/
  | seqRemove (index : BitVec 32)
  /-- SEQ_QUERY (R366). -/
  | seqQuery (first : BitVec 32) (count : BitVec 32)
  /-- BATCH_SET (R366). -/
  | batchSet (x : BatchP)
  /-- WORKLIST_BUILD (R367). -/
  | worklistBuild (p : PartId)
  /-- BATCH_DEADLINE_EXPIRY (R367). -/
  | batchDeadlineExpiry (p : PartId)
  /-- GROUP_DONE_WRITE (R362). -/
  | groupDoneWrite (p : PartId)
  /-- COALESCING_WAIT_EXPIRY (R362). -/
  | coalescingWaitExpiry (p : PartId)
  /-- COMPLETION_HOLD (R363). -/
  | completionHold (p : PartId) (cycles : Word)
  /-- DEVICE_RECORD_ACK (R328). -/
  | deviceRecordAck (p : PartId) (event : Bool)
  /-- REPORT_INTERVAL_END (R361). -/
  | reportIntervalEnd (p : PartId)
  /-- CORE_DROOP_END (R415). -/
  | coreDroopEnd (lowMv : BitVec 16) (duration : BitVec 16)
  /-- POWER_CONTROL_INTERVAL (R412). -/
  | powerControlInterval (x : PowerSample)
  /-- HUB_FAULT (R379). -/
  | hubFault (k : HubFaultKind)
  /-- PORST_N_ASSERT (R394). -/
  | porstNAssert (supply : Bool)
  /-- PORST_N_RELEASE (R398). -/
  | porstNRelease (cfgsel : BitVec 4)
  /-- RESET_RELEASE (R395). -/
  | resetRelease (i : Island)
  /-- BOOT_IMAGE_VERIFY (R421). -/
  | bootImageVerify (found : Bool) (image : Image) (recoverySlot : Bool) (selfTestOk : Bool)
  /-- REGULATOR_ACK (R398). -/
  | regulatorAck (ack : Bool)
  /-- DOMAIN_POWER_ON (R409). -/
  | domainPowerOn (domain : Nat)
  /-- SIGNAL_DETECT (R256). -/
  | signalDetect (l : LinkId)
  /-- KEEPER_FILL_EXPIRY (R70). -/
  | keeperFillExpiry (b : BlockId)
  /-- KEEPER_RAMP_STEP (R71). -/
  | keeperRampStep (b : BlockId)
  /-- PATROL_SCRUB_BURST (R233). -/
  | patrolScrubBurst (addr : Addr) (fault : BurstFault)
  /-- SELF_REFRESH_ENTRY (R235). -/
  | selfRefreshEntry (stack : Nat)
  /-- REFRESH_MANAGEMENT_REQUEST (R235). -/
  | refreshManagementRequest (stack : Nat)
  /-- GUEST_UNKNOWN_PACKET (R283). -/
  | guestUnknownPacket (type : BitVec 8)
  /-- TOKEN_BUCKET_REFILL (R287). `window`: the 1,400,000 hub cycles of R285 have passed. -/
  | tokenBucketRefill (tokens : Tokens) (window : Bool)
  /-- SCL_HEARTBEAT_WRITE (R310). -/
  | sclHeartbeatWrite (value : Word)
  /-- HEAD_ERR_CLEAR (R8). -/
  | headErrClear (p : PartId) (value : Word)
  /-- MEM_QUERY (R239). -/
  | memQuery (mask : BitVec 12)
  /-- BUNDLE_QUERY (R291). -/
  | bundleQuery (mask : BitVec 4)
  /-- JTAG_TEST_TRANSITION (R425). -/
  | jtagTestTransition (secret : BitVec 256) (certificate : List Byte)
  /-- PMBUS_POLL (R410). -/
  | pmbusPoll (x : PmbusReading)
  /-- CLOCK_SLEW (R407). -/
  | clockSlew (mhz : BitVec 12)
  /-- MGT_BLOCK_READ (R440). -/
  | mgtBlockRead (cmd : BitVec 8)
  /-- PER_BANK_REFRESH (R235). -/
  | perBankRefresh (stack : Nat)
  /-- STALL_POLICY (R129). -/
  | stallPolicy
  /-- COLLECTIVE_POST (R181). -/
  | collectivePost
  /-- HEARTBEAT_EXPIRY (R310). -/
  | heartbeatExpiry
  /-- SCL_ATTACH_DETACH (R310). -/
  | sclAttachDetach
  /-- UNKNOWN (R336). -/
  | unknown
  /-- PART_RESUME (R358). -/
  | partResume
  /-- PART_ABORT (R356). -/
  | partAbort
  /-- PART_QUERY (R353). -/
  | partQuery
  /-- SCL_QUERY (R318). -/
  | sclQuery
  /-- CHECK (R338). -/
  | check
  /-- CINCH (R340). -/
  | cinch
  /-- DRAFT_DISCARD (R336). -/
  | draftDiscard
  /-- DRAFT_QUERY (R336). -/
  | draftQuery
  /-- CUT_TIMEOUT (R343). -/
  | cutTimeout
  /-- TELEMETRY_QUERY (R419). -/
  | telemetryQuery
  /-- FW_HANDOVER (R346). -/
  | fwHandover
  /-- FW_QUERY (R336). -/
  | fwQuery
  /-- GUEST_QUERY (R291). -/
  | guestQuery
  /-- WORKLIST_START (R367). -/
  | worklistStart
  /-- WORKLIST_STOP (R366). -/
  | worklistStop
  /-- COMPLETION_COLLECT (R362). -/
  | completionCollect
  /-- EVENT_RAISE (R373). -/
  | eventRaise
  /-- CORE_DROOP_START (R415). -/
  | coreDroopStart
  /-- DIP_LIMIT_EXPIRY (R417). -/
  | dipLimitExpiry
  /-- THERMAL_TRIP (R414). -/
  | thermalTrip
  /-- WATCHDOG_WRITE (R418). -/
  | watchdogWrite
  /-- WATCHDOG_EXPIRY (R418). -/
  | watchdogExpiry
  /-- CONTROL_FAILOVER (R379). -/
  | controlFailover
  /-- SYSRST_N_ASSERT (R394). -/
  | sysrstNAssert
  /-- BOOT_COMPLETE (R398). -/
  | bootComplete
  /-- CUT_START (R340). -/
  | cutStart
  deriving DecidableEq, Repr

end Sys2Proof
end

