-- ==== Sys2Proof/Decode.lean ====
section
/-! DEFINITION. Decoding. The opcode table gives no row any bits, so no word spells a command by the table. Beside it stands the spec's own encoding of the block core's 32-byte command words (R78, Tables 4.2 to 4.8): a decoder, total on every word, and an encoder. -/

namespace Sys2Proof

/-- The command that a word spells by the opcode table's bits: the table gives none. -/
def decodeTableWord (_nbits _w : Nat) : Option Instr := none

/-- The n-bit field of a command word at bit `lo`. -/
def wordField (w lo n : Nat) : BitVec n := BitVec.ofNat n (w / 2 ^ lo)
/-- One bit of a command word. -/
def wordBit (w i : Nat) : Bool := w / 2 ^ i % 2 == 1

/-- The common fields of Table 4.2. -/
def wordSd (w : Nat) : Reg := wordField w 16 5
def wordSa (w : Nat) : Reg := wordField w 21 5
def wordSb (w : Nat) : Reg := wordField w 26 5
def wordImm (w : Nat) : Word := wordField w 64 64
def wordOpa (w : Nat) : BitVec 32 := wordField w 32 32

/-- Table 4.6. -/
def wordMatmul (w : Nat) : MatmulFields :=
  { amaxEn := wordBit w 127, amaxIdx := wordField w 124 3, t := wordField w 116 8, n := wordField w 100 16
    k := wordField w 84 16, m := wordField w 64 20, fmtZ := wordField w 60 4, fmtC := wordField w 56 4
    fmtB := wordField w 52 4, fmtA := wordField w 48 4, st := wordField w 42 5, ss := wordField w 37 5
    sz := wordField w 32 5, sb := wordSb w, sa := wordSa w, sd := wordSd w, roundSr := wordBit w 13
    tiled := wordBit w 12, zShape := wordField w 10 2, fusedMul := wordBit w 9, fusedEn := wordBit w 8 }

/-- Table 4.7. -/
def wordVec (w : Nat) : VecFields :=
  { t := wordField w 120 8, vop := wordField w 112 8, rowLen := wordField w 96 16, count := wordField w 64 32
    fmtD := wordField w 56 4, fmtB := wordField w 52 4, fmtA := wordField w 48 4, sc := wordField w 32 5
    sb := wordSb w, sa := wordSa w, sd := wordSd w, bcastB := wordBit w 14, scalarB := wordBit w 13
    amaxIdx := wordField w 10 3, amaxEn := wordBit w 9, roundSr := wordBit w 8 }

/-- Table 4.8. -/
def wordFetch (w : Nat) : FetchFields :=
  { t := wordField w 56 8, fmtDst := wordField w 52 4, fmtSrc := wordField w 48 4, sv := wordField w 32 5
    sb := wordSb w, sa := wordSa w, sd := wordSd w, amaxIdx := wordField w 11 3, amaxEn := wordBit w 10
    versionEn := wordBit w 9, toShadow := wordBit w 8 }

/-- A WRREG word: an offset that has a row of its own is that row (Tables 2.4, 5.6, 7.2, 14.8). -/
def wordWrreg (b : BlockId) (sa : Reg) (off : BitVec 16) : Instr :=
  if off = 0x0018#16 then .blkSrSeedWrite b sa
  else if off = 0x0208#16 then .blkLrReleaseWrite b sa
  else if off = 0x0048#16 then .blkCollPostWrite b sa
  else if off = 0x0050#16 then .blkWlDoneWrite b sa
  else .wrreg b sa off

/-- The command that a 256-bit command word spells to a block (R79, Table 4.3); an unlisted opcode is UNLISTED_COMMAND. -/
def decodeCommandWord (b : BlockId) (w : Nat) : Instr :=
  match w % 256 with
  | 0x00 => .nop b
  | 0x01 => .li b (wordSd w) (wordImm w)
  | 0x02 => .alu b (wordField w 32 4) (wordSd w) (wordSa w) (wordSb w)
  | 0x03 => .alui b (wordField w 32 4) (wordSd w) (wordSa w) (wordImm w)
  | 0x04 => .ld b (wordSd w) (wordSa w) (wordImm w)
  | 0x05 => .st b (wordSa w) (wordSb w) (wordImm w)
  | 0x06 => .br b (wordField w 8 3) (wordSa w) (wordSb w) (wordOpa w)
  | 0x07 => .jmp b (wordBit w 8) (wordBit w 9) (wordSa w) (wordOpa w)
  | 0x08 => .loop b (wordSd w) (wordOpa w)
  | 0x09 => .rdreg b (wordSd w) (wordField w 32 16)
  | 0x0A => wordWrreg b (wordSa w) (wordField w 32 16)
  | 0x0B => .park b (wordField w 32 16)
  | 0x10 => .ghdr b (wordSa w) (wordField w 32 6) (wordField w 64 32) (wordBit w 8) (wordSb w)
  | 0x11 => .commit b (wordBit w 8)
  | 0x12 => .wait b (wordField w 32 4)
  | 0x20 => .matmul b (wordMatmul w)
  | 0x21 => .vec b (wordVec w)
  | 0x22 => .convert b (wordVec w)
  | 0x23 => .fetch b (wordFetch w)
  | 0x24 => .copy b (wordFetch w)
  | 0x28 => .send b (wordSa w) (wordBit w 8)
  | 0x29 => .recv b (wordField w 32 7) (wordSd w) (wordSb w) (wordBit w 9) (wordBit w 8)
  | 0x2A => .relay b (wordSa w) (wordBit w 8)
  | 0x2C => .atomic b (wordSd w) (wordSa w) (wordSb w) (wordField w 32 24)
  | 0x2D => .fenceReadback b
  | _ => .unlistedCommand b

/-- A word of fields given from bit 0 up, each by its width and its value. -/
def packWord : List (Nat × Nat) → Nat
  | [] => 0
  | (n, v) :: r => v % 2 ^ n + 2 ^ n * packWord r

/-- Table 4.6, from bit 0 up; bits 15:14 and 47 are reserved. -/
def matmulWord (f : MatmulFields) : Nat :=
  packWord [(8, 0x20), (1, f.fusedEn.toNat), (1, f.fusedMul.toNat), (2, f.zShape.toNat), (1, f.tiled.toNat),
    (1, f.roundSr.toNat), (2, 0), (5, f.sd.toNat), (5, f.sa.toNat), (5, f.sb.toNat), (1, 0), (5, f.sz.toNat), (5, f.ss.toNat),
    (5, f.st.toNat), (1, 0), (4, f.fmtA.toNat), (4, f.fmtB.toNat), (4, f.fmtC.toNat), (4, f.fmtZ.toNat), (20, f.m.toNat),
    (16, f.k.toNat), (16, f.n.toNat), (8, f.t.toNat), (3, f.amaxIdx.toNat), (1, f.amaxEn.toNat)]

/-- Table 4.7, from bit 0 up. -/
def vecWord (op : Nat) (f : VecFields) : Nat :=
  packWord [(8, op), (1, f.roundSr.toNat), (1, f.amaxEn.toNat), (3, f.amaxIdx.toNat), (1, f.scalarB.toNat), (1, f.bcastB.toNat),
    (1, 0), (5, f.sd.toNat), (5, f.sa.toNat), (5, f.sb.toNat), (1, 0), (5, f.sc.toNat), (11, 0), (4, f.fmtA.toNat),
    (4, f.fmtB.toNat), (4, f.fmtD.toNat), (4, 0), (32, f.count.toNat), (16, f.rowLen.toNat), (8, f.vop.toNat), (8, f.t.toNat)]

/-- Table 4.8, from bit 0 up. -/
def fetchWord (op : Nat) (f : FetchFields) : Nat :=
  packWord [(8, op), (1, f.toShadow.toNat), (1, f.versionEn.toNat), (1, f.amaxEn.toNat), (3, f.amaxIdx.toNat), (2, 0),
    (5, f.sd.toNat), (5, f.sa.toNat), (5, f.sb.toNat), (1, 0), (5, f.sv.toNat), (11, 0), (4, f.fmtSrc.toNat), (4, f.fmtDst.toNat),
    (8, f.t.toNat)]

/-- The common fields of Table 4.2: opcode, bits 15:8, sd, sa, sb, operand A, imm. -/
def scalarWord (op flags : Nat) (sd sa sb : Reg) (opa : BitVec 32) (imm : Word) : Nat :=
  packWord [(8, op), (8, flags), (5, sd.toNat), (5, sa.toNat), (5, sb.toNat), (1, 0), (32, opa.toNat), (64, imm.toNat)]

/-- The command word of a block core command (Tables 4.2 to 4.8); none for a command that no block core word spells. -/
def encodeCommandWord : Instr → Option Nat
  | .nop _ => some (scalarWord 0x00 0 0 0 0 0 0)
  | .li _ sd imm => some (scalarWord 0x01 0 sd 0 0 0 imm)
  | .alu _ op sd sa sb => some (scalarWord 0x02 0 sd sa sb (op.setWidth 32) 0)
  | .alui _ op sd sa imm => some (scalarWord 0x03 0 sd sa 0 (op.setWidth 32) imm)
  | .ld _ sd sa imm => some (scalarWord 0x04 0 sd sa 0 0 imm)
  | .st _ sa sb imm => some (scalarWord 0x05 0 0 sa sb 0 imm)
  | .br _ cond sa sb off => some (scalarWord 0x06 cond.toNat 0 sa sb off 0)
  | .jmp _ call ind sa off => some (scalarWord 0x07 (call.toNat + 2 * ind.toNat) 0 sa 0 off 0)
  | .loop _ sd off => some (scalarWord 0x08 0 sd 0 0 off 0)
  | .rdreg _ sd reg => some (scalarWord 0x09 0 sd 0 0 (reg.setWidth 32) 0)
  | .wrreg _ sa reg => some (scalarWord 0x0A 0 0 sa 0 (reg.setWidth 32) 0)
  | .blkSrSeedWrite _ sa => some (scalarWord 0x0A 0 0 sa 0 0x0018 0)
  | .blkLrReleaseWrite _ sa => some (scalarWord 0x0A 0 0 sa 0 0x0208 0)
  | .blkCollPostWrite _ sa => some (scalarWord 0x0A 0 0 sa 0 0x0048 0)
  | .blkWlDoneWrite _ sa => some (scalarWord 0x0A 0 0 sa 0 0x0050 0)
  | .park _ code => some (scalarWord 0x0B 0 0 0 0 (code.setWidth 32) 0)
  | .ghdr _ sa n tag en sb => some (scalarWord 0x10 en.toNat 0 sa sb (n.setWidth 32) (tag.setWidth 64))
  | .commit _ quiet => some (scalarWord 0x11 quiet.toNat 0 0 0 0 0)
  | .wait _ mask => some (scalarWord 0x12 0 0 0 0 (mask.setWidth 32) 0)
  | .matmul _ f => some (matmulWord f)
  | .vec _ f => some (vecWord 0x21 f)
  | .convert _ f => some (vecWord 0x22 f)
  | .fetch _ f => some (fetchWord 0x23 f)
  | .copy _ f => some (fetchWord 0x24 f)
  | .send _ sa byAddr => some (scalarWord 0x28 byAddr.toNat 0 sa 0 0 0)
  | .recv _ q sd sb nb byAddr => some (scalarWord 0x29 (byAddr.toNat + 2 * nb.toNat) sd 0 sb (q.setWidth 32) 0)
  | .relay _ sa byAddr => some (scalarWord 0x2A byAddr.toNat 0 sa 0 0 0)
  | .atomic _ sd sa sb op => some (scalarWord 0x2C 0 sd sa sb (op.setWidth 32) 0)
  | .fenceReadback _ => some (scalarWord 0x2D 0 0 0 0 0 0)
  | _ => none

end Sys2Proof
end

