-- ==== Sys2Proof/Config.lean ====
section
/-! DEFINITION. The values the spec leaves open: constants with no body, so that no proof can see what they are, and the numbers an implementation fixes. -/

namespace Sys2Proof.Config

/-- A fresh 64-bit value that the spec leaves undefined; applied to the counter `State.freeCount` (log 4). -/
opaque freeWord : Nat → Word
/-- The result a transcendental vector operation returns, before the bound of Table 2.6 is applied: operation code and argument (R94, log 20). -/
opaque transcendental : BitVec 8 → BitVec 32 → BitVec 32
/-- The pattern of a NaN that arithmetic gives, from its operands; used only where it is a NaN (R32, R449, log 31). -/
opaque nanBits : BitVec 32 → BitVec 32 → BitVec 32
/-- The shape of the pairwise tree over a row of some length: whether an element lies in the left half (R94, log 32). -/
opaque treeLeft : Nat → Nat → Bool
/-- The update unit's cosine, within the bound of Table 2.6 (R207, log 20). -/
opaque cosine : BitVec 32 → BitVec 32
/-- SHA-256 of a byte string (R421, R424): the spec names the function and does not define it (log 21). -/
opaque sha256 : List Byte → BitVec 256
/-- Whether an SLH-DSA signature of a message verifies under a public key (FIPS 205; R402, R421, R429; log 21). -/
opaque slhVerify : BitVec 256 → List Byte → List Byte → Bool
/-- The SLH-DSA-SHA2-128f signature made with the identity key of a device secret (R425, R426; log 21). -/
opaque slhSign : BitVec 256 → List Byte → List Byte
/-- The identity public key derived from a device secret (R425; log 21). -/
opaque identityKey : BitVec 256 → BitVec 256
/-- The device secret and certificate fused before the model's first state (R425, log 22). -/
opaque deviceSecret : BitVec 256
/-- The bytes of that certificate (Table 17.5, log 22). -/
opaque certificateByte : Nat → Byte
/-- A Glabibry public key as fused in a key slot (R422; log 21). -/
opaque glabibryKey : Nat → BitVec 256
/-- The fused voltage table: the core setpoint in mV for a block clock in MHz (R407, log 22). -/
opaque voltageTable : Nat → Nat
/-- t of a collective source that has no header, by plan (R185, log 41). -/
opaque sourceT : Nat → BitVec 8
/-- The contribution count of a collective source that has no header, by plan (R187, log 41). -/
opaque sourceContrib : Nat → BitVec 32
/-- The serial number in the fuses (Table 13.1, log 22). -/
opaque serial : Word
/-- A packaged part's stepping, guest and grade fuses (Table 13.2): bits 31:8 of FMP_DEV_IDENT (log 22). -/
opaque identFuses : BitVec 24
/-- The fused spare choice of a bundle's group: the wire that the spare replaces, or 0x7F (R280, log 22). -/
opaque fusedSpare : Nat → Nat → BitVec 7
/-- What a class W controller takes an error of three or more bits in different bytes for: the bits that it turns back, or none where it detects the error (R230, log 110). -/
opaque classWTakes : BitVec 272 → Option (BitVec 272)
/-- The bytes of a query answer that the spec lists by name but does not lay out (log 24). -/
opaque queryLayout : BitVec 16 → Nat → Word

end Sys2Proof.Config
end

