-- ==== Sys2Proof/Machine/State.lean ====
section
/-! DEFINITION. The machine's state as plain data, its reset, and the reasons a step can stop. Each field's docstring gives what it is, its width, the rule that names it and its reset value. -/

namespace Sys2Proof.Machine

/-- Why a step stops with a fault: nothing does, since the spec gives every command an effect. -/
inductive Fault
  deriving DecidableEq, Repr

/-- Why a step is refused. -/
inductive Refusal where
  /-- Raised by a command that has no meaning in the model yet. Safe. -/
  | notModelled (mnemonic : String)
  deriving DecidableEq, Repr

/-- Byte memory: cells at strictly rising addresses, none of them zero; an unlisted address reads as zero (R237, R396). -/
abbrev Memory := List Host.Cell

/-- A run of bytes at a device address. -/
structure Range where
  base : Nat
  len  : Nat
  deriving DecidableEq, Repr

/-! ## Blocks -/

/-- States of a block core (Table 4.14). -/
inductive CoreState where
  | openState | inGroup | inCommit | parked | stopped
  deriving DecidableEq, Repr

/-- What decode is stalled on (R76, R81, R84, R100, R126, R303). -/
inductive Stall where
  | none
  | load (sd : Reg) (addr : Addr) (companion : Bool)   -- an LD outside the own scratchpad (R81)
  | wait (mask : BitVec 4)                    -- WAIT (R84)
  | engine (e : EngineId)                     -- a full engine queue (R84)
  | recv (q : BitVec 7) (sd : Reg) (byAddr : Bool)     -- a blocking RECV (R126)
  | drain                                     -- COMMIT's drain (Table 4.13)
  | lock                                      -- a write to a locked range (R103)
  | landing                                   -- a read at or beyond the landed pointer (R134)
  deriving DecidableEq, Repr

/-- A set-table pair (Table 4.11, kinds 0x3 and 0x4). -/
structure PairEntry where
  ppIndex : BitVec 4
  base : Nat
  len : Nat
  flip : Bool
  deriving DecidableEq, Repr

/-- A recorded ATOMIC (R89, R99). -/
structure AtomicRec where
  target : Nat
  source : Nat
  len : Nat
  op : BitVec 24
  deriving DecidableEq, Repr

/-- One weight register (R51): its 16 bits, which hold one element, or two 4-bit elements for k and k + 128, and the mod-7 residue of each element's significand (log 94). -/
structure WeightReg where
  code : BitVec 16
  residue : BitVec 3
  residueHi : BitVec 3
  deriving DecidableEq, Repr

/-- Whose weights a set of registers holds (R54): nobody's, the open group's, or those of an earlier group. -/
inductive Weights where
  | empty | ofGroup | earlier
  deriving DecidableEq, Repr

/-- The 128 × 128 active or shadow registers (R51): register (i, j) under key 128i + j, and the column sideband (R53): the E8M0 scale of segment s of column j under key 8j + s. An unlisted register holds nothing. -/
structure WeightSet where
  owner : Weights
  regs : Tab WeightReg
  scales : Tab Byte
  deriving DecidableEq, Repr

/-- A load of the shadow registers by a FETCH with to_shadow (R54, R165). -/
structure ShadowLoad where
  no : Nat                                    -- its number among the block's shadow loads
  fmt : BitVec 4
  codes : List (BitVec 16)
  ofGroup : Bool                              -- issued by the group that is open now
  fetched : Bool                              -- its FETCH has delivered the codes
  complete : Bool                             -- the registers are loaded (R16)
  deriving DecidableEq, Repr

/-- What GHDR saves (R98), with the untaken shadow load that a rerun finds again (R54, R165). -/
structure Snapshot where
  pc : Addr
  regs : Tab Word
  ppSel : BitVec 16
  laneSeed : Word
  lanes : Tab Word
  untaken : Option ShadowLoad
  epoch : Epoch
  deriving DecidableEq, Repr

/-- The open command group (R95 to R101). -/
structure Group where
  tag : BitVec 32
  snap : Snapshot
  reads : List Range
  writes : List Range
  amaxWords : List Nat
  pairs : List PairEntry
  rider : Option Reg
  void : Bool
  mode : BitVec 2
  quiet : Bool
  draining : Bool
  saturated : Bool
  invalid : Bool
  amaxMax : Tab (BitVec 32)
  held : List (BitVec 16 × Word)
  atomics : List AtomicRec
  reserved : List (BitVec 7)
  sends : Nat
  companion : Bool
  dropMark : Bool
  stale : Bool
  sigs : Tab (BitVec 64)                      -- the CRC pair of each engine's writes in a pair's group (R382)
  deriving DecidableEq, Repr

/-- A heavy command in an engine's queue (R84), with its register operands read at issue. -/
inductive EngineCmd where
  | matmul (f : MatmulFields) (a b c z ssA ssB strideA strideC strideB : Nat) (take : Option ShadowLoad)
  | vec (f : VecFields) (convert : Bool) (a b c d : Nat) (scalar : BitVec 32)
  | fetch (f : FetchFields) (src dst len entry : Nat) (version : BitVec 32) (load : Nat)
  | copy (src dst len : Nat)
  | fence (ofGroup issued : Bool)             -- FENCE_READBACK, and whether its read-back has been sent (R303)
  deriving DecidableEq, Repr

/-- Where the running MATMUL stands: tile row, tile column, pass; whether the shadow registers hold the pass's weights; the block cycles for which their loader has had free slots already; the row or column of z in the output-stage registers (R64). -/
structure ArrayRun where
  mt : Nat
  nt : Nat
  kp : Nat
  loaded : Bool
  lead : Nat
  zregs : Tab (Nat × Option Byte)
  deriving DecidableEq, Repr

/-- A SEND or RELAY that waits in the queue engine's queue (R84, R100); its stall has been raised. -/
structure QueueCmd where
  desc : Descriptor
  isRelay : Bool
  raised : Bool
  deriving DecidableEq, Repr

/-- Keeper states (Table 3.6). -/
inductive KeeperState where
  | busy | fill | rampDown | gated | rampUp
  deriving DecidableEq, Repr

/-- A send-buffer entry (R99, R100, R118 to R128). -/
structure SendEntry where
  desc : Descriptor
  isRelay : Bool
  released : Bool
  outstanding : Bool
  waiting : Bool                              -- in a back-off wait (R121)
  backoff : Nat                               -- length of the last wait in block cycles; 0 before the first
  crcNacks : Nat
  busy : Bool                                 -- the last answer was NACK busy: the Relay open is sent again
  voidResend : Bool
  stallRaised : Bool
  deriving DecidableEq, Repr

/-- A hardware queue (R115, R126). -/
structure QueueState where
  depth : Nat
  entries : List Descriptor
  reserved : Nat
  next : Nat                                  -- entry of its storage that the next descriptor takes (R91, log 95)
  deriving DecidableEq, Repr

/-- A completion that the block holds until it may go to the region FIFO (Table 4.13, orders 7 and 8). -/
structure PendingCpl where
  tag : BitVec 32
  status : BitVec 8
  flags : BitVec 8
  acks : Nat                                  -- ATOMICs and merges not yet acknowledged
  readback : Bool                             -- the automatic read-back is outstanding
  quiet : Bool
  deriving DecidableEq, Repr

/-- Why a range is write-locked (R103, R136, R181). -/
inductive LockOwner where
  | atomic | relay (num : BitVec 32) | collective (plan : PlanId) (step : BitVec 32)
  deriving DecidableEq, Repr

/-- A write-locked range. -/
structure Lock where
  range : Range
  owner : LockOwner
  deriving DecidableEq, Repr

/-- One block, addressed by its logical number. -/
structure BlockState where
  /-- program counter | 48 | 04_block R76 | DESIGN CHOICE 0 (log 2) -/
  pc : Addr
  /-- address of the last GHDR decoded, for BLOCK_RESUME | 48 | 14_partitions R353 Table 14.2 | DESIGN CHOICE 0 (log 2) -/
  ghdrPc : Addr
  /-- scalar registers s1 to s31 (s0 reads zero) | 31 x 64 | 04_block R77 | DESIGN CHOICE 0 (log 2) -/
  regs : Tab Word
  /-- BLK_CORE_STATUS.state | 3 | 04_block R105 | 0 -/
  core : CoreState
  /-- BLK_CORE_STATUS.park_code | 16 | 04_block R105 | 0 -/
  parkCode : BitVec 16
  /-- BLK_CORE_STATUS.group_tag | 32 | 04_block R105 | 0 -/
  groupTag : BitVec 32
  /-- BLK_CORE_STATUS.last_status | 8 | 04_block R105 | 0 -/
  lastStatus : BitVec 8
  /-- decode stall and its reason | - | 04_block R81, R84, R100; 05_queues R126 | none -/
  stall : Stall
  /-- a program was started and decode may run | 1 | 14_partitions R349, R354 | 0 -/
  running : Bool
  /-- stop before the next GHDR (drain or abort) | 1 | 04_block R104; 14_partitions R356 | 0 -/
  stopAtGhdr : Bool
  /-- stall-recovery entry at which Flapino resumes the block once it has stopped | 48 | 05_queues R129 | none -/
  recoverAt : Option Addr
  /-- command cache, 512 words | 512 x 256 | 04_block R76 | empty (R396) -/
  cache : Tab (BitVec 256)
  /-- BLK_SPAD_LAYOUT.user_base | 22 | 04_block R91 Table 4.9 | 0x0A0000 -/
  userBase : BitVec 22
  /-- BLK_SPAD_LAYOUT.queue_bytes | 22 | 04_block R91 Table 4.9 | 0x020000 -/
  queueBytes : BitVec 22
  /-- BLK_SPAD_LAYOUT.work_size | 1 | 04_block R91 Table 4.9 | 0 -/
  workSize : Bool
  /-- BLK_PP_SEL.sel | 16 | 04_block R96 Table 4.12 | 0 -/
  ppSel : BitVec 16
  /-- BLK_SR_SEED | 64 | 02_number_formats R45 Table 2.4 | 0x9E3779B97F4A7C15 -/
  srSeed : Word
  /-- seed S from which the lanes were last seeded | 64 | 02_number_formats R45 | 0x9E3779B97F4A7C15 -/
  laneSeed : Word
  /-- generator lanes that have drawn since seeding; an unlisted lane holds its seed value | 384 x 64 | 02_number_formats R45 | seed(S) -/
  lanes : Tab Word
  /-- BLK_ARRAY_CFG.check_mode | 2 | 03_cell_array R66 Table 3.4 | 0 -/
  checkMode : BitVec 2
  /-- BLK_ARRAY_CFG.pair_role | 1 | 03_cell_array R66 Table 3.4 | 0 -/
  pairRole : Bool
  /-- BLK_KEEPER_CTL.duty | 5 | 03_cell_array R72 Table 3.6 | 16 -/
  keeperDuty : Nat
  /-- BLK_KEEPER_CTL.state | 3 | 03_cell_array R72 Table 3.6 | busy -/
  keeperState : KeeperState
  /-- BLK_KEEPER_CTL.keeper_en | 1 | 03_cell_array R72 Table 3.6 | 1 -/
  keeperEn : Bool
  /-- BLK_ARRAY_BUSY | 64 | 03_cell_array R74 | 0 -/
  arrayBusy : Word
  /-- BLK_SHADOW_STALL | 64 | 03_cell_array R74 | 0 -/
  shadowStall : Word
  /-- BLK_KEEPER_FILL | 64 | 03_cell_array R74 | 0 -/
  keeperFill : Word
  /-- BLK_RAMP_HOLD | 64 | 03_cell_array R74 | 0 -/
  rampHold : Word
  /-- BLK_GROUP_COMMITS | 64 | 04_block R110 | 0 -/
  commits : Word
  /-- BLK_GROUP_KILLS | 64 | 04_block R110 | 0 -/
  kills : Word
  /-- BLK_GROUP_REJECTS | 64 | 04_block R110 | 0 -/
  rejects : Word
  /-- BLK_GRP_MEAS | 64 | 14_partitions R360 | 0 -/
  grpMeas : Word
  /-- BLK_GRP_EST | 64 | 14_partitions R360 | 0 -/
  grpEst : Word
  /-- groups counted for the interference report | 32 | 14_partitions R361 Table 14.3 | 0 -/
  grpCount : Word
  /-- BLK_RB_CFG.mask | 16 | 07_gradients_collectives R170 Table 7.1 | 0 -/
  rbMask : BitVec 16
  /-- BLK_RB_CFG.hdr_base | 11 | 07_gradients_collectives R170 Table 7.1 | 0 -/
  rbBase : BitVec 11
  /-- BLK_JOB_VERSION | 32 | 06_stages_riders_versions R166 Table 6.8 | 0 -/
  jobVersion : BitVec 32
  /-- BLK_Q_CFG.stall_policy | 2 | 05_queues Table 5.5 | 0 -/
  stallPolicy : BitVec 2
  /-- BLK_Q_CFG.stall_limit_log2 | 5 | 05_queues Table 5.5 | 20 -/
  stallLimit : BitVec 5
  /-- BLK_Q_ACCEPTED | 64 | 05_queues R139 | 0 -/
  qAccepted : Word
  /-- BLK_Q_NACKED | 64 | 05_queues R139 | 0 -/
  qNacked : Word
  /-- BLK_Q_DESC_DROP | 64 | 05_queues R139 | 0 -/
  qDrop : Word
  /-- BLK_Q_VOIDED | 64 | 05_queues R139 | 0 -/
  qVoided : Word
  /-- BLK_Q_STALL | 64 | 05_queues R139 | 0 -/
  qStall : Word
  /-- BLK_Q_RELEASE_ERR | 64 | 05_queues R139 | 0 -/
  qReleaseErr : Word
  /-- the 128 queues: depth, descriptors, reserved count (also BLK_Q_STATUS) | 128 x (depth x 512) | 05_queues R113, R115, R126, Table 5.10 | depth 16, empty -/
  queues : Tab QueueState
  /-- landed pointers of the rings bound to the block's queues, as the block last received them | 128 x 13 | 05_queues R134 | 0 -/
  landed : Tab Nat
  /-- array engine queue | 8 commands | 04_block R84 | empty -/
  arrayQ : List EngineCmd
  /-- vector unit queue | 8 commands | 04_block R84 | empty -/
  vectorQ : List EngineCmd
  /-- fetch engine queue | 8 commands | 04_block R84 | empty -/
  fetchQ : List EngineCmd
  /-- queue engine queue: SENDs and RELAYs that wait for a send-buffer entry | 8 commands | 04_block R84, R100 | empty -/
  queueQ : List QueueCmd
  /-- companion bytes of the vector unit's head command, by device address | - | 12_sceolink R301 | empty -/
  vecData : List (Nat × List Byte)
  /-- the head FETCH waits for companion data or for its version entry | - | 12_sceolink R301; 06 R163 | 0 -/
  fetchData : List Byte
  /-- bytes of the companion LD that stalls decode | - | 12_sceolink R301 | 0 -/
  ldData : List Byte
  /-- the running MATMUL's position, and its output-stage registers | - | 03_cell_array R64; 04_block R86 | none -/
  run : Option ArrayRun
  /-- active weight registers with residues and column sideband | 16384 x (16 + 3) | 03_cell_array R51, R53, R54 | empty -/
  active : WeightSet
  /-- shadow weight registers with residues and column sideband | 16384 x (16 + 3) | 03_cell_array R51, R53, R54 | empty -/
  shadow : WeightSet
  /-- untaken shadow load of a FETCH with to_shadow | - | 06_stages_riders_versions R165 | none -/
  untaken : Option ShadowLoad
  /-- shadow loads issued by FETCH since reset | - | the model's numbering of them (06 R165) | 0 -/
  shadowNo : Nat
  /-- the open command group | - | 04_block R95 to R101 | none -/
  group : Option Group
  /-- an error rerun of the group at this GHDR has been made, after this check | 1 + 4 | 01_four_levels R19 | none -/
  reran : Option (BitVec 4)
  /-- completion carries dip_rerun | 1 | 16_reset_power_clocks R416 | 0 -/
  dipRerun : Bool
  /-- the killed group's rerun waits for the end of a stretch, or for ATTACHED | 1 | 16 R416; 12_sceolink R312 | 0 -/
  rerunHeld : Bool
  /-- the block reports to its region sequencer | 1 | 01_four_levels R19 | 0 -/
  report : Bool
  /-- send buffer | 32 entries | 04_block R99, R100 | empty -/
  sendBuf : List SendEntry
  /-- messages released since reset, modulo 2^16 | 16 | 05_queues R116 | 0 -/
  sendSeq : BitVec 16
  /-- completions not yet handed to the region FIFO | - | 04_block R103; 14_partitions R362 | empty -/
  cpls : List PendingCpl
  /-- completions posted since reset | 32 | 14_partitions Table 14.4 | 0 -/
  cplSeq : BitVec 32
  /-- current epoch | 32 | 04_block R106 | 1 (R345) -/
  epoch : Epoch
  /-- p_epoch of the block's partition, as the block's bank holds it | 32 | 04_block R106; 13_flapino R341 | 1 (R345) -/
  pEpoch : Epoch
  /-- write-locked source ranges | - | 04_block R103; 05_queues R136; 07 R181 | empty -/
  locks : List Lock
  /-- address of the last UC_WR | 48 | 12_sceolink R303 | none -/
  lastUcWr : Option Addr
  /-- a UC_WR has been issued since the last read-back | 1 | 12_sceolink R303 | 0 -/
  ucWrNew : Bool
  /-- group estimates e_k of REPORT_SET | 256 x 32 | 14_partitions R360 | 0 -/
  estimates : Tab (BitVec 32)
  /-- fenced | 1 | 01_four_levels R22; 15_errors R376 | 0 -/
  fenced : Bool
  /-- fenced and being replaced by a spare | 1 | 05_queues R120 | 0 -/
  swapping : Bool
  /-- messages and descriptors that the fence drops besides the void Riders, for BLOCK_FENCED's detail | - | 15_errors R376, Table 15.5 | 0 -/
  fenceDropped : Nat
  /-- void copies of the fenced block's Riders, for the spare | - | 15_errors R376 | empty -/
  voidCopies : List (Nat × Descriptor)
  /-- physical position | 7 | 01_four_levels R22; 15_errors Table 15.3 | its own number -/
  phys : Option Nat
  /-- the block island is in reset or its domain is off | 1 | 16_reset_power_clocks R395, R409 | 0 -/
  inReset : Bool
  deriving DecidableEq, Repr

/-! ## The hub's queues of things in flight -/

/-- A hold or release notice (R147, R148). -/
structure Notice where
  hold : Bool
  entry : StageId
  version : BitVec 32
  step : BitVec 32
  mb : BitVec 12
  epoch : Epoch
  deriving DecidableEq, Repr

/-- A collective post (R180). -/
structure Post where
  block : BlockId
  plan : PlanId
  step : BitVec 32
  half : Bool
  deriving DecidableEq, Repr

/-- A memory-side operation handed to the stack controllers, and how many of its units are done (R174 to R176). -/
structure MemSideOp where
  op : BitVec 8
  tSrc : BitVec 8
  tDst : BitVec 8
  target : Nat
  source : Nat
  imm : Option (BitVec 32)
  len : Nat
  done : Nat
  issuer : Option (BlockId × BitVec 32)
  guestTag : Option (BitVec 16)
  guestData : List Byte
  partition : PartId
  deriving DecidableEq, Repr

/-- An answer to a message (Table 5.3, R246). -/
structure Answer where
  dst : QAddr
  src : QAddr
  seq : BitVec 16
  code : BitVec 8
  deriving DecidableEq, Repr

/-- A completion in a region FIFO or the hub store (Table 14.4). -/
structure CplEntry where
  block : BlockId
  seq : BitVec 32
  tag : BitVec 32
  flags : BitVec 8
  status : BitVec 8
  deriving DecidableEq, Repr

/-- A SEND_STALL record at the control complex, in arrival order (R129). -/
structure StallRec where
  block : BlockId
  dst : QAddr
  src : QAddr
  seq : BitVec 16
  used : Bool
  deriving DecidableEq, Repr

/-! ## Landing rings and Relays -/

/-- A segment of a landing ring (R130, R135, R137). -/
inductive SegState where
  | free
  | granted (id : RelayId) (idx : Nat) (got : Nat)
  | landed (id : RelayId)
  | abandoned (id : RelayId)
  | skipped
  deriving DecidableEq, Repr

/-- A Relay at its receiver (R132, R133). -/
structure RelayRx where
  id : RelayId
  desc : Descriptor
  segs : Nat
  stream : Option Bool                        -- its mode, once fixed
  start : Nat                                 -- ring segment of byte 0, once fixed
  granted : Nat
  landed : Nat
  delivered : Bool                            -- its descriptor has been accepted
  dead : Bool                                 -- abandoned in stream mode: what is allocated to it from then on is abandoned too (R137)
  deriving DecidableEq, Repr

/-- A bound landing ring (R130). -/
structure Ring where
  base : Nat
  segs : Nat
  alloc : Nat
  landedPtr : Nat
  release : Nat
  seg : Tab SegState
  pending : List RelayRx                      -- the pending list
  landedRelays : List RelayRx                 -- Relays that left the pending list with segments unreleased
  deriving DecidableEq, Repr

/-- A Relay at its sender (R131, R136). -/
structure RelayTx where
  num : BitVec 32
  block : BlockId
  desc : Descriptor
  sent : Nat
  deriving DecidableEq, Repr

/-! ## Stages and versions -/

/-- A Stage Table entry (Table 6.1), with the epoch of the last Cinch that set it (R148) and its pin (R167). -/
structure StageEntry where
  recoveryPc : Addr
  shardList : Addr
  shardCount : BitVec 12
  nextMb : BitVec 16
  nextStep : BitVec 32
  jobVersion : BitVec 32
  pred : QAddr
  succ : QAddr
  quadMask : BitVec 64
  mbPerStep : BitVec 16
  inflight : BitVec 16
  budget : BitVec 16
  bwdQ : BitVec 7
  fwdQ : BitVec 7
  pipeStage : BitVec 16
  job : BitVec 16
  staleS : BitVec 3
  partition : PartId
  admitEn : Bool
  last : Bool
  first : Bool
  valid : Bool
  keptEpoch : Epoch
  pinned : Bool
  deriving DecidableEq, Repr

/-- A drain after a publication or a retirement (R160): the blocks that have not answered, the slots it frees, and whether it holds a whole area back. -/
structure VDrain where
  entry : Addr
  waiting : List Nat
  slots : List Nat
  whole : Bool
  deriving DecidableEq, Repr

/-! ## Collectives -/

/-- A group entry (Table 7.4). -/
structure CollGroup where
  list : Addr
  count : BitVec 13
  rank : BitVec 12
  valid : Bool
  deriving DecidableEq, Repr

/-- A job's collective settings (R195, R196). -/
structure CollJob where
  group : BitVec 6
  norm : Addr
  timeoutMs : BitVec 32
  deriving DecidableEq, Repr

/-- A plan's instance, queued or running (R177, R181 to R188). -/
structure Instance where
  plan : PlanId
  step : BitVec 32
  half : Bool
  running : Bool
  zeros : Bool                                -- the member contributes zeros (R181)
  contrib : BitVec 32                         -- its own contribution count
  sums : Tab (BitVec 32)                      -- contribution totals so far, by chunk (R187)
  amax : BitVec 32                            -- largest magnitude that the pieces carried
  arrived : Nat                               -- pieces of the reduce phase taken in
  gathered : Nat                              -- pieces of the gather phase taken in
  took : List Nat                             -- places of the pieces taken in among those that the member receives
  sent : Nat                                  -- pieces sent
  deriving DecidableEq, Repr

/-- Where an entry of a permutation stands (R194). -/
inductive PermState where
  | waiting | moving (got : Nat) | landed
  deriving DecidableEq, Repr

/-- A credit for one piece (R188): plan_id, step, and the rank that granted it. -/
structure PieceCredit where
  planId : BitVec 16
  step : BitVec 32
  rank : Nat
  deriving DecidableEq, Repr

/-- A permutation command in progress, kept until the data for the locations of this package has come too (R193, R194). -/
structure Permute where
  partition : PartId
  cmd : BitVec 32                             -- seq of its PERMUTE_START
  done : Bool                                 -- its PERMUTE_START has completed
  entries : List (PermEntry × PermState)       -- those that leave or reach this package
  failed : Bool                               -- a cycle has failed
  staging : Nat
  stagingSize : Nat
  alloc : List (Nat × Nat × Nat)              -- cycle, staging address, length
  early : List (Nat × Nat × List Byte)        -- data for staging that its cycle has not yet taken: cycle, offset, bytes
  deriving DecidableEq, Repr

/-! ## Updates and export -/

/-- A running update task (Table 8.3). -/
structure RunTask where
  task : Nat
  step : BitVec 32
  gs : BitVec 32
  lr : BitVec 32
  c1 : BitVec 32
  c2 : BitVec 32
  entry : Sys2Proof.TaskEntry                 -- its task entry and parameter block as they were at its start (R202, R342)
  param : BitVec 512
  group : Nat                                 -- groups of 16 elements written
  skip : Bool
  coded : List Byte                           -- the coded difference so far
  series : List Byte                          -- payload bytes of its export records so far
  nonfinite : Nat
  asked : Bool                                -- the group's moments have been asked of the companion
  slow : List (Addr × List Byte)              -- companion data that has come back
  readback : Nat                              -- read-back of the slow tier: 0 none, 1 sent, 2 returned (R304)
  prog : List (BitVec 32)                     -- the words of its program, as they were at its start (R202)
  scaled : Bool                               -- its difference is verified and written, its scale step done: completion is to be posted (Table 8.3)
  deriving DecidableEq, Repr

/-- One region's update unit (R198 to R220). -/
structure UpdateUnit where
  tasks : Tab TaskEntry
  params : Tab (BitVec 512)
  scheds : Tab SchedSeg
  queue : List (Nat × BitVec 32)
  held : List (Nat × BitVec 32 × Bool)        -- interrupted tasks that wait for a resume, or for an attach (R211)
  slotReady : Option Nat                      -- the task for which a building slot is allocated
  slotWaited : List Nat                       -- tasks whose allocation has been counted as waiting
  lost : List (PlanId × BitVec 32)            -- plans and steps with a task that will not complete: their result keeps state 0x02 (R210, R211)
  started : List (PartId × BitVec 32)         -- steps of which a task of a partition has started (Table 8.11, CHECKPOINT_MARK)
  doneTasks : List (Nat × BitVec 32 × Nat)    -- completed tasks that Flapino has still to publish, with the stored length of D
  run : Option RunTask
  lastTask : BitVec 8
  lastStep : BitVec 32
  done : Word
  skipped : Word
  nonfinite : Word
  dupRetry : Word
  interrupted : Word
  staleTask : Word
  scaleErr : Word
  exportWait : Word
  deriving DecidableEq, Repr

/-- An export record before it is laid out in the ring (Table 8.7). -/
structure ExportRec where
  type : BitVec 8
  shard : Addr
  job : BitVec 16
  step : BitVec 32
  version : BitVec 32
  offset : BitVec 32
  count : BitVec 32
  aux : BitVec 32
  payload : List Byte
  ofShard : Bool                              -- of an EXPORT_SHARD (R218)
  deriving DecidableEq, Repr

/-- A record laid out in an export ring that is not confirmed, or not yet sent: its seq, its bytes, and whether it is a PAD (R213, R215). -/
structure SpanRec where
  seq : BitVec 32
  bytes : Nat
  pad : Bool
  deriving DecidableEq, Repr

/-- A partition's export ring (R213 to R217). -/
structure ExportRing where
  cfg : ExportP
  produced : Nat                              -- bytes confirmed to the host, or written for a package
  consumed : Nat                              -- bytes read by the host, or freed by ACCEPT
  spanRecs : List SpanRec                     -- records not confirmed by a read-back, or not yet sent
  seq : BitVec 32
  pending : List ExportRec                    -- records to be appended
  runs : List (BitVec 32 × Nat)               -- runs of dropped records without a LOSS record: first seq and count
  drops : Word
  waiting : Bool
  deriving DecidableEq, Repr

/-! ## Stacked memory -/

/-- An access that a controller holds until its stack is wiped (R237). -/
inductive MemAccess where
  | read (addr : Addr) (req : Requester) (fault : BurstFault)
  | write (addr : Addr) (data : List Byte) (req : Requester) (bus : BusCheck)
  deriving DecidableEq, Repr

/-- One stack and its controller (R233 to R238). -/
structure StackState where
  temp : BitVec 8
  doubleRefresh : Bool
  throttled : Bool
  selfRefresh : Bool
  wipeDone : Bool
  held : List MemAccess                       -- requests that wait for the wipe (R237)
  refreshes : Nat
  allBank : Nat                               -- all-bank refreshes, before self refresh (R235)
  refreshManagement : Nat
  classMap : BitVec 432                       -- the classes this controller uses (R234)
  retryOk : Word
  wCorr : Word
  wUncorr : Word
  aDrop : Word
  atomicDrop : Word
  scrubFix : Word
  odecc : Word
  caRetry : Word
  hotThrottle : Word
  deriving DecidableEq, Repr

/-! ## On the way inside the package -/

/-- What travels inside the package between two units and has not arrived; `control` is a packet of kind 0x03, 0x05 or 0x06 handed to its engine, whose command reads it (R246). -/
inductive InFlight where
  | message (d : Descriptor)
  | answer (a : Answer)
  | relayOpen (o : RelayOpenMsg)
  | credit (num : BitVec 32) (dev : BitVec 16)
  | segment (q : QAddr) (id : RelayId) (off : Nat) (data : List Byte)
  | cancel (id : RelayId) (dst : QAddr)
  | landed (q : QAddr) (ptr : Nat)
  | drainMark (b : BlockId) (entry : Addr)
  | piece (planId : BitVec 16) (step : BitVec 32) (rank : Nat) (p : Piece)
  | pieceCredit (planId : BitVec 16) (step : BitVec 32) (rank : Nat)
  | abortNotice (planId : BitVec 16) (step : BitVec 32)
  | scalar (group : BitVec 6) (use : ScalarUse) (value : Word) (down : Bool) (rank : Nat)
  | vacate (cycle : BitVec 32) (pos : BitVec 16) (dev : BitVec 16)
  | move (cycle : BitVec 32) (pos : BitVec 16) (dev : BitVec 16) (data : List Byte)
  | control (p : Packet)
  deriving DecidableEq, Repr

/-- One entry on its way: its source and destination units, its class (0 Request, 1 Response, 2 control), and the bundles it crosses, each by its region and number (R26, R28, R277). -/
structure Transit where
  item : InFlight
  src : Nat
  dst : Nat
  cls : Nat
  path : List (RegionId × Nat)
  deriving DecidableEq, Repr

/-! ## Links -/

/-- States of a link (Table 10.11). -/
inductive LinkMode where
  | disabled | training | up | held | flushed | widthChange
  deriving DecidableEq, Repr

/-- LNK_CFG (Table 10.10). -/
structure LinkCfg where
  graceMs : BitVec 10
  laneMask : BitVec 8
  laneErrLimit : BitVec 8
  ackTimeoutUs : BitVec 7
  autoExclude : Bool
  enable : Bool
  deriving DecidableEq, Repr

/-- The counters of Table 10.13 that belong to a port. -/
structure LinkCounters where
  txFlits : Word
  rxFlits : Word
  crcDrop : Word
  fecCorr : Word
  fecUncorr : Word
  dupDrop : Word
  seqGap : Word
  replay : Word
  retrain : Word
  hitch : Word
  hitchResume : Word
  flushFlits : Word
  widthChange : Word
  widthFail : Word
  deriving DecidableEq, Repr

/-- A lane command exchange that this end opened (R261). -/
structure LaneExchange where
  lane : LaneRec
  attempts : Nat
  accepted : Bool
  deriving DecidableEq, Repr

/-- A packet that a link sends: how many data bytes it has in all, the input (port × 2, plus 1 for Response) from which the rest of it is still to come, and what of this package it carries (R259, R266). -/
structure TxPacket where
  packet : Packet                             -- with the data so far
  total : Nat
  via : Option Nat
  entry : Option InFlight
  deriving DecidableEq, Repr

/-- A packet of which a port has passed on some flits and awaits the rest (R266): its output port, none where it was dropped, and the flits still to come. -/
structure CutThrough where
  out : Option Nat
  left : Nat
  deriving DecidableEq, Repr

/-- One link: a fabric port, or Sceolink (R293). -/
structure LinkState where
  cfg : LinkCfg
  mode : LinkMode
  partnerDev : BitVec 16
  partnerPort : BitVec 5
  lanesActive : BitVec 8
  rxLanes : BitVec 8                          -- lanes that the receiver takes flits from (R262)
  trainedLanes : BitVec 18                    -- lanes that the last training brought up (R261, R294)
  txNext : BitVec 12
  rxExpected : BitVec 12
  accepted : Bool                             -- a DATA flit was accepted since the last fresh start (R249)
  acked : BitVec 12                           -- acknowledged point (R250)
  replayBuf : List Flit
  replaying : List Flit                       -- held entries still to be resent (R251)
  replayFrom : BitVec 12                      -- acknowledged point from which the replay in progress started (R251)
  replaysInRow : Nat
  unacked : Nat                               -- DATA flits accepted since the last flit that carried an ack (R249)
  creditDue : Bool                            -- a freed credit is not yet reported (R249)
  replayReq : Bool                            -- replay_req goes into the next flit
  replayReqFor : Option (BitVec 12)           -- rx_expected for which it was last set
  linkDue : Bool                              -- R249 requires a LINK flit
  txBypass : List TxPacket
  txRequest : List TxPacket
  txResponse : List TxPacket
  sentPackets : List (BitVec 12 × TxPacket)   -- packets sent whose last flit, given by its seq, is not acknowledged (R259)
  sendingReq : Nat                            -- flits already sent of the Request packet at its queue's head
  sendingRsp : Nat
  rspInRow : Nat
  sentByp : BitVec 16
  sentReq : BitVec 16
  sentRsp : BitVec 16
  gotByp : BitVec 16                          -- newest credit totals received
  gotReq : BitVec 16
  gotRsp : BitVec 16
  freedByp : BitVec 16                        -- credit totals this end has freed
  freedReq : BitVec 16
  freedRsp : BitVec 16
  rxBypass : List Flit
  rxRequest : List Flit
  rxResponse : List Flit
  cutReq : Option CutThrough                  -- the Request packet at the buffer's head, once its first flit has gone on (R266)
  cutRsp : Option CutThrough
  heldPackets : List TxPacket                 -- packets routed to the port while it is not up
  fresh : Bool                                -- flushed since the last up state, or never up (R260)
  quickRetrains : Nat
  quick : Bool
  trained : Bool                              -- training is complete; the partner's IDENT has not been checked
  resuming : Bool                             -- both IDENTs allow a resume; the partner's RESUME is awaited (R258)
  graceOver : Bool                            -- the grace ended after training had completed (R273)
  rxSwitch : Option LaneRec                   -- lane set that the receiver takes at the partner's SWITCH (R262)
  txSwitch : Option LaneRec                   -- lane set that the sender takes with its own SWITCH (R262)
  exchange : Option LaneExchange
  wide : Option LaneRec                       -- an agreed widening whose added lanes are still to train (R262)
  wanted : Option (BitVec 8 × BitVec 4)       -- a width change, with its cause, that waits until it may be asked for
  nextCmd : BitVec 8
  excluded : BitVec 18
  laneOver : Tab Nat                          -- windows in a row over the limit, per lane (R263)
  counters : LinkCounters
  deriving DecidableEq, Repr

/-- A routing entry (Table 10.9). -/
structure RouteEntry where
  alternate : BitVec 24
  primary : BitVec 24
  valid : Bool
  deriving DecidableEq, Repr

/-! ## Bundles and the guest site -/

/-- A bundle end (Table 11.4), its parity counter and the failures of each control entry that it holds (R278, R281). -/
structure BundleState where
  repl : BitVec 56
  moved : Bool
  mode : BitVec 2
  perr : Word
  ctlFails : Tab Nat                          -- by the entry's number at its sender
  degraded : Bool
  deriving DecidableEq, Repr

/-- A guest request that has passed the checks and waits on a bucket (R287). -/
inductive GuestWaiting where
  | read (g : GuestReq)
  | write (g : GuestReq)
  | memop (g : GuestReq)
  | send (g : GuestReq) (d : Descriptor)
  deriving DecidableEq, Repr

/-- A guest READ of companion memory whose data has still to come: tag, first address, bytes, data so far by address, and whether an answer had an error (R285). -/
structure GuestRead where
  tag : BitVec 16
  addr : Nat
  want : Nat
  got : List (Nat × List Byte)
  bad : Bool
  deriving DecidableEq, Repr

/-- A packet for the guest: type, tag, status and data (Tables 11.5 and 11.6). -/
structure GuestResponse where
  type : BitVec 8
  tag : BitVec 16
  status : BitVec 8
  data : List Byte
  deriving DecidableEq, Repr

/-- The guest site and its firewall (R282 to R289, Tables 11.7 to 11.10). -/
structure GuestState where
  present : Bool
  enable : Bool
  mode : BitVec 2
  partition : PartId
  windows : List FwWindow
  queues : List FwQueue
  rate : FwRate
  byteBucket : Nat
  descBucket : Nat
  waiting : List GuestWaiting
  reads : List GuestRead
  responses : List GuestResponse              -- packets that wait for the guest's credits (R284)
  hdrCredits : Nat                            -- the guest's grants to the hub
  beatCredits : Nat
  refusedInWindow : Bool
  fwRefused : Word
  rateWait : Word
  bundles : Tab BundleState
  deriving DecidableEq, Repr

/-! ## Sceolink -/

/-- Session states (Table 12.6). -/
inductive SessionMode where
  | none | attached | held | detached
  deriving DecidableEq, Repr

/-- What an outstanding companion request serves (R301 to R307, R312). -/
inductive CompanionUse where
  | fetch (b : BlockId)
  | vec (b : BlockId)
  | ld (b : BlockId)
  | fence (b : BlockId)
  | commitReadback (b : BlockId)
  | update (r : RegionId)
  | exportBlock (p : PartId)
  | record (p : PartId) (event : Bool)
  | bootImage
  | write (b : BlockId)
  | report (p : PartId)
  | shard (r : RegionId) (task : Nat)
  | guest (tag : BitVec 16)
  deriving DecidableEq, Repr

/-- An outstanding companion request: a read, or a write not yet known to be visible. -/
structure CompanionReq where
  tag : BitVec 16
  stream : Nat
  addr : Addr
  len : Nat
  use : CompanionUse
  data : List Byte                            -- of a write
  deriving DecidableEq, Repr

/-- A line's state in the shared window's directory (R306). -/
inductive LineState where
  | s | m
  deriving DecidableEq, Repr

/-- An access that waits for a snoop (R306). -/
structure SnoopWait where
  line : Addr
  write : Option (List Byte)
  deriving DecidableEq, Repr

/-- A Remount exchange in a direction (R295). -/
structure Remount where
  msg : RemountRec
  attempts : Nat
  accepted : Bool
  deriving DecidableEq, Repr

/-- Sceolink beyond its link layer (chapter 12). -/
structure SclState where
  heartbeatMs : BitVec 16
  sharedBase : Addr
  sharedEnable : Bool
  mode : SessionMode
  number : BitVec 32
  attachErr : Bool
  heldByHeartbeat : Bool
  detaching : Bool
  widthTx : BitVec 8
  widthRx : BitVec 8
  sparesTx : BitVec 5
  sparesRx : BitVec 5
  mapTx : BitVec 80
  mapRx : BitVec 80
  failedTx : BitVec 18                        -- physical lanes that the companion has had moved for errors (R295)
  remountTx : Option Remount
  remountRx : Option Remount
  nextTag : BitVec 16
  reqs : List CompanionReq                    -- sent and not yet answered or visible
  waiting : List CompanionReq                 -- waiting in their engines (Table 12.6)
  directory : Tab LineState
  snoops : List SnoopWait
  lineCache : List (BitVec 47)
  remounts : Word
  kindDrop : Word
  cRefused : Word
  fenceErr : Word
  snoopCount : Word
  ringReread : Word
  ringStale : Word
  flushFlits : Word
  wrDrop : Word
  lineInval : Word
  deriving DecidableEq, Repr

/-! ## Records, rings and the control complex -/

/-- An error record (Table 15.2). -/
structure ErrorRecord where
  detail : BitVec 88
  last : BitVec 48
  first : BitVec 48
  count : BitVec 16
  unit : BitVec 24
  partition : PartId
  level : BitVec 3
  cls : BitVec 2
  code : BitVec 16
  deriving DecidableEq, Repr

/-- The kinds of error-table entry (R373). -/
inductive ErrKind where
  | general | merge | umber | crimson
  deriving DecidableEq, Repr

/-- An error-table entry and its follow-on (R373). -/
structure ErrEntry where
  kind : ErrKind
  record : ErrorRecord
  writing : Bool
  follow : Option ErrorRecord
  no : Nat                                    -- order of creation
  followNo : Nat                              -- order in which the follow-on received its first event
  deriving DecidableEq, Repr

/-- A CMD_DONE record (R330, R331). -/
structure CmdDone where
  opcode : BitVec 16
  tag : BitVec 32
  seq : BitVec 32
  status : BitVec 8
  reason : BitVec 8
  flags : BitVec 8
  result : Addr                               -- where the returned data goes when flags bit 2 is set
  data : List Word
  deriving DecidableEq, Repr

/-- A record for a completion ring (Table 13.11). -/
inductive CplRecord where
  | cmdDone (c : CmdDone)
  | groupDone (es : List CplEntry)
  deriving DecidableEq, Repr

/-- A completion record in the hub store, and whether its CO_WR has been issued (R315, R328). -/
structure StoredRecord where
  record : CplRecord
  writing : Bool
  deriving DecidableEq, Repr

/-- A ring's registers in a partition window (Table 13.7, Table 13.9). -/
structure RingRegs where
  reg : Word                                  -- base and size_log2
  head : BitVec 32
  tail : BitVec 32
  deriving DecidableEq, Repr

/-- A command as Flapino carries it out (R332). -/
structure Running where
  part : PartId
  hdr : CmdHeader
  seq : BitVec 32
  deriving DecidableEq, Repr

/-- A scalar all-reduce in progress (R192). -/
structure Scalar where
  group : BitVec 6
  use : ScalarUse
  op : ScalarOp
  value : Word
  children : Nat                              -- children's values taken in
  sentUp : Bool
  result : Option Word                        -- the agreed value of a job-version all-reduce (R151)
  cmd : Option (Running × Addr)               -- the COLL_SCALAR that it serves, with its result address
  deriving DecidableEq, Repr

/-- A staged draft command: its settings (R337). -/
inductive DraftSetting where
  | partCreate (x : PartCreateP)
  | partDestroy (index : BitVec 8)
  | partQuads (index : BitVec 8) (mask : BitVec 64)
  | partMem (x : PartMemP)
  | partCheckMode (mode : BitVec 2)
  | reportSet (x : ReportP)
  | stageSet (x : StageP)
  | stageClear (index : BitVec 8)
  | queueConfig (x : QueueConfigP)
  | collGroupSet (index : BitVec 8) (list : Addr) (count : BitVec 13)
  | collPlanSet (index : BitVec 16) (x : PlanEntry)
  | collPlanClear (index : BitVec 16)
  | collJobSet (job : BitVec 16) (group : BitVec 8) (norm : Addr) (timeoutMs : BitVec 32)
  | updTaskSet (region : RegionId) (index : BitVec 8) (x : TaskEntry)
  | updTaskClear (region : RegionId) (index : BitVec 8)
  | updParamSet (region : RegionId) (index : BitVec 5) (words : BitVec 512)
  | updSchedSet (region : RegionId) (first : BitVec 8) (segs : List SchedSeg)
  | memClassSet (partition : PartId) (first count : BitVec 16) (classA : Bool)
  | linkConfig (x : LinkConfigP)
  | linkRouteSet (first : BitVec 16) (count : BitVec 32) (addr : Addr)
  | linkIdSet (device : BitVec 16) (hopLimit : BitVec 8)
  | sclConfig (x : SclConfigP)
  | eventMaskSet (codes : List (BitVec 16))
  | powerLimitSet (x : PowerLimitP)
  | guestFwSet (x : GuestFwP)
  | exportSet (x : ExportP)
  | batchSet (x : BatchP)
  deriving DecidableEq, Repr

/-- A command in a draft set (R337). -/
structure DraftCmd where
  opcode : BitVec 16
  tag : BitVec 32
  bytes : Nat
  target : PartId
  setting : DraftSetting
  deriving DecidableEq, Repr

/-- The cut in progress (Table 13.15). -/
structure Cut where
  part : PartId
  hdr : CmdHeader
  seq : BitVec 32
  newEpoch : Epoch
  prepared : List Island                      -- islands that have not answered PREPARED
  cutSent : Bool
  unswitched : List Island                    -- islands that have not switched
  unacked : List Island                       -- islands whose acknowledgement has not been collected
  markers : List (Island × Island)            -- crossings (island, source) whose marker has arrived
  deriving DecidableEq, Repr

/-- A CINCH that waits to start its cut (R340). -/
structure WaitingCinch where
  part : PartId
  hdr : CmdHeader
  seq : BitVec 32
  deriving DecidableEq, Repr

/-- FW_UPDATE's progress (Table 13.17). -/
inductive FwPhase where
  | idle
  | started (r : Running) (img : Image)
  | health (r : Running) (img : Image) (oldVersion : BitVec 32)
  deriving DecidableEq, Repr

/-- A margin test (R387, R388): its results with the spare taken for each, and the swaps still to be resolved. -/
structure MarginRun where
  run : Running
  payload : MarginP
  results : List (MarginResult × Nat)
  swaps : List (BlockId × Nat)                -- block and its place among the results
  deriving DecidableEq, Repr

/-- A running EXPORT_SHARD (R218). -/
structure ShardExport where
  run : Running
  region : RegionId
  task : Nat
  step : BitVec 32
  version : BitVec 32
  groups : Nat
  words : List Byte                           -- payload bytes so far
  want : Nat                                  -- moment bytes that have still to come from the companion
  got : List (Addr × List Byte)
  deriving DecidableEq, Repr

/-- Flapino and the control complex (chapter 13). -/
structure Flapino where
  current : Option Running
  bg : List Running
  stalls : List StallRec
  lastTurn : PartId
  cut : Option Cut
  waitingCinch : List WaitingCinch
  activePair : Bool
  standbyHealthy : Bool
  imageVersion : BitVec 32
  standbyVersion : BitVec 32
  fw : FwPhase
  lastUpdate : BitVec 8
  margin : Option MarginRun
  repair : Option BlockId                     -- the block that QUAD_REPAIR swaps (R359)
  exports : List ShardExport
  scrubHours : BitVec 16
  deriving DecidableEq, Repr

/-! ## Partitions and serving -/

/-- A work list that is out (R367, R368). -/
structure WorkList where
  number : BitVec 32
  entries : List (Nat × BitVec 32)            -- sequence index in the partition's range, tokens x
  deriving DecidableEq, Repr

/-- A sequence entry (Table 14.5), with its removal mark. -/
structure SeqEntry where
  kvList : Addr
  kvPages : BitVec 16
  position : BitVec 32
  remaining : BitVec 32
  arrival : BitVec 32
  user : BitVec 32
  ready : BitVec 16
  priority : BitVec 8
  mode : BitVec 4
  removed : Bool
  deriving DecidableEq, Repr

/-- A partition (R349 to R352), with its window, draft set, store lists and services. -/
structure Partition where
  mode : BitVec 4
  quads : BitVec 64
  stacked : List Range
  companion : List Range
  checkMode : BitVec 2
  seqBase : Nat
  seqCount : Nat
  coalesce : Nat
  epoch : Epoch
  headErr : Bool
  park : BitVec 2
  rereads : Nat
  cmdRing : RingRegs
  cplRing : RingRegs
  evtRing : RingRegs
  draft : List DraftCmd
  pendingCpl : List CplEntry
  records : List StoredRecord
  held : Bool
  cplHold : Word
  errs : List ErrEntry
  errNo : Nat                                 -- error-table entries and follow-ons created
  grey : Word
  amber : Word
  umber : Word
  crimson : Word
  masked : Word
  merged : Word
  mask : List (BitVec 16)
  report : ReportP
  reportSeq : BitVec 32
  lastReport : List Byte                      -- the last interference report (R353)
  sampledMeas : Word
  sampledEst : Word
  sampledGroups : Word
  batch : Option BatchP
  wlStarted : Bool
  wlDeadline : Bool
  lists : Tab WorkList
  listNo : BitVec 32
  arrivals : BitVec 32
  exportRing : Option ExportRing
  marks : List (BitVec 32)                    -- steps under CHECKPOINT_MARK (R218)
  mbox : List (List Byte × Bool)              -- guest messages for the event ring, and whether the first is being written (R286)
  drainTimeout : Bool
  memBytes : Word
  linkBytes : Word
  memSampled : Word                           -- memBytes, linkBytes and the package's sums at the last report
  linkSampled : Word
  memAllSampled : Word
  linkAllSampled : Word
  deriving DecidableEq, Repr

/-! ## Reset, power, life cycle -/

/-- PWR_RESET_CAUSE (Table 16.2) and the release order (Table 16.3). -/
structure ResetState where
  bootCount : BitVec 32
  kind : ResetKind
  sources : BitVec 10
  active : Bool                               -- a reset of the hub is asserted or its release has not reached order 10
  bootStage : BitVec 8
  strapValid : Bool
  strap : BitVec 4
  tripped : Bool                              -- THERMTRIP_N latched
  faultN : Bool                               -- FAULT_N asserted
  rstoutN : Bool                              -- RSTOUT_N released
  pendingReset : Option ResetKind             -- a reset that waits for its CMD_DONE's WR_ACK
  bootImage : Word                            -- FMP_BOOT_IMAGE as last written with go = 1
  regionBooting : Tab Bool
  released : List Island                      -- islands other than blocks and region fabrics that have left reset
  deriving DecidableEq, Repr

/-- Power and thermal control (chapter 16). -/
structure PowerState where
  dieTemp : BitVec 8
  blockMhz : BitVec 12
  power1ms : BitVec 12
  power1s : BitVec 12
  ticks : Nat                                 -- intervals of 10 µs since reset, the model's clock for windows of 1 ms and 1 s (log 64)
  dipTimes : List Nat                         -- intervals in which a dip ended, within the last second
  dipLimit : Bool
  thermal : Bool
  power : Bool
  stretched : Bool
  stackRate : BitVec 2                        -- 0b00 9.6, 0b01 8.0, 0b10 6.4 Gbit/s
  limit : PowerLimitP
  setpointMv : Nat
  reading : PmbusReading
  domainsOff : BitVec 80
  slewMhz : BitVec 12
  telemetryFault : Bool
  dipKilled : Tab Nat
  deriving DecidableEq, Repr

/-- What a message sent by the hub itself is: an export span, with its ring bytes, first seq and records, or a guest's SEND (R213, R285). -/
inductive HubUse where
  | span (p : PartId) (bytes : Nat) (first : BitVec 32) (records : Nat)
  | guest (tag : BitVec 16)
  | forgotten                                   -- a guest's SEND whose answer a GUEST_RESET discards (R289)
  deriving DecidableEq, Repr

/-- A message of which the hub is the sender, not yet finally answered. -/
structure HubSend where
  desc : Descriptor
  relay : Option (BitVec 32)                  -- its Relay number
  waiting : Bool                              -- in a back-off wait
  crcNacks : Nat
  use : HubUse
  deriving DecidableEq, Repr

/-- Identity and life cycle (chapter 17). -/
structure LifeCycle where
  state : BitVec 4
  returns : BitVec 8
  ownerKeys : BitVec 4
  ownerRevoked : BitVec 4
  ownerKey : Tab (BitVec 256)
  fwRevoked : BitVec 4
  rollback : Nat
  native : BitVec 8
  ceiling : BitVec 8
  presented : BitVec 8
  secret : Option (BitVec 256)
  certificate : List Byte
  measurements : Tab (BitVec 256)
  armed : Bool
  runningKey : BitVec 8
  recoveryBoot : Bool
  securityFault : Bool
  transition : Bool                           -- LC_TRANSITION is running
  image : Option Image
  deriving DecidableEq, Repr

/-- HUB_FAULT_STATUS and HUB_FAULT_LAST (Table 15.12). -/
structure FaultRegs where
  status : Word
  last : Word
  deriving DecidableEq, Repr

/-- What the device has sent: packets and lines that leave it, answers it returns, pins are held in `ResetState`. -/
inductive Output where
  | dData (tag : BitVec 16) (status : RespStatus) (data : List Byte)
  | snpInv (line : Addr)
  | csnpAck (line : BitVec 47)
  | ucRd (r : CompanionReq)
  | ucWr (stream : Nat) (addr : Addr) (data : List Byte)
  | coWr (tag : BitVec 16) (line : Addr) (data : List Byte)
  | guest (type : BitVec 8) (tag : BitVec 16) (status : BitVec 8) (data : List Byte)
  | guestCredit (hdrs beats : Nat)             -- CREDIT of Table 11.6
  | flit (l : LinkId) (bytes : List Byte)      -- 256 bytes (Table 10.2)
  | mgt (data : Option Word)
  | avs (mv : Nat)
  | refresh (stack : Nat)
  | refreshAll (stack : Nat)
  deriving DecidableEq, Repr

/-- The hub's package-wide counters. -/
structure HubCounters where
  relayDone : Word
  relayNoring : Word
  relayCancel : Word
  relayAbandon : Word
  admitPosted : Word
  admitStale : Word
  verSlotWait : Word
  verPinned : Word
  verAcctErr : Word
  riderLost : Word
  colInstDone : Word
  colInstFail : Word
  colPostErr : Word
  colEmpty : Word
  colTMismatch : Word
  colScalarDone : Word
  colPermuteMoves : Word
  exportRecords : Word
  exportDrop : Word
  noRoute : Word
  hopDrop : Word
  kindDrop : Word
  xingDiscard : Word
  wlErr : Word
  pathPerr : Word
  memRefused : Word
  memAll : Word                               -- bytes served and fabric bytes sent for all partitions (R361)
  linkAll : Word
  deriving DecidableEq, Repr

/-- One region: its bundles, spares, update unit, completion FIFO and counters. -/
structure RegionState where
  bundles : Tab BundleState
  spareUsed : BitVec 4                        -- spare positions 64 to 67 in service
  spareBad : BitVec 4                         -- spare positions marked unusable
  testing : Option (Nat × BlockId)            -- a spare under the start-up test and the block it will replace
  returning : Option (Nat × List (Nat × Bool)) -- QUAD_REPAIR's return: the quad and the outcomes so far, by position (R359)
  pairTest : Option (BlockId × List (Nat × Bool)) -- a pair under the start-up test, by its primary (R383)
  fencedQuads : BitVec 16
  fenced : Bool
  inReset : Bool
  upd : UpdateUnit
  fifo : List CplEntry
  normSums : Tab (BitVec 32)
  ctlResend : Word
  spareMoved : Word
  xingDiscard : Word
  fenceDesc : Word
  startupFail : Word
  memRefused : Word
  deriving DecidableEq, Repr

/-- A pending event (R369): what a unit reports, before the hub counts and places it. -/
structure EventReq where
  code : BitVec 16
  unit : BitVec 24
  level : BitVec 3
  partition : PartId
  detail : BitVec 88
  deriving DecidableEq, Repr

/-- The machine. -/
structure State where
  /-- commands that wait, first in first out | - | the block's model | empty -/
  pending : List Instr
  /-- stacked memory and scratchpads, by device address | 432 GiB + 272 x 3 MiB | 09_stacked_memory R222, R223 | zeros (R237, R396) -/
  mem : Memory
  /-- errors of bursts of stacked memory against the code words written, by address / 32; the check bits of an unlisted burst are those of its data | 2^34 / 32 x 272 | 09_stacked_memory R230 | none -/
  bursts : Tab BurstErr
  /-- blocks by region x 64 + logical block | 256 | 01_four_levels R14 | each at its reset -/
  blocks : Tab BlockState
  /-- regions | 4 | 01_four_levels R14 | each at its reset -/
  regions : Tab RegionState
  /-- partitions 0 to 31 | 32 | 14_partitions R349 | none exists (R333) -/
  parts : Tab Partition
  /-- Stage Table HUB_STAGE_0 to 63 | 64 x 512 | 06_stages_riders_versions R141 | 0 -/
  stages : Tab StageEntry
  /-- hold and release notices at the version engine | - | 06_stages_riders_versions R147, R148 | empty -/
  notices : List Notice
  /-- drains in progress | - | 06_stages_riders_versions R160 | empty -/
  drains : List VDrain
  /-- bound landing rings by queue address bits 15:1 | 512 | 05_queues R130 | none -/
  rings : Tab Ring
  /-- Relays at their sender | - | 05_queues R131 | none -/
  relays : List RelayTx
  /-- next Relay number | 32 | 05_queues R131 | 0 -/
  nextRelay : BitVec 32
  /-- messages of which the hub is the sender | - | 08_update_and_state R213; 11_dies_and_islands R285 | empty -/
  hubSends : List HubSend
  /-- send_seq of the hub's own messages | 16 | 05_queues R116; 11_dies_and_islands R285 | 0 -/
  hubSeq : BitVec 16
  /-- crossing FIFOs that are closed | - | 11_dies_and_islands R275 | empty (log 48) -/
  closed : List Crossing
  /-- LOSS_LIMIT in ms | 32 | 05_queues R125 | 200 -/
  lossLimitMs : BitVec 32
  /-- collective plan table | 1024 x 512 | 07_gradients_collectives R177, R179 | 0 -/
  plans : Tab PlanEntry
  /-- last posted step of each plan, plus one | 1024 x 33 | 07_gradients_collectives R181 | none -/
  lastSteps : Tab Nat
  /-- collective group table | 64 x 128 | 07_gradients_collectives R178 | 0 -/
  groups : Tab CollGroup
  /-- collective job settings | - | 07_gradients_collectives R195, R196 | none; COL_TIMEOUT 600000 ms -/
  jobs : Tab CollJob
  /-- plan posts on their way to the collective engine | - | 07_gradients_collectives R180 | empty -/
  posts : List Post
  /-- collective instances, queued and running | 256 running | 07_gradients_collectives R177, R181 | empty -/
  instances : List Instance
  /-- piece credits received and not used | - | 07_gradients_collectives R188 | empty -/
  pieceCredits : List PieceCredit
  /-- norm plans completed, by (job x 2^10 + plan) x 2^32 + step | - | 07_gradients_collectives R190 | none -/
  normDone : Tab Nat
  /-- scalar all-reduces in progress | - | 07_gradients_collectives R192 | empty -/
  scalars : List Scalar
  /-- permutation in progress | - | 07_gradients_collectives R194 | empty -/
  permutes : List Permute
  /-- memory-side operations handed to the stack controllers | - | 07 R174 to R176; 04_block R103 | empty -/
  msos : List MemSideOp
  /-- MEM_CLASS_MAP_0 to 6 | 432 | 09_stacked_memory R234 | 0 -/
  classMap : BitVec 432
  /-- stacks 0 to 11 | 12 | 09_stacked_memory R222, R233 to R238 | each at its reset -/
  stackCtl : Tab StackState
  /-- MEM_WIPE_STATUS.preserved | 1 | 09_stacked_memory R237 | 0 -/
  preserved : Bool
  /-- links: fabric ports 0 to 23, Sceolink 24 | 25 | 10_fabric_links R240; 12_sceolink R293 | each at its reset -/
  links : Tab LinkState
  /-- routing table | 65536 x 64 | 10_fabric_links R264 | 0 -/
  routes : Tab RouteEntry
  /-- LNK_ROUTE_CFG.hop_limit | 8 | 10_fabric_links Table 10.12 | 16 -/
  hopLimit : BitVec 8
  /-- LNK_ROUTE_CFG.id_valid | 1 | 10_fabric_links Table 10.12 | 0 -/
  idValid : Bool
  /-- LNK_ROUTE_CFG.device_id | 16 | 10_fabric_links Table 10.12 | 0 -/
  deviceId : BitVec 16
  /-- guest firewall and guest bundles | - | 11_dies_and_islands R282 to R291 | no guest; Tables 11.7 to 11.10 -/
  guest : GuestState
  /-- Sceolink session, lane maps, requests, directory, counters | - | 12_sceolink R292 to R317 | Tables 12.9 to 12.13 -/
  scl : SclState
  /-- device epoch FMP_EPOCH | 32 | 13_flapino R339, R345 | 1 -/
  epoch : Epoch
  /-- Flapino, drafts' cut, self-update | - | 13_flapino R332 to R348 | idle -/
  fl : Flapino
  /-- sequence table | 65536 x 256 | 14_partitions R365 | free -/
  seqs : Tab SeqEntry
  /-- events raised and not yet placed | - | 15_errors R369 to R373 | empty -/
  events : List EventReq
  /-- HUB_FAULT_STATUS, HUB_FAULT_LAST | 2 x 64 | 15_errors R391 | 0 -/
  faults : FaultRegs
  /-- reset cause, boot stage, strap, reset and fault pins | - | 16_reset_power_clocks R394 to R401 | power-on, in reset -/
  reset_ : ResetState
  /-- power, thermal, dips, clocks, domains | - | 16_reset_power_clocks R407 to R419 | Tables 16.8, 16.9 -/
  power : PowerState
  /-- life cycle, keys, measurements, profile | - | 17_lifecycle R420 to R431 | fuses: FIELD (log 2) -/
  lc : LifeCycle
  /-- package-wide hub counters | 26 x 64 | 05 R139, 06 R168, 07 R197, 08 R220, 10 R270, 11 R290, 14 R368, 15 R392 | 0 -/
  hub : HubCounters
  /-- region FIFO whose turn it is at the collector | 2 | 14_partitions R362 | 0 -/
  collectNext : RegionId
  /-- in transit inside the package | - | 01_four_levels R26 | empty -/
  inflight : List Transit
  /-- what the device has sent | - | the model's record of its outputs (log 6) | empty -/
  out : List Output
  /-- the model's counter of free values | - | the model's (log 4) | DESIGN CHOICE 0 -/
  freeCount : Nat
  deriving DecidableEq, Repr

/-! ## Reset -/

/-- Lane i on physical lane i (Table 12.11): sixteen 5-bit fields. -/
def identityMap : BitVec 80 := 0x7b9ac5a928398a418820#80

/-- Registers that hold no weights. -/
def WeightSet.empty : WeightSet := { owner := .empty, regs := [], scales := [] }

/-- A block at reset: Tables 2.4, 3.4, 3.6, 4.9, 4.12, 5.5; the program counter and the scalar registers have no stated value and read zero (log 2). It stays in reset until its island is released. -/
def BlockState.reset : BlockState :=
  { pc := 0, ghdrPc := 0, regs := [], core := .openState, parkCode := 0, groupTag := 0, lastStatus := 0, stall := .none, running := false,
    stopAtGhdr := false, recoverAt := none, cache := [], userBase := 0x0A0000, queueBytes := 0x020000, workSize := false, ppSel := 0, srSeed := 0x9E3779B97F4A7C15,
    laneSeed := 0x9E3779B97F4A7C15, lanes := [], checkMode := 0, pairRole := false, keeperDuty := 16, keeperState := .busy, keeperEn := true,
    arrayBusy := 0, shadowStall := 0, keeperFill := 0, rampHold := 0, commits := 0, kills := 0, rejects := 0, grpMeas := 0, grpEst := 0,
    grpCount := 0, rbMask := 0, rbBase := 0, jobVersion := 0, stallPolicy := 0, stallLimit := 20, qAccepted := 0, qNacked := 0, qDrop := 0,
    qVoided := 0, qStall := 0, qReleaseErr := 0, queues := [], landed := [], arrayQ := [], vectorQ := [], fetchQ := [], queueQ := [], vecData := [],
    fetchData := [], ldData := [], run := none, active := WeightSet.empty, shadow := WeightSet.empty, untaken := none, shadowNo := 0, group := none, reran := none, dipRerun := false,
    rerunHeld := false, report := false, sendBuf := [], sendSeq := 0, cpls := [], cplSeq := 0, epoch := 1, pEpoch := 1, locks := [], lastUcWr := none,
    ucWrNew := false, estimates := [], fenced := false, swapping := false, fenceDropped := 0, voidCopies := [], phys := none, inReset := true }

/-- A queue at reset: depth 16, empty (Table 5.10). -/
def QueueState.reset : QueueState :=
  { depth := 16, entries := [], reserved := 0, next := 0 }

/-- A Stage Table entry at reset (Table 6.1). -/
def StageEntry.reset : StageEntry :=
  { recoveryPc := 0, shardList := 0, shardCount := 0, nextMb := 0, nextStep := 0, jobVersion := 0, pred := 0, succ := 0, quadMask := 0,
    mbPerStep := 0, inflight := 0, budget := 0, bwdQ := 0, fwdQ := 0, pipeStage := 0, job := 0, staleS := 0, partition := 0, admitEn := false,
    last := false, first := false, valid := false, keptEpoch := 0, pinned := false }

/-- A group entry at reset (Table 7.4). -/
def CollGroup.reset : CollGroup :=
  { list := 0, count := 0, rank := 0, valid := false }

/-- A job's collective settings before COLL_JOB_SET: COL_TIMEOUT is 600,000 ms (R195). -/
def CollJob.reset : CollJob :=
  { group := 0, norm := 0, timeoutMs := 600000 }

/-- A plan entry at reset (Table 7.5). -/
def PlanEntry.reset : PlanEntry :=
  { amax := 0, dst := 0, src0 := 0, halfLen := 0, elements := 0, planId := 0, tOut := 0, stage := 0, group := 0, owner := ⟨0, 0⟩, ppIndex := 0,
    op := 0, alg := 0, roundSr := false, normEn := false, countEn := false, rbSrc := false, partition := 0, root := 0, ws := 0, valid := false }

/-- A task entry at reset (Table 8.1). -/
def TaskEntry.reset : TaskEntry :=
  { prog := 0, momB := 0, momA := 0, ventry := 0, scaleList := 0, scaleCount := 0, step0 := 0, gFirst := 0, plan := 0, stage := 0, param := 0,
    partition := 0, opt := 0, momFmt := false, countMode := false, clipEn := false, exportEn := false, progBlock := false, valid := false }

/-- A schedule segment at reset (Table 8.4). -/
def SchedSeg.reset : SchedSeg :=
  { lrEnd := 0, lrStart := 0, firstStep := 0, length := 0, kind := 0 }

/-- A region's update unit at reset (R219, R220). -/
def UpdateUnit.reset : UpdateUnit :=
  { tasks := [], params := [], scheds := [], queue := [], held := [], slotReady := none, slotWaited := [], lost := [], started := [], doneTasks := [],
    run := none, lastTask := 0, lastStep := 0, done := 0, skipped := 0, nonfinite := 0, dupRetry := 0, interrupted := 0, staleTask := 0,
    scaleErr := 0, exportWait := 0 }

/-- A stack at reset (R235 to R238). -/
def StackState.reset : StackState :=
  { temp := 0, doubleRefresh := false, throttled := false, selfRefresh := false, wipeDone := false, held := [], refreshes := 0, allBank := 0,
    refreshManagement := 0,
    classMap := 0, retryOk := 0, wCorr := 0, wUncorr := 0, aDrop := 0, atomicDrop := 0, scrubFix := 0, odecc := 0, caRetry := 0, hotThrottle := 0 }

/-- LNK_CFG at reset, with enable low until the strap is measured (Table 10.10, R401). -/
def LinkCfg.reset : LinkCfg :=
  { graceMs := 50, laneMask := 0xFF, laneErrLimit := 16, ackTimeoutUs := 4, autoExclude := true, enable := false }

/-- The counters of Table 10.13 at reset. -/
def LinkCounters.reset : LinkCounters :=
  { txFlits := 0, rxFlits := 0, crcDrop := 0, fecCorr := 0, fecUncorr := 0, dupDrop := 0, seqGap := 0, replay := 0, retrain := 0, hitch := 0,
    hitchResume := 0, flushFlits := 0, widthChange := 0, widthFail := 0 }

/-- A link at reset (Table 10.11, R260). -/
def LinkState.reset : LinkState :=
  { cfg := LinkCfg.reset, mode := .disabled, partnerDev := 0, partnerPort := 0, lanesActive := 0, txNext := 0, rxExpected := 0, accepted := false,
    rxLanes := 0, trainedLanes := 0, acked := 0, replayBuf := [], replaying := [], replayFrom := 0, replaysInRow := 0, unacked := 0, creditDue := false, replayReq := false, replayReqFor := none, linkDue := false, txBypass := [],
    txRequest := [], txResponse := [], sentPackets := [], sendingReq := 0, sendingRsp := 0, rspInRow := 0, sentByp := 0, sentReq := 0, sentRsp := 0,
    gotByp := 0, gotReq := 0, gotRsp := 0, freedByp := 0, freedReq := 0, freedRsp := 0, rxBypass := [], rxRequest := [], rxResponse := [],
    cutReq := none, cutRsp := none, heldPackets := [], fresh := true, quickRetrains := 0, quick := false, trained := false, resuming := false, graceOver := false, rxSwitch := none, txSwitch := none,
    exchange := none, wide := none, wanted := none, nextCmd := 0, excluded := 0, laneOver := [], counters := LinkCounters.reset }

/-- A routing entry at reset (Table 10.9). -/
def RouteEntry.reset : RouteEntry :=
  { alternate := 0, primary := 0, valid := false }

/-- A bundle end at reset: closed, every repl field 0x7F (Table 11.4). -/
def BundleState.reset : BundleState :=
  { repl := 0xFFFFFFFFFFFFFF#56, moved := false, mode := 0, perr := 0, ctlFails := [], degraded := false }

/-- HUB_FW_RATE at reset (Table 11.10). -/
def FwRate.reset : FwRate :=
  { descRate := 0, burstKib := 64, byteRate := 1 }

/-- The guest firewall at reset, on a part without a guest die (Tables 11.7 to 11.10, log 2). -/
def GuestState.reset : GuestState :=
  { present := false, enable := false, mode := 0, partition := 0, windows := [], queues := [], rate := FwRate.reset, byteBucket := 0, descBucket := 0,
    waiting := [], reads := [], responses := [], hdrCredits := 0, beatCredits := 0, refusedInWindow := false, fwRefused := 0, rateWait := 0, bundles := [] }

/-- Sceolink at reset, at the width of an open strap (Tables 12.9 to 12.13, log 2). -/
def SclState.reset : SclState :=
  { heartbeatMs := 0, sharedBase := 0, sharedEnable := false, mode := .none, number := 0, attachErr := false, heldByHeartbeat := false,
    detaching := false, widthTx := 16, widthRx := 16, sparesTx := 2, sparesRx := 2, mapTx := identityMap, mapRx := identityMap, failedTx := 0, remountTx := none,
    remountRx := none, nextTag := 0, reqs := [], waiting := [], directory := [], snoops := [], lineCache := [], remounts := 0, kindDrop := 0,
    cRefused := 0, fenceErr := 0, snoopCount := 0, ringReread := 0, ringStale := 0, flushFlits := 0, wrDrop := 0, lineInval := 0 }

/-- Flapino at reset: pair 0 active, the patrol interval 24 h (R233, R346). -/
def Flapino.reset : Flapino :=
  { current := none, bg := [], stalls := [], lastTurn := 0, cut := none, waitingCinch := [], activePair := false, standbyHealthy := true,
    imageVersion := 0, standbyVersion := 0, fw := .idle, lastUpdate := 0, margin := none, repair := none, exports := [], scrubHours := 24 }

/-- A ring's registers at reset (Table 13.9). -/
def RingRegs.reset : RingRegs :=
  { reg := 0, head := 0, tail := 0 }

/-- Report settings before REPORT_SET (R360). -/
def ReportP.reset : ReportP :=
  { intervalMs := 0, ring := 0, threshold := 0, estimates := [] }

/-- A free sequence entry (R365). -/
def SeqEntry.reset : SeqEntry :=
  { kvList := 0, kvPages := 0, position := 0, remaining := 0, arrival := 0, user := 0, ready := 0, priority := 0, mode := 0, removed := false }

/-- A partition's state when it does not exist: p_epoch 1 (Table 13.8), coalescing wait 1,400 cycles (R362). -/
def Partition.reset : Partition :=
  { mode := 0, quads := 0, stacked := [], companion := [], checkMode := 0, seqBase := 0, seqCount := 0, coalesce := 1400, epoch := 1,
    headErr := false, park := 0, rereads := 0, cmdRing := RingRegs.reset, cplRing := RingRegs.reset, evtRing := RingRegs.reset, draft := [],
    pendingCpl := [], records := [], held := false, cplHold := 0, errs := [], errNo := 0, grey := 0, amber := 0, umber := 0, crimson := 0,
    masked := 0, merged := 0, mask := [], report := ReportP.reset, reportSeq := 0, lastReport := [], sampledMeas := 0, sampledEst := 0,
    sampledGroups := 0, batch := none, wlStarted := false, wlDeadline := false, lists := [], listNo := 0, arrivals := 0, exportRing := none,
    marks := [], mbox := [], drainTimeout := false, memBytes := 0, linkBytes := 0, memSampled := 0, linkSampled := 0, memAllSampled := 0,
    linkAllSampled := 0 }

/-- PWR_LIMIT at reset (Table 16.9). -/
def PowerLimitP.reset : PowerLimitP :=
  { wdtMs := 2000, wdtReset := true, memFloor := 0b10, sustainedW := 2800 }

/-- Power and thermal state at reset (Table 16.8). -/
def PowerState.reset : PowerState :=
  { dieTemp := 0, blockMhz := 1100, power1ms := 0, power1s := 0, ticks := 0, dipTimes := [], dipLimit := false, thermal := false, power := false,
    stretched := false, stackRate := 0, limit := PowerLimitP.reset, setpointMv := 0, reading := [], domainsOff := 0, slewMhz := 1100,
    telemetryFault := false, dipKilled := [] }

/-- PWR_RESET_CAUSE, boot stage, strap and pins when PORST_N is low after power-on (Tables 16.2 and 16.4). -/
def ResetState.reset : ResetState :=
  { bootCount := 1, kind := .powerOn, sources := 1, active := true, bootStage := 0, strapValid := false, strap := 0, tripped := false,
    faultN := false, rstoutN := false, pendingReset := none, bootImage := 0, regionBooting := [], released := [] }

/-- Fuses of a part in FIELD without enrolled owner keys, native profile 0x01 (Table 17.11; the choice of fuses is log 2). -/
def LifeCycle.reset : LifeCycle :=
  { state := 2, returns := 0, ownerKeys := 0, ownerRevoked := 0, ownerKey := [], fwRevoked := 0, rollback := 0, native := 1, ceiling := 0,
    presented := 1, secret := none, certificate := [], measurements := [], armed := false, runningKey := 0, recoveryBoot := false,
    securityFault := false, transition := false, image := none }

/-- HUB_FAULT_STATUS and HUB_FAULT_LAST at reset (R391). -/
def FaultRegs.reset : FaultRegs :=
  { status := 0, last := 0 }

/-- The hub's counters at reset. -/
def HubCounters.reset : HubCounters :=
  { relayDone := 0, relayNoring := 0, relayCancel := 0, relayAbandon := 0, admitPosted := 0, admitStale := 0, verSlotWait := 0, verPinned := 0,
    verAcctErr := 0, riderLost := 0, colInstDone := 0, colInstFail := 0, colPostErr := 0, colEmpty := 0, colTMismatch := 0, colScalarDone := 0,
    colPermuteMoves := 0, exportRecords := 0, exportDrop := 0, noRoute := 0, hopDrop := 0, kindDrop := 0, xingDiscard := 0, wlErr := 0, pathPerr := 0,
    memRefused := 0, memAll := 0, linkAll := 0 }

/-- A region at reset. -/
def RegionState.reset : RegionState :=
  { bundles := [], spareUsed := 0, spareBad := 0, testing := none, returning := none, pairTest := none, fencedQuads := 0, fenced := false,
    inReset := true, upd := UpdateUnit.reset, fifo := [], normSums := [], ctlResend := 0, spareMoved := 0, xingDiscard := 0, fenceDesc := 0,
    startupFail := 0, memRefused := 0 }

/-- The machine right after a power-on reset: every island in reset, PORST_N still low, every register and memory at its reset value, no command waiting. -/
def State.reset : State :=
  { pending := [], mem := [], bursts := [], blocks := [], regions := [], parts := [], stages := [], notices := [], drains := [], rings := [], relays := [],
    nextRelay := 0, hubSends := [], hubSeq := 0, closed := [], lossLimitMs := 200, plans := [], lastSteps := [], groups := [], jobs := [],
    posts := [], instances := [], pieceCredits := [], normDone := [], scalars := [], permutes := [], msos := [], classMap := 0, stackCtl := [], preserved := false,
    links := [], routes := [], hopLimit := 16, idValid := false, deviceId := 0, guest := GuestState.reset, scl := SclState.reset, epoch := 1,
    fl := Flapino.reset, seqs := [], events := [], faults := FaultRegs.reset, reset_ := ResetState.reset, power := PowerState.reset,
    lc := LifeCycle.reset, hub := HubCounters.reset, collectNext := 0, inflight := [], out := [], freeCount := 0 }

end Sys2Proof.Machine
end

