-- ==== Sys2Proof/Machine/Formats.lean ====
section
/-! DEFINITION. Number formats: exact dyadic values, the element layouts of Tables 2.1 and 2.2, rounding (R42, R43), conversion (R40, R41, R44), the rounding generator (R45), A32 accumulation (R60), segment sums (R57) and FP32 arithmetic (R31, R32, R449). -/

namespace Sys2Proof.Machine

/-! ## Exact values -/

/-- An exact value (−1)^neg × m × 2^e; m = 0 is a signed zero. -/
structure Dy where
  neg : Bool
  m : Nat
  e : Int
  deriving DecidableEq, Repr

/-- A value as a format reads it (R30, R32). -/
inductive Val where
  | nan
  | inf (neg : Bool)
  | fin (d : Dy)
  deriving DecidableEq, Repr

/-- Bits needed to write n; zero needs none. -/
def bitLen (n : Nat) : Nat := if n = 0 then 0 else n.log2 + 1

/-- A signed zero. -/
def Dy.zero (neg : Bool) : Dy := ⟨neg, 0, 0⟩

/-- Exponent of the leading bit of a nonzero value. -/
def Dy.top (d : Dy) : Int := d.e + (bitLen d.m : Int) - 1

/-- A value times 2^t. -/
def Dy.scale (d : Dy) (t : Int) : Dy := { d with e := d.e + t }

/-- Sign and magnitude of an integer in units of 2^e; `z` is the sign of a zero. -/
def Dy.ofInt (i e : Int) (z : Bool) : Dy :=
  if i = 0 then ⟨z, 0, 0⟩ else ⟨decide (i < 0), i.natAbs, e⟩

/-- The signed integer mantissa in units of 2^lo, for lo not above the value's own unit. -/
def Dy.units (d : Dy) (lo : Int) : Int :=
  let k : Int := ((d.m <<< (d.e - lo).toNat : Nat) : Int)
  if d.neg then -k else k

/-- Exact sum; an exact zero is −0 only when both addends are negative zeros. -/
def Dy.add (a b : Dy) : Dy :=
  if a.m = 0 then (if b.m = 0 then Dy.zero (a.neg && b.neg) else b)
  else if b.m = 0 then a
  else
    let lo := min a.e b.e
    Dy.ofInt (a.units lo + b.units lo) lo false

/-- Exact product. -/
def Dy.mul (a b : Dy) : Dy := ⟨a.neg != b.neg, a.m * b.m, a.e + b.e⟩

/-- Exact comparison a < b; the zeros are equal. -/
def Dy.lt (a b : Dy) : Bool :=
  if a.m = 0 && b.m = 0 then false
  else
    let lo := min a.e b.e
    let z (d : Dy) : Int := if d.m = 0 then 0 else d.units lo
    decide (z a < z b)

/-! ## Rounding -/

/-- A rounding mode with its draw (R42, R43). -/
inductive Rounding where
  | nearest
  | stochastic (draw : Nat)
  deriving DecidableEq, Repr

/-- m × 2^e as a count of units 2^lsb, rounded under R42 or R43. -/
def roundUnits (m : Nat) (e lsb : Int) (r : Rounding) : Nat :=
  if lsb ≤ e then m <<< (e - lsb).toNat
  else
    let sh := (lsb - e).toNat
    let q := m >>> sh
    let rest := m % 2 ^ sh
    match r with
    | .nearest =>
      if 2 * rest > 2 ^ sh ∨ (2 * rest = 2 ^ sh ∧ q % 2 = 1) then q + 1 else q
    | .stochastic d =>
      let dd := if 16 ≤ sh then rest >>> (sh - 16) else rest <<< (16 - sh)
      if 65536 ≤ dd + d then q + 1 else q

/-! ## Floating-point layouts (Table 2.2) -/

/-- A floating-point element layout. -/
structure FpFmt where
  eb : Nat            -- exponent bits
  mb : Nat            -- mantissa bits
  bias : Nat
  maxCode : Nat       -- the largest finite magnitude
  hasInf : Bool
  half : Bool         -- keeps the encoding of 0.5 (E2M1, R31)
  deriving DecidableEq, Repr

def fmtE4M3 : FpFmt := ⟨4, 3, 7, 0x7E, false, false⟩
def fmtE5M2 : FpFmt := ⟨5, 2, 15, 0x7B, true, false⟩
def fmtE3M2 : FpFmt := ⟨3, 2, 3, 0x1F, false, false⟩
def fmtE2M3 : FpFmt := ⟨2, 3, 1, 0x1F, false, false⟩
def fmtE2M1 : FpFmt := ⟨2, 1, 1, 0x7, false, true⟩
def fmtBF16 : FpFmt := ⟨8, 7, 127, 0x7F7F, true, false⟩
def fmtFP16 : FpFmt := ⟨5, 10, 15, 0x7BFF, true, false⟩
def fmtFP32 : FpFmt := ⟨8, 23, 127, 0x7F7FFFFF, true, false⟩

/-- Width of a layout with its sign. -/
def FpFmt.width (f : FpFmt) : Nat := 1 + f.eb + f.mb

/-- The sign bit placed above a magnitude. -/
def FpFmt.signed (f : FpFmt) (neg : Bool) (mag : Nat) : Nat := if neg then mag + 2 ^ (f.eb + f.mb) else mag

/-- Reads an element: subnormal encodings are zero with their sign, but for E2M1's 0.5 (R30, R31, R32). -/
def FpFmt.read (f : FpFmt) (bits : Nat) : Val :=
  let neg := bits / 2 ^ (f.eb + f.mb) % 2 = 1
  let mag := bits % 2 ^ (f.eb + f.mb)
  let ex := mag / 2 ^ f.mb
  let man := mag % 2 ^ f.mb
  if mag > f.maxCode then (if f.hasInf ∧ mag = f.maxCode + 1 then .inf neg else .nan)
  else if ex = 0 then
    (if man = 0 then .fin (Dy.zero neg)
     else if f.half then .fin ⟨neg, man, 1 - (f.bias : Int) - f.mb⟩
     else .fin (Dy.zero neg))
  else .fin ⟨neg, 2 ^ f.mb + man, (ex : Int) - f.bias - f.mb⟩

/-- Magnitude code of m × 2^e rounded to the layout with the exponent range unbounded above (R40 step 3), flushed below the smallest normal (step 5); a code above `maxCode` is an overflow. -/
def FpFmt.roundMag (f : FpFmt) (m : Nat) (e : Int) (r : Rounding) : Nat :=
  if m = 0 then 0
  else
    let top := e + (bitLen m : Int) - 1
    let lsb0 := top - f.mb
    let lsb := if f.half then max lsb0 (1 - (f.bias : Int) - f.mb) else lsb0
    let q := roundUnits m e lsb r
    if q = 0 then 0
    else
      let top' := lsb + (bitLen q : Int) - 1
      let field := top' + f.bias
      if field ≤ 0 then (if f.half then q else 0)
      else (field.toNat <<< f.mb) + (roundUnits q lsb (top' - f.mb) .nearest - 2 ^ f.mb)

/-- Steps 3 to 5 of R40 for a floating-point destination: the element and whether it saturated. -/
def FpFmt.write (f : FpFmt) (d : Dy) (r : Rounding) : Nat × Bool :=
  let c := f.roundMag d.m d.e r
  if c > f.maxCode then (f.signed d.neg f.maxCode, true) else (f.signed d.neg c, false)

/-- The largest finite value of a layout. -/
def FpFmt.maxVal (f : FpFmt) (neg : Bool) : Dy :=
  match f.read f.maxCode with
  | .fin d => { d with neg := neg }
  | _ => Dy.zero neg

/-! ## Format codes (Table 2.1) -/

/-- Element bits of a format code; 0 for the code that is not used. -/
def fmtBits (c : BitVec 4) : Nat :=
  match c.toNat with
  | 0x0 | 0x1 | 0xE => 32
  | 0x2 | 0x3 | 0xC => 16
  | 0x4 | 0x5 | 0x6 | 0x7 | 0xB => 8
  | 0x8 | 0x9 => 6
  | 0xA | 0xD => 4
  | _ => 0

/-- Elements per block scale: 32 for MX, 256 for G16, 0 without a block scale. -/
def fmtBlock (c : BitVec 4) : Nat :=
  match c.toNat with
  | 0x6 | 0x7 | 0x8 | 0x9 | 0xA => 32
  | 0xC => 256
  | _ => 0

/-- The floating-point layout of a format's elements; none for the integer formats. -/
def fmtFp (c : BitVec 4) : Option FpFmt :=
  match c.toNat with
  | 0x0 | 0x1 => some fmtFP32
  | 0x2 => some fmtBF16
  | 0x3 | 0xC => some fmtFP16
  | 0x4 | 0x6 => some fmtE4M3
  | 0x5 | 0x7 => some fmtE5M2
  | 0x8 => some fmtE3M2
  | 0x9 => some fmtE2M3
  | 0xA | 0xD => some fmtE2M1
  | _ => none

def isMx (c : BitVec 4) : Bool := fmtBlock c == 32
def isG16 (c : BitVec 4) : Bool := c == 0xC#4
def isFp32 (c : BitVec 4) : Bool := c == 0x0#4
def isA32 (c : BitVec 4) : Bool := c == 0x1#4

/-- Array operand formats (Table 2.1). -/
def isArrayOperand (c : BitVec 4) : Bool := [2, 3, 4, 5, 6, 7, 8, 9, 0xA, 0xB, 0xD].contains c.toNat
/-- Array output destinations (Table 2.1). -/
def isArrayDest (c : BitVec 4) : Bool := c.toNat ≤ 0xD
/-- Formats of the vector unit (Table 2.1). -/
def isVectorFmt (c : BitVec 4) : Bool := c.toNat ≤ 0xE

/-- m of R44 step 3. -/
def scaleM (c : BitVec 4) : Int :=
  match c.toNat with
  | 0x6 => 8
  | 0x7 => 15
  | 0x8 => 4
  | 0x9 => 2
  | 0xA => 2
  | _ => 15

/-- A two's complement integer of n bits. -/
def sextNat (n v : Nat) : Int := if v % 2 ^ n < 2 ^ (n - 1) then (v % 2 ^ n : Int) else (v % 2 ^ n : Int) - 2 ^ n

/-- Reads an element without its block scale. An A32 word with exponent 0xFF reads as R32 states for partial sums (log 30). -/
def readElem (c : BitVec 4) (bits : Nat) : Val :=
  match fmtFp c with
  | some f =>
    match f.read bits, isA32 c with
    | .inf n, true => .fin (f.maxVal n)
    | .nan, true => .fin (Dy.zero false)
    | v, _ => v
  | none => .fin (Dy.ofInt (sextNat (fmtBits c) bits) 0 false)

/-- An E8M0 scale: none for NaN (R34). -/
def readScale (b : Byte) : Option Int := if b = 0xFF#8 then none else some ((b.toNat : Int) - 127)

/-- A tensor scale exponent as a command carries it: 0x80 is not valid (R36). -/
def tValid (t : BitVec 8) : Bool := t != 0x80#8
/-- A tensor scale exponent read from memory: 0x80 is taken as −127 (R36). -/
def tMem (t : BitVec 8) : Int := if t = 0x80#8 then -127 else t.toInt

/-! ## FP32 words -/

/-- An FP32 word as a value. -/
def f32 (w : BitVec 32) : Val := fmtFP32.read w.toNat
/-- +0. -/
def f32Zero : BitVec 32 := 0
/-- An infinity. -/
def f32Inf (neg : Bool) : BitVec 32 := if neg then 0xFF800000#32 else 0x7F800000#32
def f32IsNan (w : BitVec 32) : Bool := match f32 w with | .nan => true | _ => false
/-- A NaN result: which NaN pattern is written is left open (log 31). -/
def f32Nan (a b : BitVec 32) : BitVec 32 :=
  let w := Config.nanBits a b
  if f32IsNan w then w else 0x7FC00000#32
/-- An exact value rounded to nearest even in FP32 with infinities and flush (R32). -/
def f32Round (d : Dy) : BitVec 32 :=
  let c := fmtFP32.roundMag d.m d.e .nearest
  if c > fmtFP32.maxCode then f32Inf d.neg else BitVec.ofNat 32 (fmtFP32.signed d.neg c)
/-- The same, saturating at the largest finite value; and whether it saturated. -/
def f32Sat (d : Dy) : BitVec 32 × Bool :=
  let c := fmtFP32.write d .nearest
  (BitVec.ofNat 32 c.1, c.2)
/-- An FP32 word with its subnormal flushed (R31). -/
def f32Flush (w : BitVec 32) : BitVec 32 :=
  if w.extractLsb' 23 8 = 0#8 then w &&& 0x80000000#32 else w
/-- A result with its invalid flag. -/
abbrev FRes := BitVec 32 × Bool

/-- The FP32 sum of two values (R32): invalid for infinities of opposite sign; `nan` is the NaN written. -/
def valAdd (nan : BitVec 32) (a b : Val) : FRes :=
  match a, b with
  | .nan, _ => (nan, false)
  | _, .nan => (nan, false)
  | .inf m, .inf n => if m = n then (f32Inf m, false) else (nan, true)
  | .inf m, .fin _ => (f32Inf m, false)
  | .fin _, .inf n => (f32Inf n, false)
  | .fin x, .fin y => (f32Round (x.add y), false)
/-- a + b in FP32. -/
def f32Add (a b : BitVec 32) : FRes := valAdd (f32Nan a b) (f32 a) (f32 b)

/-- −x of a value. -/
def valNeg (v : Val) : Val :=
  match v with
  | .nan => .nan
  | .inf n => .inf !n
  | .fin d => .fin { d with neg := !d.neg }
/-- −a: the sign bit inverted. -/
def f32Neg (a : BitVec 32) : BitVec 32 := a ^^^ 0x80000000#32
/-- |a|. -/
def f32Abs (a : BitVec 32) : BitVec 32 := a &&& 0x7FFFFFFF#32
/-- a − b in FP32. -/
def f32Sub (a b : BitVec 32) : FRes := f32Add a (f32Neg b)

/-- The FP32 product of two values: invalid for zero times infinity. -/
def valMul (nan : BitVec 32) (a b : Val) : FRes :=
  match a, b with
  | .nan, _ => (nan, false)
  | _, .nan => (nan, false)
  | .inf m, .inf n => (f32Inf (m != n), false)
  | .inf m, .fin y => if y.m = 0 then (nan, true) else (f32Inf (m != y.neg), false)
  | .fin x, .inf n => if x.m = 0 then (nan, true) else (f32Inf (x.neg != n), false)
  | .fin x, .fin y => (f32Round (x.mul y), false)
/-- a × b in FP32. -/
def f32Mul (a b : BitVec 32) : FRes := valMul (f32Nan a b) (f32 a) (f32 b)

/-- The FP32 value of x × y + z with one rounding (Table 4.10); the NaN written comes from x and y, or from x and z. -/
def valFma (nab nac : BitVec 32) (a b c : Val) : FRes :=
  match a, b, c with
  | .nan, _, _ => (nab, false)
  | _, .nan, _ => (nab, false)
  | _, _, .nan => (nac, false)
  | .fin x, .fin y, .fin z => (f32Round ((x.mul y).add z), false)
  | .fin _, .fin _, .inf n => (f32Inf n, false)
  | _, _, _ => let p := valMul nab a b
               if p.2 then p else valAdd nac (f32 p.1) c
/-- a × b + c in FP32 with one rounding. -/
def f32Fma (a b c : BitVec 32) : FRes := valFma (f32Nan a b) (f32Nan a c) (f32 a) (f32 b) (f32 c)

/-- Order of two values with −0 below +0; NaN is not ordered (R449). -/
def valLess (a b : Val) : Bool :=
  match a, b with
  | .nan, _ => false
  | _, .nan => false
  | .inf m, .inf n => m && !n
  | .inf m, .fin _ => m
  | .fin _, .inf n => !n
  | .fin x, .fin y => if x.m = 0 && y.m = 0 then x.neg && !y.neg else x.lt y
/-- Order of two FP32 words. -/
def f32Less (a b : BitVec 32) : Bool := valLess (f32 a) (f32 b)

/-- MAX (R449). -/
def f32Max (a b : BitVec 32) : BitVec 32 :=
  if f32IsNan a then (if f32IsNan b then f32Nan a b else b)
  else if f32IsNan b then a else if f32Less a b then b else a
/-- MIN (R449). -/
def f32Min (a b : BitVec 32) : BitVec 32 :=
  if f32IsNan a then (if f32IsNan b then f32Nan a b else b)
  else if f32IsNan b then a else if f32Less b a then b else a
/-- IEEE equality: −0 equals +0, NaN equals nothing. -/
def valEq (a b : Val) : Bool :=
  match a, b with
  | .fin x, .fin y => !(x.lt y) && !(y.lt x)
  | .inf m, .inf n => m == n
  | _, _ => false
/-- IEEE equality of two words. -/
def f32Eq (a b : BitVec 32) : Bool := valEq (f32 a) (f32 b)
/-- IEEE less than. -/
def valLt (a b : Val) : Bool := valLess a b && !valEq a b
/-- IEEE less than of two words. -/
def f32Lt (a b : BitVec 32) : Bool := valLt (f32 a) (f32 b)
/-- 1.0. -/
def f32One : BitVec 32 := 0x3F800000#32
/-- 1.0 or 0.0. -/
def f32Bool (b : Bool) : BitVec 32 := if b then f32One else f32Zero
/-- a × 2^t in one FP32 operation (R40). -/
def f32Scale (a : BitVec 32) (t : Int) : BitVec 32 :=
  match f32 a with
  | .fin d => f32Round (d.scale t)
  | _ => a

/-- The floor of log₂ of a positive FP32 word; 0 otherwise. -/
def f32FloorLog2 (a : BitVec 32) : Int :=
  match f32 a with
  | .fin d => if d.m = 0 then 0 else d.top
  | _ => 0

/-- The correctly rounded quotient of two finite nonzero values: 64 quotient bits and a sticky bit. -/
def dyDiv (a b : Dy) : Dy :=
  let sh := 64 + bitLen b.m
  let n := a.m <<< sh
  ⟨a.neg != b.neg, 2 * (n / b.m) + (if n % b.m = 0 then 0 else 1), a.e - b.e - (sh : Int) - 1⟩

/-- The square root of a positive value, with 60 more bits and a sticky bit. -/
def dySqrt (a : Dy) : Dy :=
  let sh := 120 + (if (a.e % 2 = 0) then 0 else 1)
  let n := a.m <<< sh
  let r := n.sqrt
  ⟨false, 2 * r + (if r * r = n then 0 else 1), (a.e - (sh : Int)) / 2 - 1⟩

/-- 1 / √a of a positive value: its floor at 80 more bits, with a sticky bit. -/
def dyRsqrt (a : Dy) : Dy :=
  let odd := decide (a.e % 2 ≠ 0)
  let m := if odd then 2 * a.m else a.m
  let e := if odd then a.e - 1 else a.e
  let k := 80 + bitLen m
  let q := (2 ^ (2 * k) / m).sqrt
  ⟨false, 2 * q + (if q * q * m = 2 ^ (2 * k) then 0 else 1), -(e / 2) - (k : Int) - 1⟩

/-- a / b in FP32, correctly rounded. -/
def f32Div (a b : BitVec 32) : FRes :=
  match f32 a, f32 b with
  | .nan, _ => (f32Nan a b, false)
  | _, .nan => (f32Nan a b, false)
  | .inf _, .inf _ => (f32Nan a b, true)
  | .inf m, .fin y => (f32Inf (m != y.neg), false)
  | .fin x, .inf n => (BitVec.ofNat 32 (fmtFP32.signed (x.neg != n) 0), false)
  | .fin x, .fin y =>
    if y.m = 0 then (if x.m = 0 then (f32Nan a b, true) else (f32Inf (x.neg != y.neg), false))
    else if x.m = 0 then (BitVec.ofNat 32 (fmtFP32.signed (x.neg != y.neg) 0), false)
    else (f32Round (dyDiv x y), false)
/-- √a in FP32, correctly rounded. -/
def f32Sqrt (a : BitVec 32) : FRes :=
  match f32 a with
  | .nan => (f32Nan a 0, false)
  | .inf n => if n then (f32Nan a 0, true) else (f32Inf false, false)
  | .fin d => if d.m = 0 then (f32Flush a, false) else if d.neg then (f32Nan a 0, true) else (f32Round (dySqrt d), false)
/-- 1 / √a in FP32, correctly rounded. -/
def f32Rsqrt (a : BitVec 32) : FRes :=
  match f32 a with
  | .nan => (f32Nan a 0, false)
  | .inf n => if n then (f32Nan a 0, true) else (f32Zero, false)
  | .fin d => if d.m = 0 then (f32Inf d.neg, false) else if d.neg then (f32Nan a 0, true) else (f32Round (dyRsqrt d), false)
/-- A whole number in FP32. -/
def f32OfNat (n : Nat) : BitVec 32 := f32Round ⟨false, n, 0⟩
/-- Finite: neither an infinity nor a NaN. -/
def f32Finite (a : BitVec 32) : Bool := match f32 a with | .fin _ => true | _ => false

/-! ## Conversion -/

/-- The outcome of converting one tensor piece. -/
structure Conv where
  codes : List Nat
  scales : List Byte
  saturated : Bool
  invalid : Bool
  amax : BitVec 32
  deriving DecidableEq, Repr

/-- The binary32 pattern of a magnitude, as an amax word takes it (R47); one that binary32 does not hold is rounded to nearest even, saturated or flushed (DESIGN CHOICE, log 98). -/
def amaxOf (d : Dy) : BitVec 32 := (f32Sat { d with neg := false }).1
/-- The larger of two amax patterns. -/
def amaxMax (a b : BitVec 32) : BitVec 32 := if a.toNat < b.toNat then b else a

/-- An integer destination's limits. -/
def intLimits (bits : Nat) (neg : Bool) : Int := if neg then -(2 ^ (bits - 1)) else 2 ^ (bits - 1) - 1

/-- Steps 3 to 5 of R40 for one element of a destination, after scaling: the code and whether it saturated. -/
def writeElem (c : BitVec 4) (d : Dy) (r : Rounding) : Nat × Bool :=
  match fmtFp c with
  | some f => f.write d r
  | none =>
    let n := fmtBits c
    let q : Int := roundUnits d.m d.e 0 r
    let v := if d.neg then -q else q
    if v < intLimits n true then ((intLimits n true + 2 ^ n).toNat, true)
    else if v > intLimits n false then ((intLimits n false).toNat, true)
    else ((v % 2 ^ n).toNat, false)

/-- The code of a format's largest finite value with a sign (Table 2.3). -/
def maxCodeOf (c : BitVec 4) (neg : Bool) : Nat :=
  match fmtFp c with
  | some f => f.signed neg f.maxCode
  | none => ((intLimits (fmtBits c) neg) % 2 ^ fmtBits c).toNat

/-- One element by R40 with an exponent s added for the scales (t, less the block scale); `inBlock` suppresses the saturated flag (R44 step 6). Returns the code, saturated, invalid and amax. -/
def convElem (c : BitVec 4) (s : Int) (inBlock : Bool) (x : Val) (r : Rounding) : Nat × Bool × Bool × BitVec 32 :=
  match x with
  | .nan => (0, false, true, 0)
  | .inf n => (maxCodeOf c n, false, true, 0)
  | .fin d =>
    let w := writeElem c (d.scale s) r
    (w.1, w.2 && !inBlock, false, amaxOf d)

/-- The magnitude a value brings to the block scale of R44 step 1; an infinity counts as the largest finite FP32 value with no 2^t applied to it (DESIGN CHOICE, log 97). -/
def blockMag (t : Int) : Val → Dy
  | .nan => Dy.zero false
  | .inf _ => fmtFP32.maxVal false
  | .fin d => { d.scale t with neg := false }

/-- The largest of some magnitudes. -/
def dyMax (ds : List Dy) : Dy := ds.foldl (fun a d => if a.lt d then d else a) (Dy.zero false)

/-- One block of an MX or G16 destination (R44); in a block of zeros each zero keeps its sign (log 92). -/
def convBlock (c : BitVec 4) (t : Int) (xs : List (Val × Rounding)) : Conv :=
  let a := dyMax (xs.map fun x => blockMag t x.1)
  if a.m = 0 then
    { codes := xs.map fun x => (match x.1 with | .fin d => (writeElem c (Dy.zero d.neg) .nearest).1 | _ => 0)
      scales := [0x7F#8], saturated := false
      invalid := xs.any fun x => match x.1 with | .fin _ => false | _ => true
      amax := 0 }
  else
    let e0 := a.top - scaleM c
    let e := if e0 > 127 then 127 else if e0 < -127 then -127 else e0
    let rs := xs.map fun x => convElem c (t - e) true x.1 x.2
    { codes := rs.map (·.1), scales := [BitVec.ofInt 8 (e + 127)], saturated := decide (e0 > 127),
      invalid := rs.any (·.2.2.1), amax := rs.foldl (fun m x => amaxMax m x.2.2.2) 0 }

/-- Joins two pieces of one tensor. -/
def Conv.append (a b : Conv) : Conv :=
  { codes := a.codes ++ b.codes, scales := a.scales ++ b.scales, saturated := a.saturated || b.saturated,
    invalid := a.invalid || b.invalid, amax := amaxMax a.amax b.amax }
/-- Nothing converted. -/
def Conv.nil : Conv := { codes := [], scales := [], saturated := false, invalid := false, amax := 0 }

/-- A list cut into pieces of n, the last possibly shorter; `fuel` bounds the number of pieces. -/
def chunksAux {α : Type} (n : Nat) : Nat → List α → List (List α)
  | 0, _ => []
  | _, [] => []
  | fuel + 1, xs => xs.take n :: chunksAux n fuel (xs.drop n)
/-- A list cut into pieces of n. -/
def chunks {α : Type} (n : Nat) (xs : List α) : List (List α) := chunksAux n xs.length xs

/-- A conversion into format c with tensor scale exponent t (R40, R44). -/
def convert (c : BitVec 4) (t : Int) (xs : List (Val × Rounding)) : Conv :=
  if fmtBlock c = 0 then
    let rs := xs.map fun x => convElem c t false x.1 x.2
    { codes := rs.map (·.1), scales := [], saturated := rs.any (·.2.1), invalid := rs.any (·.2.2.1),
      amax := rs.foldl (fun m x => amaxMax m x.2.2.2) 0 }
  else (chunks (fmtBlock c) xs).foldl (fun a b => a.append (convBlock c t b)) Conv.nil

/-! ## Rounding generator (R45) -/

/-- The reset seed. -/
def defaultSeed : Word := 0x9E3779B97F4A7C15#64
/-- The state a lane is seeded with. -/
def seedLane (seed : Word) (lane : Nat) : Word :=
  let s := if seed = 0#64 then defaultSeed else seed
  let g := s ^^^ (BitVec.ofNat 64 (lane + 1) * 0xD1B54A32D192ED03#64)
  if g = 0#64 then s else g
/-- One step of a lane. -/
def laneStep (x0 : Word) : Word :=
  let x1 := x0 ^^^ (x0 <<< 13)
  let x2 := x1 ^^^ (x1 >>> 7)
  x2 ^^^ (x2 <<< 17)
/-- The 16 bits a lane gives after its step. -/
def laneBits (x : Word) : Nat := (x.extractLsb' 48 16).toNat

/-! ## The cell array's arithmetic -/

/-- The signed integer value of one product in units of 2^(E − 46), floored (R57). -/
def productUnits (ee : Int) (p : Dy) : Int :=
  let sh := p.e - (ee - 46)
  let m : Int := if p.neg then -(p.m : Int) else p.m
  if 0 ≤ sh then m * 2 ^ sh.toNat else m >>> (-sh).toNat

/-- E of a segment: the largest of the products' exponents, each the sum of the two elements' own exponents (R56); none when every product is zero. -/
def segExp (ps : List (Dy × Dy)) : Option Int :=
  ps.foldl (fun a p =>
    if p.1.m = 0 ∨ p.2.m = 0 then a
    else
      let e := p.1.top + p.2.top
      match a with
      | none => some e
      | some b => some (max b e)) none

/-- A segment's sum with its exponent (R56, R57); E is 14 for INT8. -/
def segSum (int8 : Bool) (ps : List (Dy × Dy)) : Int × Int :=
  match (if int8 then some 14 else segExp ps) with
  | none => (0, 0)
  | some e => (ps.foldl (fun s p => if p.1.m = 0 ∨ p.2.m = 0 then s else s + productUnits e (p.1.mul p.2)) 0, e)

/-- An A32 partial sum read back (R32); the flag is invalid. -/
def a32Read (w : BitVec 32) : Dy × Bool :=
  match f32 w with
  | .fin d => (d, false)
  | .inf n => (fmtFP32.maxVal n, true)
  | .nan => (Dy.zero false, true)

/-- One addition into the accumulator (R60): the new A32 word and whether it saturated. -/
def a32Add (acc : BitVec 32) (s e : Int) : BitVec 32 × Bool :=
  let x := (a32Read acc).1.add (Dy.ofInt s (e - 46) false)
  if x.m = 0 then (0, false)
  else
    let lsb := x.top - 23
    let q := if lsb ≤ x.e then x.m <<< (x.e - lsb).toNat else x.m >>> (lsb - x.e).toNat
    let field := x.top + 127
    if field > 254 then (BitVec.ofNat 32 (fmtFP32.signed x.neg fmtFP32.maxCode), true)
    else if field ≤ 0 then (BitVec.ofNat 32 (fmtFP32.signed x.neg 0), false)
    else (BitVec.ofNat 32 (fmtFP32.signed x.neg ((field.toNat <<< 23) + (q - 2 ^ 23))), false)

end Sys2Proof.Machine
end

