-- ==== Sys2Proof/Machine/Ops.lean ====
section
/-! DEFINITION. The named operations over tables, memory, registers, units and events that every meaning shares. -/

namespace Sys2Proof.Machine

/-! ## Tables: sparse lists in rising key order -/

/-- The entry of a key, if listed. -/
def tFind {α : Type} : Tab α → Nat → Option α
  | [], _ => none
  | (k, v) :: r, i => if k = i then some v else tFind r i

/-- The entry of a key, with the value an unlisted key holds. -/
def tGet {α : Type} (d : α) (t : Tab α) (i : Nat) : α := (tFind t i).getD d

/-- The table with one entry replaced or put in its place. -/
def tSet {α : Type} : Tab α → Nat → α → Tab α
  | [], i, v => [(i, v)]
  | (k, w) :: r, i, v => if i < k then (i, v) :: (k, w) :: r else if k = i then (i, v) :: r else (k, w) :: tSet r i v

/-- The table without an entry. -/
def tDel {α : Type} : Tab α → Nat → Tab α
  | [], _ => []
  | (k, w) :: r, i => if k = i then r else (k, w) :: tDel r i

/-- The nth element replaced. -/
def setNth {α : Type} : List α → Nat → α → List α
  | [], _, _ => []
  | _ :: r, 0, v => v :: r
  | x :: r, n + 1, v => x :: setNth r n v

/-- The first element that satisfies p replaced through f. -/
def updFirst {α : Type} (p : α → Bool) (f : α → α) : List α → List α
  | [] => []
  | x :: r => if p x then f x :: r else x :: updFirst p f r

/-- The list without its first element that satisfies p. -/
def delFirst {α : Type} (p : α → Bool) : List α → List α
  | [] => []
  | x :: r => if p x then r else x :: delFirst p r

/-! ## Bits and counters -/

/-- A counter that saturates at its largest value (R10). -/
def satAdd (c : Word) (n : Nat) : Word := BitVec.ofNat 64 (min (c.toNat + n) (2 ^ 64 - 1))
/-- One event counted (R10). -/
def inc (c : Word) : Word := satAdd c 1
/-- The numbers of the set bits of a mask. -/
def maskBits {n : Nat} (m : BitVec n) : List Nat := (List.range n).filter fun i => m.getLsbD i
/-- A mask with one bit set. -/
def bitMask (n i : Nat) : BitVec n := 1#n <<< i
/-- A mask with one bit changed. -/
def putBit {n : Nat} (m : BitVec n) (i : Nat) (v : Bool) : BitVec n :=
  if v then m ||| bitMask n i else m &&& ~~~(bitMask n i)
/-- The sum of a field placed at bit `lo`. -/
def fieldAt (lo v : Nat) : Nat := v <<< lo
/-- A detail field of an error record, named by its bit in the record (Table 15.5). -/
def det (lo v : Nat) : BitVec 88 := BitVec.ofNat 88 (v <<< (lo - 168))
/-- A rounded-up quotient. -/
def ceilDiv (a b : Nat) : Nat := (a + b - 1) / b
/-- A length rounded up to 64 bytes. -/
def align64 (n : Nat) : Nat := ceilDiv n 64 * 64
/-- 1 MiB, the segment of a landing ring (R130). -/
def mib : Nat := 0x100000

/-! ## Little-endian byte strings (R5) -/

/-- The value of bytes, the first the least significant. -/
def leNat : List Byte → Nat
  | [] => 0
  | b :: r => b.toNat + 256 * leNat r
/-- n bytes of a value, the least significant first. -/
def leBytes : Nat → Nat → List Byte
  | 0, _ => []
  | n + 1, v => BitVec.ofNat 8 v :: leBytes n (v / 256)

/-- Bytes filled up to n with zeros. -/
def padTo (n : Nat) (bs : List Byte) : List Byte := bs ++ leBytes (n - bs.length) 0

/-! ## Memory -/

/-- The byte at an address: an unlisted one is zero (R237, R396). -/
def memByte : Memory → Nat → Byte
  | [], _ => 0
  | (k, v) :: r, a => if k = a then v else memByte r a

/-- One byte written; the list keeps its canonical form. -/
def memPut : Memory → Nat → Byte → Memory
  | [], a, v => if v = 0 then [] else [(a, v)]
  | (k, w) :: r, a, v =>
    if a < k then (if v = 0 then (k, w) :: r else (a, v) :: (k, w) :: r)
    else if k = a then (if v = 0 then r else (a, v) :: r)
    else (k, w) :: memPut r a v

/-- n bytes from an address. -/
def memRead (m : Memory) (a : Nat) : Nat → List Byte
  | 0 => []
  | n + 1 => memByte m a :: memRead m (a + 1) n

/-- Bytes written from an address. -/
def memWrite (m : Memory) (a : Nat) : List Byte → Memory
  | [] => m
  | b :: r => memWrite (memPut m a b) (a + 1) r

/-- The bytes of a range dropped: they read as zero. -/
def memClear (m : Memory) (base len : Nat) : Memory := m.filter fun c => c.1 < base || base + len ≤ c.1

/-- Strictly rising addresses above a bound, no byte zero. -/
def memWfFrom : Nat → Memory → Bool
  | _, [] => true
  | lo, (k, v) :: r => decide (lo ≤ k) && v != 0#8 && memWfFrom (k + 1) r
/-- The canonical form of memory. -/
def Memory.wf (m : Memory) : Bool := memWfFrom 0 m

/-- Bytes of memory as a number. -/
def memNat (m : Memory) (a n : Nat) : Nat := leNat (memRead m a n)
/-- A number written as n bytes. -/
def memPutNat (m : Memory) (a n v : Nat) : Memory := memWrite m a (leBytes n v)

/-! ## The address map (Table 9.2, R223) -/

/-- First address beyond stacked memory. -/
def stackedEnd : Nat := 0x6C00000000
/-- Bytes of one region's stacked memory. -/
def regionBytes : Nat := 0x1B00000000
/-- The scratchpad aperture. -/
def apertureBase : Nat := 0x7F0000000000
/-- Bytes of one aperture slot. -/
def slotBytes : Nat := 0x400000
/-- Populated bytes of a slot: the 3 MiB scratchpad (R223). -/
def spadBytes : Nat := 0x300000
/-- The companion window. -/
def companionBase : Nat := 0x800000000000
/-- First address beyond the 48-bit space. -/
def addrEnd : Nat := 0x1000000000000

/-- Where a byte of the address map lies. -/
inductive Place where
  | stacked (region : Nat)
  | spad (slot : Nat) (offset : Nat)
  | companion
  | unmapped
  deriving DecidableEq, Repr

/-- The place of an address (Table 9.2, R223). -/
def place (a : Nat) : Place :=
  if a < stackedEnd then .stacked (a / regionBytes)
  else if a < apertureBase then .unmapped
  else if a < apertureBase + 272 * slotBytes then
    (if (a - apertureBase) % slotBytes < spadBytes then .spad ((a - apertureBase) / slotBytes) ((a - apertureBase) % slotBytes)
     else .unmapped)
  else if a < companionBase then .unmapped
  else if a < addrEnd then .companion
  else .unmapped

/-- The aperture slot of a logical block (R223). -/
def slotOf (b : BlockId) : Nat := b.region.toNat * 68 + b.block.toNat
/-- The base of a block's scratchpad in the aperture (R223). -/
def spadBase (b : BlockId) : Nat := apertureBase + slotOf b * slotBytes
/-- A range lies inside another. -/
def inRange (a n base len : Nat) : Bool := decide (base ≤ a) && decide (a + n ≤ base + len)
/-- Two ranges share a byte. -/
def overlaps (a n b m : Nat) : Bool := decide (0 < n) && decide (0 < m) && decide (a < b + m) && decide (b < a + n)
/-- A range lies in stacked memory. -/
def inStacked (a n : Nat) : Bool := decide (a + n ≤ stackedEnd)
/-- A range lies in the companion window. -/
def inCompanion (a n : Nat) : Bool := decide (companionBase ≤ a) && decide (a + n ≤ addrEnd)

/-! ## Units of the state -/

/-- Every block number, by region and logical block. -/
def allBlocks : List BlockId := (List.range 256).map fun i => ⟨BitVec.ofNat 2 (i / 64), BitVec.ofNat 6 i⟩
/-- Every partition number. -/
def allParts : List PartId := (List.range 32).map (BitVec.ofNat 5)
/-- Every region number. -/
def allRegions : List RegionId := (List.range 4).map (BitVec.ofNat 2)

def State.block (s : State) (b : BlockId) : BlockState := tGet BlockState.reset s.blocks b.idx
def State.setBlock (s : State) (b : BlockId) (x : BlockState) : State := { s with blocks := tSet s.blocks b.idx x }
def State.region (s : State) (r : RegionId) : RegionState := tGet RegionState.reset s.regions r.toNat
def State.setRegion (s : State) (r : RegionId) (x : RegionState) : State := { s with regions := tSet s.regions r.toNat x }
def State.part (s : State) (p : PartId) : Partition := tGet Partition.reset s.parts p.toNat
def State.setPart (s : State) (p : PartId) (x : Partition) : State := { s with parts := tSet s.parts p.toNat x }
def State.stage (s : State) (e : StageId) : StageEntry := tGet StageEntry.reset s.stages e.toNat
def State.setStage (s : State) (e : StageId) (x : StageEntry) : State := { s with stages := tSet s.stages e.toNat x }
def State.plan (s : State) (p : PlanId) : PlanEntry := tGet PlanEntry.reset s.plans p.toNat
def State.group (s : State) (g : BitVec 6) : CollGroup := tGet CollGroup.reset s.groups g.toNat
def State.job (s : State) (j : BitVec 16) : CollJob := tGet CollJob.reset s.jobs j.toNat
def State.stack (s : State) (i : Nat) : StackState := tGet StackState.reset s.stackCtl i
def State.setStack (s : State) (i : Nat) (x : StackState) : State := { s with stackCtl := tSet s.stackCtl i x }
/-- The number of Sceolink among the links. -/
def sclLink : LinkId := 24
/-- A link at reset: Sceolink's grace is 100 ms (Table 12.9), and the strap does not gate it. -/
def linkReset (l : LinkId) : LinkState :=
  if l = sclLink then { LinkState.reset with cfg := { LinkCfg.reset with graceMs := 100, laneMask := 0, enable := true } }
  else LinkState.reset
def State.link (s : State) (l : LinkId) : LinkState := tGet (linkReset l) s.links l
def State.setLink (s : State) (l : LinkId) (x : LinkState) : State := { s with links := tSet s.links l x }
def State.ring (s : State) (q : QAddr) : Option Ring := tFind s.rings (q.extractLsb' 1 15).toNat
def State.setRing (s : State) (q : QAddr) (x : Ring) : State := { s with rings := tSet s.rings (q.extractLsb' 1 15).toNat x }
def State.delRing (s : State) (q : QAddr) : State := { s with rings := tDel s.rings (q.extractLsb' 1 15).toNat }

/-- A value the spec leaves open, fresh at each use (log 4). -/
def State.free (s : State) : Word × State := (Config.freeWord s.freeCount, { s with freeCount := s.freeCount + 1 })

/-! ## Scalar registers (R77) -/

/-- A scalar register: s0 reads zero. -/
def BlockState.reg (x : BlockState) (r : Reg) : Word := if r = 0#5 then 0 else tGet 0 x.regs r.toNat
/-- A scalar register written: writes to s0 are ignored. -/
def BlockState.setReg (x : BlockState) (r : Reg) (v : Word) : BlockState :=
  if r = 0#5 then x else { x with regs := tSet x.regs r.toNat v }
/-- A register taken as an address; one beyond 48 bits names nothing mapped (log 33). -/
def BlockState.addr (x : BlockState) (r : Reg) : Nat := (x.reg r).toNat
def BlockState.queue (x : BlockState) (q : BitVec 7) : QueueState := tGet QueueState.reset x.queues q.toNat
def BlockState.setQueue (x : BlockState) (q : BitVec 7) (v : QueueState) : BlockState :=
  { x with queues := tSet x.queues q.toNat v }

/-! ## Partitions (Table 14.1, R349 to R352) -/

def pNone : BitVec 4 := 0x0
def pCreated : BitVec 4 := 0x1
def pRunning : BitVec 4 := 0x2
def pDraining : BitVec 4 := 0x3
def pDrained : BitVec 4 := 0x4
def pFailed : BitVec 4 := 0x5
def pResetting : BitVec 4 := 0x6

/-- A partition exists. -/
def State.partExists (s : State) (p : PartId) : Bool := (s.part p).mode != pNone
/-- A block lies in a partition's quads. -/
def State.partHas (s : State) (p : PartId) (b : BlockId) : Bool :=
  s.partExists p && (s.part p).quads.getLsbD b.quadBit
/-- The partition that a block belongs to, if any (R349). -/
def State.owner (s : State) (b : BlockId) : Option PartId := allParts.find? fun p => s.partHas p b
/-- The partition to which a block's events go: its own, or 0 (R372). -/
def State.ownerOr0 (s : State) (b : BlockId) : PartId := (s.owner b).getD 0
/-- The blocks of a partition. -/
def State.partBlocks (s : State) (p : PartId) : List BlockId := allBlocks.filter fun b => s.partHas p b
/-- A range of stacked memory inside one of the partition's ranges (R352). -/
def Partition.hasStacked (x : Partition) (a n : Nat) : Bool := x.stacked.any fun r => inRange a n r.base r.len
/-- A range of the companion window inside one of the partition's ranges (R352). -/
def Partition.hasCompanion (x : Partition) (a n : Nat) : Bool := x.companion.any fun r => inRange a n r.base r.len
/-- A range inside the scratchpad of one of the partition's own logical blocks (R352). -/
def State.partHasSpad (s : State) (p : PartId) (a n : Nat) : Bool :=
  match place a with
  | .spad slot off => decide (slot % 68 < 64) && decide (off + n ≤ spadBytes) &&
      s.partHas p ⟨BitVec.ofNat 2 (slot / 68), BitVec.ofNat 6 (slot % 68)⟩
  | _ => false
/-- An access that R224 does not refuse to the partition. -/
def State.allowed (s : State) (p : PartId) (a n : Nat) : Bool :=
  (s.part p).hasStacked a n || (s.part p).hasCompanion a n || s.partHasSpad p a n
/-- The same for a block: one that belongs to no partition reaches its own scratchpad only. -/
def State.blockAllowed (s : State) (b : BlockId) (a n : Nat) : Bool :=
  match s.owner b with
  | some p => s.allowed p a n
  | none => inRange a n (spadBase b) spadBytes
/-- A stacked range that belongs to the partition that holds it, else partition 0 (R372). -/
def State.memOwner (s : State) (a : Nat) : PartId :=
  (allParts.find? fun p => s.partExists p && (s.part p).hasStacked a 1).getD 0
/-- The checking mode under which a block runs: that of its open group, which a Cinch does not change, else its partition's (R66); none without a partition. -/
def State.blockMode (s : State) (b : BlockId) : Option (BitVec 2) :=
  match (s.block b).group with
  | some g => some g.mode
  | none => (s.owner b).map fun p => (s.part p).checkMode
/-- A checker of a pair under full redundancy (R66, R381). -/
def State.isChecker (s : State) (b : BlockId) : Bool := s.blockMode b == some 0b10#2 && b.block.getLsbD 0
/-- The other block of a pair (R381). -/
def pairOf (b : BlockId) : BlockId := ⟨b.region, b.block ^^^ 1#6⟩
/-- The lane-bearing blocks of a quad mask in lane order: ascending region and logical block, primaries only in full redundancy (R142, R381). -/
def laneBlocks (mask : BitVec 64) (full : Bool) : List BlockId :=
  allBlocks.filter fun b => mask.getLsbD b.quadBit && !(full && b.block.getLsbD 0)

/-! ## Events (R369 to R373) -/

/-- Unit field of a block (Table 15.3). -/
def unitBlock (s : State) (b : BlockId) : BitVec 24 :=
  b.region ++ b.block ++ BitVec.ofNat 8 ((s.block b).phys.getD b.block.toNat) ++ 0#8
/-- Unit field of a region's sub-unit (Table 15.3). -/
def unitRegion (r : RegionId) (sub idx : Nat) : BitVec 24 := r ++ BitVec.ofNat 6 sub ++ BitVec.ofNat 16 idx
/-- Unit field of a hub unit (Table 15.3). -/
def unitHub (u idx : Nat) : BitVec 24 := BitVec.ofNat 8 u ++ BitVec.ofNat 16 idx
/-- Unit field of a fabric port, or of Sceolink as the companion level's link (Table 15.3). -/
def unitLink (l : LinkId) : BitVec 24 := if l = sclLink then 1023#10 ++ 0#14 else BitVec.ofNat 5 l ++ 0#19
/-- Level of a link's events (Table 15.3). -/
def levelLink (l : LinkId) : BitVec 3 := if l = sclLink then 5 else 4

/-- An event reported to the hub for one partition. -/
def State.raise (s : State) (p : PartId) (code : BitVec 16) (level : BitVec 3) (unit : BitVec 24) (detail : BitVec 88) : State :=
  { s with events := s.events ++ [⟨code, unit, level, p, detail⟩] }
/-- An event of a block, posted to the partition that owns it (R372). -/
def State.raiseBlock (s : State) (b : BlockId) (code : BitVec 16) (detail : BitVec 88) : State :=
  s.raise (s.ownerOr0 b) code 1 (unitBlock s b) detail
/-- An event posted to every partition of a list; to partition 0 when the list is empty (R372). -/
def State.raiseAll (s : State) (ps : List PartId) (code : BitVec 16) (level : BitVec 3) (unit : BitVec 24) (detail : BitVec 88) : State :=
  (if ps.isEmpty then [0#5] else ps).foldl (fun t p => t.raise p code level unit detail) s
/-- Every partition that exists. -/
def State.parts_ (s : State) : List PartId := allParts.filter fun p => s.partExists p
/-- The partitions with quads in a region. -/
def State.partsOfRegion (s : State) (r : RegionId) : List PartId :=
  s.parts_.filter fun p => (List.range 16).any fun q => (s.part p).quads.getLsbD (r.toNat * 16 + q)

/-! ## Records of what leaves or crosses -/

/-- Something sent out of the package. -/
def State.emit (s : State) (o : Output) : State := { s with out := s.out ++ [o] }
/-- The packets to the guest that its header and data credits let go, in order (R284). -/
def GuestState.sendable : List GuestResponse → Nat → Nat → List GuestResponse
  | [], _, _ => []
  | r :: rs, hdrs, beats =>
    if 0 < hdrs ∧ r.data.length / 64 ≤ beats then r :: GuestState.sendable rs (hdrs - 1) (beats - r.data.length / 64) else []
/-- Packets to the guest leave while credits last (R284). -/
def State.pumpGuest (s : State) : State :=
  let go := GuestState.sendable s.guest.responses s.guest.hdrCredits s.guest.beatCredits
  { s with
    out := s.out ++ go.map fun r => .guest r.type r.tag r.status r.data
    guest := { s.guest with
      responses := s.guest.responses.drop go.length, hdrCredits := s.guest.hdrCredits - go.length
      beatCredits := s.guest.beatCredits - (go.map fun r => r.data.length / 64).sum } }
/-- A packet for the guest: a response, or MBOX_DOWN (Table 11.6). -/
def State.toGuest (s : State) (r : GuestResponse) : State :=
  State.pumpGuest { s with guest := { s.guest with responses := s.guest.responses ++ [r] } }
/-- A hub counter raised by one. -/
def State.count (s : State) (f : HubCounters → HubCounters) : State := { s with hub := f s.hub }

/-- An outcome that only changes the state. -/
abbrev Res := Host.Outcome State Fault Refusal
/-- The event takes place only if its condition holds; otherwise the state is unchanged (log 3). -/
def when_ (c : Bool) (s t : State) : Res := if c then .next t else .next s
/-- The same for an outcome: an event of a unit that the package lacks, or one whose subject is not there, does not take place (log 3). -/
def whenHere (c : Bool) (s : State) (r : Res) : Res := if c then r else .next s

end Sys2Proof.Machine
end

