-- ==== Sys2Proof/Machine/Flags.lean ====
section
/-! DEFINITION. Status codes, completion flags, event classes and the words that status registers read as (Tables 2.5, 4.14, 4.15, 15.1, 15.5). -/

namespace Sys2Proof.Machine

/-! ## Completion status (Table 4.15) -/

def stOk : BitVec 8 := 0x00
def stKilled : BitVec 8 := 0x01
def stLateAbort : BitVec 8 := 0x02
def stVoidInput : BitVec 8 := 0x03
def stFailedCompanion : BitVec 8 := 0x04
def stStaleConfig : BitVec 8 := 0x05
def stRejected : BitVec 8 := 0x06

/-- The status of a group that committed, by the precedence of Table 4.15. -/
def committedStatus (lateAbort failedCompanion void : Bool) : BitVec 8 :=
  if lateAbort then stLateAbort else if failedCompanion then stFailedCompanion else if void then stVoidInput else stOk

/-- The flags byte (Table 2.5). -/
def flagsByte (amaxValid dipRerun invalid saturated : Bool) : BitVec 8 :=
  0#4 ++ BitVec.ofBool amaxValid ++ BitVec.ofBool dipRerun ++ BitVec.ofBool invalid ++ BitVec.ofBool saturated

/-! ## Park codes (R76, R80, R81, R108, Table 9.6, R376) -/

def pkUnlisted : BitVec 16 := 0xFFFF
def pkUnaligned : BitVec 16 := 0xFFFE
def pkRejected : BitVec 16 := 0xFFFD
def pkRefused : BitVec 16 := 0xFFFC
def pkMemory : BitVec 16 := 0xFFFB
def pkSpare : BitVec 16 := 0xFFF9

/-! ## Event codes (Table 15.5) -/

def evPartState : BitVec 16 := 0x0101
def evBlockParked : BitVec 16 := 0x0102
def evBlockFenced : BitVec 16 := 0x0103
def evQuadFenced : BitVec 16 := 0x0104
def evBlockStateLost : BitVec 16 := 0x0105
def evSlowdown : BitVec 16 := 0x0106
def evSendStall : BitVec 16 := 0x0201
def evDescDropped : BitVec 16 := 0x0202
def evRelayAbandoned : BitVec 16 := 0x0203
def evVersionAccount : BitVec 16 := 0x0204
def evVersionPinned : BitVec 16 := 0x0205
def evRiderLost : BitVec 16 := 0x0206
def evCollPost : BitVec 16 := 0x0207
def evCollectiveFailed : BitVec 16 := 0x0208
def evPermuteFailed : BitVec 16 := 0x0209
def evUpdateSkipped : BitVec 16 := 0x020A
def evUpdateNonfinite : BitVec 16 := 0x020B
def evUpdateRetry : BitVec 16 := 0x020C
def evUpdateFailed : BitVec 16 := 0x020D
def evProgramInvalid : BitVec 16 := 0x020E
def evCoderMismatch : BitVec 16 := 0x020F
def evMemCorrected : BitVec 16 := 0x0301
def evMemDataDropped : BitVec 16 := 0x0302
def evMemUncorrectable : BitVec 16 := 0x0303
def evAtomicDropped : BitVec 16 := 0x0304
def evScrubUncorr : BitVec 16 := 0x0305
def evMemHot : BitVec 16 := 0x0306
def evHitch : BitVec 16 := 0x0401
def evHitchFlush : BitVec 16 := 0x0402
def evNoRoute : BitVec 16 := 0x0403
def evHopLimit : BitVec 16 := 0x0404
def evLaneExcluded : BitVec 16 := 0x0405
def evRemount : BitVec 16 := 0x0406
def evSceolinkFlush : BitVec 16 := 0x0407
def evStale : BitVec 16 := 0x0408
def evAttached : BitVec 16 := 0x0409
def evCompanionWritesLost : BitVec 16 := 0x040A
def evBundleDown : BitVec 16 := 0x040B
def evBundleDegraded : BitVec 16 := 0x040C
def evSpareMoved : BitVec 16 := 0x040D
def evGuestRefused : BitVec 16 := 0x040E
def evCinchFence : BitVec 16 := 0x0501
def evCheckRerun : BitVec 16 := 0x0601
def evPairMismatch : BitVec 16 := 0x0602
def evEventsMerged : BitVec 16 := 0x0603
def evSupplyDip : BitVec 16 := 0x0604
def evMarginFail : BitVec 16 := 0x0605
def evControlFailover : BitVec 16 := 0x0606
def evHubFault : BitVec 16 := 0x0607
def evUnitDegraded : BitVec 16 := 0x0608
def evKvPages : BitVec 16 := 0x0901
def evSeqFinished : BitVec 16 := 0x0902

def clsGrey : BitVec 2 := 0b00
def clsAmber : BitVec 2 := 0b01
def clsUmber : BitVec 2 := 0b10
def clsCrimson : BitVec 2 := 0b11

/-- The codes of Table 15.5, by class. -/
def greyCodes : List (BitVec 16) :=
  [evPartState, evBlockParked, evSlowdown, evUpdateRetry, evMemCorrected, evHitch, evRemount, evStale, evAttached,
   evSpareMoved, evCheckRerun, evEventsMerged, evSeqFinished]
def amberCodes : List (BitVec 16) :=
  [evSendStall, evDescDropped, evRelayAbandoned, evVersionAccount, evVersionPinned, evCollPost, evUpdateSkipped,
   evUpdateNonfinite, evMemDataDropped, evAtomicDropped, evScrubUncorr, evMemHot, evHitchFlush, evNoRoute, evHopLimit,
   evSceolinkFlush, evCompanionWritesLost, evGuestRefused, evSupplyDip, evKvPages]
def umberCodes : List (BitVec 16) :=
  [evBlockFenced, evQuadFenced, evLaneExcluded, evBundleDown, evBundleDegraded, evCinchFence, evPairMismatch,
   evMarginFail, evControlFailover, evUnitDegraded]
def crimsonCodes : List (BitVec 16) :=
  [evBlockStateLost, evRiderLost, evCollectiveFailed, evPermuteFailed, evUpdateFailed, evProgramInvalid,
   evCoderMismatch, evMemUncorrectable, evHubFault]

/-- The class of an event code (R369). -/
def eventClass (code : BitVec 16) : BitVec 2 :=
  if greyCodes.contains code then clsGrey
  else if amberCodes.contains code then clsAmber
  else if umberCodes.contains code then clsUmber
  else clsCrimson

/-! ## Register words -/

/-- The code of a core state (Table 4.14). -/
def coreCode : CoreState → BitVec 3
  | .openState => 0b000
  | .inGroup => 0b001
  | .inCommit => 0b010
  | .parked => 0b011
  | .stopped => 0b100

/-- BLK_CORE_STATUS (Table 4.14). -/
def coreStatusWord (x : BlockState) : Word := x.parkCode ++ x.groupTag ++ x.lastStatus ++ 0#5 ++ coreCode x.core

/-- The code of a keeper state (Table 3.6). -/
def keeperCode : KeeperState → BitVec 3
  | .busy => 0b000
  | .fill => 0b001
  | .rampDown => 0b010
  | .gated => 0b011
  | .rampUp => 0b100

/-- BLK_KEEPER_CTL (Table 3.6). -/
def keeperWord (x : BlockState) : Word := 0#55 ++ BitVec.ofNat 5 x.keeperDuty ++ keeperCode x.keeperState ++ BitVec.ofBool x.keeperEn

/-- BLK_SPAD_LAYOUT (Table 4.9). -/
def spadLayoutWord (x : BlockState) : Word := 0#10 ++ x.userBase ++ x.queueBytes ++ 0#9 ++ BitVec.ofBool x.workSize

/-- BLK_Q_CFG (Table 5.5). -/
def qCfgWord (x : BlockState) : Word := 0#30 ++ x.stallPolicy ++ 0#27 ++ x.stallLimit

/-- BLK_Q_STATUS (Table 5.10). -/
def qStatusWord (q : QueueState) (bound : Bool) : Word :=
  0#31 ++ BitVec.ofBool bound ++ 0#1 ++ BitVec.ofNat 7 q.depth ++ 0#1 ++ BitVec.ofNat 7 q.entries.length ++ 0#1
    ++ BitVec.ofNat 7 q.reserved ++ 0#8

/-- BLK_RB_CFG (Table 7.1). -/
def rbCfgWord (x : BlockState) : Word := 0#16 ++ x.rbMask ++ 0#10 ++ x.rbBase ++ 0#11

end Sys2Proof.Machine
end

