-- ==== Sys2Proof/Machine/Operands.lean ====
section
/-! DEFINITION. Operand forms: descriptors and Riders (Tables 5.2, 6.2), the set table (Table 4.11), tensors in memory (R33, R65, R86, R169, R448) and how each unit reads and writes their elements (R32, R34, R40). -/

namespace Sys2Proof.Machine

/-! ## CRC-32C -/

/-- One bit of the reflected CRC-32C. -/
def crcBit (c : BitVec 32) : BitVec 32 := if c.getLsbD 0 then (c >>> 1) ^^^ 0x82F63B78#32 else c >>> 1
/-- n steps of one bit. -/
def crcBits : Nat → BitVec 32 → BitVec 32
  | 0, c => c
  | n + 1, c => crcBits n (crcBit c)
/-- The CRC-32C of a byte string. -/
def crc32c (bs : List Byte) : BitVec 32 :=
  ~~~(bs.foldl (fun c b => crcBits 8 (c ^^^ b.setWidth 32)) 0xFFFFFFFF#32)

/-- n bit steps of a reflected CRC with some polynomial. -/
def polyBits (p : BitVec 32) : Nat → BitVec 32 → BitVec 32
  | 0, c => c
  | n + 1, c => polyBits p n (if c.getLsbD 0 then (c >>> 1) ^^^ p else c >>> 1)
/-- The CRC of a byte string that goes on from the CRC of what came before it. -/
def crcMore (p c : BitVec 32) (bs : List Byte) : BitVec 32 := ~~~(bs.foldl (fun a b => polyBits p 8 (a ^^^ b.setWidth 32)) (~~~c))
/-- A CRC-32C and an IEEE 802.3 CRC-32 carried on over more bytes (R382). -/
def sigMore (v : BitVec 64) (bs : List Byte) : BitVec 64 :=
  crcMore 0x82F63B78#32 (v.extractLsb' 32 32) bs ++ crcMore 0xEDB88320#32 (v.extractLsb' 0 32) bs

/-! ## Descriptors (Table 5.2) -/

/-- The 512 bits of a descriptor. -/
def descBits (d : Descriptor) : BitVec 512 :=
  d.crc ++ d.body ++ d.len1 ++ d.ptr1 ++ d.len0 ++ d.ptr0 ++ 0#27 ++ BitVec.ofBool d.stream ++ BitVec.ofBool d.relay
    ++ 0#2 ++ BitVec.ofBool d.rider ++ d.epoch ++ d.sendSeq ++ d.tag ++ d.src ++ d.dst

/-- The descriptor that 512 bits spell. -/
def descOfBits (w : BitVec 512) : Descriptor :=
  { crc := w.extractLsb' 480 32, body := w.extractLsb' 320 160, len1 := w.extractLsb' 288 32, ptr1 := w.extractLsb' 240 48
    len0 := w.extractLsb' 208 32, ptr0 := w.extractLsb' 160 48, stream := w.getLsbD 132, relay := w.getLsbD 131
    rider := w.getLsbD 128, epoch := w.extractLsb' 96 32, sendSeq := w.extractLsb' 80 16, tag := w.extractLsb' 64 16
    src := w.extractLsb' 32 32, dst := w.extractLsb' 0 32 }

/-- The 64 bytes of a descriptor. -/
def descBytes (d : Descriptor) : List Byte := leBytes 64 (descBits d).toNat
/-- The descriptor in 64 bytes of memory. -/
def descAt (m : Memory) (a : Nat) : Descriptor := descOfBits (BitVec.ofNat 512 (memNat m a 64))
/-- The CRC of bytes 0 to 59 (R116). -/
def descCrc (d : Descriptor) : BitVec 32 := crc32c ((descBytes d).take 60)
/-- The descriptor with its CRC computed (R117). -/
def descSeal (d : Descriptor) : Descriptor := { d with crc := descCrc d }
/-- T of a Relay: align64(len0) + len1 (R131). -/
def descTotal (d : Descriptor) : Nat := align64 d.len0.toNat + d.len1.toNat

/-- Descriptor sets 8, 16 and 24 (Table 4.1). -/
def isDescSet (r : Reg) : Bool := r == 8#5 || r == 16#5 || r == 24#5
/-- The 512 bits of eight registers, the lowest first (R77). -/
def setBits (x : BlockState) (r : Reg) : BitVec 512 :=
  BitVec.ofNat 512 ((List.range 8).foldr (fun i a => (x.reg (r + BitVec.ofNat 5 i)).toNat + a * 2 ^ 64) 0)
/-- The descriptor in a descriptor set. -/
def descOfSet (x : BlockState) (r : Reg) : Descriptor := descOfBits (setBits x r)
/-- A descriptor written into a descriptor set (R77). -/
def putSet (x : BlockState) (r : Reg) (d : Descriptor) : BlockState :=
  (List.range 8).foldl (fun y i => y.setReg (r + BitVec.ofNat 5 i) ((descBits d).extractLsb' (64 * i) 64)) x

/-! ## Riders (Table 6.2) -/

def riderStep (d : Descriptor) : BitVec 32 := d.body.extractLsb' 0 32
def riderMb (d : Descriptor) : BitVec 12 := d.body.extractLsb' 32 12
def riderLane (d : Descriptor) : BitVec 8 := d.body.extractLsb' 48 8
def riderDir (d : Descriptor) : Bool := d.body.getLsbD 56
def riderVoid (d : Descriptor) : Bool := d.body.getLsbD 57
def riderVersion (d : Descriptor) : BitVec 32 := d.body.extractLsb' 80 32
/-- The Rider body of an admitted micro-batch (R152). -/
def riderBody (step : BitVec 32) (mb : BitVec 12) (lane : BitVec 8) (pipe : BitVec 16) (ver : BitVec 32) : BitVec 160 :=
  0#48 ++ ver ++ pipe ++ 0#8 ++ lane ++ 0#4 ++ mb ++ step
/-- A Rider set void: status void, both lengths zero (R107, R120). -/
def voidRider (d : Descriptor) : Descriptor :=
  descSeal { d with body := putBit d.body 57 true, len0 := 0, len1 := 0 }
/-- A Rider in a descriptor set set void, nothing else of it changed (Table 9.6, R137). -/
def voidSet (regs : Tab Word) (r : Reg) : Tab Word :=
  tSet regs (r + 5#5).toNat (tGet 0 regs (r + 5#5).toNat ||| bitMask 64 57)

/-! ## The scratchpad of a block (R91, R92) -/

/-- A range of device addresses lies in the block's own scratchpad. -/
def inOwn (b : BlockId) (a n : Nat) : Bool := inRange a n (spadBase b) spadBytes
/-- A range lies in the block's own user space. -/
def inUser (b : BlockId) (x : BlockState) (a n : Nat) : Bool :=
  inRange a n (spadBase b + x.userBase.toNat) (spadBytes - x.userBase.toNat)
/-- A range touches the working area or the queue area of the block's own scratchpad (R92). -/
def touchesWork (b : BlockId) (x : BlockState) (a n : Nat) : Bool := overlaps a n (spadBase b) x.userBase.toNat

/-! ## Set table (R96, R97) -/

/-- A set-table entry (Table 4.11). -/
inductive SetEntry where
  | read (r : Range)
  | write (r : Range)
  | amax (a : Nat)
  | pair (p : PairEntry)
  | bad
  deriving DecidableEq, Repr

/-- The entry in 16 bytes. -/
def setEntry (w : Nat) : SetEntry :=
  let base := w % 2 ^ 48
  let len := w / 2 ^ 64 % 2 ^ 32
  let pp := BitVec.ofNat 4 (w / 2 ^ 116)
  match w / 2 ^ 112 % 16 with
  | 0 => .read ⟨base, len⟩
  | 1 => .write ⟨base, len⟩
  | 2 => .amax base
  | 3 => .pair ⟨pp, base, len, false⟩
  | 4 => .pair ⟨pp, base, len, true⟩
  | _ => .bad

/-- The entries of a set table in memory. -/
def setTable (m : Memory) (a n : Nat) : List SetEntry := (List.range n).map fun i => setEntry (memNat m (a + 16 * i) 16)

/-- Half h of a pair; half 1 starts at base + length (R96). -/
def pairHalf (p : PairEntry) (h : Bool) : Range := ⟨if h then p.base + p.len else p.base, p.len⟩
/-- The read half of a pair under the selectors (R96). -/
def pairRead (sel : BitVec 16) (p : PairEntry) : Range := pairHalf p (sel.getLsbD p.ppIndex.toNat)
/-- The write half of a pair under the selectors (R96). -/
def pairWrite (sel : BitVec 16) (p : PairEntry) : Range := pairHalf p (!sel.getLsbD p.ppIndex.toNat)

def tableReads (sel : BitVec 16) (es : List SetEntry) : List Range :=
  es.filterMap fun e => match e with | .read r => some r | .pair p => some (pairRead sel p) | _ => none
def tableWrites (sel : BitVec 16) (es : List SetEntry) : List Range :=
  es.filterMap fun e => match e with | .write r => some r | .pair p => some (pairWrite sel p) | _ => none
def tableAmax (es : List SetEntry) : List Nat := es.filterMap fun e => match e with | .amax a => some a | _ => none
def tablePairs (es : List SetEntry) : List PairEntry := es.filterMap fun e => match e with | .pair p => some p | _ => none

/-- No value occurs twice. -/
def noDup {α : Type} [DecidableEq α] : List α → Bool
  | [] => true
  | x :: r => !r.contains x && noDup r

/-- The checks of R97 on a set table's entries. -/
def setTableOk (b : BlockId) (x : BlockState) (es : List SetEntry) : Bool :=
  let rs := tableReads x.ppSel es
  let ws := tableWrites x.ppSel es
  let ams := tableAmax es
  decide (1 ≤ es.length) && decide (es.length ≤ 32) && !es.contains .bad && decide (ams.length ≤ 8)
    && noDup ((tablePairs es).map (·.ppIndex))
    && rs.all (fun r => ws.all fun w => !overlaps r.base r.len w.base w.len)
    && ams.all (fun a => a % 4 == 0 && (inOwn b a 4 || inStacked a 4)
        && (rs ++ ws).all fun r => !overlaps a 4 r.base r.len)
    && ws.all (fun w => inUser b x w.base w.len || inStacked w.base w.len || inCompanion w.base w.len)

/-- Every byte from a to e lies in some range of the list; `fuel` bounds the ranges used. -/
def coverAux (rs : List Range) : Nat → Nat → Nat → Bool
  | 0, a, e => decide (e ≤ a)
  | fuel + 1, a, e =>
    if e ≤ a then true
    else match rs.find? (fun r => decide (r.base ≤ a) && decide (a < r.base + r.len)) with
      | none => false
      | some r => coverAux rs fuel (r.base + r.len) e
/-- A range lies in the union of ranges (R85). -/
def covered (rs : List Range) (r : Range) : Bool := coverAux rs rs.length r.base (r.base + r.len)

/-! ## Tensors -/

/-- Bytes of n packed elements (R33). -/
def elemBytes (c : BitVec 4) (n : Nat) : Nat := ceilDiv (n * fmtBits c) 8
/-- Scale bytes of n elements. -/
def scaleBytes (c : BitVec 4) (n : Nat) : Nat := if fmtBlock c = 0 then 0 else n / fmtBlock c
/-- Bytes of a tensor in element order with the scales behind its elements (R169, R448). -/
def tensorBytes (c : BitVec 4) (n : Nat) : Nat := elemBytes c n + scaleBytes c n
/-- n elements are whole blocks of the format (R448). -/
def wholeBlocks (c : BitVec 4) (n : Nat) : Bool := fmtBlock c == 0 || n % fmtBlock c == 0

/-- The bits of packed element i from a base (R33). -/
def elemBits (m : Memory) (base : Nat) (c : BitVec 4) (i : Nat) : Nat :=
  let w := fmtBits c
  memNat m (base + w * i / 8) ((w + 7) / 8 + (if w % 8 = 0 then 0 else 1)) / 2 ^ (w * i % 8) % 2 ^ w

/-- A value with the block scale applied, under the rules of the array and the fetch engine: NaN is zero and an infinity the largest finite value, both invalid (R32, R34). -/
def fetchVal (c : BitVec 4) (bits : Nat) (scale : Option Byte) : Dy × Bool :=
  let s : Option Int := match scale with | none => some 0 | some b => readScale b
  match s, readElem c bits with
  | none, _ => (Dy.zero false, true)
  | some _, .nan => (Dy.zero false, true)
  | some k, .inf n => ((match fmtFp c with | some f => f.maxVal n | none => Dy.zero n).scale k, true)
  | some k, .fin d => (d.scale k, isA32 c && decide (bits / 2 ^ 23 % 256 = 255))

/-- A value widened to FP32 by the vector unit: the word, saturated, invalid for a NaN block scale (R32, R34). An infinite element of a scaled block widens to an infinity without a flag (DESIGN CHOICE, log 99). -/
def vectorVal (c : BitVec 4) (bits : Nat) (scale : Option Byte) : BitVec 32 × Bool × Bool :=
  match scale with
  | none =>
    match readElem c bits with
    | .nan => (if isFp32 c then BitVec.ofNat 32 bits else f32Nan (BitVec.ofNat 32 bits) 0, false, false)
    | .inf n => (f32Inf n, false, false)
    | .fin d => (f32Round d, false, false)
  | some b =>
    match readScale b, readElem c bits with
    | none, _ => (f32Nan (BitVec.ofNat 32 bits) 0, false, true)
    | some _, .nan => (f32Nan (BitVec.ofNat 32 bits) 0, false, false)
    | some _, .inf n => (f32Inf n, false, false)
    | some k, .fin d => ((f32Sat (d.scale k)).1, (f32Sat (d.scale k)).2, false)

/-- The scale byte of element i of a tensor of n elements in element order. -/
def scaleAt (m : Memory) (base : Nat) (c : BitVec 4) (n i : Nat) : Option Byte :=
  if fmtBlock c = 0 then none else some (memByte m (base + elemBytes c n + i / fmtBlock c))

/-- Packed element codes as one number (R33). -/
def packNat (w : Nat) (codes : List Nat) : Nat := codes.foldr (fun c a => c % 2 ^ w + a * 2 ^ w) 0
/-- Packed elements written from a base; bits of the last byte beyond the elements keep their value. -/
def writePacked (m : Memory) (base w : Nat) (codes : List Nat) : Memory :=
  let bits := w * codes.length
  let n := ceilDiv bits 8
  let keep := memNat m base n / 2 ^ bits * 2 ^ bits
  memPutNat m base n (packNat w codes + keep)
/-- Scale bytes written. -/
def writeScales (m : Memory) (a : Nat) (ss : List Byte) : Memory := memWrite m a ss
/-- A converted tensor written in element order with its scales behind its n elements (R448). -/
def writeTensor (m : Memory) (base : Nat) (c : BitVec 4) (n : Nat) (r : Conv) : Memory :=
  writeScales (writePacked m base (fmtBits c) r.codes) (base + elemBytes c n) r.scales

/-! ## MATMUL operands (R86, Table 4.6) -/

/-- K per pass (Table 3.1, R52): 256 when both operands are four-bit formats. -/
def passK (f : MatmulFields) : Nat := if fmtBits f.fmtA = 4 ∧ fmtBits f.fmtB = 4 then 256 else 128
def mmM (f : MatmulFields) : Nat := if f.m = 0#20 then 1048576 else f.m.toNat
def mmN (f : MatmulFields) : Nat := if f.n = 0#16 then 65536 else f.n.toNat
def mmK (f : MatmulFields) : Nat := if f.k = 0#16 then 65536 else f.k.toNat
/-- Tiles in a row of tiles. -/
def tilesN (f : MatmulFields) : Nat := ceilDiv (mmN f) 128
def tilesM (f : MatmulFields) : Nat := ceilDiv (mmM f) 128
def passes (f : MatmulFields) : Nat := ceilDiv (mmK f) (passK f)
/-- Element places of a tensor in the tiled layout (R448). -/
def tiledPlaces (f : MatmulFields) : Nat := tilesM f * tilesN f * 16384
/-- Place of element (m, n) in tile order (R65). -/
def tiledPlace (f : MatmulFields) (m n : Nat) : Nat := (m / 128 * tilesN f + n / 128) * 16384 + m % 128 * 128 + n % 128
/-- Bytes of a row of an MX or plain tensor in the row-major layout (R448). -/
def rowBytes (c : BitVec 4) (n : Nat) : Nat :=
  if fmtBlock c = 0 then elemBytes c n else ceilDiv n 32 * (4 * fmtBits c + 1)

/-- The rows of a matrix operand as ranges. -/
def rowRanges (base stride bytes rows : Nat) : List Range := (List.range rows).map fun i => ⟨base + i * stride, bytes⟩

/-- Ranges of C, or of a full-tensor z, in the command's layout. -/
def cRanges (f : MatmulFields) (c : BitVec 4) (base stride : Nat) : List Range :=
  if f.tiled then [⟨base, tensorBytes c (tiledPlaces f)⟩] else rowRanges base stride (rowBytes c (mmN f)) (mmM f)

/-- Bits and scale of element (m, n) of C or of a full-tensor z. -/
def cElem (mem : Memory) (f : MatmulFields) (c : BitVec 4) (base stride m n : Nat) : Nat × Option Byte :=
  if f.tiled then
    (elemBits mem base c (tiledPlace f m n), scaleAt mem base c (tiledPlaces f) (tiledPlace f m n))
  else
    (elemBits mem (base + m * stride) c n,
     if fmtBlock c = 0 then none else some (memByte mem (base + m * stride + ceilDiv (mmN f) 32 * (4 * fmtBits c) + n / 32)))

/-- Bits and scale of z for element (m, n), by its shape (R63). -/
def zElem (mem : Memory) (f : MatmulFields) (z stride m n : Nat) : Nat × Option Byte :=
  match f.zShape.toNat with
  | 0 => cElem mem f f.fmtZ z stride m n
  | 1 => (elemBits mem z f.fmtZ n, scaleAt mem z f.fmtZ (mmN f) n)
  | _ => (elemBits mem z f.fmtZ m, scaleAt mem z f.fmtZ (mmM f) m)

/-- Ranges that MATMUL reads (R85, R86). -/
def mmReads (f : MatmulFields) (a b z ssA ssB strideA strideC strideB : Nat) : List Range :=
  rowRanges a strideA (elemBytes f.fmtA (mmK f)) (mmM f) ++ rowRanges b strideB (elemBytes f.fmtB (mmN f)) (mmK f)
    ++ (if isMx f.fmtA then [⟨ssA, mmM f * (mmK f / 32)⟩] else [])
    ++ (if isMx f.fmtB then [⟨ssB, mmK f / 32 * mmN f⟩] else [])
    ++ (if f.fusedEn then
          match f.zShape.toNat with
          | 0 => cRanges f f.fmtZ z strideC
          | 1 => [⟨z, tensorBytes f.fmtZ (mmN f)⟩]
          | _ => [⟨z, tensorBytes f.fmtZ (mmM f)⟩]
        else [])

/-! ## VEC and CONVERT operands (Table 4.7, Table 4.10) -/

/-- Vector operations. -/
inductive Vop where
  | copy | add | sub | mul | fma | max | min | abs | neg | cmplt | cmpeq | sel
  | rsum | rmax | rssq
  | exp | exp2 | log | log2 | rcp | rsqrt | sqrt | tanh | sigmoid | sin | cos
  deriving DecidableEq, Repr

/-- Table 4.10. -/
def vopOf (c : BitVec 8) : Option Vop :=
  match c.toNat with
  | 0x00 => some .copy | 0x01 => some .add | 0x02 => some .sub | 0x03 => some .mul | 0x04 => some .fma
  | 0x05 => some .max | 0x06 => some .min | 0x07 => some .abs | 0x08 => some .neg | 0x09 => some .cmplt
  | 0x0A => some .cmpeq | 0x0B => some .sel | 0x10 => some .rsum | 0x11 => some .rmax | 0x12 => some .rssq
  | 0x20 => some .exp | 0x21 => some .exp2 | 0x22 => some .log | 0x23 => some .log2 | 0x24 => some .rcp
  | 0x25 => some .rsqrt | 0x26 => some .sqrt | 0x27 => some .tanh | 0x28 => some .sigmoid | 0x29 => some .sin
  | 0x2A => some .cos
  | _ => none

/-- The operation reads operand b. -/
def Vop.usesB : Vop → Bool
  | .add | .sub | .mul | .fma | .max | .min | .cmplt | .cmpeq | .sel => true
  | _ => false
/-- The operation reads operand c. -/
def Vop.usesC : Vop → Bool
  | .fma | .sel => true
  | _ => false
/-- A reduction: one value per row. -/
def Vop.reduces : Vop → Bool
  | .rsum | .rmax | .rssq => true
  | _ => false

/-- Row length: 0 means one row of count elements. -/
def vecRow (f : VecFields) : Nat := if f.rowLen = 0#16 then f.count.toNat else f.rowLen.toNat
/-- Elements that the command writes (R94). -/
def vecOut (f : VecFields) (v : Vop) : Nat := if v.reduces then ceilDiv f.count.toNat (vecRow f) else f.count.toNat

end Sys2Proof.Machine
end

