-- ==== Sys2Proof/Machine/Flits.lean ====
section
/-! DEFINITION. What crosses a link: packet headers, the flits of a packet, link records, and a flit's 256 bytes (R242 to R246, Tables 10.2 to 10.5, 12.2 to 12.4). -/

namespace Sys2Proof.Machine

/-! ## Packets (R244, R245) -/

/-- The 128 bits of a packet header (Table 10.4); a Sceolink header lies in the same fields (Table 12.3). -/
def headerBits (p : Packet) : BitVec 128 := p.ext ++ p.flow ++ p.kind ++ p.hops ++ 0#4 ++ p.length ++ p.srcDev ++ p.dstDev
/-- The 16 bytes of a packet header. -/
def headerBytes (p : Packet) : List Byte := leBytes 16 (headerBits p).toNat
/-- The packet whose header 16 bytes spell, with its data. -/
def packetOf (h : List Byte) (data : List Byte) : Packet :=
  let w : BitVec 128 := BitVec.ofNat 128 (leNat (h.take 16))
  { ext := w.extractLsb' 96 32, flow := w.extractLsb' 64 32, kind := w.extractLsb' 56 8, hops := w.extractLsb' 48 8
    length := w.extractLsb' 32 12, srcDev := w.extractLsb' 16 16, dstDev := w.extractLsb' 0 16, data := data }
/-- The kind of a Sceolink header, bits 7:0 (Table 12.3). -/
def sclKind (p : Packet) : BitVec 8 := p.dstDev.setWidth 8
/-- Data bytes that follow a header: its length, but none behind a Sceolink request to read, and none behind a response that is not OK (Table 12.4). -/
def dataLen (scl : Bool) (p : Packet) : Nat :=
  if !scl then p.length.toNat
  else match (sclKind p).toNat with
    | 0x11 | 0x13 | 0x21 | 0x31 => p.length.toNat
    | 0x18 | 0x28 => if p.srcDev.extractLsb' 8 8 = 0#8 then p.length.toNat else 0
    | _ => 0

/-- Data bytes up to the end of flit k of a Request or Response packet (R244). -/
def flitEnd (k : Nat) : Nat := 224 + 240 * k
/-- Flits of a Request or Response packet with n data bytes (R244). -/
def flitsOf (n : Nat) : Nat := if n ≤ 224 then 1 else 1 + ceilDiv (n - 224) 240
/-- Flits of a packet whose bytes up to n have come: only whole flits but for the last. -/
def flitsReady (total n : Nat) : Nat := if total ≤ n then flitsOf total else if n < 224 then 0 else 1 + (n - 224) / 240
/-- Payload of flit k of a Request or Response packet: unused bytes are zero (R244). -/
def flitPayload (p : Packet) (k : Nat) : List Byte :=
  padTo 240 (if k = 0 then headerBytes p ++ p.data.take 224 else (p.data.drop (flitEnd (k - 1))).take 240)
/-- Bytes of a Bypass packet in a flit: each has 80 of the payload's 240 (DEDUCED, log 121). -/
def bypassSlot : Nat := 80
/-- Payload of a Bypass flit with up to three packets (R244). -/
def bypassPayload (ps : List Packet) : List Byte :=
  padTo 240 (ps.flatMap fun p => padTo bypassSlot (headerBytes p ++ p.data.take 64))

/-! ## Link records (R243) -/

/-- The records of Tables 10.3 and 12.2. -/
inductive LinkRec where
  | credit (c : CreditRec)
  | lane (op : BitVec 8) (r : LaneRec)
  | resume (r : ResumeRec)
  | ident (i : IdentRec)
  | remount (op : BitVec 8) (r : RemountRec)
  deriving DecidableEq, Repr

/-- The 128 bits of a record. -/
def LinkRec.bits : LinkRec → BitVec 128
  | .credit c => 0#48 ++ c.rspTotal ++ c.reqTotal ++ c.bypTotal ++ 0#11 ++ BitVec.ofBool c.consValid ++ c.consSeq ++ 0x02#8
  | .lane op r => 0#92 ++ r.cause ++ r.mask ++ r.cmd ++ op ++ 0x03#8
  | .resume r => 0#48 ++ r.rspTotal ++ r.reqTotal ++ r.bypTotal ++ 0#12 ++ r.rxExpected ++ 0x04#8
  | .ident i => 0#64 ++ i.version ++ 0#8 ++ i.lanes ++ 0#1 ++ BitVec.ofBool i.fresh ++ BitVec.ofBool i.idValid ++ i.port ++ i.device ++ 0x05#8
  | .remount op r => 0#76 ++ r.cause ++ 0#3 ++ r.physTo ++ 0#3 ++ r.physFrom ++ 0#4 ++ r.logical ++ r.cmd ++ op ++ 0x06#8
/-- The record that 128 bits spell; none for an empty one, and for a kind that is ignored. REMOUNT is used on Sceolink only (R293); its direction is the one in which the sender of that op stands (R295). -/
def recOf (scl : Bool) (w : BitVec 128) : Option LinkRec :=
  let op := w.extractLsb' 8 8
  match (w.extractLsb' 0 8).toNat with
  | 0x02 => some (.credit ⟨w.extractLsb' 8 12, w.getLsbD 20, w.extractLsb' 32 16, w.extractLsb' 48 16, w.extractLsb' 64 16⟩)
  | 0x03 => some (.lane op ⟨w.extractLsb' 16 8, w.extractLsb' 24 8, w.extractLsb' 32 4⟩)
  | 0x04 => some (.resume ⟨w.extractLsb' 8 12, w.extractLsb' 32 16, w.extractLsb' 48 16, w.extractLsb' 64 16⟩)
  | 0x05 => some (.ident ⟨w.extractLsb' 8 16, w.extractLsb' 24 5, w.getLsbD 29, w.getLsbD 30, w.extractLsb' 32 8, w.extractLsb' 48 16⟩)
  | 0x06 =>
    if scl then some (.remount op ⟨if op = 1#8 then .tx else .rx, w.extractLsb' 16 8, w.extractLsb' 24 4, w.extractLsb' 32 5, w.extractLsb' 40 5,
      w.extractLsb' 48 4⟩)
    else none
  | _ => none
/-- The records of a LINK flit's payload, 16 bytes each. -/
def recsOf (scl : Bool) (payload : List Byte) : List LinkRec :=
  (List.range 15).filterMap fun i => recOf scl (BitVec.ofNat 128 (leNat ((payload.drop (16 * i)).take 16)))

/-! ## Flits (R242) -/

/-- Channel codes (Table 10.2). -/
def channelCode : Channel → BitVec 2
  | .bypass => 0b00
  | .request => 0b01
  | .response => 0b10
/-- The first 12 bytes of a flit (Table 10.2). -/
def flitHead (type : BitVec 4) (vc : BitVec 2) (first : Bool) (seq : BitVec 12) (npkt : BitVec 2) (a : FlitAck) : BitVec 96 :=
  0#54 ++ npkt ++ 0#6 ++ BitVec.ofBool a.replayReq ++ BitVec.ofBool a.ackValid ++ a.ackSeq ++ seq ++ 0#1 ++ BitVec.ofBool first ++ vc ++ type
/-- A flit's 256 bytes: its head, its payload and the CRC-32C of the 252 bytes before. -/
def sealFlit (head : BitVec 96) (payload : List Byte) : List Byte :=
  let bs := leBytes 12 head.toNat ++ padTo 240 (payload.take 240)
  bs ++ leBytes 4 (crc32c bs).toNat
/-- A DATA flit as it is sent, with current ack fields. -/
def dataFlit (f : Flit) (a : FlitAck) : List Byte := sealFlit (flitHead 0x2 (channelCode f.vc) f.first f.seq f.npkt a) f.payload
/-- A LINK flit: up to 15 records. -/
def linkFlit (rs : List LinkRec) (a : FlitAck) : List Byte :=
  sealFlit (flitHead 0x1 0 false 0 0 a) ((rs.take 15).flatMap fun r => leBytes 16 r.bits.toNat)

/-- A flit's bytes from the fields of Table 10.2: bits 41:0, the reserved bits 95:42, the payload and the crc. -/
def flitBytes (head : BitVec 42) (reserved : BitVec 54) (payload : List Byte) (crc : BitVec 32) : List Byte :=
  leBytes 12 (reserved ++ head).toNat ++ payload ++ leBytes 4 crc.toNat
/-- A received flit after its checks: a failed CRC, a type or channel that is not used, or its fields. -/
inductive RxFlit where
  | crcFails
  | unused
  | link (a : FlitAck) (rs : List LinkRec)
  | data (a : FlitAck) (f : Flit)
  deriving DecidableEq, Repr

/-- The crc is checked before any other field is used (R242). -/
def rxFlit (scl : Bool) (bytes : List Byte) : RxFlit :=
  let h : BitVec 96 := BitVec.ofNat 96 (leNat (bytes.take 12))
  let a : FlitAck := ⟨h.getLsbD 32, h.extractLsb' 20 12, h.getLsbD 33⟩
  let payload := (bytes.drop 12).take 240
  let data (vc : Channel) : RxFlit := .data a ⟨vc, h.getLsbD 6, h.extractLsb' 40 2, h.extractLsb' 8 12, payload⟩
  if bytes.length ≠ 256 ∨ leNat (bytes.drop 252) ≠ (crc32c (bytes.take 252)).toNat then .crcFails
  else match (h.extractLsb' 0 4).toNat, (h.extractLsb' 4 2).toNat with
    | 1, _ => .link a (recsOf scl payload)
    | 2, 0 => data .bypass
    | 2, 1 => data .request
    | 2, 2 => data .response
    | _, _ => .unused

/-! ## Packets taken out of a buffer -/

/-- What stands at the head of a channel's buffer: a whole packet, with the flits behind it and the number that leave the buffer; flits of a packet cut short, which are dropped; or nothing that is complete. -/
inductive HeadPacket where
  | whole (p : Packet) (rest : List Flit) (freed : Nat)
  | short (rest : List Flit) (freed : Nat)
  | none
  deriving DecidableEq, Repr

/-- The packet at a Bypass buffer's head: it leaves its flit, which leaves with its last packet. -/
def bypassHead (scl : Bool) (f : Flit) (rest : List Flit) : HeadPacket :=
  let h := packetOf f.payload []
  let p := { h with data := (f.payload.drop 16).take (min 64 (dataLen scl h)) }
  if f.npkt.toNat ≤ 1 then .whole p rest 1
  else .whole p ({ f with npkt := f.npkt - 1, payload := padTo 240 (f.payload.drop bypassSlot) } :: rest) 0
/-- The packet at a Request or Response buffer's head (R244): a first flit before its last one shows that it was cut short. -/
def packetHead (scl : Bool) (f : Flit) (rest : List Flit) : HeadPacket :=
  let h := packetOf f.payload []
  let n := dataLen scl h
  let body := (rest.take (flitsOf n - 1)).takeWhile fun g => !g.first
  if !f.first then .short rest 1
  else if body.length + 1 = flitsOf n then
    .whole { h with data := ((f.payload.drop 16 ++ body.flatMap fun g => g.payload).take n) } (rest.drop body.length) (body.length + 1)
  else if body.length < rest.length then .short (rest.drop body.length) (body.length + 1)
  else .none
/-- The head of a channel's buffer. -/
def headPacket (scl : Bool) (vc : Channel) : List Flit → HeadPacket
  | [] => .none
  | f :: rest => match vc with
    | .bypass => bypassHead scl f rest
    | _ => packetHead scl f rest

end Sys2Proof.Machine
end

