-- ==== Sys2Proof/Machine/Bursts.lean ====
section
/-! DEFINITION. Bursts of stacked memory and their 16 check bits: the two codes, what a read of a burst finds, and writes that merge into bursts (R225, R230, R231, R450). -/

namespace Sys2Proof.Machine

/-! ## Interleaving (R225) -/

/-- The stack, the pseudo-channel and the channel address of an offset within a region. -/
def interleave (o : Nat) : Nat × Nat × Nat :=
  let u := o >>> 8
  let k := u % 96
  (k % 3, k / 3, u / 96 * 256 + o % 256)
/-- The package stack that holds a stacked address (R222, R225). -/
def stackOf (a : Nat) : Nat := a / regionBytes * 3 + (interleave (a % regionBytes)).1

/-! ## The codes (R230)

The codes are linear, so what a check finds depends on the error alone: the bits in which a burst differs from the code word that was written. `State.bursts` holds that difference; a burst that is not listed holds a code word, the check bits that the controller wrote with it (log 110). -/

/-- The class A check bits of 256 data bits: the CRC with x¹⁶ + x¹² + x⁵ + 1, the highest bit first (log 110). -/
def crc16 (d : BitVec 256) : BitVec 16 :=
  (List.range 256).foldl (fun c i =>
    if c.getLsbD 15 != d.getLsbD (255 - i) then (c <<< 1) ^^^ 0x1021#16 else c <<< 1) 0
/-- The 272 bits of an error: check bits above data bits. -/
def errBits (e : BurstErr) : BitVec 272 := e.check ++ e.data
/-- An error from its 272 bits. -/
def errOf (w : BitVec 272) : BurstErr := ⟨w.extractLsb' 0 256, w.extractLsb' 256 16⟩
/-- No error. -/
def errZero : BurstErr := ⟨0, 0⟩
/-- Two errors together. -/
def errXor (a b : BurstErr) : BurstErr := ⟨a.data ^^^ b.data, a.check ^^^ b.check⟩
/-- The wrong bits of an error, by place. -/
def errPlaces (e : BurstErr) : List Nat := maskBits (errBits e)
/-- All wrong bits lie in one byte of the burst. -/
def errOneByte (e : BurstErr) : Bool := match errPlaces e with
  | [] => true
  | i :: r => r.all fun j => j / 8 == i / 8

/-- What a controller takes an error for: the bits that it turns back, or none where it detects an error that it does not correct. Class A corrects nothing and passes what its CRC does not see; class W corrects one bit and detects two, or any within a byte; what it makes of other errors is open (R230, log 110). -/
def taken (classA : Bool) (e : BurstErr) : Option BurstErr :=
  if classA then (if crc16 e.data = e.check then some errZero else none)
  else
    let n := (errPlaces e).length
    if n ≤ 1 then some e
    else if n = 2 || errOneByte e then none
    else (Config.classWTakes (errBits e)).map errOf

/-- What the check of a burst finds, from its error at the first read and at the re-read (R231). -/
def burstCheck (classA : Bool) (first again : BurstErr) : BurstCheck :=
  match taken classA first with
  | some c => if c = errZero then .clean else .single
  | none => match taken classA again with
    | some _ => .retryOk
    | none => .fails

/-! ## Reads of a burst (R231) -/

/-- Unit field of the stack controller that holds an address: its stack in the region, and the GiB as index (Table 15.3, log 12). -/
def unitStack (a : Nat) : BitVec 24 := unitRegion (BitVec.ofNat 2 (a / regionBytes)) (stackOf a % 3) (a >>> 30)
/-- The class that the controller of an address uses for its GiB (R230, R234): true for class A. -/
def State.classA (s : State) (a : Nat) : Bool := (s.stack (stackOf a)).classMap.getLsbD (a >>> 30)
/-- A counter of the stack that holds an address. -/
def State.countStack (s : State) (a : Nat) (f : StackState → StackState) : State := s.setStack (stackOf a) (f (s.stack (stackOf a)))
/-- An event of a stack controller that names an address. -/
def State.raiseStack (s : State) (a : Nat) (code : BitVec 16) (more : BitVec 88) : State :=
  s.raise (s.memOwner a) code 2 (unitStack a) (det 168 a ||| more)
/-- The error of the burst at an address. -/
def State.burst (s : State) (a : Nat) : BurstErr := tGet errZero s.bursts (a / 32)
/-- A burst holds a code word again. -/
def State.cleanBurst (s : State) (a : Nat) : State := { s with bursts := tDel s.bursts (a / 32) }

/-- A detection corrected or cleared on a read (R231 steps 1 and 2). -/
def State.burstOk (s : State) (a : Nat) (chk : BurstCheck) : State :=
  match chk with
  | .single => (s.countStack a fun t => { t with wCorr := inc t.wCorr }).raiseStack a evMemCorrected 0
  | .retryOk => (s.countStack a fun t => { t with retryOk := inc t.retryOk }).raiseStack a evMemCorrected 0
  | _ => s
/-- A burst whose check fails, counted by class; class W raises CRIMSON (R231 steps 3 and 4). -/
def State.burstFails (s : State) (a : Nat) : State :=
  if s.classA a then s.countStack a fun t => { t with aDrop := inc t.aDrop }
  else (s.countStack a fun t => { t with wUncorr := inc t.wUncorr }).raiseStack a evMemUncorrectable 0
/-- One burst read, with an error of this one read besides its own: the state, and whether data came. -/
def State.readBurst (s : State) (a : Nat) (transient : BurstErr) : State × Bool :=
  match burstCheck (s.classA a) (errXor (s.burst a) transient) (s.burst a) with
  | .fails => (s.burstFails a, false)
  | c => (s.burstOk a c, true)

/-- The check of the burst at an address fails (R231). -/
def State.burstBad (s : State) (a : Nat) : Bool := burstCheck (s.classA a) (s.burst a) (s.burst a) == .fails
/-- The bursts with an error that some ranges touch. -/
def State.errorsIn (s : State) (rs : List Range) : List Nat :=
  (s.bursts.map fun e => 32 * e.1).filter fun a => rs.any fun r => overlaps r.base r.len a 32
/-- Every burst of some ranges read: the state, and the first burst that a controller answers with an error status in place of data. -/
def State.readRanges (s : State) (rs : List Range) : State × Option Nat :=
  (s.errorsIn rs).foldl (fun t a =>
    let r := t.1.readBurst a errZero
    (r.1, if r.2 then t.2 else t.2.orElse fun _ => some a)) (s, none)

/-- Bits of a burst turn over: what no check will see becomes the burst's contents, the rest is its error. -/
def State.upset (s : State) (a : Nat) (e : BurstErr) : State :=
  let b := a / 32 * 32
  let d := errXor (s.burst b) e
  let keep := (taken (s.classA b) d).getD d
  let gone := errXor d keep
  let mem := if gone.data = 0 then s.mem else memPutNat s.mem b 32 (memNat s.mem b 32 ^^^ gone.data.toNat)
  { s with mem := mem, bursts := if keep = errZero then tDel s.bursts (b / 32) else tSet s.bursts (b / 32) keep }

/-- Bits that have turned over in the first burst of stacked memory that some ranges touch, as an access to them finds it (R231, log 139). -/
def State.struck (s : State) (rs : List Range) (hit : BurstErr) : State :=
  match rs.find? fun r => decide (0 < r.len) && inStacked r.base r.len with
  | some r => s.upset r.base hit
  | none => s

/-! ## Writes (R450) -/

/-- A write has put its bytes into memory: a burst that it covers whole holds a code word; one that it covers in part is read for the merge, and where that read fails the burst keeps its old bytes and its error. -/
def State.wroteBurst (s : State) (old : Memory) (rs : List Range) (a : Nat) : State :=
  if covered rs ⟨a, 32⟩ then s.cleanBurst a
  else
    let r := s.readBurst a errZero
    if r.2 then r.1.cleanBurst a
    else
      let t : State := { r.1 with mem := memWrite r.1.mem a (memRead old a 32) }
      if s.classA a then t.raiseStack a evMemDataDropped 0 else t
/-- The memory after a write of some ranges (R450). -/
def State.wrote (s : State) (new : Memory) (rs : List Range) : State :=
  (s.errorsIn rs).foldl (fun t a => t.wroteBurst s.mem rs a) { s with mem := new }
/-- Bytes written at an address. -/
def State.put (s : State) (a : Nat) (bs : List Byte) : State := s.wrote (memWrite s.mem a bs) [⟨a, bs.length⟩]

end Sys2Proof.Machine
end

