-- ==== Sys2Proof/Machine/Paths.lean ====
section
/-! DEFINITION. What is on its way inside the package: the bundles of a path, the one chosen for each entry, and the order that crossing FIFOs keep (R26 to R28, R277). -/

namespace Sys2Proof.Machine

/-! ## Bundle ends (Table 11.4) -/

def bdClosed : BitVec 2 := 0b00
def bdTraining : BitVec 2 := 0b01
def bdInService : BitVec 2 := 0b10
def bdOut : BitVec 2 := 0b11

/-- A bundle end: 0 to 23 of a region, 24 to 27 for the guest bundles (log 63). -/
def State.bundle (s : State) (r : RegionId) (b : Nat) : BundleState :=
  tGet BundleState.reset (if b < 24 then (s.region r).bundles else s.guest.bundles) (b % 24)
/-- A bundle end replaced. -/
def State.setBundle (s : State) (r : RegionId) (b : Nat) (x : BundleState) : State :=
  if b < 24 then s.setRegion r { s.region r with bundles := tSet (s.region r).bundles b x }
  else { s with guest := { s.guest with bundles := tSet s.guest.bundles (b % 24) x } }
/-- Bundles of a path in service. -/
def State.openBundles (s : State) (r : RegionId) (bs : List Nat) : List Nat := bs.filter fun b => (s.bundle r b).mode == bdInService

/-! ## The path of an entry (R28, R277) -/

/-- The hub's unit number; blocks are region × 64 + logical block, stacks 512 + stack (DESIGN CHOICE, log 119). -/
def hubUnit : Nat := 256
def stackUnit (k : Nat) : Nat := 512 + k
/-- The region on which a unit lies, none for the hub. -/
def unitHome (u : Nat) : Option RegionId :=
  if u < hubUnit then some (BitVec.ofNat 2 (u / 64)) else if stackUnit 0 ≤ u then some (BitVec.ofNat 2 ((u - stackUnit 0) / 3)) else none
/-- The bundles between a region and the hub (Table 11.4). -/
def hubBundles : List Nat := List.range 12
/-- The bundles from region a to region b at b, none where they are not neighbours (Table 11.4). -/
def nearBundles (a b : RegionId) : List Nat :=
  if b = a + 1 then [18, 19, 20, 21, 22, 23] else if a = b + 1 then [12, 13, 14, 15, 16, 17] else []
/-- The bundle that an entry takes among those in service (R277). -/
def pickBundle (src dst : Nat) (granule : Option Nat) (r : RegionId) (bs : List Nat) : List (RegionId × Nat) :=
  let g := match granule with | some k => leBytes 8 k | none => []
  match bs.drop ((crc32c (leBytes 4 src ++ leBytes 4 dst ++ g)).toNat % bs.length) with
  | b :: _ => [(r, b)]
  | [] => []
/-- The bundles that an entry crosses: messages between neighbour regions take the neighbour bundles while one is in service; everything else goes through the hub, and so does every memory request, which brings its granule number (R28, R279). -/
def State.path (s : State) (src dst : Nat) (granule : Option Nat) : List (RegionId × Nat) :=
  let leg (r : RegionId) : List (RegionId × Nat) := pickBundle src dst granule r (s.openBundles r hubBundles)
  match unitHome src, unitHome dst with
  | some a, some b =>
    let near := if granule.isSome then [] else s.openBundles b (nearBundles a b)
    if a = b then [] else if near.isEmpty then leg a ++ leg b else pickBundle src dst none b near
  | some a, none => leg a
  | none, some b => leg b
  | none, none => []
/-- The bundles of a block's memory request: a stack's, with the granule of 256 bytes, or the hub's for the companion (R28, R277, R302). -/
def State.memPath (s : State) (b : BlockId) (a : Nat) : List (RegionId × Nat) :=
  match place a with
  | .stacked _ => s.path b.idx (stackUnit (stackOf a)) (some (a / 256))
  | .spad slot _ => s.path b.idx (slot / 68 * 64 + min 63 (slot % 68)) none
  | _ => s.path b.idx hubUnit none

/-! ## Islands and the crossing FIFOs between them (R25, R275) -/

/-- An island runs: it is out of reset, its domain is on, and no fence closes its crossings. A block's island is that of the physical block which carries its logical number; a position that carries none is held in reset outside its start-up test (R7, R25, R359; log 126). The always-on island runs whenever PORST_N is high. -/
def State.islandUp (s : State) : Island → Bool
  | .block b => !(s.block b).inReset && !(s.block b).fenced
  | .regionFabric r => !(s.region r).inReset && !(s.region r).fenced
  | .memSide k => s.reset_.released.contains (.memSide k) && !(s.region (BitVec.ofNat 2 (k / 3))).fenced
  | .port p => s.reset_.released.contains (.port p) && !s.power.domainsOff.getLsbD (75 + p / 6)
  | .spare _ _ => false
  | .alwaysOn => s.reset_.bootStage != 0x00#8
  | i => s.reset_.released.contains i
/-- Both sides of a crossing run; a unit of the hub that has failed closes the crossings within the hub (R275, R379). -/
def State.crossingUp (s : State) : Crossing → Bool
  | .block b => s.islandUp (.block b) && s.islandUp (.regionFabric b.region)
  | .region r => s.islandUp (.regionFabric r) && s.islandUp .hubCrossbar
  | .memSide k => s.islandUp (.memSide k) && s.islandUp (.regionFabric (BitVec.ofNat 2 (k / 3)))
  | .port p => s.islandUp (.port p) && s.islandUp .hubCrossbar
  | .sceolink => s.islandUp .sceolink && s.islandUp .hubCrossbar
  | .hub => s.islandUp .hubCrossbar && s.faults.status.extractLsb' 1 3 == 0#3
/-- A crossing is closed: from its closing until it reopens, and while one of its islands does not run (R275). -/
def State.isClosed (s : State) (c : Crossing) : Bool := s.closed.contains c || !s.crossingUp c

/-! ## On the way -/

/-- Source, destination and class of an entry: what is not for a block of this package is for the hub's engines. -/
def endsOf (dev : BitVec 16) : InFlight → Nat × Nat × Nat
  | .message d => (unit d.src, unit d.dst, if QAddr.cls d.dst then 1 else 0)
  | .answer a => (unit a.dst, unit a.src, 2)
  | .relayOpen o => (unit o.desc.src, hubUnit, 2)
  | .landed q _ => (hubUnit, unit q, 2)
  | .drainMark b _ => (hubUnit, b.idx, 2)
  | _ => (hubUnit, hubUnit, 2)
where
  /-- The unit that a queue address names. -/
  unit (q : QAddr) : Nat := if QAddr.device q = dev then (QAddr.blockId q).idx else hubUnit
/-- Something put on its way from a unit. -/
def State.shipFrom (s : State) (src : Nat) (i : InFlight) : State :=
  let e := endsOf s.deviceId i
  { s with inflight := s.inflight ++ [⟨i, src, e.2.1, e.2.2, s.path src e.2.1 none⟩] }
/-- Something put on its way inside the package by the unit that it names as its source. -/
def State.ship (s : State) (i : InFlight) : State := s.shipFrom (endsOf s.deviceId i).1 i
/-- An entry comes before another in every FIFO of their path: same ends, class and bundles. Within the hub's own island no FIFO lies between. -/
def Transit.ahead (t u : Transit) : Bool :=
  t.src == u.src && t.dst == u.dst && t.cls == u.cls && t.path == u.path && (t.src != hubUnit || t.dst != hubUnit)
/-- The list without the first entry that satisfies p and that nothing is ahead of; `seen` are those before it, the last first. -/
def takeTransit (p : InFlight → Bool) : List Transit → List Transit → Option (List Transit)
  | _, [] => none
  | seen, t :: r => if p t.item && !seen.any (fun u => u.ahead t) then some (seen.reverse ++ r) else takeTransit p (t :: seen) r
/-- What arrives leaves its FIFO: none while an earlier entry of the same path has not arrived (R26). What the model did not put on its way has no such entry (log 120). -/
def State.arrive (s : State) (p : InFlight → Bool) : Option State :=
  if s.inflight.any (fun t => p t.item) then (takeTransit p [] s.inflight).map fun l => { s with inflight := l } else some s
/-- An entry passes a crossing: one of its ends lies beyond it, the other does not. -/
def Transit.crosses (t : Transit) : Crossing → Bool
  | .block b => (t.src == b.idx) != (t.dst == b.idx)
  | .region r => (unitHome t.src == some r) != (unitHome t.dst == some r)
  | .memSide k => (t.src == stackUnit k) != (t.dst == stackUnit k)
  | .hub => t.src == hubUnit || t.dst == hubUnit
  | _ => false
/-- The list without the first n entries that satisfy p; a control entry among them stays with its sender, which sends it again (R275, R278). -/
def discardFirst (p : Transit → Bool) : Nat → List Transit → List Transit
  | 0, l => l
  | _, [] => []
  | n + 1, t :: r => if !p t then t :: discardFirst p (n + 1) r else if t.cls = 2 then t :: discardFirst p n r else discardFirst p n r
/-- A packet handed to the engine of its kind, by its flow and its source device (R246). -/
def isControl (kind : BitVec 8) (flow : BitVec 32) (dev : BitVec 16) : InFlight → Bool
  | .control p => p.kind == kind && p.flow == flow && p.srcDev == dev
  | _ => false
/-- Entries that satisfy p leave the hub's engines with the command that reads them. -/
def State.unship (s : State) (p : InFlight → Bool) : State := { s with inflight := s.inflight.filter fun t => !p t.item }
/-- An arrival takes place when FIFO order lets it. -/
def State.onArrival (s : State) (p : InFlight → Bool) (k : State → Res) : Res :=
  match s.arrive p with
  | some t => k t
  | none => .next s

end Sys2Proof.Machine
end

