-- ==== Sys2Proof/Machine/BlockOps.lean ====
section
/-! DEFINITION. Operations that the block core's commands share: decode, park, reject, kill, completion, accesses to companion memory and to landing rings (R76, R83, R102, R108, R134, R301). -/

namespace Sys2Proof.Machine

/-! ## Companion accesses (R297, R301, R302) -/

/-- Pieces of a range cut at 2,048-byte boundaries: address and length; `fuel` bounds their number. -/
def pieces2k : Nat → Nat → Nat → List (Nat × Nat)
  | 0, _, _ => []
  | fuel + 1, a, n =>
    if n = 0 then []
    else
      let k := min n (2048 - a % 2048)
      (a, k) :: pieces2k fuel (a + k) (n - k)
/-- All pieces of a range. -/
def pieces (a n : Nat) : List (Nat × Nat) := pieces2k (n / 2048 + 2) a n

/-- The 16 header bytes of a Sceolink packet (Table 12.3), held with the field positions of Table 10.4, and its data (R297). -/
def sclPacket (kind : BitVec 8) (addr : Addr) (stream tag len status : Nat) (data : List Byte) : Packet :=
  let h : BitVec 128 := addr ++ BitVec.ofNat 10 stream ++ 0#6 ++ BitVec.ofNat 16 tag ++ 0#4 ++ BitVec.ofNat 12 len ++ BitVec.ofNat 8 status
    ++ 0#16 ++ kind
  { ext := h.extractLsb' 96 32, flow := h.extractLsb' 64 32, kind := h.extractLsb' 56 8, hops := h.extractLsb' 48 8
    length := h.extractLsb' 32 12, srcDev := h.extractLsb' 16 16, dstDev := h.extractLsb' 0 16, data := data }
/-- Status code of a response (Table 12.3). -/
def statusCode : RespStatus → Nat
  | .ok => 0
  | .refused => 1
  | .dataError => 2
/-- The packet that an output on Sceolink is, and its channel (Table 12.4). -/
def sclPacketOf : Output → Option (Channel × Packet)
  | .ucRd r => some (.request, sclPacket 0x10 r.addr r.stream r.tag.toNat r.len 0 [])
  | .ucWr stream a data => some (.request, sclPacket 0x11 a stream 0 data.length 0 data)
  | .coWr tag a data => some (.request, sclPacket 0x13 a 269 tag.toNat 64 0 data)
  | .dData tag st data => some (.response, sclPacket 0x28 0 1023 tag.toNat data.length (statusCode st) data)
  | .snpInv line => some (.bypass, sclPacket 0x30 line 1023 0 0 0 [])
  | .csnpAck line => some (.bypass, sclPacket 0x33 (line.setWidth 48) 1023 0 0 0 [])
  | _ => none
/-- A packet put behind those of its channel on a link. -/
def LinkState.queue (x : LinkState) (vc : Channel) (p : TxPacket) : LinkState :=
  match vc with
  | .bypass => { x with txBypass := x.txBypass ++ [p] }
  | .request => { x with txRequest := x.txRequest ++ [p] }
  | .response => { x with txResponse := x.txResponse ++ [p] }
/-- A Sceolink packet handed to the Sceolink island: recorded among the outputs, and queued for its link (R293, R297). -/
def State.toScl (s : State) (o : Output) : State :=
  match sclPacketOf o with
  | some (vc, p) => (s.emit o).setLink sclLink ((s.link sclLink).queue vc ⟨p, p.data.length, none, none⟩)
  | none => s

/-- The session lets companion requests leave (Table 12.6), and no DETACH waits for those before it (R310). -/
def State.attached (s : State) : Bool := s.scl.mode == .attached && !s.scl.detaching
/-- A companion request sent: it waits for its answer, or for a read-back that shows it visible (R301, R361). -/
def State.sendReq (s : State) (r : CompanionReq) : State :=
  let s1 : State := { s with scl := { s.scl with reqs := s.scl.reqs ++ [r] } }
  match r.use with
  | .report _ => s1.toScl (.coWr r.tag r.addr r.data)
  | .record _ _ => s1.toScl (.coWr r.tag r.addr r.data)
  | .guest _ => if r.data.isEmpty then s1.toScl (.ucRd r) else s.toScl (.ucWr r.stream r.addr r.data)
  | _ => if r.data.isEmpty then s1.toScl (.ucRd r) else s1.toScl (.ucWr r.stream r.addr r.data)
/-- A companion request given its tag: sent when attached, else waiting in its engine (Table 12.6). -/
def State.companionReq (s : State) (stream a n : Nat) (use : CompanionUse) (data : List Byte) : State :=
  let r : CompanionReq := ⟨s.scl.nextTag, stream, BitVec.ofNat 48 (a - companionBase), n, use, data⟩
  let s1 : State := { s with scl := { s.scl with nextTag := s.scl.nextTag + 1 } }
  if s.attached then s1.sendReq r else { s1 with scl := { s1.scl with waiting := s1.scl.waiting ++ [r] } }
/-- A read of companion memory by UC_RD (R301). -/
def State.ucRead (s : State) (stream a n : Nat) (use : CompanionUse) : State :=
  (pieces a n).foldl (fun t p => t.companionReq stream p.1 p.2 use []) s
/-- A posted write to companion memory by UC_WR on a block's stream (R301). -/
def State.ucWrite (s : State) (b : BlockId) (a : Nat) (data : List Byte) : State :=
  let t := (pieces a data.length).foldl
    (fun t p => t.companionReq b.idx p.1 p.2 (.write b) ((data.drop (p.1 - a)).take p.2)) s
  let x := t.block b
  t.setBlock b { x with lastUcWr := some (BitVec.ofNat 48 (a + data.length - 8 - companionBase)), ucWrNew := true
                        group := x.group.map fun g => { g with companion := true } }
/-- An outstanding or waiting request of some use. -/
def State.hasReq (s : State) (p : CompanionUse → Bool) : Bool :=
  s.scl.reqs.any (fun r => p r.use) || s.scl.waiting.any (fun r => p r.use)
/-- Requests of some use forgotten. -/
def State.dropReqs (s : State) (p : CompanionUse → Bool) : State :=
  { s with scl := { s.scl with reqs := s.scl.reqs.filter (fun r => !p r.use)
                               waiting := s.scl.waiting.filter (fun r => !p r.use) } }
/-- A block's reads in progress. -/
def isReadOf (b : BlockId) : CompanionUse → Bool
  | .fetch c => c == b
  | .vec c => c == b
  | .ld c => c == b
  | _ => false

/-! ## The signature of a pair's group (R382) -/

/-- The engines of a block as its signature counts them. -/
def sigCore : Nat := 0
def sigArray : Nat := 1
def sigVector : Nat := 2
def sigFetch : Nat := 3
def sigQueue : Nat := 4
/-- Bytes put into an engine's stream; only a pair's group is signed. -/
def Group.sign (g : Group) (e : Nat) (bs : List Byte) : Group :=
  if g.mode = 0b10#2 then { g with sigs := tSet g.sigs e (sigMore (tGet 0 g.sigs e) bs) } else g
/-- An address as both blocks of a pair know it: an offset in the block's own scratchpad, or a device address. -/
def sigAddr (b : BlockId) (a : Nat) : Nat := if inOwn b a 1 then a - spadBase b else a
/-- A write as the stream takes it: address and data. -/
def sigWrite (b : BlockId) (a : Nat) (bs : List Byte) : List Byte := leBytes 8 (sigAddr b a) ++ bs
/-- A descriptor as the stream takes it. -/
def sigDesc (b : BlockId) (d : Descriptor) : List Byte :=
  descBytes { d with ptr0 := BitVec.ofNat 48 (sigAddr b d.ptr0.toNat), ptr1 := BitVec.ofNat 48 (sigAddr b d.ptr1.toNat) }
/-- A block's group signed for some writes. -/
def State.signBlock (s : State) (b : BlockId) (e : Nat) (bs : List Byte) : State :=
  match (s.block b).group with
  | some g => if g.mode = 0b10#2 then s.setBlock b { s.block b with group := some (g.sign e bs) } else s
  | none => s

/-! ## Device memory -/

/-- Bytes written by an engine of a block to a device address: posted to the companion, else stored; a checker of a pair stores into its own scratchpad only, and signs every write (R301, R382). -/
def State.store (s : State) (b : BlockId) (e : Nat) (a : Nat) (bs : List Byte) : State :=
  let t := s.signBlock b e (sigWrite b a bs)
  if s.isChecker b && !inOwn b a bs.length then t
  else if inCompanion a bs.length then t.ucWrite b a bs
  else t.put a bs

/-! ## Landing rings as a block's reads meet them (R134, R137) -/

/-- The rings bound to a block's queues. -/
def State.ringsOf (s : State) (b : BlockId) : List (Nat × Ring) :=
  s.rings.filter fun r => r.1 / 128 == b.idx
/-- Position of a ring's segment as a running count, from the release pointer on. -/
def ringCount (r : Ring) (seg : Nat) : Nat := r.release + (seg + r.segs - r.release % r.segs) % r.segs
/-- The ring segments a range touches. -/
def ringSegs (r : Ring) (a n : Nat) : List Nat :=
  (List.range r.segs).filter fun i => overlaps a n (r.base + i * mib) mib
/-- A read that must wait for the block's landed pointer (R134). -/
def State.ringWaits (s : State) (b : BlockId) (a n : Nat) : Bool :=
  (s.ringsOf b).any fun e =>
    (ringSegs e.2 a n).any fun i => decide (tGet 0 (s.block b).landed (e.1 % 128) ≤ ringCount e.2 i)
/-- The Relay of an abandoned segment that a read reaches (R137). -/
def State.ringAbandoned (s : State) (b : BlockId) (a n : Nat) : Option (BitVec 32) :=
  ((s.ringsOf b).flatMap fun e =>
    (ringSegs e.2 a n).filterMap fun i => match tGet .free e.2.seg i with | .abandoned id => some id.num | _ => none).head?

/-! ## Decode -/

/-- The block core decodes: a program runs, nothing stalls it, and it is neither parked, stopped, in commit, fenced nor in reset. -/
def BlockState.canDecode (x : BlockState) : Bool :=
  x.running && !x.fenced && !x.inReset && x.stall == .none && (x.core == .openState || x.core == .inGroup)
/-- Inside a group whose COMMIT has not been decoded. -/
def BlockState.inGroup (x : BlockState) : Bool := x.core == .inGroup
/-- The program counter names a word the core may fetch (R76). -/
def State.pcOk (s : State) (b : BlockId) : Bool :=
  let a := (s.block b).pc.toNat
  a % 32 == 0 && (inOwn b a 32 || (inStacked a 32 && s.blockAllowed b a 32))
/-- The command after this one. -/
def BlockState.next (x : BlockState) : BlockState := { x with pc := x.pc + 32 }
/-- PC + 32 × offset. -/
def jumpTo (pc : Addr) (off : BitVec 32) : Addr := pc + (off.signExtend 48) * 32

/-- Decode stops and the core parks with an event code (R83). -/
def State.park (s : State) (b : BlockId) (code : BitVec 16) : State :=
  let x := s.block b
  (s.setBlock b { x with core := .parked, parkCode := code, stall := .none }).raiseBlock b evBlockParked
    (det 168 code.toNat ||| det 184 x.groupTag.toNat)

/-! ## The engines' queues (R84) -/

/-- The queue of the array, the vector unit or the fetch engine. -/
def BlockState.engineQ (x : BlockState) : EngineId → List EngineCmd
  | .array => x.arrayQ
  | .vector => x.vectorQ
  | .fetch => x.fetchQ
  | .queue => []
/-- Commands that wait in an engine's queue (R84). -/
def BlockState.engineLoad (x : BlockState) : EngineId → Nat
  | .queue => x.queueQ.length
  | e => (x.engineQ e).length
/-- The engines that WAIT's mask names; zero names all four (R84). -/
def waitEngines (mask : BitVec 4) : List EngineId :=
  [EngineId.array, .vector, .fetch, .queue].filter fun e =>
    mask == 0#4 || mask.getLsbD (match e with | .array => 0 | .vector => 1 | .fetch => 2 | .queue => 3)
/-- Every command issued to the named engines has finished. -/
def BlockState.idle (x : BlockState) (mask : BitVec 4) : Bool := (waitEngines mask).all fun e => x.engineLoad e == 0

/-- A stall that the engines' progress ends: WAIT goes on past its word, a full queue frees the command for a new try. -/
def BlockState.wake (x : BlockState) : BlockState :=
  match x.stall with
  | .wait m => if x.idle m then { x.next with stall := .none } else x
  | .engine e => if x.engineLoad e < 8 then { x with stall := .none } else x
  | _ => x

/-! ## Completions, rejection and kill -/

/-- A completion posted by the block, unless it ran as a checker (R109, R383). -/
def State.complete (s : State) (b : BlockId) (checker : Bool) (tag : BitVec 32) (status flags : BitVec 8) : State :=
  let x := s.block b
  s.setBlock b { x with
    groupTag := tag, lastStatus := status
    cpls := if checker then x.cpls else x.cpls ++ [⟨tag, status, flags, 0, false, false⟩] }

/-- Weight registers after a kill: what the group loaded is gone (R54). -/
def WeightSet.afterKill (w : WeightSet) : WeightSet := if w.owner = .ofGroup then WeightSet.empty else w
/-- Weight registers once the group that loaded them has ended without a kill: an earlier group's (R54). -/
def WeightSet.kept (w : WeightSet) : WeightSet := if w.owner = .ofGroup then { w with owner := .earlier } else w

/-! ## The current keeper as the array starts and stops (R69 to R71) -/

/-- Dummy vectors counted while the keeper is enabled (R69, R74). -/
def BlockState.dummies (x : BlockState) (n : Nat) : BlockState := if x.keeperEn then { x with keeperFill := satAdd x.keeperFill n } else x
/-- The keeper as the array becomes idle (R69). -/
def BlockState.keeperIdle (x : BlockState) : BlockState :=
  if x.arrayQ.isEmpty && x.keeperState == .busy && x.keeperEn then { x with keeperState := .fill } else x
/-- The cycles of a keeper step and of the whole fill (R69, R70). -/
def keeperStepCycles : Nat := 1100
def keeperFillCycles : Nat := 2200
/-- The keeper as real work arrives at an idle array (R69, R71): the idle gap, or the part of the ramp-down step that has passed, was filled with dummy vectors; how many cycles it lasted is open (log 100). -/
def State.keeperWork (s : State) (b : BlockId) : State :=
  let x := s.block b
  let v := s.free
  match x.keeperState with
  | .fill => v.2.setBlock b { x.dummies (v.1.toNat % (keeperFillCycles + 1)) with keeperState := .busy }
  | .rampDown => v.2.setBlock b { x.dummies (v.1.toNat % keeperStepCycles * x.keeperDuty / 16) with keeperState := .rampUp }
  | .gated => s.setBlock b { x with keeperState := .rampUp }
  | _ => s

/-- A command that a kill leaves in its queue: a fence issued before the group. -/
def EngineCmd.keeps : EngineCmd → Bool
  | .fence ofGroup _ => !ofGroup
  | _ => false

/-- Steps 1 to 5 of R102: decode stops, engines abandon the group's commands, held messages, the commit list, reservations, maxima, flags and held writes are discarded; the idle array is filled by the keeper (R75). -/
def BlockState.dropGroup (x : BlockState) : BlockState :=
  BlockState.keeperIdle { x with
    stall := .none, group := none, arrayQ := [], vectorQ := [], fetchQ := x.fetchQ.filter (·.keeps), run := none, fetchData := []
    queueQ := [], vecData := [], sendBuf := x.sendBuf.filter (·.released)
    queues := x.queues.map fun e => (e.1, { e.2 with reserved := 0 })
    active := x.active.afterKill, shadow := x.shadow.afterKill
    untaken := match x.untaken with
      | some l => if l.ofGroup then none else some l
      | none => none }
/-- The same in the machine, with the group's companion reads abandoned. -/
def State.dropGroup (s : State) (b : BlockId) : State :=
  (s.dropReqs (isReadOf b)).setBlock b (s.block b).dropGroup

/-- Step 6 of R102: the snapshot restored; the current epoch is not. An earlier group's load whose registers the killed group took is loaded again (log 96). -/
def BlockState.restore (x : BlockState) (p : Snapshot) : BlockState :=
  { x with
    pc := p.pc, regs := p.regs, ppSel := p.ppSel, laneSeed := p.laneSeed, lanes := p.lanes
    untaken := p.untaken.map fun l => { l with complete := l.complete && x.shadow.owner == .earlier } }

/-- A group completes REJECTED: nothing of it is committed and the block parks (R108). -/
def State.rejectTag (s : State) (b : BlockId) (tag : BitVec 32) : State :=
  let s1 := s.dropGroup b
  let x := s1.block b
  ((s1.setBlock b { x with rejects := inc x.rejects, reran := none, dipRerun := false }).complete b (s.isChecker b) tag stRejected 0).park b pkRejected
/-- The open group completes REJECTED. -/
def State.reject (s : State) (b : BlockId) : State :=
  match (s.block b).group with
  | some g => s.rejectTag b g.tag
  | none => s
/-- A command the block cannot run: the open group completes REJECTED; in the open state the core parks (R80, R81, R224). -/
def State.refuse (s : State) (b : BlockId) (code : BitVec 16) : State :=
  if (s.block b).inGroup then s.reject b else s.park b code
/-- An access refused under R224, counted in the region. -/
def State.refuseAccess (s : State) (b : BlockId) : State :=
  let r := s.region b.region
  (s.setRegion b.region { r with memRefused := inc r.memRefused }).refuse b pkRefused

/-- The number of a check in CHECK_RERUN's detail (Table 15.5). -/
def checkCode : CellCheck → BitVec 4
  | .pass => 0
  | .ecc1 => 0
  | .ecc2 => 0
  | .parity => 1
  | .residue => 2
  | .range => 3
  | .exponent => 3
  | .pair => 4
/-- The mode that the open group runs under (R66). -/
def BlockState.mode (x : BlockState) : BitVec 2 := match x.group with | some g => g.mode | none => x.checkMode
/-- The checks that run under a checking mode (Table 15.7, R67, R68): residues beside the exponent agreement in the residue modes, all of Table 3.5 in range-check mode, pair compare in full redundancy. -/
def checkRuns (mode : BitVec 2) : CellCheck → Bool
  | .residue => mode == 0b01#2 || mode == 0b10#2
  | .range => mode == 0b00#2
  | .pair => mode == 0b10#2
  | _ => true

/-- A killed group that reruns at once from its GHDR (R19, R102). -/
def State.rerun (s : State) (b : BlockId) (p : Snapshot) (f : BlockState → BlockState) : State :=
  let s1 := s.dropGroup b
  let x := (s1.block b).restore p
  s1.setBlock b (f { x with core := .openState, kills := inc x.kills })
/-- A killed group that completes with a status and stays at its GHDR in a state of the core (R102, R106). -/
def State.killComplete (s : State) (b : BlockId) (g : Group) (status : BitVec 8) (core : CoreState) : State :=
  let s1 := s.dropGroup b
  let x := (s1.block b).restore g.snap
  (s1.setBlock b { x with core := core, kills := inc x.kills, reran := none, dipRerun := false, stopAtGhdr := false }).complete b (s.isChecker b) g.tag status 0
/-- A group whose rerun failed a check again: the block issues no new groups and reports (R19). -/
def State.reportBlock (s : State) (b : BlockId) : State :=
  let x := s.block b
  s.setBlock b { x with report := true, running := false, arrayQ := [], vectorQ := [], fetchQ := [], queueQ := [], vecData := [], run := none,
                        stall := .none, kills := inc x.kills }

/-- A group killed for lost data: its Rider goes void and it reruns under R107, or it completes KILLED and an event is raised (Table 9.6, R137). -/
def State.killLost (s : State) (b : BlockId) (g : Group) (raise : State → State) : State :=
  match g.rider with
  | some r => s.rerun b { g.snap with regs := voidSet g.snap.regs r } id
  | none => raise (s.killComplete b g stKilled .stopped)

/-- The version-table entry and version that the fetch engine's head command names (R163). -/
def headVersion (x : BlockState) : Nat × BitVec 32 :=
  match x.fetchQ with
  | .fetch _ _ _ _ e v _ :: _ => (e, v)
  | _ => (0, 0)

/-- The open group killed before its commit began (R102). -/
def State.killGroup (s : State) (b : BlockId) (cause : KillCause) : State :=
  let x := s.block b
  match x.group with
  | none => s
  | some g =>
    match cause with
    | .check c =>
      if x.reran.isSome then (s.setBlock b { x with reran := some (checkCode c) }).reportBlock b
      else s.rerun b g.snap fun y => { y with reran := some (checkCode c) }
    | .dip =>
      let p := (s.ownerOr0 b).toNat
      let s1 : State := { s with power := { s.power with dipKilled := tSet s.power.dipKilled p (tGet 0 s.power.dipKilled p + 1) } }
      s1.rerun b g.snap fun y => { y with dipRerun := true, rerunHeld := s.power.stretched }
    | .companion => s.rerun b g.snap id
    | .abort => s.killComplete b g stKilled .stopped
    | .memA a => s.killLost b g fun t => t.raiseBlock b evMemDataDropped (det 168 a.toNat ||| det 216 g.tag.toNat)
    | .memW _ => s.killComplete b g stKilled .stopped
    | .relayAbandoned num => s.killLost b g fun t => t.raiseBlock b evRelayAbandoned (det 168 num.toNat ||| det 200 g.tag.toNat)
    | .coder =>
      (s.killComplete b g stKilled .stopped).raiseBlock b evCoderMismatch
        (det 168 (headVersion x).1 ||| det 216 (headVersion x).2.toNat)

/-- The kill that an error status of a group's read brings (Table 9.6). -/
def State.readKill (s : State) (a : Nat) : KillCause := if s.classA a then .memA (BitVec.ofNat 48 a) else .memW (BitVec.ofNat 48 a)

/-! ## Stop and resume -/

/-- Flapino resumes a block at an address (R76, R129, R353). -/
def State.resumeAt (s : State) (b : BlockId) (pc : Addr) : State :=
  s.setBlock b { s.block b with core := .openState, pc := pc, stall := .none, running := true, stopAtGhdr := false, recoverAt := none }

/-- The last completion the block holds takes a late abort (R104, R108). -/
def lateAbortLast : List PendingCpl → List PendingCpl
  | [] => []
  | [c] => [{ c with status := stLateAbort }]
  | c :: r => c :: lateAbortLast r

/-- An abort reaches a block (R104): in the open state it stops before the next GHDR, at once when it waits in RECV; an open group is killed; a group whose commit has begun carries LATE_ABORT and decode stops, its lost companion writes being reported beside it (R108); once its completion has gone the block is in the open state. -/
def State.abortBlock (s : State) (b : BlockId) : State :=
  let x := s.block b
  match x.core with
  | .openState =>
    match x.stall with
    | .recv _ _ _ => s.setBlock b { x with core := .stopped, stall := .none }
    | _ => s.setBlock b { x with stopAtGhdr := true }
  | .inGroup => s.killGroup b .abort
  | .inCommit =>
    match x.cpls.getLast? with
    | none => s.setBlock b { x with stopAtGhdr := true }
    | some c =>
      let t := s.setBlock b { x with core := .stopped, lastStatus := stLateAbort, cpls := lateAbortLast x.cpls }
      if c.status = stFailedCompanion then t.raiseBlock b evCompanionWritesLost (det 168 c.tag.toNat) else t
  | .parked => s
  | .stopped => s

/-! ## One command of the block core -/

/-- Commit has ended: decode continues in the open state (Table 4.13, order 6). -/
def BlockState.endCommit (x : BlockState) : BlockState := if x.core = .inCommit then { x with core := .openState } else x

/-- A command decoded by a block: where the core does not decode nothing happens (log 3); a program counter that cannot be fetched is a refused access (R76). -/
def State.core (s : State) (b : BlockId) (k : State → BlockState → State) : Res :=
  let x := (s.block b).endCommit
  if x.canDecode then .next (if s.pcOk b then k (s.setBlock b x) x else (s.setBlock b x).refuseAccess b) else .next s

/-- A command that ends by going to the next word. -/
def State.done (s : State) (b : BlockId) (x : BlockState) : State := s.setBlock b x.next

/-- An epoch is at least another (R345). -/
def epochGe (a b : Epoch) : Bool := decide ((a - b).toNat < 2 ^ 31)
/-- An epoch trails another by 2^30 or more (R345). -/
def epochTrails (a b : Epoch) : Bool := epochGe b a && decide (2 ^ 30 ≤ (b - a).toNat)

/-- A write that must wait for a source lock (R103, R136). -/
def BlockState.lockedBy (x : BlockState) (a n : Nat) : Bool := x.locks.any fun l => overlaps a n l.range.base l.range.len

/-- A range read in a group lies in its sets (R85) and names neither the working nor the queue area (R92). -/
def readOk (b : BlockId) (x : BlockState) (a n : Nat) : Bool :=
  match x.group with
  | none => true
  | some g => covered (g.reads ++ g.writes) ⟨a, n⟩ && !touchesWork b x a n
/-- A range written in a group lies in its write set (R85, R92). -/
def writeOk (b : BlockId) (x : BlockState) (a n : Nat) : Bool :=
  match x.group with
  | none => true
  | some g => covered g.writes ⟨a, n⟩ && !touchesWork b x a n

/-- The open group changed. -/
def BlockState.mapGroup (x : BlockState) (f : Group → Group) : BlockState := { x with group := x.group.map f }

end Sys2Proof.Machine
end

