-- ==== Sys2Proof/Machine/Queues.lean ====
section
/-! DEFINITION. The queue engine: SEND, RECV and RELAY, delivery and answers, back-off, loss and send stalls (chapter 5, R113 to R129, R149). -/

namespace Sys2Proof.Machine

/-! ## Answers (Table 10.5) -/

def anAccept : BitVec 8 := 0x00
def anFull : BitVec 8 := 0x01
def anCrc : BitVec 8 := 0x02
def anStale : BitVec 8 := 0x03
def anGone : BitVec 8 := 0x04
def anBusy : BitVec 8 := 0x05
def anUnanswered : BitVec 8 := 0x10

/-! ## Delivery (R118, R119) -/

/-- Free entries of a queue. -/
def QueueState.room (q : QueueState) : Nat := q.depth - q.entries.length

/-- A crossing FIFO on the way to a block is closed, its own or, from outside its region, the region's: the far side is treated as fenced (R275). -/
def State.fifoClosed (s : State) (src : QAddr) (b : BlockId) : Bool :=
  let near := QAddr.device src == s.deviceId && (QAddr.blockId src).region == b.region
  s.isClosed (.block b) || (!near && s.isClosed (.region b.region))

/-- The answer of the receiving queue engine to an arrival (R119, R120, R127, R345, R381). -/
def State.arrivalCode (s : State) (d : Descriptor) (parityOk : Bool) : BitVec 8 :=
  let b := QAddr.blockId d.dst
  let x := s.block b
  if !parityOk || d.crc != descCrc d then anCrc
  else if x.swapping then anFull
  else if x.fenced || s.isChecker b || s.fifoClosed d.src b then anGone
  else match s.owner b with
    | none => anGone
    | some _ =>
      if QAddr.device d.src == s.deviceId && (!epochGe d.epoch x.pEpoch || epochTrails d.epoch x.epoch) then anStale
      else if (if QAddr.cls d.dst then 1 else 3) ≤ (x.queue (QAddr.queue d.dst)).room then anAccept
      else anFull

/-- Address of a queue's storage: the queue area starts behind the working area, and the queues lie in it in ascending order, 64 bytes for each entry of their depth (R91, R115). -/
def queueStorage (b : BlockId) (x : BlockState) (q : BitVec 7) : Nat :=
  spadBase b + (x.userBase.toNat - x.queueBytes.toNat) + 64 * ((List.range q.toNat).map fun i => (x.queue (BitVec.ofNat 7 i)).depth).sum

/-- A descriptor put at the tail of a block's queue: it takes the next entry of the queue's storage, in turn (log 95). -/
def BlockState.enqueue (x : BlockState) (q : BitVec 7) (d : Descriptor) : BlockState :=
  let v := x.queue q
  { x.setQueue q { v with entries := v.entries ++ [d], next := (v.next + 1) % v.depth } with qAccepted := inc x.qAccepted }

/-- A descriptor written into a block's queue and its storage (R115). -/
def State.enqueueAt (s : State) (b : BlockId) (q : BitVec 7) (d : Descriptor) : State :=
  let x := s.block b
  let a := queueStorage b x q + 64 * (x.queue q).next
  let s1 := s.setBlock b (x.enqueue q d)
  { s1 with mem := memWrite s1.mem a (descBytes d) }
/-- A descriptor written into a queue; in full redundancy the checker receives it as well (R382). -/
def State.enqueue (s : State) (d : Descriptor) : State :=
  let b := QAddr.blockId d.dst
  let q := QAddr.queue d.dst
  let s1 := s.enqueueAt b q d
  if s.isChecker (pairOf b) then s1.enqueueAt (pairOf b) q d else s1

/-- The outcome of one delivery attempt: the queue written on ACCEPT, a NACK counted (R119). -/
def State.deliver (s : State) (d : Descriptor) (parityOk : Bool) : State × BitVec 8 :=
  let c := s.arrivalCode d parityOk
  let b := QAddr.blockId d.dst
  if c = anAccept then (s.enqueue d, c)
  else (s.setBlock b { s.block b with qNacked := inc (s.block b).qNacked }, c)

/-- An answer put on its way to the sender. -/
def State.answer (s : State) (d : Descriptor) (code : BitVec 8) : State := s.ship (.answer ⟨d.dst, d.src, d.sendSeq, code⟩)

/-- DESCRIPTOR_ARRIVAL (R119): a descriptor that names this package is checked and answered. -/
def execDescriptorArrival (d : Descriptor) (parityOk : Bool) (s : State) : Res :=
  whenHere (QAddr.device d.dst == s.deviceId) s <| s.onArrival (fun i => decide (i = .message d)) fun s1 =>
    let r := s1.deliver d parityOk
    .next (r.1.answer d r.2)

/-! ## The sender (R116 to R123) -/

/-- The descriptor as its release fills it in (R117). -/
def releaseDesc (dev : BitVec 16) (b : BlockId) (x : BlockState) (d : Descriptor) : Descriptor :=
  descSeal { d with src := QAddr.mk dev b (QAddr.queue d.src) (QAddr.cls d.src), sendSeq := x.sendSeq, epoch := x.epoch
                    relay := false, stream := false }

/-- A Relay at the sending link engine with a new number (R131); its source pieces are write-locked until they are read (R136). -/
def State.openRelay (s : State) (b : BlockId) (d : Descriptor) : State :=
  let n := s.nextRelay
  let x := s.block b
  let ls := [Lock.mk ⟨d.ptr0.toNat, d.len0.toNat⟩ (.relay n), Lock.mk ⟨d.ptr1.toNat, d.len1.toNat⟩ (.relay n)].filter
    fun l => decide (0 < l.range.len)
  let s1 := s.setBlock b { x with locks := x.locks ++ ls }
  { s1 with nextRelay := n + 1, relays := s1.relays ++ [⟨n, b, d, 0⟩] }

/-- A message put on its way: a SEND's descriptor, or a Relay open (R131). -/
def State.transmit (s : State) (b : BlockId) (e : SendEntry) : State :=
  if e.isRelay then
    match s.relays.find? fun r => r.block == b && r.desc.dst == e.desc.dst && r.desc.sendSeq == e.desc.sendSeq with
    | some r => s.ship (.relayOpen ⟨r.num, s.deviceId, e.desc⟩)
    | none => s.ship (.message e.desc)
  else s.ship (.message e.desc)

/-- The entries of a send buffer that leave now, each the first of its destination queue and not yet outstanding (R122, R123). -/
def firstReady : List QAddr → List SendEntry → List SendEntry × List SendEntry
  | _, [] => ([], [])
  | seen, e :: r =>
    let blocked := seen.any fun q => QAddr.sameQueue q e.desc.dst
    let go := e.released && !e.outstanding && !blocked
    let rest := firstReady (e.desc.dst :: seen) r
    (if go then { e with outstanding := true } :: rest.1 else e :: rest.1, if go then e :: rest.2 else rest.2)

/-- Released messages whose destination has none outstanding are sent. -/
def State.dispatchSends (s : State) (b : BlockId) : State :=
  let r := firstReady [] (s.block b).sendBuf
  r.2.foldl (fun t e => t.transmit b e) (s.setBlock b { s.block b with sendBuf := r.1 })

/-- The entry a message reference names: outstanding, to that queue, with that send_seq. -/
def isMsg (m : MsgRef) (e : SendEntry) : Bool :=
  e.outstanding && QAddr.sameQueue e.desc.dst m.dst && e.desc.sendSeq == m.seq
def BlockState.msg (x : BlockState) (m : MsgRef) : Option SendEntry := x.sendBuf.find? (isMsg m)

/-- A message placed in the send buffer, marked held; from a void group a Rider goes void (R99, R107). -/
def BlockState.hold (x0 : BlockState) (b : BlockId) (d : Descriptor) (isRelay void : Bool) : BlockState :=
  let d' := if void && d.rider then voidRider d else d
  let x := x0.mapGroup fun g => g.sign sigQueue (sigDesc b d')
  { x with sendBuf := x.sendBuf ++ [⟨d', isRelay, false, false, false, 0, 0, false, false, false⟩] }
/-- The block's group is void (R107). -/
def BlockState.groupVoid (x : BlockState) : Bool := match x.group with | some g => g.void | none => false
/-- The queue engine's head command takes a free entry of the send buffer (R84, R100); stalls that this ends go on. -/
def State.placeQueued (s : State) (b : BlockId) : State :=
  let x := s.block b
  match x.queueQ with
  | [] => s
  | c :: rest =>
    if 32 ≤ x.sendBuf.length then s
    else s.setBlock b ({ x with queueQ := rest }.hold b c.desc c.isRelay x.groupVoid).wake

/-- A message leaves the send buffer: the next to its destination is sent and a SEND that waits for an entry takes it (R100, R122). -/
def State.leave (s : State) (m : MsgRef) : State :=
  let x := s.block m.block
  ((s.setBlock m.block { x with sendBuf := delFirst (isMsg m) x.sendBuf }).dispatchSends m.block).placeQueued m.block

/-- An entry of the send buffer changed. -/
def State.updMsg (s : State) (m : MsgRef) (f : SendEntry → SendEntry) : State :=
  let x := s.block m.block
  s.setBlock m.block { x with sendBuf := updFirst (isMsg m) f x.sendBuf }

/-- The queue-address detail of SEND_STALL and DESC_DROPPED (Table 15.5). -/
def msgDetail (dst src : QAddr) (seq : BitVec 16) : BitVec 88 :=
  det 168 dst.toNat ||| det 200 (QAddr.queue src).toNat ||| det 207 (QAddr.cls src).toNat ||| det 208 seq.toNat

/-- The Stage Table entry of a block's lost Rider: a valid entry whose block set holds the block, of the Rider's stage where several do. -/
def State.stageOfBlock (s : State) (b : BlockId) (pipe : BitVec 16) : Option StageEntry :=
  let es := s.stages.filter fun e => e.2.valid && e.2.quadMask.getLsbD b.quadBit
  (((es.find? fun e => e.2.pipeStage == pipe).orElse fun _ => es.head?)).map (·.2)

/-- A lost Rider: counted, and CRIMSON for the sending block's partition (R146). -/
def State.riderLost (s : State) (b : BlockId) (d : Descriptor) : State :=
  let q : QAddr := match s.stageOfBlock b (d.body.extractLsb' 64 16) with
    | some e => if riderDir d then e.pred else e.succ
    | none => 0
  (s.count fun h => { h with riderLost := inc h.riderLost }).raiseBlock b evRiderLost
    (det 168 (riderStep d).toNat ||| det 200 (riderMb d).toNat ||| det 212 (riderLane d).toNat ||| det 220 q.toNat)

/-- A Relay of the sending link engine ended: no longer listed, its source locks released (R136). -/
def State.endRelay (s : State) (r : RelayTx) : State :=
  let x := s.block r.block
  let s1 := s.setBlock r.block { x with
    locks := x.locks.filter (fun l => decide (l.owner ≠ .relay r.num))
    stall := if x.stall = .lock then .none else x.stall }
  { s1 with relays := s1.relays.filter fun t => t.num != r.num }

/-- A message dropped by its sender (R120, R125, R146). -/
def State.dropMsg (s : State) (m : MsgRef) (e : SendEntry) (reason : BitVec 8) : State :=
  let x := s.block m.block
  let s1 := s.setBlock m.block { x with qDrop := inc x.qDrop }
  let s2 := s1.raiseBlock m.block evDescDropped (msgDetail e.desc.dst e.desc.src e.desc.sendSeq ||| det 224 reason.toNat)
  let s3 := if e.desc.rider then s2.riderLost m.block e.desc else s2
  let s4 := match s3.relays.find? fun r => r.block == m.block && r.desc.dst == e.desc.dst && r.desc.sendSeq == e.desc.sendSeq with
    | some r => if e.isRelay then s3.endRelay r else s3
    | none => s3
  s4.leave m

/-- A void resend in the message's place, with the block's current epoch (R120). -/
def State.resendVoid (s : State) (m : MsgRef) (e : SendEntry) : State :=
  let x := s.block m.block
  let e' : SendEntry := { e with
    desc := voidRider { e.desc with epoch := x.epoch }, isRelay := false, voidResend := true
    crcNacks := 0, waiting := false, backoff := 0, busy := false }
  let s1 := s.setBlock m.block { x with sendBuf := updFirst (isMsg m) (fun _ => e') x.sendBuf, qVoided := inc x.qVoided }
  s1.transmit m.block e'

/-- A final NACK: a Rider is resent void once, anything else and a void resend is dropped (R120). -/
def State.finalNack (s : State) (m : MsgRef) (e : SendEntry) (reason : BitVec 8) : State :=
  if e.desc.rider && !e.voidResend then s.resendVoid m e else s.dropMsg m e reason

/-- An answer on its way to the message with a code. -/
def isAnswer (m : MsgRef) (code : BitVec 8) : InFlight → Bool
  | .answer a => QAddr.blockId a.src == m.block && QAddr.sameQueue a.dst m.dst && a.seq == m.seq && a.code == code
  | _ => false

/-! ## The hub as a sender (R213, R285) -/

/-- The message of the hub that an answer names. -/
def isHubMsg (m : MsgRef) (h : HubSend) : Bool :=
  QAddr.blockId h.desc.src == m.block && QAddr.sameQueue h.desc.dst m.dst && h.desc.sendSeq == m.seq
/-- A hub message put on its way. -/
def State.shipHub (s : State) (h : HubSend) : State :=
  match h.relay with
  | some n => s.shipFrom hubUnit (.relayOpen ⟨n, s.deviceId, h.desc⟩)
  | none => s.shipFrom hubUnit (.message h.desc)
/-- Dropped records joined to the runs that a LOSS record has still to cover (R217). -/
def addRun (runs : List (BitVec 32 × Nat)) (first : BitVec 32) (n : Nat) : List (BitVec 32 × Nat) :=
  match runs.getLast? with
  | some (f, k) => if f + BitVec.ofNat 32 k = first then runs.dropLast ++ [(f, k + n)] else runs ++ [(first, n)]
  | none => [(first, n)]
/-- Records of an export ring dropped (R217). -/
def ExportRing.lose (g : ExportRing) (first : BitVec 32) (n : Nat) : ExportRing :=
  { g with runs := addRun g.runs first n, drops := satAdd g.drops n }
/-- A span is over: its ring space is free; one that was not delivered is dropped (R213, R217). -/
def State.endSpan (s : State) (p : PartId) (bytes : Nat) (first : BitVec 32) (n : Nat) (ok : Bool) : State :=
  let x := s.part p
  match x.exportRing with
  | some g =>
    let g1 := { g with consumed := g.consumed + bytes }
    let s1 := s.setPart p { x with exportRing := some (if ok then g1 else g1.lose first n) }
    if ok then s1 else s1.count fun h => { h with exportDrop := inc h.exportDrop }
  | none => s
/-- A hub message finally answered, or given up (R213, R285). -/
def State.endHubSend (s : State) (h : HubSend) (code : BitVec 8) : State :=
  let s1 : State := { s with
    hubSends := delFirst (fun g => decide (g = h)) s.hubSends
    relays := if code = anAccept then s.relays else s.relays.filter fun r => h.relay ≠ some r.num }
  match h.use with
  | .span p bytes first n => s1.endSpan p bytes first n (code == anAccept)
  | .guest tag => s1.toGuest ⟨0x14, tag, code, []⟩
  | .forgotten => s1
/-- A hub message changed. -/
def State.updHub (s : State) (h g : HubSend) : State := { s with hubSends := updFirst (fun k => decide (k = h)) (fun _ => g) s.hubSends }
/-- An answer to a hub message (R120, R121). -/
def State.hubAnswer (s : State) (m : MsgRef) (code : BitVec 8) : State :=
  match s.hubSends.find? (isHubMsg m) with
  | none => s
  | some h =>
    if code = anFull ∧ h.relay.isSome then s
    else if code = anFull ∨ code = anBusy then s.updHub h { h with waiting := true }
    else if code = anCrc ∧ h.crcNacks + 1 < 3 then
      let g := { h with crcNacks := h.crcNacks + 1 }
      (s.updHub h g).shipHub g
    else s.endHubSend h code

/-- What an answer does to the message it names; nothing where no such message is outstanding. -/
def State.onMsg (s : State) (m : MsgRef) (code : BitVec 8) (k : State → SendEntry → State) : Res :=
  s.onArrival (isAnswer m code) fun s1 =>
    match (s.block m.block).msg m with
    | some e => .next (k s1 e)
    | none => .next (s1.hubAnswer m code)

/-- The Relay at its sender that a message is. -/
def State.relayOf (s : State) (m : MsgRef) (e : SendEntry) : Option RelayTx :=
  if e.isRelay then s.relays.find? fun r => r.block == m.block && r.desc.dst == e.desc.dst && r.desc.sendSeq == e.desc.sendSeq else none
/-- ANSWER_ACCEPT (R120): frees the entry; a Relay without data has ended with it (R131). -/
def execAnswerAccept (m : MsgRef) (s : State) : Res :=
  s.onMsg m anAccept fun t e =>
    match t.relayOf m e with
    | some r => (if descTotal r.desc = 0 then t.endRelay r else t).leave m
    | none => t.leave m

/-- A back-off wait of 64 cycles, doubled by each further NACK up to 4,096 (R121). -/
def backoffNext (w : Nat) : Nat := if w = 0 then 64 else min (2 * w) 4096
/-- The sender waits before it retries. -/
def State.backOff (s : State) (m : MsgRef) (busy : Bool) : State :=
  s.updMsg m fun e => { e with waiting := true, busy := busy, backoff := backoffNext e.backoff }

/-- ANSWER_NACK_FULL (R121). -/
def execAnswerNackFull (m : MsgRef) (s : State) : Res := s.onMsg m anFull fun t _ => t.backOff m false

/-- ANSWER_NACK_BUSY (R121, R132): the Relay open is retried after the same back-off. -/
def execAnswerNackBusy (m : MsgRef) (s : State) : Res := s.onMsg m anBusy fun t _ => t.backOff m true

/-- A Relay of which data has gone, or that has none: what was refused is the descriptor, and the receiving hub, which holds it, delivers it again (R131, R133). -/
def RelayTx.landed (r : RelayTx) : Bool := decide (0 < r.sent) || decide (descTotal r.desc = 0)
/-- ANSWER_NACK_CRC (R120): resent at once, final after three. A Relay's open is resent only while no data has gone; after that the descriptor alone is retried, by the hub that rewrote it. -/
def execAnswerNackCrc (m : MsgRef) (s : State) : Res :=
  s.onMsg m anCrc fun t e =>
    if 3 ≤ e.crcNacks + 1 then t.finalNack m e anCrc
    else
      let e' := { e with crcNacks := e.crcNacks + 1 }
      let t1 := t.updMsg m fun _ => e'
      match e.isRelay, t.relayOf m e with
      | true, some r => if r.landed then t1 else t1.transmit m.block e'
      | true, none => t1
      | false, _ => t1.transmit m.block e'

/-- ANSWER_NACK_STALE (R120). -/
def execAnswerNackStale (m : MsgRef) (s : State) : Res := s.onMsg m anStale fun t e => t.finalNack m e anStale

/-- ANSWER_NACK_GONE (R120): a void resend would have no receiver. -/
def execAnswerNackGone (m : MsgRef) (s : State) : Res := s.onMsg m anGone fun t e => t.dropMsg m e anGone

/-- BACKOFF_EXPIRY (R121): the message is sent again. A Relay whose open has been taken retries its descriptor from the receiving hub (R133). -/
def execBackoffExpiry (m : MsgRef) (s : State) : Res :=
  match (s.block m.block).msg m with
  | some e =>
    when_ e.waiting s <|
      let s1 := s.updMsg m fun e => { e with waiting := false }
      if e.isRelay && !e.busy then s1 else s1.transmit m.block e
  | none =>
    match s.hubSends.find? (isHubMsg m) with
    | some h => when_ h.waiting s ((s.updHub h { h with waiting := false }).shipHub h)
    | none => .next s

/-- LOSS_LIMIT_EXPIRY (R125): a message to another package without an answer is dropped as UNANSWERED. -/
def execLossLimitExpiry (m : MsgRef) (s : State) : Res :=
  match (s.block m.block).msg m with
  | some e => when_ (QAddr.device e.desc.dst != s.deviceId && !e.waiting) s (s.dropMsg m e anUnanswered)
  | none =>
    match s.hubSends.find? (isHubMsg m) with
    | some h => when_ (QAddr.device h.desc.dst != s.deviceId && !h.waiting) s (s.endHubSend h anUnanswered)
    | none => .next s

/-! ## Send stalls (R128, R129) -/

/-- The SEND_STALL record of a block: raised, counted and put before the control complex. -/
def State.raiseStall (s : State) (b : BlockId) (d : Descriptor) : State :=
  let x := s.block b
  let tag := match x.group with | some g => g.tag | none => 0
  let s1 := (s.setBlock b { x with qStall := inc x.qStall }).raiseBlock b evSendStall
    (msgDetail d.dst d.src d.sendSeq ||| det 224 tag.toNat)
  { s1 with fl := { s1.fl with stalls := s1.fl.stalls ++ [⟨b, d.dst, d.src, d.sendSeq, false⟩] } }

/-- SEND_STALL_LIMIT (R128): one record for a message that NACK full or busy keeps waiting, or for a SEND that waits for an entry. -/
def execSendStallLimit (m : MsgRef) (s : State) : Res :=
  let x := s.block m.block
  match x.msg m, x.queueQ with
  | some e, _ =>
    when_ (decide (0 < e.backoff) && !e.stallRaised) s <|
      (s.updMsg m fun e => { e with stallRaised := true }).raiseStall m.block e.desc
  | none, c :: rest =>
    when_ (QAddr.sameQueue c.desc.dst m.dst && !c.raised) s <|
      (s.setBlock m.block { x with queueQ := { c with raised := true } :: rest }).raiseStall m.block c.desc
  | none, [] => .next s

/-- Record j continues record i: i's destination block, on this package, is j's sending block (R129). -/
def stallNext (dev : BitVec 16) (i j : StallRec) : Bool := QAddr.device i.dst == dev && QAddr.blockId i.dst == j.block
/-- Chains of distinct unused records, each given as positions from its last to its first, of one more record than the given ones. -/
def extendChains (dev : BitVec 16) (rs : List (Nat × StallRec)) (cs : List (List (Nat × StallRec))) : List (List (Nat × StallRec)) :=
  cs.flatMap fun c =>
    match c with
    | [] => []
    | h :: _ => (rs.filter fun r => stallNext dev h.2 r.2 && !c.any fun q => q.1 == r.1).map fun r => r :: c
/-- A chain whose last record names the first one's block. -/
def isCycle (dev : BitVec 16) (c : List (Nat × StallRec)) : Bool :=
  match c.head?, c.getLast? with
  | some l, some f => stallNext dev l.2 f.2
  | _, _ => false
/-- The first cycle found among chains of growing length; `fuel` bounds the length. -/
def findCycle (dev : BitVec 16) (rs : List (Nat × StallRec)) : Nat → List (List (Nat × StallRec)) → Option (List (Nat × StallRec))
  | 0, _ => none
  | fuel + 1, cs =>
    match cs.find? (isCycle dev) with
    | some c => some c
    | none => findCycle dev rs fuel (extendChains dev rs cs)
/-- The positions of a list with its elements. -/
def enum {α : Type} (xs : List α) : List (Nat × α) := (List.range xs.length).zip xs

/-- The recovery address of a block's stage (Table 6.1). -/
def State.recoveryPc (s : State) (b : BlockId) : Addr :=
  match s.stageOfBlock b 0 with
  | some e => e.recoveryPc
  | none => 0

/-- STALL_POLICY (R129): under kill younger, the block of a cycle whose record came last is aborted, and resumed at its recovery entry once it has stopped; the cycle's records are not considered again. -/
def execStallPolicy (s : State) : Res :=
  let rs := (enum s.fl.stalls).filter fun r => !r.2.used && (s.block r.2.block).stallPolicy == 0b01#2
  match findCycle s.deviceId rs rs.length (rs.map fun r => [r]) with
  | none => .next s
  | some c =>
    let last := c.foldl (fun a r => if a.1 < r.1 then r else a) (c.headD (0, ⟨⟨0, 0⟩, 0, 0, 0, true⟩))
    let b := last.2.block
    let marked := (enum s.fl.stalls).map fun r => if c.any (fun q => q.1 == r.1) then { r.2 with used := true } else r.2
    let t := ({ s with fl := { s.fl with stalls := marked } } : State).abortBlock b
    .next (if (t.block b).stopAtGhdr then t.setBlock b { t.block b with recoverAt := some (s.recoveryPc b) } else t.resumeAt b (s.recoveryPc b))

/-! ## SEND and RELAY (R89, R99, R100, R131) -/

/-- The common course of SEND and RELAY: the 33rd of a group completes it REJECTED; a free entry is taken at once, else the command waits in the queue engine's queue, whose ninth command stalls decode (R84, R99, R100). -/
def State.place (s : State) (b : BlockId) (x : BlockState) (d : Descriptor) (isRelay : Bool) : State :=
  match x.group with
  | none => s.refuse b pkUnlisted
  | some g =>
    let y := x.mapGroup fun g => { g with sends := g.sends + 1 }
    if 32 ≤ g.sends then s.reject b
    else if x.queueQ.isEmpty && decide (x.sendBuf.length < 32) then s.done b (y.hold b d isRelay g.void)
    else if 8 ≤ x.queueQ.length then s.setBlock b { x with stall := .engine .queue }
    else s.done b { y with queueQ := x.queueQ ++ [⟨d, isRelay, false⟩] }

/-- The descriptor that SEND or RELAY names; none with the reason where the operand is not allowed (R89, R92, R85). -/
def sendDesc (s : State) (b : BlockId) (x : BlockState) (sa : Reg) (byAddr : Bool) : Descriptor ⊕ BitVec 16 :=
  if byAddr then
    let a := x.addr sa
    if a % 64 ≠ 0 then .inr pkUnaligned
    else if !inUser b x a 64 || !readOk b x a 64 then .inr pkRejected
    else .inl (descAt s.mem a)
  else if isDescSet sa then .inl (descOfSet x sa) else .inr pkUnlisted

/-- SEND (R89). -/
def execSend (b : BlockId) (sa : Reg) (byAddr : Bool) (s : State) : Res :=
  s.core b fun s x =>
    if !x.inGroup then s.refuse b pkUnlisted
    else match sendDesc s b x sa byAddr with
      | .inr c => s.refuse b c
      | .inl d => s.place b x d false

/-- A Relay that R131 treats as an unlisted command. -/
def relayBad (d : Descriptor) : Bool := decide (256 * mib < descTotal d) || (!d.rider && d.len0 == 0#32 && d.len1 == 0#32)
/-- The source pieces of a Relay lie in the group's sets (R85, log 34). -/
def relaySourceOk (b : BlockId) (x : BlockState) (d : Descriptor) : Bool :=
  (d.len0 == 0#32 || readOk b x d.ptr0.toNat d.len0.toNat) && (d.len1 == 0#32 || readOk b x d.ptr1.toNat d.len1.toNat)

/-- RELAY (R89, R131). -/
def execRelay (b : BlockId) (sa : Reg) (byAddr : Bool) (s : State) : Res :=
  s.core b fun s x =>
    if !x.inGroup then s.refuse b pkUnlisted
    else match sendDesc s b x sa byAddr with
      | .inr c => s.refuse b c
      | .inl d =>
        if relayBad d then s.refuse b pkUnlisted
        else if !relaySourceOk b x d then s.reject b
        else if !(d.len0 == 0#32 || s.blockAllowed b d.ptr0.toNat d.len0.toNat) || !(d.len1 == 0#32 || s.blockAllowed b d.ptr1.toNat d.len1.toNat) then
          s.refuseAccess b
        else s.place b x d true

/-! ## RECV (R89, R126, R147, R149) -/

/-- The entry whose lane 0 is the block and whose forward queue is q (R142, R147). -/
def State.leadEntry (s : State) (b : BlockId) (q : BitVec 7) : Option (Nat × StageEntry) :=
  s.stages.find? fun e => e.2.valid && e.2.fwdQ == q &&
    (laneBlocks e.2.quadMask ((s.part e.2.partition).checkMode == 0b10#2)).head? == some b

/-- The notice that the removal of a Rider by lane 0 posts (R147). -/
def State.holdNotice (s : State) (b : BlockId) (q : BitVec 7) (d : Descriptor) : State :=
  match s.leadEntry b q with
  | some e =>
    if d.rider && !riderDir d then
      { s with notices := s.notices ++ [⟨true, BitVec.ofNat 6 e.1, riderVersion d, riderStep d, riderMb d, (s.block b).epoch⟩] }
    else s
  | none => s

/-- A forward Rider at lane 0's queue head is treated as absent at the budget (R149). -/
def State.throttled (s : State) (b : BlockId) (q : BitVec 7) (d : Descriptor) : Bool :=
  match s.leadEntry b q with
  | some e => d.rider && !riderDir d && decide (e.2.budget.toNat ≤ e.2.inflight.toNat)
  | none => false

/-- The oldest descriptor that is not reserved, unless the budget hides it (R126, R149). -/
def State.available (s : State) (b : BlockId) (q : BitVec 7) : Option Descriptor :=
  let v := (s.block b).queue q
  match v.entries[v.reserved]? with
  | some d => if s.throttled b q d then none else some d
  | none => none

/-- RECV's destination is allowed (R89, R92, R85); otherwise the code it is refused with. In the open state an aligned address outside user space parks like a refused access (DESIGN CHOICE, log 104). -/
def recvBad (b : BlockId) (x : BlockState) (sd : Reg) (byAddr : Bool) : Option (BitVec 16) :=
  if byAddr then
    let a := x.addr sd
    if a % 64 ≠ 0 then some pkUnaligned
    else if !inUser b x a 64 then some pkRefused
    else if !writeOk b x a 64 then some pkRejected
    else none
  else if isDescSet sd then none else some pkUnlisted

/-- A descriptor taken: reserved in a group, removed at once in the open state with its hold notice; written to its destination (R126, R147). -/
def State.take (s : State) (b : BlockId) (x : BlockState) (q : BitVec 7) (sd : Reg) (byAddr : Bool) (d : Descriptor) : State :=
  let v := x.queue q
  let x1 := match x.group with
    | some _ => (x.setQueue q { v with reserved := v.reserved + 1 }).mapGroup fun g => { g with reserved := g.reserved ++ [q] }
    | none => x.setQueue q { v with entries := v.entries.drop 1 }
  let x2 := if byAddr then x1.mapGroup fun g => g.sign sigQueue (sigWrite b (x.addr sd) (descBytes d)) else putSet x1 sd d
  let s1 := s.done b { x2 with stall := .none }
  let s2 := if byAddr then { s1 with mem := memWrite s1.mem (x.addr sd) (descBytes d) } else s1
  if x.group.isNone then s2.holdNotice b q d else s2

/-- RECV (R89, R126): it waits behind the queue engine's earlier commands (R84), and for a lock on its destination (R103). -/
def execRecv (b : BlockId) (q : BitVec 7) (sd : Reg) (sb : Reg) (nonblock byAddr : Bool) (s : State) : Res :=
  s.core b fun s x =>
    match recvBad b x sd byAddr with
    | some c => s.refuse b c
    | none =>
      if !x.queueQ.isEmpty then s.setBlock b { x with stall := .engine .queue }
      else if byAddr && x.lockedBy (x.addr sd) 64 then s.setBlock b { x with stall := .lock }
      else match s.available b q with
      | some d =>
        let t := s.take b x q sd byAddr d
        if nonblock then t.setBlock b ((t.block b).setReg sb 1) else t
      | none =>
        if nonblock then s.done b (x.setReg sb 0)
        else s.setBlock b { x with stall := .recv q sd byAddr }

/-- RECV_WAKE (R126, R149): the blocked RECV resumes when its queue has a descriptor for it. -/
def execRecvWake (b : BlockId) (s : State) : Res :=
  let x := s.block b
  match x.stall with
  | .recv q sd byAddr =>
    match s.available b q with
    | some d => when_ (!(byAddr && x.lockedBy (x.addr sd) 64)) s (s.take b x q sd byAddr d)
    | none => .next s
  | _ => .next s

end Sys2Proof.Machine
end

