-- ==== Sys2Proof/Machine/Landing.lean ====
section
/-! DEFINITION. Landing rings and Relays at both ends (R130 to R137). -/

namespace Sys2Proof.Machine

/-! ## The ring -/

/-- Segments that may still be granted. -/
def Ring.room (r : Ring) : Nat := r.release + r.segs - r.alloc
/-- A relay's segments: ceil(T / 1 MiB) (R133). -/
def relaySegs (d : Descriptor) : Nat := ceilDiv (descTotal d) mib

/-- The state of a run of positions set. -/
def Ring.setSegs (r : Ring) (first n : Nat) (v : SegState) : Ring :=
  { r with seg := (List.range n).foldl (fun t i => tSet t ((first + i) % r.segs) v) r.seg }

/-- A Relay's mode and place, fixed when it is the oldest not yet fully allocated (R133): none while a whole Relay waits for the ring's tail to become free. -/
def Ring.fix (r : Ring) (x : RelayRx) : Option (Ring × RelayRx) :=
  match x.stream with
  | some _ => some (r, x)
  | none =>
    let pos := r.alloc % r.segs
    if r.segs < x.segs then some (r, { x with stream := some true, start := pos })
    else if pos + x.segs ≤ r.segs then some (r, { x with stream := some false, start := pos })
    else if r.segs - pos ≤ r.room then
      some ({ r.setSegs pos (r.segs - pos) .skipped with alloc := r.alloc + (r.segs - pos) }, { x with stream := some false, start := 0 })
    else none

/-- One segment given to the oldest Relay not yet fully allocated (R132): the ring, and the Relay that a landing credit goes to, which an abandoned one gets none of (R137). None where nothing can be given; a skip of the ring's tail stands even where no segment is free behind it. -/
def Ring.grantOne (r : Ring) : Option (Ring × Option RelayId) :=
  match r.pending.find? fun x => decide (x.granted < x.segs) with
  | none => none
  | some x =>
    match r.fix x with
    | none => none
    | some (r1, x1) =>
      let upd (r : Ring) (y : RelayRx) : Ring := { r with pending := updFirst (fun z => z.id == x.id) (fun _ => y) r.pending }
      if r1.room = 0 then (if r1.alloc = r.alloc then none else some (upd r1 x1, none))
      else
        let seg : SegState := if x.dead then .abandoned x.id else .granted x.id x1.granted 0
        let r2 := r1.setSegs (r1.alloc % r1.segs) 1 seg
        some (upd { r2 with alloc := r2.alloc + 1 } { x1 with granted := x1.granted + 1, landed := if x.dead then x1.landed + 1 else x1.landed },
          if x.dead then none else some x.id)

/-- Every free segment granted, with the landing credits that this sends (R132). `fuel` bounds the grants. -/
def grantLoop : Nat → Ring → List RelayId → Ring × List RelayId
  | 0, r, cs => (r, cs)
  | fuel + 1, r, cs =>
    match r.grantOne with
    | none => (r, cs)
    | some (r1, c) => grantLoop fuel r1 (cs ++ c.toList)

/-- Releases pass over freed and skipped segments (R133, R135). `fuel` bounds the moves. -/
def releaseLoop : Nat → Ring → Ring
  | 0, r => r
  | fuel + 1, r =>
    if r.release < r.alloc then
      match tGet .free r.seg (r.release % r.segs) with
      | .free => releaseLoop fuel { r with release := r.release + 1 }
      | .skipped => releaseLoop fuel { r.setSegs (r.release % r.segs) 1 .free with release := r.release + 1 }
      | _ => r
    else r

/-- The landed pointer moves over the run of segments that are no longer awaited (R130). `fuel` bounds the moves. -/
def landedLoop : Nat → Ring → Ring
  | 0, r => r
  | fuel + 1, r =>
    if r.landedPtr < r.alloc then
      match tGet .free r.seg (r.landedPtr % r.segs) with
      | .granted _ _ _ => r
      | _ => landedLoop fuel { r with landedPtr := r.landedPtr + 1 }
    else r

/-- A Relay of the ring, pending or landed. -/
def Ring.relay (r : Ring) (id : RelayId) : Option RelayRx :=
  (r.pending ++ r.landedRelays).find? fun x => x.id == id
/-- A segment is held by a Relay. -/
def segOf (id : RelayId) : SegState → Bool
  | .granted n _ _ => n == id
  | .landed n => n == id
  | .abandoned n => n == id
  | _ => false
/-- Landed Relays whose last segment has been released are forgotten. -/
def Ring.prune (r : Ring) : Ring :=
  { r with landedRelays := r.landedRelays.filter fun x => r.seg.any fun e => segOf x.id e.2 }

/-- An abandoned Relay to which all its segments have been allocated leaves the pending list (R137). -/
def Ring.bury (r : Ring) : Ring :=
  let gone (x : RelayRx) : Bool := x.dead && decide (x.segs ≤ x.granted)
  { r with pending := r.pending.filter (fun x => !gone x), landedRelays := r.landedRelays ++ r.pending.filter gone }
/-- The ring brought up to date after a change: releases, landed pointer, grants; the credits are shipped, and a landed update where the pointer has moved (R132, R134, R135). -/
def State.settleRing (s : State) (q : QAddr) (r : Ring) : State :=
  let r1 := landedLoop (2 * r.segs) (releaseLoop (2 * r.segs) r)
  let g := grantLoop (2 * r.segs + r.pending.length + 1) r1 []
  let r2 := landedLoop (2 * r.segs) g.1.bury
  let s1 := g.2.foldl (fun t c => t.ship (.credit c.num c.dev)) (s.setRing q r2.prune)
  if some r2.landedPtr = (s.ring q).map (·.landedPtr) then s1 else s1.ship (.landed q r2.landedPtr)

/-! ## Freeing (R135) -/

/-- Positions of the segments that qualify for release, oldest first: landed or abandoned, of a Relay whose descriptor has been delivered. -/
def Ring.qualifying (r : Ring) : List Nat :=
  ((List.range (r.alloc - r.release)).map fun i => (r.release + i) % r.segs).filter fun p =>
    match tGet .free r.seg p with
    | .landed n => match r.relay n with | some x => x.delivered | none => true
    | .abandoned n => match r.relay n with | some x => x.delivered | none => true
    | _ => false

/-- The n oldest qualifying segments of a queue's ring freed (R135). -/
def State.releaseSegs (s : State) (b : BlockId) (q : BitVec 7) (n : Nat) : State :=
  let qa := QAddr.mk 0 b q false
  let err (t : State) : State := t.setBlock b { t.block b with qReleaseErr := inc (t.block b).qReleaseErr }
  if n = 0 then s
  else match s.ring qa with
    | none => err s
    | some r =>
      let ps := r.qualifying
      let s1 := if ps.length < n then err s else s
      s1.settleRing qa ((ps.take n).foldl (fun t p => t.setSegs p 1 .free) r)

/-! ## Relays at the receiver (R131 to R133, R137) -/

/-- Bytes of a piece [p, p + n) of the Relay's byte string that lie in [lo, hi). -/
def clip (p n lo hi : Nat) : Nat := min (p + n) hi - max p lo
/-- Bytes of the Relay that one segment carries: both pieces, without the padding between them. -/
def segBytes (d : Descriptor) (idx : Nat) : Nat :=
  clip 0 d.len0.toNat (idx * mib) ((idx + 1) * mib)
    + clip (align64 d.len0.toNat) d.len1.toNat (idx * mib) ((idx + 1) * mib)

/-- A Rider that cannot have its data is delivered void, once its old crc has been checked; any other descriptor is dropped and its sender told so (R117, R137). -/
def State.relayFails (s : State) (d : Descriptor) : State :=
  if d.crc != descCrc d then s.answer d anCrc
  else if d.rider then s.shipFrom hubUnit (.message (voidRider d)) else s.answer d anGone

/-- RELAY_OPEN (R132, R137). -/
def execRelayOpen (o : RelayOpenMsg) (s : State) : Res :=
  whenHere (QAddr.device o.desc.dst == s.deviceId) s <|
    s.onArrival (fun i => decide (i = .relayOpen o) || isControl 0x03 o.num o.srcDev i) fun s1 => .next <|
      match s1.ring o.desc.dst with
      | none => (s1.count fun h => { h with relayNoring := inc h.relayNoring }).relayFails o.desc
      | some r =>
        if 16 ≤ r.pending.length then s1.answer o.desc anBusy
        else
          let x : RelayRx := ⟨⟨o.srcDev, o.num⟩, o.desc, relaySegs o.desc, none, 0, 0, 0, false, false⟩
          s1.settleRing o.desc.dst { r with pending := r.pending ++ [x] }

/-- A Relay leaves the pending list when its descriptor has been accepted and every segment has landed (R132). -/
def State.retire (s : State) (q : QAddr) (r : Ring) (id : RelayId) : State :=
  match r.pending.find? fun x => x.id == id with
  | some x =>
    if x.delivered && x.landed == x.segs then
      (s.count fun h => { h with relayDone := inc h.relayDone }).settleRing q
        { r with pending := r.pending.filter (fun y => y.id != id), landedRelays := r.landedRelays ++ [x] }
    else s.settleRing q r
  | none => s.settleRing q r

/-- RELAY_SEGMENT_DATA (R133): the bytes lie in the ring from the Relay's start; a whole segment moves the landed pointer and sends the block an update. -/
def execRelaySegmentData (q : QAddr) (id : RelayId) (off : BitVec 32) (data : List Byte) (s : State) : Res :=
  match s.ring q with
  | none => .next s
  | some r =>
    match r.pending.find? fun x => x.id == id with
    | none => .next s
    | some x =>
      let idx := off.toNat / mib
      let pos := (x.start + idx) % r.segs
      match tGet .free r.seg pos with
      | .granted n i got =>
        if n = id ∧ i = idx ∧ off.toNat + data.length ≤ (idx + 1) * mib then
          s.onArrival (fun t => decide (t = .segment q id off.toNat data)) fun s0 =>
          let s1 := s0.put (r.base + pos * mib + off.toNat % mib) data
          if got + data.length < segBytes x.desc idx then
            .next (s1.setRing q (r.setSegs pos 1 (.granted id idx (got + data.length))))
          else
            let r1 := r.setSegs pos 1 (.landed id)
            let t := s1.retire q { r1 with pending := updFirst (fun y => y.id == id) (fun y => { y with landed := y.landed + 1 }) r1.pending } id
            .next (if (t.ring q).map (·.landedPtr) = some r.landedPtr then t.ship (.landed q r.landedPtr) else t)
        else .next s
      | _ => .next s

/-- The descriptor as the receiving hub rewrites it: ring addresses of byte 0 and of piece 1 (R133, R117). -/
def relayDesc (r : Ring) (x : RelayRx) : Descriptor :=
  let at_ (i : Nat) : Addr := BitVec.ofNat 48 (r.base + (x.start * mib + i) % (r.segs * mib))
  descSeal { x.desc with ptr0 := at_ 0, ptr1 := at_ (align64 x.desc.len0.toNat), relay := true, stream := x.stream == some true }

/-- The delivery condition of R133. -/
def relayDue (x : RelayRx) : Bool :=
  !x.delivered && !x.dead && (if x.stream = some true then decide (1 ≤ x.landed) else x.landed == x.segs)

/-- RELAY_DESCRIPTOR_DELIVERY (R133): the rewritten descriptor meets the queue's checks; the data stays in the ring when it is refused. -/
def execRelayDescriptorDelivery (q : QAddr) (id : RelayId) (s : State) : Res :=
  match s.ring q with
  | none => .next s
  | some r =>
    match r.pending.find? fun x => x.id == id with
    | none => .next s
    | some x =>
      when_ (relayDue x) s <|
        let res := s.deliver (relayDesc r x) (x.desc.crc == descCrc x.desc)
        let s1 := res.1.answer x.desc res.2
        if res.2 = anAccept then
          s1.retire q { r with pending := updFirst (fun y => y.id == id) (fun y => { y with delivered := true }) r.pending } id
        else s1

/-- A landed update of a queue. -/
def isLanded (q : QAddr) : InFlight → Bool
  | .landed p _ => p == q
  | _ => false
/-- LANDED_UPDATE (R134): the block's copy of the landed pointer, and reads that waited go on. -/
def execLandedUpdate (q : QAddr) (s : State) : Res :=
  let b := QAddr.blockId q
  match s.ring q with
  | none => .next s
  | some r =>
    let ptr := match s.inflight.find? (fun t => isLanded q t.item) with
      | some ⟨.landed _ p, _, _, _, _⟩ => p
      | _ => r.landedPtr
    s.onArrival (isLanded q) fun s1 =>
    let upd (t : State) (c : BlockId) : State :=
      let x := t.block c
      t.setBlock c { x with landed := tSet x.landed (QAddr.queue q).toNat ptr, stall := if x.stall = .landing then .none else x.stall }
    .next (if s1.isChecker (pairOf b) then upd (upd s1 b) (pairOf b) else upd s1 b)

/-- A Relay abandoned by the receiver (R137): before its descriptor has gone its segments are freed; in stream mode after that, its segments that have not landed are marked abandoned, those still to be allocated as they are allocated. -/
def State.abandon (s : State) (q : QAddr) (r : Ring) (x : RelayRx) : State :=
  let s1 := s.count fun h => { h with relayAbandon := inc h.relayAbandon }
  if x.delivered then
    let seg := r.seg.map fun e => (e.1, match e.2 with | .granted n _ _ => if n = x.id then .abandoned n else e.2 | v => v)
    s1.settleRing q { r with seg := seg, pending := updFirst (fun y => y.id == x.id) (fun y => { y with dead := true }) r.pending }
  else
    let seg := r.seg.map fun e => (e.1, if segOf x.id e.2 then .free else e.2)
    (s1.relayFails x.desc).settleRing q { r with seg := seg, pending := r.pending.filter fun y => y.id != x.id }

/-- RELAY_CANCEL (R137). -/
def execRelayCancel (q : QAddr) (id : RelayId) (s : State) : Res :=
  match s.ring q with
  | none => .next s
  | some r =>
    match r.pending.find? fun x => x.id == id && !x.dead with
    | none => .next s
    | some x =>
      s.onArrival (fun t => decide (t = InFlight.cancel id x.desc.dst) || isControl 0x03 id.num id.dev t) fun s1 => .next (s1.abandon q r x)

/-- RELAY_SEGMENT_TIMEOUT (R137): granted credits and no segment within LOSS_LIMIT. -/
def execRelaySegmentTimeout (q : QAddr) (id : RelayId) (s : State) : Res :=
  match s.ring q with
  | none => .next s
  | some r =>
    match r.pending.find? fun x => x.id == id && !x.dead with
    | none => .next s
    | some x => when_ (decide (x.landed < x.granted)) s (s.abandon q r x)

/-! ## Relays at the sender (R131, R136, R137) -/

/-- The source bytes of a segment, as runs at offsets of the Relay (R131). -/
def segRuns (d : Descriptor) (idx : Nat) : List (Nat × Nat × Nat) :=
  let lo := idx * mib
  let hi := (idx + 1) * mib
  let p1 := align64 d.len0.toNat
  [(max 0 lo, d.ptr0.toNat + lo, clip 0 d.len0.toNat lo hi), (max p1 lo, d.ptr1.toNat + (max p1 lo - p1), clip p1 d.len1.toNat lo hi)].filter
    fun r => decide (0 < r.2.2)

/-- The sending link engine cancels a Relay: it stops reading the source, and the lock is released (R137, Table 9.6). -/
def State.cancelRelay (s : State) (r : RelayTx) : State :=
  ((s.count fun h => { h with relayCancel := inc h.relayCancel }).endRelay r).ship (.cancel ⟨s.deviceId, r.num⟩ r.desc.dst)

/-- The source bytes lie where the sending block may read them (R224). -/
def State.relayAllowed (s : State) (r : RelayTx) (runs : List (Nat × Nat × Nat)) : Bool :=
  s.hubSends.any (fun h => h.relay == some r.num) || runs.all fun p => s.blockAllowed r.block p.2.1 p.2.2
/-- LANDING_CREDIT (R131): one segment is read and sent; an error status cancels the Relay (Table 9.6), and so does a refused read (R224). -/
def execLandingCredit (num : BitVec 32) (hit : BurstErr) (s : State) : Res :=
  match s.relays.find? fun r => r.num == num with
  | none => .next s
  | some r =>
    s.onArrival (fun t => decide (t = .credit num s.deviceId) || isControl 0x03 num (QAddr.device r.desc.dst) t) fun s1 =>
    let runs := segRuns r.desc r.sent
    let d := (s1.struck (runs.map fun p => ⟨p.2.1, p.2.2⟩) hit).readRanges (runs.map fun p => ⟨p.2.1, p.2.2⟩)
    if !s1.relayAllowed r runs then .next ((s1.count fun h => { h with memRefused := inc h.memRefused }).cancelRelay r)
    else if d.2.isSome then .next (d.1.cancelRelay r)
    else
      let s2 := runs.foldl (fun t p => t.ship (.segment r.desc.dst ⟨s.deviceId, num⟩ p.1 (memRead t.mem p.2.1 p.2.2))) d.1
      let r' := { r with sent := r.sent + 1 }
      let s3 : State := { s2 with relays := updFirst (fun t => t.num == num) (fun _ => r') s2.relays }
      .next (if relaySegs r.desc ≤ r'.sent then s3.endRelay r' else s3)

end Sys2Proof.Machine
end

