-- ==== Sys2Proof/Machine/WorkLists.lean ====
section
/-! DEFINITION. The serving sequence table and the work-list builder (R365 to R368). -/

namespace Sys2Proof.Machine

/-! ## Sequence entries (Table 14.5) -/

def sqFree : BitVec 4 := 0x0
def sqWaiting : BitVec 4 := 0x1
def sqListed : BitVec 4 := 0x2
def sqFinished : BitVec 4 := 0x3
def sqShort : BitVec 4 := 0x4

/-- The entry at index i of a partition's range. -/
def State.seq (s : State) (p : PartId) (i : Nat) : SeqEntry := tGet SeqEntry.reset s.seqs ((s.part p).seqBase + i)
/-- That entry replaced. -/
def State.setSeq (s : State) (p : PartId) (i : Nat) (e : SeqEntry) : State :=
  { s with seqs := tSet s.seqs ((s.part p).seqBase + i) e }
/-- The indices of the listed entries of a partition's range. -/
def State.seqIndices (s : State) (p : PartId) : List Nat :=
  let x := s.part p
  (s.seqs.filter fun e => x.seqBase ≤ e.1 && e.1 < x.seqBase + x.seqCount).map fun e => e.1 - x.seqBase

/-- x of an entry: min(ready, chunk) (R366). -/
def seqTokens (bt : BatchP) (e : SeqEntry) : Nat := min e.ready.toNat bt.chunk.toNat
/-- Enough pages for the next tokens (R366). -/
def seqPages (bt : BatchP) (e : SeqEntry) : Bool :=
  decide (ceilDiv (e.position.toNat + seqTokens bt e) bt.pageTokens.toNat ≤ e.kvPages.toNat)
/-- Eligible for a list (R366). -/
def seqEligible (bt : BatchP) (e : SeqEntry) : Bool := e.mode == sqWaiting && decide (0 < e.ready.toNat) && seqPages bt e

/-- Unit field of the work-list builder (Table 15.3). -/
def unitBuilder (p : PartId) : BitVec 24 := unitHub 0x0D p.toNat

/-- Waiting sequences that lack pages become short of pages, with one event each (R366); a passed deadline counts only while a sequence is eligible (R367). -/
def State.settlePages (s : State) (p : PartId) : State :=
  match (s.part p).batch with
  | none => s
  | some bt =>
    let s1 := (s.seqIndices p).foldl (fun t i =>
      let e := t.seq p i
      if e.mode == sqWaiting && !seqPages bt e then
        (t.setSeq p i { e with mode := sqShort }).raise p evKvPages 3 (unitBuilder p) (det 168 i)
      else t) s
    if (s1.part p).wlDeadline && !((s1.seqIndices p).any fun i => seqEligible bt (s1.seq p i)) then s1.setPart p { s1.part p with wlDeadline := false }
    else s1

/-! ## The return of a list (R368) -/

/-- One entry of a returned list applied to its sequence's current values. -/
def State.returnSeq (s : State) (p : PartId) (i : Nat) (x : BitVec 32) (result : Byte) : State :=
  let e := s.seq p i
  if e.removed then { s with seqs := tDel s.seqs ((s.part p).seqBase + i) }
  else
    let e1 := { e with position := e.position + x, ready := e.ready - x.setWidth 16 }
    let e2 := if result.getLsbD 0 then { e1 with ready := e1.ready + 1, remaining := e1.remaining - 1 } else e1
    if result.getLsbD 1 || e2.remaining == 0#32 then
      (s.setSeq p i { e2 with mode := sqFinished }).raise p evSeqFinished 3 (unitBuilder p) (det 168 i ||| det 184 e2.user.toNat)
    else s.setSeq p i { e2 with mode := sqWaiting }

/-- Address of a list slot (R367). -/
def listSlot (bt : BatchP) (i : Nat) : Nat := bt.listBase.toNat + i * (64 + 32 * bt.maxEntries.toNat)

/-- A block returns a list slot to the builder of its partition (R368). -/
def State.returnList (s : State) (b : BlockId) (slot : Nat) : State :=
  let err (t : State) : State := t.count fun h => { h with wlErr := inc h.wlErr }
  match s.owner b with
  | none => err s
  | some p =>
    match tFind (s.part p).lists slot, (s.part p).batch with
    | some l, some bt =>
      let s1 := (enum l.entries).foldl (fun t e =>
        t.returnSeq p e.2.1 e.2.2 (memByte t.mem (listSlot bt slot + 64 + 32 * e.1 + 24))) s
      (s1.setPart p { s1.part p with lists := tDel (s1.part p).lists slot }).settlePages p
    | _, _ => err s

/-! ## Building a list (R367) -/

/-- Descending priority, then ascending arrival. -/
def seqBefore (a b : Nat × SeqEntry) : Bool :=
  b.2.priority.toNat < a.2.priority.toNat || (a.2.priority == b.2.priority && a.2.arrival.toNat ≤ b.2.arrival.toNat)
/-- An entry put in its place. -/
def seqInsert (e : Nat × SeqEntry) : List (Nat × SeqEntry) → List (Nat × SeqEntry)
  | [] => [e]
  | x :: r => if seqBefore e x then e :: x :: r else x :: seqInsert e r
/-- Eligible sequences in the builder's order. -/
def State.eligible (s : State) (p : PartId) (bt : BatchP) : List (Nat × SeqEntry) :=
  (((s.seqIndices p).map fun i => (i, s.seq p i)).filter fun e => seqEligible bt e.2).foldr seqInsert []
/-- Tokens for each sequence in turn: room tokens and slots entries are left. -/
def takeSeqs (bt : BatchP) : List (Nat × SeqEntry) → Nat → Nat → List (Nat × SeqEntry × Nat)
  | [], _, _ => []
  | e :: r, room, slots =>
    if room = 0 ∨ slots = 0 then []
    else
      let x := min (seqTokens bt e.2) room
      (e.1, e.2, x) :: takeSeqs bt r (room - x) (slots - 1)

/-- A list slot of the partition that is free. -/
def freeSlot (x : Partition) (bt : BatchP) : Option Nat :=
  (List.range bt.listDepth.toNat).find? fun i => (tFind x.lists i).isNone
/-- Bytes of a list (Table 14.7). -/
def listBytes (no : BitVec 32) (es : List (Nat × SeqEntry × Nat)) : List Byte :=
  leBytes 4 no.toNat ++ leBytes 4 es.length ++ leBytes 4 (es.foldl (fun a e => a + e.2.2) 0) ++ leBytes 52 0
    ++ es.flatMap fun e =>
      leBytes 4 e.1 ++ leBytes 4 e.2.1.position.toNat ++ leBytes 4 e.2.2 ++ leBytes 4 e.2.1.user.toNat
        ++ leBytes 6 e.2.1.kvList.toNat ++ leBytes 2 e.2.1.kvPages.toNat ++ leBytes 8 0
/-- The descriptor of a list (R367). -/
def listDesc (s : State) (bt : BatchP) (slot size : Nat) (no : BitVec 32) : Descriptor :=
  descSeal { crc := 0, body := no.setWidth 160, len1 := 0, ptr1 := 0, len0 := BitVec.ofNat 32 size
             ptr0 := BitVec.ofNat 48 (listSlot bt slot), stream := false, relay := false, rider := false, epoch := s.epoch
             sendSeq := 0, tag := BitVec.ofNat 16 slot, src := bt.queue, dst := bt.queue }

/-- The builder may build: running, started, a free slot, enough tokens or a passed deadline, and room in the queue (R367). -/
def State.listDue (s : State) (p : PartId) (bt : BatchP) : Bool :=
  let x := s.part p
  let t := (s.eligible p bt).foldl (fun a e => a + seqTokens bt e.2) 0
  x.mode == pRunning && x.wlStarted && decide (0 < t) && (decide (bt.batchMin.toNat ≤ t) || x.wlDeadline)
    && decide (2 < ((s.block (QAddr.blockId bt.queue)).queue (QAddr.queue bt.queue)).room)

/-- WORKLIST_BUILD (R367). -/
def execWorklistBuild (p : PartId) (s : State) : Res :=
  match (s.part p).batch with
  | none => .next s
  | some bt =>
    match freeSlot (s.part p) bt with
    | none => .next s
    | some slot =>
      when_ (s.listDue p bt) s <|
        let x := s.part p
        let es := takeSeqs bt (s.eligible p bt) bt.batchMax.toNat bt.maxEntries.toNat
        let s1 := es.foldl (fun t e => t.setSeq p e.1 { t.seq p e.1 with mode := sqListed }) s
        let l : WorkList := ⟨x.listNo, es.map fun e => (e.1, BitVec.ofNat 32 e.2.2)⟩
        let bs := listBytes x.listNo es
        let s2 := s1.put (listSlot bt slot) bs
        let s3 := s2.setPart p { s2.part p with lists := tSet x.lists slot l, listNo := x.listNo + 1, wlDeadline := false }
        s3.enqueue (listDesc s3 bt slot bs.length x.listNo)

/-- BATCH_DEADLINE_EXPIRY (R367): an eligible sequence has waited for the deadline. -/
def execBatchDeadlineExpiry (p : PartId) (s : State) : Res :=
  match (s.part p).batch with
  | none => .next s
  | some bt =>
    when_ ((s.part p).wlStarted && !(s.eligible p bt).isEmpty) s (s.setPart p { s.part p with wlDeadline := true })

end Sys2Proof.Machine
end

