-- ==== Sys2Proof/Machine/BlockCore.lean ====
section
/-! DEFINITION. The block core's scalar commands and its registers (R76 to R84, R45, R135, R180, R368). -/

namespace Sys2Proof.Machine

/-! ## Block registers (Tables 4.5, 2.4, 3.4, 3.6, 3.7, 5.5 to 5.10, 6.8, 7.1, 7.6, 14.8) -/

/-- BLK_ARRAY_CFG (Table 3.4). -/
def arrayCfgWord (x : BlockState) : Word := 0#61 ++ BitVec.ofBool x.pairRole ++ x.checkMode

/-- BLK_Q_STATUS of a queue (Table 5.10). -/
def State.qStatus (s : State) (b : BlockId) (q : BitVec 7) : Word :=
  qStatusWord ((s.block b).queue q) (s.ring (QAddr.mk 0 b q false)).isSome

/-- A block register read: write-only and unlisted offsets read zero (R8, R82). -/
def State.readReg (s : State) (b : BlockId) (off : BitVec 16) : Word :=
  let x := s.block b
  match off.toNat with
  | 0x0000 => coreStatusWord x
  | 0x0008 => spadLayoutWord x
  | 0x0010 => x.ppSel.setWidth 64
  | 0x0018 => x.srSeed
  | 0x0020 => arrayCfgWord x
  | 0x0028 => keeperWord x
  | 0x0040 => rbCfgWord x
  | 0x0100 => x.arrayBusy
  | 0x0108 => x.shadowStall
  | 0x0110 => x.keeperFill
  | 0x0118 => x.rampHold
  | 0x0120 => x.commits
  | 0x0128 => x.kills
  | 0x0130 => x.rejects
  | 0x0138 => x.grpMeas
  | 0x0140 => x.grpEst
  | 0x0200 => qCfgWord x
  | 0x0210 => x.qAccepted
  | 0x0218 => x.qNacked
  | 0x0220 => x.qDrop
  | 0x0228 => x.qVoided
  | 0x0230 => x.qStall
  | 0x0238 => x.qReleaseErr
  | 0x0300 => x.jobVersion.setWidth 64
  | n => if 0x0400 ≤ n ∧ n < 0x0800 ∧ n % 8 = 0 then s.qStatus b (BitVec.ofNat 7 ((n - 0x0400) / 8)) else 0

def regSeed : BitVec 16 := 0x0018
def regCollPost : BitVec 16 := 0x0048
def regWlDone : BitVec 16 := 0x0050
def regLrRelease : BitVec 16 := 0x0208

/-- All generator lanes seeded (R45, Table 2.4). -/
def BlockState.seedLanes (x : BlockState) (v : Word) : BlockState := { x with srSeed := v, laneSeed := v, lanes := [] }

/-- A write of one of the block's own registers; read-only and unlisted ones ignore it (R82); keeper_en only in BLANK and TEST (R72). -/
def ownReg (lcState : BitVec 4) (x : BlockState) (off : BitVec 16) (v : Word) : BlockState :=
  match off.toNat with
  | 0x0010 => { x with ppSel := v.extractLsb' 0 16 }
  | 0x0018 => x.seedLanes v
  | 0x0028 => if lcState = 0#4 ∨ lcState = 1#4 then { x with keeperEn := v.getLsbD 0 } else x
  | 0x0040 => { x with rbMask := v.extractLsb' 32 16, rbBase := v.extractLsb' 11 11 }
  | _ => x

/-- A post of a plan, with the selector as it stands (R180). -/
def State.postPlan (s : State) (b : BlockId) (v : Word) : State :=
  let p : PlanId := v.extractLsb' 0 10
  let half := (s.block b).ppSel.getLsbD (s.plan p).ppIndex.toNat
  { s with posts := s.posts ++ [⟨b, p, v.extractLsb' 32 32, half⟩] }

/-- A block register written; a checker's write reaches its own registers only (R82, R382). -/
def State.writeReg (s : State) (b : BlockId) (off : BitVec 16) (v : Word) : State :=
  let s1 := s.setBlock b (ownReg s.lc.state (s.block b) off v)
  if s.isChecker b then s1
  else if off = regCollPost then s1.postPlan b v
  else if off = regWlDone then s1.returnList b (v.extractLsb' 0 2).toNat
  else if off = regLrRelease then s1.releaseSegs b (v.extractLsb' 32 7) (v.extractLsb' 0 13).toNat
  else s1

/-- A write by the block core: at once in the open state, held in a group (R82). -/
def State.wrreg (s : State) (b : BlockId) (x : BlockState) (sa : Reg) (off : BitVec 16) : State :=
  if x.inGroup then s.done b (x.mapGroup fun g => ({ g with held := g.held ++ [(off, x.reg sa)] } : Group).sign sigCore (leBytes 2 off.toNat ++ leBytes 8 (x.reg sa).toNat))
  else (s.done b x).writeReg b off (x.reg sa)

/-! ## Scalar commands (R81, Table 4.4) -/

/-- The result of an ALU operation; none for the codes 0xD to 0xF. -/
def aluOp (op : BitVec 4) (a b : Word) : Option Word :=
  match op.toNat with
  | 0x0 => some (a + b)
  | 0x1 => some (a - b)
  | 0x2 => some (a &&& b)
  | 0x3 => some (a ||| b)
  | 0x4 => some (a ^^^ b)
  | 0x5 => some (a <<< (b.extractLsb' 0 6).toNat)
  | 0x6 => some (a >>> (b.extractLsb' 0 6).toNat)
  | 0x7 => some (a.sshiftRight (b.extractLsb' 0 6).toNat)
  | 0x8 => some (a * b)
  | 0x9 => some (if a.slt b then a else b)
  | 0xA => some (if a.slt b then b else a)
  | 0xB => some (if a.slt b then 1 else 0)
  | 0xC => some (if a.ult b then 1 else 0)
  | _ => none

/-- A branch condition; none for the codes 0b110 and 0b111. -/
def brCond (c : BitVec 3) (a b : Word) : Option Bool :=
  match c.toNat with
  | 0 => some (a == b)
  | 1 => some (a != b)
  | 2 => some (a.slt b)
  | 3 => some (!a.slt b)
  | 4 => some (a.ult b)
  | 5 => some (!a.ult b)
  | _ => none

/-- NOP. -/
def execNop (b : BlockId) (s : State) : Res := s.core b fun s x => s.done b x

/-- LI. -/
def execLi (b : BlockId) (sd : Reg) (imm : Word) (s : State) : Res := s.core b fun s x => s.done b (x.setReg sd imm)

/-- An ALU operation on two values. -/
def State.alu (s : State) (b : BlockId) (x : BlockState) (op : BitVec 4) (sd : Reg) (u v : Word) : State :=
  match aluOp op u v with
  | some r => s.done b (x.setReg sd r)
  | none => s.refuse b pkUnlisted

/-- ALU. -/
def execAlu (b : BlockId) (op : BitVec 4) (sd sa sb : Reg) (s : State) : Res :=
  s.core b fun s x => s.alu b x op sd (x.reg sa) (x.reg sb)

/-- ALUI. -/
def execAlui (b : BlockId) (op : BitVec 4) (sd sa : Reg) (imm : Word) (s : State) : Res :=
  s.core b fun s x => s.alu b x op sd (x.reg sa) imm

/-- BR. -/
def execBr (b : BlockId) (cond : BitVec 3) (sa sb : Reg) (offset : BitVec 32) (s : State) : Res :=
  s.core b fun s x =>
    match brCond cond (x.reg sa) (x.reg sb) with
    | some true => s.setBlock b { x with pc := jumpTo x.pc offset }
    | some false => s.done b x
    | none => s.refuse b pkUnlisted

/-- JMP: the target register is read before s1 is written. -/
def execJmp (b : BlockId) (call indirect : Bool) (sa : Reg) (offset : BitVec 32) (s : State) : Res :=
  s.core b fun s x =>
    let t := x.reg sa
    if indirect && t.toNat % 32 != 0 then s.refuse b pkUnaligned
    else
      let y := if call then x.setReg 1#5 ((x.pc + 32).setWidth 64) else x
      s.setBlock b { y with pc := if indirect then t.setWidth 48 else jumpTo x.pc offset }

/-- LOOP: s0 reads zero after its write, so a LOOP on it never branches. -/
def execLoop (b : BlockId) (sd : Reg) (offset : BitVec 32) (s : State) : Res :=
  s.core b fun s x =>
    let y := x.setReg sd (x.reg sd - 1)
    if y.reg sd = 0 then s.done b y else s.setBlock b { y with pc := jumpTo x.pc offset }

/-- RDREG. -/
def execRdreg (b : BlockId) (sd : Reg) (reg : BitVec 16) (s : State) : Res :=
  s.core b fun s x => s.done b (x.setReg sd (s.readReg b reg))

/-- WRREG. -/
def execWrreg (b : BlockId) (sa : Reg) (reg : BitVec 16) (s : State) : Res := s.core b fun s x => s.wrreg b x sa reg

/-- A write of BLK_SR_SEED. -/
def execBlkSrSeedWrite (b : BlockId) (sa : Reg) (s : State) : Res := s.core b fun s x => s.wrreg b x sa regSeed

/-- A write of BLK_LR_RELEASE. -/
def execBlkLrReleaseWrite (b : BlockId) (sa : Reg) (s : State) : Res := s.core b fun s x => s.wrreg b x sa regLrRelease

/-- A write of BLK_COLL_POST. -/
def execBlkCollPostWrite (b : BlockId) (sa : Reg) (s : State) : Res := s.core b fun s x => s.wrreg b x sa regCollPost

/-- A write of BLK_WL_DONE. -/
def execBlkWlDoneWrite (b : BlockId) (sa : Reg) (s : State) : Res := s.core b fun s x => s.wrreg b x sa regWlDone

/-- PARK: in a group it is a command outside its place (R79, R80). -/
def execPark (b : BlockId) (code : BitVec 16) (s : State) : Res :=
  s.core b fun s x => if x.inGroup then s.reject b else s.park b code

/-- An opcode that Table 4.3 does not list (R80). -/
def execUnlistedCommand (b : BlockId) (s : State) : Res := s.core b fun s _ => s.refuse b pkUnlisted

/-! ## LD and ST -/

/-- LD (R81): the own scratchpad answers at once; any other address stalls decode until the data returns. -/
def execLd (b : BlockId) (sd sa : Reg) (imm : Word) (s : State) : Res :=
  s.core b fun s x =>
    let a := (x.reg sa + imm).toNat
    if a % 8 ≠ 0 then s.refuse b pkUnaligned
    else if !readOk b x a 8 then s.reject b
    else if !s.blockAllowed b a 8 then s.refuseAccess b
    else if x.inGroup && (s.ringAbandoned b a 8).isSome then s.killGroup b (.relayAbandoned ((s.ringAbandoned b a 8).getD 0))
    else if s.ringWaits b a 8 then s.setBlock b { x with stall := .landing }
    else if inOwn b a 8 then s.done b (x.setReg sd (BitVec.ofNat 64 (memNat s.mem a 8)))
    else
      let s1 := s.setBlock b { x with stall := .load sd (BitVec.ofNat 48 a) (inCompanion a 8), ldData := [] }
      if inCompanion a 8 then s1.ucRead b.idx a 8 (.ld b) else s1

/-- An LD or a command fetch that the memory answers with an error status, handled as one of a class (Table 9.6). -/
def State.ldError (s : State) (b : BlockId) (a : Nat) (classA : Bool) : State :=
  match (s.block b).group with
  | some _ => s.killGroup b (if classA then .memA (BitVec.ofNat 48 a) else .memW (BitVec.ofNat 48 a))
  | none =>
    let s1 := s.park b pkMemory
    if classA then s1.raiseBlock b evMemDataDropped (det 168 a) else s1
/-- The same for a burst, handled by the class of its GiB. -/
def State.ldFails (s : State) (b : BlockId) (a : Nat) : State := s.ldError b a (s.classA a)

/-- LD_DATA_RETURN (R81, Table 9.6): the data of the LD that stalls decode; a companion LD needs its RD_DATA first. -/
def execLdDataReturn (b : BlockId) (hit : BurstErr) (s : State) : Res :=
  let x := s.block b
  match x.stall with
  | .load sd a companion =>
    if companion then
      when_ (!s.hasReq fun u => u == .ld b) s <|
        s.done b { x.setReg sd (BitVec.ofNat 64 (leNat x.ldData)) with stall := .none, ldData := [] }
    else
      let r := (s.struck [⟨a.toNat, 8⟩] hit).readRanges [⟨a.toNat, 8⟩]
      match r.2 with
      | some e => .next (r.1.ldFails b e)
      | none => .next (r.1.done b { x.setReg sd (BitVec.ofNat 64 (memNat r.1.mem a.toNat 8)) with stall := .none })
  | _ => .next s

/-- ST (R81, R85, R103). -/
def execSt (b : BlockId) (sa sb : Reg) (imm : Word) (s : State) : Res :=
  s.core b fun s x =>
    let a := (x.reg sa + imm).toNat
    if a % 8 ≠ 0 then s.refuse b pkUnaligned
    else if !writeOk b x a 8 then s.reject b
    else if !s.blockAllowed b a 8 then s.refuseAccess b
    else if x.lockedBy a 8 then s.setBlock b { x with stall := .lock }
    else (s.done b x).store b sigCore a (leBytes 8 (x.reg sb).toNat)

/-! ## WAIT and the command cache -/

/-- WAIT (R84). -/
def execWait (b : BlockId) (mask : BitVec 4) (s : State) : Res :=
  s.core b fun s x => if x.idle mask then s.done b x else s.setBlock b { x with stall := .wait mask }

/-- Words that the command cache holds (R76). -/
def cacheWords : Nat := 512

/-- The cache with a word more; a full cache gives up one of its words, which one is open (R76, log 102). -/
def cachePut (c : Tab (BitVec 256)) (pick a : Nat) (w : BitVec 256) : Tab (BitVec 256) :=
  if c.length < cacheWords || (tFind c a).isSome then tSet c a w
  else match c.drop (pick % c.length) with
    | e :: _ => tSet (tDel c e.1) a w
    | [] => c

/-- COMMAND_FETCH_RETURN (R76, R224, Table 9.6): the word enters the cache; a refused fetch and an error status end as for any read of the core. -/
def execCommandFetchReturn (b : BlockId) (hit : BurstErr) (s : State) : Res :=
  let x := (s.block b).endCommit
  when_ x.canDecode s <|
    let s1 := s.setBlock b x
    let a := x.pc.toNat
    if !s1.pcOk b then s1.refuseAccess b
    else
      let r := (s1.struck [⟨a, 32⟩] hit).readRanges [⟨a, 32⟩]
      match r.2 with
      | some e => r.1.ldFails b e
      | none =>
      let v := r.1.free
      v.2.setBlock b { x with cache := cachePut x.cache v.1.toNat a (BitVec.ofNat 256 (memNat r.1.mem a 32)) }

end Sys2Proof.Machine
end

