-- ==== Sys2Proof/Machine/Groups.lean ====
section
/-! DEFINITION. Command groups: GHDR, COMMIT and its steps, completions, ATOMIC, kills, aborts and the read-back fence (R95 to R109, R172, R180, R303). -/

namespace Sys2Proof.Machine

/-! ## GHDR (R97, R98, R107) -/

/-- The snapshot that GHDR saves (R98). -/
def BlockState.snapshot (x : BlockState) : Snapshot := ⟨x.pc, x.regs, x.ppSel, x.laneSeed, x.lanes, x.untaken, x.epoch⟩

/-- The checks of R97 and of the set table's place, which is user space of the own scratchpad (R92, R95). -/
def State.ghdrOk (s : State) (b : BlockId) (x : BlockState) (a n : Nat) (riderEn : Bool) (sb : Reg) : Bool :=
  decide (a % 16 = 0) && inUser b x a (16 * n) && setTableOk b x (setTable s.mem a n)
    && (!riderEn || (isDescSet sb && (descOfSet x sb).rider))

/-- The group that GHDR opens. -/
def openGroup (x : BlockState) (tag : BitVec 32) (es : List SetEntry) (rider : Option Reg) : Group :=
  { tag := tag, snap := x.snapshot, reads := tableReads x.ppSel es, writes := tableWrites x.ppSel es
    amaxWords := tableAmax es, pairs := tablePairs es, rider := rider
    void := match rider with | some r => riderVoid (descOfSet x r) | none => false
    mode := x.checkMode, quiet := false, draining := false, saturated := false, invalid := false, amaxMax := []
    held := [], atomics := [], reserved := [], sends := 0, companion := false, dropMark := false, stale := false, sigs := [] }

/-- GHDR (R416: a group that opens during a stretch in a range-check partition is killed at once; R95, R97, R98): a block told to stop does so here (R104, R356), and goes on at its stall-recovery entry where Flapino waits to resume it (R129); a rerun that is held waits (R416, R312). -/
def execGhdr (b : BlockId) (sa : Reg) (n : BitVec 6) (tag : BitVec 32) (riderEn : Bool) (sb : Reg) (s : State) : Res :=
  s.core b fun s x =>
    if x.inGroup then s.reject b
    else if x.stopAtGhdr then
      let t := s.setBlock b { x with core := .stopped, stopAtGhdr := false }
      match x.recoverAt with
      | some pc => t.resumeAt b pc
      | none => t
    else if x.rerunHeld then s
    else
      let a := x.addr sa
      if !s.ghdrOk b x a n.toNat riderEn sb then (s.setBlock b { x with ghdrPc := x.pc }).rejectTag b tag
      else
        let g := openGroup x tag (setTable s.mem a n.toNat) (if riderEn then some sb else none)
        let t := s.done b { x with group := some g, core := .inGroup, groupTag := tag, ghdrPc := x.pc }
        if s.power.stretched && g.mode == 0#2 && (s.owner b).isSome then t.killGroup b .dip else t

/-- COMMIT (R95, Table 4.13): the drain begins. -/
def execCommit (b : BlockId) (quiet : Bool) (s : State) : Res :=
  s.core b fun s x =>
    if !x.inGroup then s.refuse b pkUnlisted
    else s.setBlock b { x.mapGroup (fun g => { g with quiet := quiet, draining := true }) with stall := .drain }

/-! ## Commit, step 3 (R101, R172, R82, R126, R47) -/

/-- Address of header h(i, n) (R170). -/
def rbHeader (b : BlockId) (x : BlockState) (i : Nat) (n : Bool) : Nat :=
  spadBase b + x.rbBase.toNat * 2048 + 128 * i + (if n then 64 else 0)
/-- The header of the half that becomes the read half (R172): o is the half that was. -/
def rbRewrite (m : Memory) (b : BlockId) (x : BlockState) (i : Nat) (o : Bool) (rider : Option (BitVec 32)) : Memory :=
  let src := rbHeader b x i o
  let dst := rbHeader b x i (!o)
  if !inOwn b src 64 || !inOwn b dst 64 then m
  else
    let m1 := memWrite m dst (memRead m src 64)
    match rider with
    | none => m1
    | some step =>
      let same := memNat m (src + 8) 4 == step.toNat
      let contrib := if same then memNat m (src + 12) 4 + 1 else 1
      memPutNat (memPutNat m1 (dst + 8) 4 step.toNat) (dst + 12) 4 contrib

/-- The step of the group's Rider, where it has a normal one. -/
def groupStep (x : BlockState) (g : Group) : Option (BitVec 32) := g.rider.map fun r => riderStep (descOfSet { x with regs := g.snap.regs } r)

/-- The ping-pong flips of a commit with their header rewrites. -/
def State.flips (s : State) (b : BlockId) (g : Group) : State :=
  if g.void then s
  else (g.pairs.filter (·.flip)).foldl (fun t p =>
    let x := t.block b
    let i := p.ppIndex.toNat
    let o := x.ppSel.getLsbD i
    let t1 := if x.rbMask.getLsbD i then { t with mem := rbRewrite t.mem b x i o (groupStep x g) } else t
    t1.setBlock b { x with ppSel := putBit x.ppSel i (!o) }) s

/-- The held writes in issue order; plan posts leave after step 3 (R180). -/
def State.heldWrites (s : State) (b : BlockId) (g : Group) : State :=
  (g.held.filter fun w => w.1 ≠ regCollPost).foldl (fun t w => t.writeReg b w.1 w.2) s
def State.heldPosts (s : State) (b : BlockId) (g : Group) : State :=
  (g.held.filter fun w => w.1 = regCollPost).foldl (fun t w => t.writeReg b w.1 w.2) s

/-- RECV removals, each with its hold notice (R99, R147). -/
def State.removals (s : State) (b : BlockId) (g : Group) (notify : Bool) : State :=
  g.reserved.foldl (fun t q =>
    let x := t.block b
    let v := x.queue q
    let t1 := t.setBlock b (x.setQueue q { v with entries := v.entries.drop 1, reserved := v.reserved - 1 })
    match v.entries with
    | d :: _ => if notify then t1.holdNotice b q d else t1
    | [] => t1) s

/-- The running maximum of amax word i. -/
def Group.amax (g : Group) (i : Nat) : BitVec 32 := tGet 0 g.amaxMax i
/-- Amax words in the own scratchpad merged by the commit itself (R47). -/
def mergeOwn (m : Memory) (b : BlockId) (g : Group) : Memory :=
  if g.void then m
  else (enum g.amaxWords).foldl (fun t e =>
    if inOwn b e.2 4 then memPutNat t e.2 4 (amaxMax (BitVec.ofNat 32 (memNat t e.2 4)) (g.amax e.1)).toNat else t) m

/-! ## Commit, steps 4 and 5 (R99, R103, R117, R147) -/

/-- The release notice of a backward Rider sent to the predecessor by lane 0 (R147). -/
def State.releaseNotice (s : State) (b : BlockId) (d : Descriptor) : State :=
  let full (e : StageEntry) : Bool := (s.part e.partition).checkMode == 0b10#2
  match s.stages.find? fun e =>
      e.2.valid && QAddr.sameQueue e.2.pred d.dst && (laneBlocks e.2.quadMask (full e.2)).head? == some b with
  | some e =>
    if d.rider && riderDir d then
      { s with notices := s.notices ++ [⟨false, BitVec.ofNat 6 e.1, riderVersion d, riderStep d, riderMb d, (s.block b).epoch⟩] }
    else s
  | none => s

/-- One held message released: filled in, numbered, a Relay opened (R117, R131). -/
def State.releaseOne (s : State) (b : BlockId) (seen : List SendEntry) (e : SendEntry) : State × List SendEntry :=
  if e.released then (s, seen ++ [e])
  else
    let x := s.block b
    let d := releaseDesc s.deviceId b x e.desc
    let s1 := (s.setBlock b { x with sendSeq := x.sendSeq + 1 }).releaseNotice b d
    (if e.isRelay then s1.openRelay b d else s1, seen ++ [{ e with desc := d, released := true }])
/-- The held messages of the group released in issue order. -/
def State.releaseHeld (s : State) (b : BlockId) : State :=
  let r := (s.block b).sendBuf.foldl (fun a e => a.1.releaseOne b a.2 e) (s, [])
  (r.1.setBlock b { r.1.block b with sendBuf := r.2 }).dispatchSends b

/-- The partition under which a block's operations run. -/
def State.opPart (s : State) (b : BlockId) : PartId := s.ownerOr0 b
/-- The memory-side operation of an ATOMIC (R89, R228). -/
def atomicMso (p : PartId) (b : BlockId) (tag : BitVec 32) (a : AtomicRec) : MemSideOp :=
  ⟨a.op.extractLsb' 0 8, a.op.extractLsb' 8 8, a.op.extractLsb' 16 8, a.target, a.source, none, a.len, 0, some (b, tag), none, [], p⟩
/-- The memory-side maximum that merges an amax word (R47, R228). -/
def amaxMso (p : PartId) (b : BlockId) (tag : BitVec 32) (a : Nat) (v : BitVec 32) : MemSideOp :=
  ⟨0x32, 0, 0, a, 0, some v, 4, 0, some (b, tag), none, [], p⟩
/-- Bytes of an ATOMIC's source (R175, R228). -/
def atomicSource (a : AtomicRec) : Nat :=
  if a.op.extractLsb' 0 8 = 0x21#8 ∨ a.op.extractLsb' 0 8 = 0x22#8 then a.len + a.len / 512 else a.len
/-- The operations that step 5 hands to the commit lane; an ATOMIC of no bytes is none (R89, log 103). -/
def commitMsos (p : PartId) (b : BlockId) (g : Group) : List MemSideOp :=
  (g.atomics.filter fun a => decide (0 < a.len)).map (atomicMso p b g.tag)
    ++ (if g.void then [] else ((enum g.amaxWords).filter fun e => !inOwn b e.2 4).map fun e => amaxMso p b g.tag e.2 (g.amax e.1))
/-- Step 5, with the source ranges write-locked (R103). -/
def State.handOff (s : State) (b : BlockId) (g : Group) : State :=
  let x := s.block b
  let s1 := s.setBlock b { x with locks := x.locks ++ g.atomics.map fun a => ⟨⟨a.source, atomicSource a⟩, .atomic⟩ }
  { s1 with msos := s1.msos ++ commitMsos (s.opPart b) b g }

/-! ## Commit, steps 6 and 7 (R110, R360, R303, R304) -/

/-- Group counters (R110, R360): cycles are those from the GHDR to this step. -/
def BlockState.countGroup (x : BlockState) (tag : BitVec 32) (cycles : Word) : BlockState :=
  let e := tGet 0 x.estimates (tag.extractLsb' 24 8).toNat
  let y := { x with commits := inc x.commits }
  if e = 0#32 then y
  else { y with grpMeas := satAdd y.grpMeas cycles.toNat, grpEst := satAdd y.grpEst e.toNat, grpCount := inc y.grpCount }

/-- The read-back of the block's last UC_WR on its stream (R303). -/
def State.readback (s : State) (b : BlockId) (use : CompanionUse) : State :=
  let x := s.block b
  let a := (x.lastUcWr.getD 0).toNat
  (s.setBlock b { x with ucWrNew := false }).companionReq b.idx (companionBase + a) 8 use []

/-- The completion that the block holds after its commit. -/
def State.pendCompletion (s : State) (b : BlockId) (g : Group) : State :=
  let x := s.block b
  let flags := flagsByte (!g.amaxWords.isEmpty && !g.void) x.dipRerun g.invalid g.saturated
  let readback := g.companion && !g.dropMark
  let c : PendingCpl := ⟨g.tag, committedStatus false g.dropMark g.void, flags, (commitMsos 0 b g).length, readback, g.quiet⟩
  let s1 := s.setBlock b { x with cpls := x.cpls ++ [c] }
  if readback then s1.readback b (.commitReadback b) else s1

/-- The block after its commit: in commit until the next command is decoded; weights and an untaken load that the group brought are an earlier group's from now on (R54, R165). -/
def BlockState.closeGroup (x : BlockState) : BlockState :=
  { x.next with
    group := none, core := .inCommit, stall := .none, reran := none, dipRerun := false
    active := x.active.kept, shadow := x.shadow.kept, untaken := x.untaken.map fun l => { l with ofGroup := false } }

/-- GREY CHECK_RERUN for a rerun that completed (R19). -/
def State.rerunEvent (s : State) (b : BlockId) (x : BlockState) (tag : BitVec 32) : State :=
  match x.reran with
  | some c => s.raiseBlock b evCheckRerun (det 168 c.toNat ||| det 200 tag.toNat)
  | none => s

/-- Steps 3 to 7 at a block that performs every effect. -/
def State.commitFull (s : State) (b : BlockId) (g : Group) (cycles : Word) : State :=
  let x0 := s.block b
  let s1 := ((s.flips b g).heldWrites b g).removals b g true
  let s2 : State := { s1 with mem := mergeOwn s1.mem b g }
  let s3 := (((s2.heldPosts b g).releaseHeld b).handOff b g)
  let s4 := (s3.setBlock b ((s3.block b).countGroup g.tag cycles)).pendCompletion b g
  (s4.setBlock b (s4.block b).closeGroup).rerunEvent b x0 g.tag
/-- The commit of a checker: its flips, its own-register writes and its RECV removals (R383). -/
def State.commitChecker (s : State) (b : BlockId) (g : Group) (cycles : Word) : State :=
  let s1 := ((s.flips b g).heldWrites b g).removals b g false
  let x := s1.block b
  s1.setBlock b ({ x with sendBuf := x.sendBuf.filter (·.released) }.countGroup g.tag cycles).closeGroup

/-- A group whose epoch is older than the partition epoch completes STALE_CONFIG and the block parks at its GHDR (R106). -/
def State.staleGroup (s : State) (b : BlockId) : State :=
  match (s.block b).group with
  | some g => s.killComplete b g stStaleConfig .parked
  | none => s

/-- The drain is over: COMMIT has been decoded and every command of the group has finished. -/
def BlockState.drained (x : BlockState) : Bool :=
  x.stall == .drain && x.group.isSome && x.arrayQ.isEmpty && x.vectorQ.isEmpty && x.fetchQ.isEmpty && x.queueQ.isEmpty && !x.fenced && !x.inReset

/-- The partition lets a block begin a commit (R362, R363). -/
def State.mayCommit (s : State) (b : BlockId) : Bool :=
  (s.block b).cpls.isEmpty && !(match s.owner b with | some p => (s.part p).held | none => false)
/-- The epoch test of R106 and R345, taken at the primary. -/
def State.epochPasses (s : State) (b : BlockId) (g : Group) : Bool :=
  epochGe g.snap.epoch (s.block b).pEpoch && !g.stale

/-- The group killed at a block, and at the other block of its pair (R382, R383). -/
def State.killPair (s : State) (b : BlockId) (cause : KillCause) : State :=
  let s1 := s.killGroup b cause
  if s.isChecker b || s.isChecker (pairOf b) then s1.killGroup (pairOf b) cause else s1

/-- The signature of a group: its engines' streams with the running maxima at their end, one pair of CRCs each, put together by XOR (R382). -/
def Group.signature (g : Group) : BitVec 64 :=
  let maxima := (List.range g.amaxWords.length).flatMap fun i => leBytes 4 (g.amax i).toNat
  let h := if maxima.isEmpty then g else g.sign sigArray maxima
  h.sigs.foldl (fun a e => a ^^^ e.2) 0
/-- The two groups of a pair have the same signature. -/
def State.pairAgrees (s : State) (b : BlockId) : Bool :=
  match (s.block b).group, (s.block (pairOf b)).group with
  | some g, some h => g.signature == h.signature
  | _, _ => true
/-- GROUP_COMMIT (R103, R106, R362, R363, R382, R383): steps 2 to 6; a checker commits with its primary where their signatures match, else the pair's group is killed. -/
def execGroupCommit (b : BlockId) (cycles : Word) (s : State) : Res :=
  let pair := s.isChecker (pairOf b)
  match (s.block b).group with
  | none => .next s
  | some g =>
    when_ ((s.block b).drained && s.mayCommit b && !s.isChecker b && (!pair || (s.block (pairOf b)).drained)) s <|
      if pair && !s.pairAgrees b then s.killPair b (.check .pair)
      else if s.epochPasses b g then
        let s1 := s.commitFull b g cycles
        match (s.block (pairOf b)).group, pair with
        | some h, true => s1.commitChecker (pairOf b) h cycles
        | _, _ => s1
      else if pair then (s.staleGroup b).staleGroup (pairOf b) else s.staleGroup b

/-! ## Completion (R103, R109) -/

/-- GROUP_COMPLETION_POST (R103 step 8, R109): a quiet OK group posts nothing. -/
def execGroupCompletionPost (b : BlockId) (s : State) : Res :=
  let x := s.block b
  match x.cpls with
  | [] => .next s
  | c :: rest =>
    when_ (c.acks == 0 && !c.readback) s <|
      let y := { x with cpls := rest, lastStatus := c.status }
      if c.quiet && c.status == stOk then s.setBlock b y
      else
        let r := s.region b.region
        let s1 := s.setBlock b { y with cplSeq := x.cplSeq + 1 }
        s1.setRegion b.region { r with fifo := r.fifo ++ [⟨b, x.cplSeq, c.tag, c.flags, c.status⟩] }

/-! ## ATOMIC (R89, R99, R228) -/

/-- Unit bytes of an operation code: none for a code that Table 9.5 does not list. -/
def msoUnit (op : BitVec 8) : Option Nat :=
  match op.toNat with
  | 0x01 | 0x02 | 0x31 | 0x32 => some 4
  | 0x11 | 0x12 => some 2
  | 0x21 | 0x22 => some 512
  | 0x41 | 0x42 => some 8
  | _ => none
/-- A G16 operation. -/
def msoG16 (op : BitVec 8) : Bool := op == 0x21#8 || op == 0x22#8

/-- The issue checks of an ATOMIC (R89, R99, R175, R228, R36). -/
def atomicOk (b : BlockId) (x : BlockState) (g : Group) (a : AtomicRec) : Bool :=
  let op := a.op.extractLsb' 0 8
  match msoUnit op with
  | none => false
  | some u =>
    let n := atomicSource a
    decide (a.len ≤ 2 ^ 20) && a.len % u == 0 && a.target % u == 0
      && (!msoG16 op || (tValid (a.op.extractLsb' 8 8) && tValid (a.op.extractLsb' 16 8)))
      && covered g.writes ⟨a.source, n⟩ && (inUser b x a.source n || inStacked a.source n)
      && inStacked a.target n && (g.reads ++ g.writes).all fun r => !overlaps a.target n r.base r.len

/-- ATOMIC (R89, R99): recorded until commit; in a void group it has no effect (R107). -/
def execAtomic (b : BlockId) (sd sa sb : Reg) (op : BitVec 24) (s : State) : Res :=
  s.core b fun s x =>
    match x.group with
    | none => s.refuse b pkUnlisted
    | some g =>
      let a : AtomicRec := ⟨x.addr sd, x.addr sa, (x.reg sb).toNat, op⟩
      if !atomicOk b x g a then s.reject b
      else if !s.blockAllowed b a.source (atomicSource a) || !s.blockAllowed b a.target (atomicSource a) then s.refuseAccess b
      else if g.void then s.done b x
      else if 16 ≤ g.atomics.length then s.reject b
      else s.done b (x.mapGroup fun h =>
        ({ h with atomics := h.atomics ++ [a] } : Group).sign sigCore
          (leBytes 8 (sigAddr b a.target) ++ leBytes 8 (sigAddr b a.source) ++ leBytes 8 a.len ++ leBytes 3 a.op.toNat))

/-! ## Kill and abort (R102, R104) -/

/-- A cause that only corrects data, as a single-bit scratchpad error does (R19). -/
def killCorrects : KillCause → Bool
  | .check .pass => true
  | .check .ecc1 => true
  | _ => false
/-- A corrected single-bit error, counted as GREY (R19). -/
def State.countGrey (s : State) (b : BlockId) : State :=
  let p := s.ownerOr0 b
  s.setPart p { s.part p with grey := inc (s.part p).grey }
/-- The cause can arise in the open group: its checking mode runs the check (R66), or its sets hold a burst whose check fails, of that class (Table 9.6). -/
def State.causeArises (s : State) (b : BlockId) (cause : KillCause) : Bool :=
  match cause, (s.block b).group with
  | .check c, some g => checkRuns g.mode c
  | .memA a, some g => s.burstBad a.toNat && s.classA a.toNat && (g.reads ++ g.writes).any fun r => overlaps r.base r.len (a.toNat / 32 * 32) 32
  | .memW a, some g => s.burstBad a.toNat && !s.classA a.toNat && (g.reads ++ g.writes).any fun r => overlaps r.base r.len (a.toNat / 32 * 32) 32
  | .relayAbandoned num, some g => (g.reads ++ g.writes).any fun r => s.ringAbandoned b r.base r.len == some num
  | _, _ => true
/-- The failed read of a kill for lost data, counted and reported at its controller (R231). -/
def State.causeRead (s : State) : KillCause → State
  | .memA a => s.burstFails a.toNat
  | .memW a => s.burstFails a.toNat
  | _ => s
/-- GROUP_KILL (R102, R19): a check that the group's mode does not run fails no group (R17, R67, R68). -/
def execGroupKill (b : BlockId) (cause : KillCause) (s : State) : Res :=
  let x := s.block b
  when_ (x.inGroup && !x.fenced && !x.inReset && !x.report && s.causeArises b cause) s <|
    if killCorrects cause then (if cause = KillCause.check .ecc1 then s.countGrey b else s) else (s.causeRead cause).killPair b cause

/-- BLOCK_ABORT (R104). -/
def execBlockAbort (b : BlockId) (s : State) : Res :=
  let x := s.block b
  when_ (x.running && !x.fenced && !x.inReset) s (s.abortBlock b)

/-! ## The read-back fence (R303) -/

/-- The fetch engine starts the command at its head: a fence issues its read-back, or finishes at once; `fuel` bounds the fences passed. -/
def startFence : Nat → BlockId → State → State
  | 0, _, s => s
  | fuel + 1, b, s =>
    let x := s.block b
    match x.fetchQ with
    | .fence og false :: rest =>
      if x.ucWrNew then (s.setBlock b { x with fetchQ := .fence og true :: rest }).readback b (.fence b)
      else startFence fuel b (s.setBlock b { x with fetchQ := rest })
    | _ => s

/-- FENCE_READBACK (R89, R303), a command of the fetch engine. -/
def execFenceReadback (b : BlockId) (s : State) : Res :=
  s.core b fun s x =>
    if 8 ≤ x.fetchQ.length then s.setBlock b { x with stall := .engine .fetch }
    else startFence 8 b (s.done b { x with fetchQ := x.fetchQ ++ [.fence x.inGroup false] })

/-- A read-back that did not return OK (R303). -/
def State.fenceFails (s : State) : State := { s with scl := { s.scl with fenceErr := inc s.scl.fenceErr } }
/-- The first completion that waits for its read-back. -/
def waitsBack (c : PendingCpl) : Bool := c.readback
/-- The read-back of order 7 over: lost writes make it FAILED_COMPANION, or are reported beside LATE_ABORT (R108, R303). -/
def State.endReadback (s : State) (b : BlockId) (c : PendingCpl) (ok : Bool) : State :=
  let x := s.block b
  let st := if ok || c.status == stLateAbort then c.status else stFailedCompanion
  let s1 := s.setBlock b { x with cpls := updFirst waitsBack (fun d => { d with readback := false, status := st }) x.cpls }
  if !ok && c.status == stLateAbort then s1.raiseBlock b evCompanionWritesLost (det 168 c.tag.toNat) else s1

/-- READBACK_RETURN (R303, R304): the RD_DATA of the oldest read-back has come. -/
def execReadbackReturn (b : BlockId) (st : RespStatus) (s : State) : Res :=
  let x := s.block b
  match x.cpls.find? waitsBack, x.fetchQ with
  | some c, _ => when_ (!s.hasReq fun u => u == .commitReadback b) s (let t := s.endReadback b c (st == .ok); if st = .ok then t else t.fenceFails)
  | none, .fence _ true :: rest =>
    when_ (!s.hasReq fun u => u == .fence b) s <|
      let y := { x with fetchQ := rest }
      let s1 := if st = .ok then s.setBlock b y.wake
        else (s.setBlock b (y.mapGroup fun g => { g with dropMark := true }).wake).fenceFails
      startFence 8 b s1
  | none, _ => .next s

end Sys2Proof.Machine
end

