-- ==== Sys2Proof/Machine/Versions.lean ====
section
/-! DEFINITION. The version store: version-table entries (Tables 6.4 to 6.6), the zero-run coder (R161, R162), the reconstruction of a version (R163). -/

namespace Sys2Proof.Machine

/-! ## Version-table entries -/

def vsFree : Nat := 0
def vsBuilding : Nat := 1
def vsCurrent : Nat := 2
def vsStashed : Nat := 3
def vsRetiring : Nat := 4

/-- A version slot (Table 6.5). -/
structure VSlot where
  version : BitVec 32
  refs : BitVec 32
  base : Nat
  state : Nat
  diff : Bool                                 -- coding: 1, a difference
  length : Nat
  deriving DecidableEq, Repr

/-- A version-table entry (Table 6.4 with its eight slots). -/
structure VEntry where
  gen : BitVec 32
  curVersion : BitVec 32
  curSlot : Nat
  bldSlot : Nat
  bldValid : Bool
  shardBytes : Nat
  wholeA : Nat
  wholeB : Nat
  diffBase : Nat
  diffSize : Nat
  diffHead : Nat
  diffTail : Nat
  slots : List VSlot
  deriving DecidableEq, Repr

/-- Bytes of an entry (R154). -/
def ventryBytes : Nat := 256

/-- A slot in memory. -/
def slotAt (m : Memory) (a : Nat) : VSlot :=
  let c := memNat m (a + 14) 1
  ⟨BitVec.ofNat 32 (memNat m a 4), BitVec.ofNat 32 (memNat m (a + 4) 4), memNat m (a + 8) 6, c % 8, c / 8 % 2 == 1, memNat m (a + 16) 4⟩
/-- The entry at an address. -/
def ventryAt (m : Memory) (a : Nat) : VEntry :=
  let c := memNat m (a + 8) 1
  { gen := BitVec.ofNat 32 (memNat m a 4), curVersion := BitVec.ofNat 32 (memNat m (a + 4) 4), curSlot := c % 8
    bldSlot := c / 16 % 8, bldValid := c / 128 == 1, shardBytes := memNat m (a + 12) 4, wholeA := memNat m (a + 16) 6
    wholeB := memNat m (a + 24) 6, diffBase := memNat m (a + 32) 6, diffSize := memNat m (a + 40) 4
    diffHead := memNat m (a + 44) 4, diffTail := memNat m (a + 48) 4
    slots := (List.range 8).map fun i => slotAt m (a + 64 + 24 * i) }

/-- The 24 bytes of a slot. -/
def slotBytes24 (s : VSlot) : List Byte :=
  leBytes 4 s.version.toNat ++ leBytes 4 s.refs.toNat ++ leBytes 6 s.base ++ leBytes 2 (s.state + (if s.diff then 8 else 0))
    ++ leBytes 8 s.length
/-- The 256 bytes of an entry. -/
def ventryEnc (e : VEntry) : List Byte :=
  leBytes 4 e.gen.toNat ++ leBytes 4 e.curVersion.toNat ++ leBytes 4 (e.curSlot + 16 * e.bldSlot + (if e.bldValid then 128 else 0))
    ++ leBytes 4 e.shardBytes ++ leBytes 8 e.wholeA ++ leBytes 8 e.wholeB ++ leBytes 8 e.diffBase ++ leBytes 4 e.diffSize
    ++ leBytes 4 e.diffHead ++ leBytes 4 e.diffTail ++ leBytes 12 0 ++ e.slots.flatMap slotBytes24
/-- The empty slot. -/
def VSlot.none : VSlot := ⟨0, 0, 0, 0, false, 0⟩
/-- Slot i of an entry. -/
def VEntry.slot (e : VEntry) (i : Nat) : VSlot := e.slots.getD i VSlot.none
/-- One slot changed. -/
def VEntry.setSlot (e : VEntry) (i : Nat) (f : VSlot → VSlot) : VEntry := { e with slots := setNth e.slots i (f (e.slot i)) }

/-! ## The zero-run coder (R161) -/

/-- The bytes of plane p of a group of 16 words. -/
def plane (g : List Byte) (p : Nat) : List Byte := (List.range 16).map fun i => g.getD (4 * i + p) 0
/-- A plane's mask: bit i set for a nonzero byte of word i. -/
def planeMask (ps : List Byte) : Nat := (enum ps).foldl (fun a e => if e.2 = 0#8 then a else a + 2 ^ e.1) 0
/-- One group coded. -/
def codeGroup (g : List Byte) : List Byte :=
  let ps := (List.range 4).map (plane g)
  ps.flatMap (fun p => leBytes 2 (planeMask p)) ++ ps.flatMap fun p => p.filter (· ≠ 0#8)
/-- A difference coded, group by group. -/
def codeDiff (d : List Byte) : List Byte := (chunks 64 d).flatMap codeGroup

/-- A plane's bytes taken from a coded stream by its mask, for words i on; none where the stream ends early. -/
def takePlane (mask : Nat) : Nat → Nat → List Byte → Option (List Byte × List Byte)
  | 0, _, s => some ([], s)
  | n + 1, i, s =>
    if mask / 2 ^ i % 2 = 1 then
      match s with
      | [] => none
      | b :: r => (takePlane mask n (i + 1) r).map fun q => (b :: q.1, q.2)
    else (takePlane mask n (i + 1) s).map fun q => (0 :: q.1, q.2)
/-- The planes of a group taken in turn. -/
def takePlanes : List Nat → List Byte → Option (List (List Byte) × List Byte)
  | [], s => some ([], s)
  | m :: ms, s =>
    match takePlane m 16 0 s with
    | none => none
    | some (p, r) => (takePlanes ms r).map fun q => (p :: q.1, q.2)
/-- One group decoded: its 64 bytes and the rest of the stream. -/
def decodeGroup (s : List Byte) : Option (List Byte × List Byte) :=
  if s.length < 8 then none
  else
    let masks := (List.range 4).map fun p => leNat ((s.drop (2 * p)).take 2)
    (takePlanes masks (s.drop 8)).map fun q =>
      ((List.range 16).flatMap fun i => q.1.map fun p => p.getD i 0, q.2)
/-- n groups decoded; none unless they consume the stream exactly (R163). -/
def decodeDiff : Nat → List Byte → Option (List Byte)
  | 0, [] => some []
  | 0, _ :: _ => none
  | n + 1, s =>
    match decodeGroup s with
    | none => none
    | some (g, r) => (decodeDiff n r).map fun q => g ++ q
/-- Byte strings XORed. -/
def xorBytes (a b : List Byte) : List Byte := List.zipWith (· ^^^ ·) a b

/-- A coded difference read from the area, with its wrap (R162). -/
def diffRead (m : Memory) (e : VEntry) (s : VSlot) : List Byte :=
  (List.range s.length).map fun j => memByte m (e.diffBase + (s.base + j) % e.diffSize)
/-- Where bytes of a coded difference go from diff_tail on, with the wrap (R162): address and bytes. -/
def diffPlaces (e : VEntry) (bs : List Byte) : List (Nat × List Byte) :=
  let room := e.diffSize - e.diffTail
  [(e.diffBase + e.diffTail, bs.take room), (e.diffBase, bs.drop room)].filter fun p => !p.2.isEmpty

/-! ## Fetching a version (R163) -/

/-- The slots whose differences lead from the current version to version u; none where the entry is not well formed for u. -/
def versionChain (e : VEntry) (u : BitVec 32) : Option (List VSlot) :=
  let c := e.slot e.curSlot
  if c.state ≠ vsCurrent ∨ c.diff then none
  else if u = e.curVersion then some []
  else if u.toNat < e.curVersion.toNat ∧ e.curVersion.toNat - u.toNat ≤ 7 ∧ e.diffSize ≠ 0 then
    (List.range (e.curVersion.toNat - u.toNat)).mapM fun i =>
      e.slots.find? fun s => s.state == vsStashed && s.diff && s.version.toNat == u.toNat + i
  else none

/-- The bytes of version u: the whole area of the current slot with the differences XORed in; none where a coded difference does not fit its groups. -/
def versionBytes (m : Memory) (e : VEntry) (chain : List VSlot) : Option (List Byte) :=
  chain.foldl (fun a s =>
    match a, decodeDiff (e.shardBytes / 64) (diffRead m e s) with
    | some w, some d => some (xorBytes w d)
    | _, _ => none) (some (memRead m (e.slot e.curSlot).base e.shardBytes))

/-- The ranges that the reconstruction of a version reads. -/
def versionReads (e : VEntry) (chain : List VSlot) : List Range :=
  ⟨(e.slot e.curSlot).base, e.shardBytes⟩ :: (if chain.isEmpty then [] else [⟨e.diffBase, e.diffSize⟩])

end Sys2Proof.Machine
end

