-- ==== Sys2Proof/Machine/PartOps.lean ====
section
/-! DEFINITION. Operations that the control complex's commands share: rings and records (R323 to R331), the error table (R369 to R374), partition states (R350), scope and epoch of a command (R333, R334), background commands (R332). -/

namespace Sys2Proof.Machine

/-! ## Rings (R323, R326, R328) -/

/-- S of a ring in units; 0 when its size field disables it (Table 13.9). -/
def ringUnits (r : RingRegs) : Nat :=
  let k := (r.reg.extractLsb' 0 6).toNat
  if 12 ≤ k ∧ k ≤ 26 then 2 ^ (k - 6) else 0
/-- Units that the ring holds. -/
def ringUsed (r : RingRegs) : Nat := (r.tail - r.head).toNat
/-- Units of the PAD that a record of n units needs before it (R326). -/
def padUnits (r : RingRegs) (n : Nat) : Nat :=
  let p := r.tail.toNat % ringUnits r
  if ringUnits r < p + n then ringUnits r - p else 0
/-- A record of n units, with its PAD, fits (R328). -/
def ringFits (r : RingRegs) (n : Nat) : Bool :=
  decide (n + 1 ≤ ringUnits r) && decide (ringUsed r + padUnits r n + n ≤ ringUnits r)
/-- The tail moved past a record and its PAD. -/
def ringPut (r : RingRegs) (n : Nat) : RingRegs := { r with tail := r.tail + BitVec.ofNat 32 (padUnits r n + n) }

/-- Units of a completion-ring record (Table 13.11, R364). -/
def recordUnits : CplRecord → Nat
  | .cmdDone c => if c.flags.getLsbD 2 then 1 else 1 + ceilDiv (8 * c.data.length) 64
  | .groupDone es => ceilDiv (32 + 16 * es.length) 64

/-- A device record of n units at a count: the header of Table 13.10 with its crc, the payload, zeros. -/
def recordBytes (code : BitVec 16) (units : Nat) (seq tag : BitVec 32) (epoch : Epoch) (status reason flags : BitVec 8) (p : PartId)
    (payload : List Byte) : List Byte :=
  let w1 : BitVec 96 := tag ++ seq ++ BitVec.ofNat 16 units ++ code
  let w2 : BitVec 128 := BitVec.ofNat 16 (units / 65536) ++ 0#48 ++ BitVec.ofNat 8 p.toNat ++ flags ++ reason ++ status ++ epoch
  let lo := leBytes 12 w1.toNat
  let hi := padTo (64 * units - 16) (leBytes 16 w2.toNat ++ payload)
  lo ++ leBytes 4 (crc32c (lo ++ hi)).toNat ++ hi
/-- An error record's 32 bytes (Table 15.2). -/
def errorBytes (e : ErrorRecord) : List Byte :=
  leBytes 32 (e.detail ++ e.last ++ e.first ++ e.count ++ e.unit ++ 0#6 ++ e.partition ++ e.level ++ e.cls ++ e.code : BitVec 256).toNat
/-- An entry of a GROUP_DONE record (Table 14.4). -/
def cplEntryBytes (e : CplEntry) : List Byte :=
  leBytes 16 (0#32 ++ e.seq ++ e.tag ++ 1#1 ++ 0#7 ++ e.block.block ++ e.block.region ++ e.flags ++ e.status : BitVec 128).toNat
/-- Words of returned data as bytes. -/
def wordBytes (ws : List Word) : List Byte := ws.flatMap fun w => leBytes 8 w.toNat

/-- Companion address of the line at a count of a ring (R323). -/
def ringLine (r : RingRegs) (n : Nat) : BitVec 47 :=
  BitVec.ofNat 47 ((r.reg.extractLsb' 12 36).toNat * 4096 + n % ringUnits r * 64)
/-- CO_WRs of a record's 64-byte lines from a companion physical address, each under a tag of its own (R307, R328). -/
def State.writeLines (s : State) (p : PartId) (event : Bool) (a : Nat) (bs : List Byte) : State :=
  (enum (chunks 64 bs)).foldl (fun t c =>
    ({ t with scl := { t.scl with nextTag := t.scl.nextTag + 1 } } : State).sendReq
      ⟨t.scl.nextTag, 269, BitVec.ofNat 48 (a + 64 * c.1), 64, .record p event, c.2⟩) s
/-- The CO_WRs of a record at a ring's tail: its PAD first, where it needs one (R326, R328). `f` gives the record that starts at a count. -/
def State.writeRing (s : State) (p : PartId) (event : Bool) (r : RingRegs) (units : Nat) (f : BitVec 32 → List Byte) : State :=
  let pad := padUnits r units
  let s1 := if pad = 0 then s
    else s.writeLines p event (ringLine r r.tail.toNat).toNat (recordBytes 0 pad r.tail 0 s.epoch 0 0 0 p [])
  let at_ := r.tail + BitVec.ofNat 32 pad
  s1.writeLines p event (ringLine r at_.toNat).toNat (f at_)
/-- A completion record's bytes at a count (Table 13.11, R364). -/
def cplBytes (p : PartId) (epoch : Epoch) (r : CplRecord) (seq : BitVec 32) : List Byte :=
  match r with
  | .cmdDone c =>
    let head : BitVec 96 := BitVec.ofNat 32 (8 * c.data.length) ++ c.seq ++ 0#16 ++ c.opcode
    recordBytes 0x0001 (recordUnits r) seq c.tag epoch c.status c.reason c.flags p
      (padTo 32 (leBytes 12 head.toNat) ++ if c.flags.getLsbD 2 then [] else wordBytes c.data)
  | .groupDone es => recordBytes 0x0002 (recordUnits r) seq 0 epoch 0 0 0 p (es.flatMap cplEntryBytes)
/-- The CO_WRs of a completion record: the long result of a command goes first (R335). -/
def State.emitRecord (s : State) (p : PartId) (r : CplRecord) : State :=
  let s1 := match r with
    | .cmdDone c => if c.flags.getLsbD 2 then s.writeLines p false c.result.toNat (wordBytes c.data) else s
    | .groupDone _ => s
  s1.writeRing p false (s1.part p).cplRing (recordUnits r) (cplBytes p s1.epoch r)
/-- The CO_WR of an EVENT record (Table 13.11). -/
def State.emitEvent (s : State) (p : PartId) (e : ErrorRecord) : State :=
  s.writeRing p true (s.part p).evtRing 1 fun seq => recordBytes 0x0003 1 seq 0 s.epoch 0 0 0 p (errorBytes e)

/-- The oldest completion record is written when the session is attached and it fits (R328, R315). -/
def State.pumpCpl (s : State) (p : PartId) : State :=
  let x := s.part p
  match x.records with
  | r :: rest =>
    if s.attached && !r.writing && ringFits x.cplRing (recordUnits r.record) then
      (s.setPart p { x with records := { r with writing := true } :: rest }).emitRecord p r.record
    else s
  | [] => s

/-- A record put behind the partition's others in the hub store. -/
def State.storeRecord (s : State) (p : PartId) (r : CplRecord) : State :=
  let x := s.part p
  (s.setPart p { x with records := x.records ++ [⟨r, false⟩] }).pumpCpl p

/-! ## The error table (R369 to R374) -/

/-- The entry created first. -/
def firstEntry : List ErrEntry → Option ErrEntry
  | [] => none
  | e :: r => match firstEntry r with
    | none => some e
    | some f => if f.no < e.no then some f else some e

/-- The oldest guest message is posted to the event ring; the spec gives no code for its record (R286, log 49). -/
def State.pumpMbox (s : State) (p : PartId) : State :=
  let x := s.part p
  match x.mbox with
  | (bs, false) :: rest =>
    if s.attached && ringFits x.evtRing 2 then
      let v := s.free
      (v.2.setPart p { x with mbox := (bs, true) :: rest }).writeRing p true x.evtRing 2 fun seq =>
        recordBytes (v.1.setWidth 16) 2 seq 0 s.epoch 0 0 0 p bs
    else s
  | _ => s
/-- A record of the event ring is being written. -/
def Partition.evtBusy (x : Partition) : Bool := x.errs.any (·.writing) || x.mbox.any (·.2)
/-- The oldest entry of a partition is written to its event ring (R373, R328). -/
def State.pumpEvt (s : State) (p : PartId) : State :=
  let x := s.part p
  match firstEntry x.errs with
  | some e =>
    if s.attached && !x.evtBusy && ringFits x.evtRing 1 then
      (s.setPart p { x with errs := updFirst (fun f => f.no == e.no) (fun f => { f with writing := true }) x.errs }).emitEvent p e.record
    else s
  | none => s.pumpMbox p

/-- The record of one event at a cycle. -/
def eventRecord (e : EventReq) (cyc : BitVec 48) : ErrorRecord :=
  ⟨e.detail, cyc, cyc, 1, e.unit, e.partition, e.level, eventClass e.code, e.code⟩
/-- A later occurrence merged into a record. -/
def ErrorRecord.again (r : ErrorRecord) (cyc : BitVec 48) : ErrorRecord :=
  { r with count := if r.count = 0xFFFF#16 then r.count else r.count + 1, last := cyc }
/-- One event added to the counts of an EVENTS_MERGED record (R373 step 4). -/
def mergeDetail (d : BitVec 88) (cls : BitVec 2) : BitVec 88 :=
  let g := d.extractLsb' 0 32
  let a := d.extractLsb' 32 32
  if cls = clsGrey then 0#24 ++ a ++ (if g = 0xFFFFFFFF#32 then g else g + 1)
  else 0#24 ++ (if a = 0xFFFFFFFF#32 then a else a + 1) ++ g
/-- The EVENTS_MERGED record that an event starts. -/
def mergedRecord (e : EventReq) (cyc : BitVec 48) : ErrorRecord :=
  ⟨mergeDetail 0 (eventClass e.code), cyc, cyc, 1, unitHub 0x01 e.partition.toNat, e.partition, 3, clsGrey, evEventsMerged⟩

/-- The kind of entry that an event takes when no general entry is free. -/
def reservedKind (cls : BitVec 2) : ErrKind :=
  if cls = clsUmber then .umber else if cls = clsCrimson then .crimson else .merge
/-- The record with which an event starts a reserved or merge entry, or its follow-on. -/
def startRecord (k : ErrKind) (e : EventReq) (cyc : BitVec 48) : ErrorRecord :=
  if k = .merge then mergedRecord e cyc else eventRecord e cyc
/-- The record of such an entry after one more event. -/
def moreRecord (k : ErrKind) (r : ErrorRecord) (e : EventReq) (cyc : BitVec 48) : ErrorRecord :=
  if k = .merge then { r.again cyc with detail := mergeDetail r.detail (eventClass e.code) } else r.again cyc

/-- General entries in use. -/
def State.generalUsed (s : State) : Nat :=
  (s.parts.map fun x => (x.2.errs.filter fun e => decide (e.kind = .general)).length).sum

/-- An event merged with an entry that names the same thing (R373 step 1). -/
def sameEvent (e : EventReq) (x : ErrEntry) : Bool := !x.writing && x.record.code == e.code && x.record.unit == e.unit

/-- The entry list of a partition after an event that found no entry of its own (R373 steps 2 to 5). -/
def placeNew (errs : List ErrEntry) (no : Nat) (general : Bool) (e : EventReq) (cyc : BitVec 48) : List ErrEntry :=
  let k := reservedKind (eventClass e.code)
  if general then errs ++ [⟨.general, eventRecord e cyc, false, none, no, 0⟩]
  else if errs.any (fun x => decide (x.kind = k)) then
    updFirst (fun x => decide (x.kind = k)) (fun x =>
      if x.writing then
        match x.follow with
        | none => { x with follow := some (startRecord k e cyc), followNo := no }
        | some r => { x with follow := some (moreRecord k r e cyc) }
      else { x with record := moreRecord k x.record e cyc }) errs
  else errs ++ [⟨k, startRecord k e cyc, false, none, no, 0⟩]

/-- An event placed in the error table, at a free cycle count (R371, R373; log 4). -/
def State.placeEvent (s : State) (e : EventReq) : State :=
  let v := s.free
  let cyc := v.1.setWidth 48
  let x := v.2.part e.partition
  if x.errs.any (sameEvent e) then
    (v.2.setPart e.partition { x with errs := updFirst (sameEvent e) (fun y => { y with record := y.record.again cyc }) x.errs }).pumpEvt e.partition
  else
    let general := decide (v.2.generalUsed < 928)
    let merged := !general && decide (reservedKind (eventClass e.code) = .merge)
    (v.2.setPart e.partition { x with
      errs := placeNew x.errs x.errNo general e cyc, errNo := x.errNo + 1
      merged := if merged then inc x.merged else x.merged }).pumpEvt e.partition

/-- The class counter of an event (R369). -/
def Partition.countClass (x : Partition) (cls : BitVec 2) : Partition :=
  if cls = clsGrey then { x with grey := inc x.grey }
  else if cls = clsAmber then { x with amber := inc x.amber }
  else if cls = clsUmber then { x with umber := inc x.umber }
  else { x with crimson := inc x.crimson }

/-! ## Commands: records (R330, R331, R335) -/

def rsField : BitVec 8 := 0x01
def rsState : BitVec 8 := 0x02
def rsScope : BitVec 8 := 0x03
def rsAddress : BitVec 8 := 0x04
def rsDraftFull : BitVec 8 := 0x05
def rsDraftCheck : BitVec 8 := 0x06
def rsNoBuffer : BitVec 8 := 0x07
def rsImage : BitVec 8 := 0x08
def rsStart : BitVec 8 := 0x09
def cdOk : BitVec 8 := 0x00
def cdStale : BitVec 8 := 0x05
def cdRejected : BitVec 8 := 0x06
def cdTooLong : BitVec 8 := 0x07
def cdUnknown : BitVec 8 := 0x08
def cdFailed : BitVec 8 := 0x09
def flStaged : BitVec 8 := 0x01
def flFenced : BitVec 8 := 0x02
def flResult : BitVec 8 := 0x04

/-- A command completes: its CMD_DONE goes to the partition that issued it; data beyond 1,984 bytes needs result_addr (R335). -/
def State.cmdDone (s : State) (r : Running) (status reason flags : BitVec 8) (data : List Word) : State :=
  let long := decide (248 < data.length)
  let c : CmdDone :=
    if long && r.hdr.resultAddr == 0#48 then ⟨r.hdr.opcode, r.hdr.tag, r.seq, cdRejected, rsNoBuffer, 0, 0, []⟩
    else ⟨r.hdr.opcode, r.hdr.tag, r.seq, status, reason, if long then flags ||| flResult else flags, r.hdr.resultAddr, data⟩
  s.storeRecord r.part (.cmdDone c)
/-- OK without returned data. -/
def State.ok (s : State) (r : Running) : State := s.cmdDone r cdOk 0 0 []
/-- OK with returned data. -/
def State.okData (s : State) (r : Running) (data : List Word) : State := s.cmdDone r cdOk 0 0 data
/-- REJECTED with a reason. -/
def State.rejected (s : State) (r : Running) (reason : BitVec 8) : State := s.cmdDone r cdRejected reason 0 []
/-- FAILED with a reason. -/
def State.failed (s : State) (r : Running) (reason : BitVec 8) : State := s.cmdDone r cdFailed reason 0 []

/-- A command with several conditions of refusal: the first that holds gives the reason. -/
def firstReason : List (Bool × BitVec 8) → Option (BitVec 8)
  | [] => none
  | (c, r) :: rest => if c then some r else firstReason rest
/-- A command refused for a reason, or carried out. -/
def State.unless (s : State) (r : Running) (why : Option (BitVec 8)) (k : State) : State :=
  match why with
  | some x => s.rejected r x
  | none => k

/-! ## Scope and epoch (R333, R334) -/

/-- The scopes of Table 13.13: P with a partition field, P on the issuer, K, A. -/
inductive Scope where
  | names (p : PartId)
  | own
  | package
  | all
  deriving DecidableEq, Repr

/-- The target partition of a P command. -/
def scopeTarget (r : Running) : Scope → PartId
  | .names p => p
  | _ => r.part
/-- R333. -/
def scopeOk (r : Running) : Scope → Bool
  | .names p => p == r.part || r.part == 0#5
  | .own => true
  | .package => r.part == 0#5
  | .all => true
/-- The epoch with which the header's is compared (R334). -/
def State.scopeEpoch (s : State) (r : Running) : Scope → Epoch
  | .names p => (s.part p).epoch
  | .own => (s.part r.part).epoch
  | _ => s.epoch
/-- The header's epoch is older than its target's. -/
def staleHdr (h e : Epoch) : Bool := h != 0#32 && !epochGe h e

/-- Flapino carries out the command that it has read when it is this one (R332 to R334), one of subject 0x07 only with a sound security engine (R379); otherwise nothing happens (log 3). -/
def State.cmd (s : State) (op : BitVec 16) (sc : Scope) (k : State → Running → State) : Res :=
  match s.fl.current with
  | none => .next s
  | some r =>
    when_ (r.hdr.opcode == op) s <|
      let s1 : State := { s with fl := { s.fl with current := none } }
      if !scopeOk r sc then s1.rejected r rsScope
      else if staleHdr r.hdr.epoch (s1.scopeEpoch r sc) then s1.cmdDone r cdStale 0 0 []
      else if s1.lc.securityFault && op.extractLsb' 8 8 == 0x07#8 then s1.rejected r rsImage
      else k s1 r

/-! ## Background commands (R332) -/

/-- Opcodes of kind B (Table 13.13). -/
def bgOpcodes : List (BitVec 16) := [0x0106, 0x010A, 0x010D, 0x010F, 0x0245, 0x0603, 0x0702, 0x0705, 0x0802]
/-- A background command put among those running. -/
def State.startBg (s : State) (r : Running) : State := { s with fl := { s.fl with bg := s.fl.bg ++ [r] } }
/-- The running background command of a partition with an opcode. -/
def State.bgOf (s : State) (p : PartId) (op : BitVec 16) : Option Running := s.fl.bg.find? fun r => r.part == p && r.hdr.opcode == op
/-- It is over. -/
def State.dropBg (s : State) (p : PartId) (op : BitVec 16) : State :=
  { s with fl := { s.fl with bg := s.fl.bg.filter fun r => !(r.part == p && r.hdr.opcode == op) } }
/-- It completes. -/
def State.endBg (s : State) (p : PartId) (op : BitVec 16) (k : State → Running → State) : State :=
  match s.bgOf p op with
  | some r => k (s.dropBg p op) r
  | none => s

def opPartDrain : BitVec 16 := 0x0106
def opPartReset : BitVec 16 := 0x010A
def opQuadRepair : BitVec 16 := 0x010D
def opRegionReset : BitVec 16 := 0x010F
def opPermute : BitVec 16 := 0x0245
def opMarginTest : BitVec 16 := 0x0603
def opLcTransition : BitVec 16 := 0x0702
def opFwUpdate : BitVec 16 := 0x0705
def opExportShard : BitVec 16 := 0x0802

/-! ## Update units as aborts meet them (R211) -/

/-- A record put before a partition's export engine (R214). -/
def State.export_ (s : State) (p : PartId) (e : ExportRec) : State :=
  let x := s.part p
  match x.exportRing with
  | some g => s.setPart p { x with exportRing := some { g with pending := g.pending ++ [e] } }
  | none => s

def exBegin : BitVec 8 := 0x01
def exDiff : BitVec 8 := 0x02
def exEnd : BitVec 8 := 0x03
def exAbandon : BitVec 8 := 0x04
def exPublished : BitVec 8 := 0x05
def exFull : BitVec 8 := 0x06
def exState : BitVec 8 := 0x07
def exLoss : BitVec 8 := 0x08
def exPad : BitVec 8 := 0x09

/-- A task entry of a region. -/
def State.task (s : State) (r : RegionId) (k : Nat) : TaskEntry := tGet TaskEntry.reset (s.region r).upd.tasks k
/-- A region's update unit changed. -/
def State.setUpd (s : State) (r : RegionId) (u : UpdateUnit) : State := s.setRegion r { s.region r with upd := u }
/-- A record of a task's series (Table 8.7). -/
def taskRec (s : State) (t : TaskEntry) (type : BitVec 8) (step version off count aux : BitVec 32) (payload : List Byte) : ExportRec :=
  ⟨type, t.ventry, (s.stage t.stage).job, step, version, off, count, aux, payload, false⟩

/-- A read for the version engine (Table 9.6, R148): whether data came; an error status raises CRIMSON, here for class A, where it is read for class W. -/
def State.engineRead (s : State) (p : PartId) (a n : Nat) : State × Bool :=
  let r := s.readRanges [⟨a, n⟩]
  match r.2 with
  | none => (r.1, true)
  | some x => (if r.1.classA x then r.1.raise p evMemUncorrectable 2 (unitStack x) (det 168 x) else r.1, false)
/-- A version-table entry read as one access. -/
def State.readEntry (s : State) (p : PartId) (a : Nat) : State × Bool := s.engineRead p a ventryBytes
/-- A changed version-table entry written back as one access: gen rises by one (R155). -/
def State.putEntry (s : State) (a : Nat) (v : VEntry) : State := s.put a (ventryEnc { v with gen := v.gen + 1 })

/-- The building slot of an entry freed and bld_valid cleared (R211 step 2), as one change of the entry (R155); a failed read of the entry changes nothing (Table 9.6). -/
def State.freeBuilding (s : State) (p : PartId) (a : Nat) : State :=
  let r := s.readEntry p a
  let e := ventryAt r.1.mem a
  if r.2 && e.bldValid then r.1.putEntry a { e.setSlot e.bldSlot (fun _ => VSlot.none) with bldValid := false } else r.1

/-- The number of an interruption cause in UPDATE_FAILED: its place in the list of R211. -/
def updCauseCode : UpdCause → Nat
  | .abort => 0
  | .mismatch => 1
  | .memory => 2
  | .coder => 3
  | .slowTier => 4
  | .fence => 5

/-- The CRIMSON of a cause that the task does not outlive (R206, R211, R378). -/
def State.updateCrimson (s : State) (r : RegionId) (t : RunTask) (c : UpdCause) : State :=
  let p := t.entry.partition
  match c with
  | .abort => s
  | .slowTier => s
  | .coder => s.raise p evCoderMismatch 2 (unitRegion r 5 t.task) (det 168 t.step.toNat ||| det 200 t.group)
  | _ => s.raise p evUpdateFailed 2 (unitRegion r 5 t.task) (det 168 t.step.toNat ||| det 200 (updCauseCode c))

/-- An update interrupted (R211): streaming stops, the building slot is freed, an ABANDON record is written, the event is counted, and what the companion still has to answer is forgotten; the task waits for the resume or the attach, or is lost. -/
def State.interruptUpdate (s : State) (r : RegionId) (c : UpdCause) : State :=
  let u := (s.region r).upd
  match u.run with
  | none => s
  | some t =>
    let te := t.entry
    let again := decide (c = .abort) || decide (c = .slowTier)
    let s1 := (s.freeBuilding te.partition te.ventry.toNat).dropReqs fun q => q == .update r
    let s2 := if te.exportEn then s1.export_ te.partition (taskRec s1 te exAbandon t.step (t.step + 1) 0 0 0 []) else s1
    let s3 := s2.setUpd r { (s2.region r).upd with
      run := none, slotReady := none, interrupted := inc u.interrupted
      held := if again then u.held ++ [(t.task, t.step, decide (c = .slowTier))] else u.held
      lost := if again then u.lost else (te.plan, t.step) :: u.lost }
    s3.updateCrimson r t c

/-- Interrupted tasks back in their queue: those of a partition that resumes, or those of the slow tier (R211). -/
def State.requeueTasks (s : State) (pick : TaskEntry → Bool → Bool) : State :=
  allRegions.foldl (fun t r =>
    let u := (t.region r).upd
    let go (h : Nat × BitVec 32 × Bool) : Bool := pick (t.task r h.1) h.2.2
    t.setUpd r { u with queue := u.queue ++ (u.held.filter go).map (fun h => (h.1, h.2.1)), held := u.held.filter fun h => !go h }) s

/-! ## The job version at the blocks (R166) -/

/-- J as a block holds it: the lowest job_version of the valid entries whose block set contains it, and 0 without one (R166, log 113). -/
def State.blockJob (s : State) (b : BlockId) : BitVec 32 :=
  match (s.stages.filter fun e => e.2.valid && e.2.quadMask.getLsbD b.quadBit).map (·.2.jobVersion) with
  | [] => 0
  | v :: vs => vs.foldl (fun m w => if w.toNat < m.toNat then w else m) v
/-- BLK_JOB_VERSION of every block brought up to the Stage Table. -/
def State.syncJobs (s : State) : State :=
  allBlocks.foldl (fun t b =>
    let x := t.block b
    let v := s.blockJob b
    if x.jobVersion = v then t else t.setBlock b { x with jobVersion := v }) s

/-! ## Partition states (R350, R356) -/

/-- A change of state, with its event. -/
def State.setPartMode (s : State) (p : PartId) (m : BitVec 4) : State :=
  let x := s.part p
  (s.setPart p { x with mode := m }).raise p evPartState 3 (unitHub 0x02 p.toNat) (det 168 x.mode.toNat ||| det 172 m.toNat)

/-- An abort of every block of a partition, and of its running update tasks (R356). -/
def State.abortPart (s : State) (p : PartId) : State :=
  let s1 := (s.partBlocks p).foldl (fun t b => t.abortBlock b) s
  allRegions.foldl (fun t r =>
    match (t.region r).upd.run with
    | some k => if k.entry.partition = p then t.interruptUpdate r .abort else t
    | none => t) s1

/-- A partition enters FAILED (R350); a pending PART_DRAIN fails (R357). -/
def State.failPart (s : State) (p : PartId) : State :=
  let m := (s.part p).mode
  if m = pNone ∨ m = pResetting ∨ m = pFailed then s
  else ((s.abortPart p).setPartMode p pFailed).endBg p opPartDrain fun t r => t.failed r rsState

/-- The windows of the hub's list of stored completions: entries of a partition in the store (R363). -/
def Partition.stored (x : Partition) : Nat :=
  x.pendingCpl.length + (x.records.map fun r => match r.record with | .groupDone es => es.length | .cmdDone _ => 0).sum

end Sys2Proof.Machine
end

