-- ==== Sys2Proof/Machine/MemoryCtl.lean ====
section
/-! DEFINITION. The stack controllers: memory-side operations, patrol scrub, class switch, refresh and self refresh (R174 to R176, R227 to R238, R451). -/

namespace Sys2Proof.Machine

/-! ## A stack's requests (R235, R237, R361) -/

/-- Bytes served for the partition whose range holds the address (R361); a stack that is asked leaves self refresh (R235). -/
def State.served (s : State) (a n : Nat) : State :=
  let p := s.memOwner a
  let t := s.setPart p { s.part p with memBytes := satAdd (s.part p).memBytes n }
  (t.setStack (stackOf a) { t.stack (stackOf a) with selfRefresh := false }).count fun h => { h with memAll := satAdd h.memAll n }
/-- The stack of an address has finished its wipe: requests are served (R237). -/
def State.memUp (s : State) (a : Nat) : Bool := (s.stack (stackOf a)).wipeDone
/-- Every stack that holds a granule of a range serves requests. -/
def State.stacksUp (s : State) (a n : Nat) : Bool :=
  !inStacked a n || (List.range (n / 256 + 1)).all fun i => s.memUp (min (a + 256 * i) (a + n - 1))
/-- The parity of an access and the stack's own corrections counted (R235). -/
def State.countBus (s : State) (a : Nat) (bus : BusCheck) (onDie : Bool) : State :=
  s.countStack a fun t => { t with
    caRetry := if bus = .ok then t.caRetry else inc t.caRetry
    odecc := if onDie then inc t.odecc else t.odecc }
/-- A second parity failure, handled as a class W uncorrectable error of any class of range (R235). -/
def State.busFails (s : State) (a : Nat) : State :=
  (s.countStack a fun t => { t with wUncorr := inc t.wUncorr }).raiseStack a evMemUncorrectable 0

/-! ## Arithmetic of the memory-side adders (Table 7.3) -/

/-- The NaN that a memory-side operation writes. -/
def msoNan : BitVec 32 := 0x7FC00000
/-- A result with its invalid flag: a NaN read or produced (R451). -/
def msoF32 (max : Bool) (a b : BitVec 32) : BitVec 32 × Bool :=
  let na := f32IsNan a
  let nb := f32IsNan b
  if max then
    (if na then (if nb then msoNan else f32Flush b) else if nb then f32Flush a else f32Flush (if f32Less a b then b else a), na || nb)
  else
    let r := (f32Add a b).1
    (if f32IsNan r then msoNan else r, na || nb || f32IsNan r)
/-- A BF16 result: FP32, then converted; a result taken as the largest finite value sets saturated (R451). -/
def msoBf16 (max : Bool) (a b : BitVec 16) : BitVec 16 × Bool × Bool :=
  let r := msoF32 max (a ++ 0#16) (b ++ 0#16)
  let c := convElem 0x2 0 false (f32 r.1) .nearest
  let inf := match f32 r.1 with | .inf _ => true | _ => false
  (BitVec.ofNat 16 c.1, r.2, c.2.1 || inf)

/-- A value as an A32 word: truncated, saturated or flushed (R60); whether it saturated. -/
def a32Of (d : Dy) : BitVec 32 × Bool := a32Add 0 (if d.neg then -(d.m : Int) else d.m) (d.e + 46)
/-- The A32 sum of an accumulator and a value. -/
def a32Plus (acc : BitVec 32) (d : Dy) : BitVec 32 × Bool := a32Add acc (if d.neg then -(d.m : Int) else d.m) (d.e + 46)
/-- The A32 sum of two decoded values, each first brought into the A32 range (R60, R185); whether anything saturated. -/
def a32Sum (x y : Dy) : BitVec 32 × Bool :=
  let a := a32Of x
  let b := a32Of y
  let r := a32Plus a.1 (a32Read b.1).1
  (r.1, a.2 || b.2 || r.2)
/-- A G16 code with its scale byte and t decoded under R32. -/
def g16Val (code : Nat) (scale : Byte) (t : Int) : Dy := (fetchVal 0xC code (some scale)).1.scale (-t)
/-- A G16 element that reads as NaN, by its code or by its block's scale (R32, R34). -/
def g16Nan (code : Nat) (scale : Byte) : Bool :=
  (readScale scale).isNone || match readElem 0xC code with
    | .nan => true
    | _ => false
/-- The larger of two values, with −0 below +0. -/
def dyLarger (a b : Dy) : Dy := if a.m = 0 ∧ b.m = 0 then (if a.neg then b else a) else if a.lt b then b else a

/-- One G16 unit: the new codes and scale byte, invalid (a NaN read, R451), saturated. -/
def msoG16Unit (max : Bool) (tDst tSrc : Int) (dst src : List Nat) (dScale sScale : Byte) : List Nat × Byte × Bool × Bool :=
  let rs : List (Dy × Bool) := (dst.zip src).map fun e =>
    let x := g16Val e.1 dScale tDst
    let y := g16Val e.2 sScale tSrc
    if max then (dyLarger x y, false) else let r := a32Sum x y; ((a32Read r.1).1, r.2)
  let c := convBlock 0xC tDst (rs.map fun r => (.fin r.1, .nearest))
  (c.codes, c.scales.headD 0, dst.any (g16Nan · dScale) || src.any (g16Nan · sScale), c.saturated || rs.any (·.2))

/-! ## One unit of an operation (R176) -/

/-- n bytes at an offset of an operation's source. -/
def State.msoSource (s : State) (m : MemSideOp) (off n : Nat) : List Byte :=
  match m.imm with
  | some v => (leBytes 4 v.toNat).drop off |>.take n
  | none => if !m.guestData.isEmpty then (m.guestData.drop off).take n else memRead s.mem (m.source + off) n
/-- 16-bit codes of a byte string. -/
def codes16 (bs : List Byte) : List Nat := (chunks 2 bs).map leNat

/-- The memory after one unit, with invalid and saturated. -/
def State.msoApply (s : State) (m : MemSideOp) : Memory × Bool × Bool :=
  let mx := decide (m.op.toNat % 16 = 2)
  let off := m.done
  let a := m.target + off
  match m.op.toNat / 16 with
  | 0 =>
    let r := msoF32 mx (BitVec.ofNat 32 (memNat s.mem a 4)) (BitVec.ofNat 32 (leNat (s.msoSource m off 4)))
    (memPutNat s.mem a 4 r.1.toNat, r.2, false)
  | 1 =>
    let r := msoBf16 mx (BitVec.ofNat 16 (memNat s.mem a 2)) (BitVec.ofNat 16 (leNat (s.msoSource m off 2)))
    (memPutNat s.mem a 2 r.1.toNat, r.2.1, r.2.2)
  | 2 =>
    let sc := m.target + m.len + off / 512
    let r := msoG16Unit mx m.tDst.toInt m.tSrc.toInt (codes16 (memRead s.mem a 512)) (codes16 (s.msoSource m off 512)) (memByte s.mem sc)
      ((s.msoSource m (m.len + off / 512) 1).headD 0)
    (memPut (memWrite s.mem a (r.1.flatMap (leBytes 2))) sc r.2.1, r.2.2.1, r.2.2.2)
  | 3 =>
    let x := BitVec.ofNat 32 (memNat s.mem a 4)
    let y := BitVec.ofNat 32 (leNat (s.msoSource m off 4))
    (memPutNat s.mem a 4 (if mx then (if x.slt y then y else x) else x + y).toNat, false, false)
  | _ =>
    let x := BitVec.ofNat 64 (memNat s.mem a 8)
    let y := BitVec.ofNat 64 (leNat (s.msoSource m off 8))
    (memPutNat s.mem a 8 (if mx then (if x.slt y then y else x) else x + y).toNat, false, false)

/-- Flags of a group's operation put into its completion (R451). -/
def State.msoFlags (s : State) (m : MemSideOp) (invalid saturated : Bool) : State :=
  match m.issuer with
  | none => s
  | some (b, tag) =>
    let x := s.block b
    s.setBlock b { x with cpls := updFirst (fun c => c.tag == tag) (fun c => { c with
      flags := c.flags ||| flagsByte false false invalid saturated }) x.cpls }

/-- The detail that names the issuing block and group of an operation (Table 15.5). -/
def msoDetail (m : MemSideOp) : BitVec 88 :=
  match m.issuer with
  | some (b, tag) => det 216 b.idx ||| det 224 tag.toNat
  | none => 0
/-- An amax merge that does not take place: its group's completion no longer says that every amax word was merged (R46). -/
def State.amaxLost (s : State) (m : MemSideOp) : State :=
  match m.issuer, m.imm with
  | some (b, tag), some _ =>
    let x := s.block b
    s.setBlock b { x with cpls := updFirst (fun c => c.tag == tag) (fun c => { c with flags := c.flags &&& ~~~flagsByte true false false false }) x.cpls }
  | _, _ => s
/-- One unit dropped for an error (Table 9.6): the target keeps its contents; a class W error has raised its CRIMSON where it was read. -/
def State.msoDrop (s : State) (m : MemSideOp) (classA : Bool) : State :=
  let a := m.target + m.done
  let s1 := (s.countStack a fun t => { t with atomicDrop := inc t.atomicDrop }).amaxLost m
  if classA then s1.raiseStack a evAtomicDropped (msoDetail m) else s1
/-- One unit refused under R224: dropped, with AMBER ATOMIC_DROPPED, and counted by the region or the hub that refused it (R103). -/
def State.msoRefuse (s : State) (m : MemSideOp) : State :=
  let s1 := match m.issuer with
    | some (b, _) => let r := s.region b.region; s.setRegion b.region { r with memRefused := inc r.memRefused }
    | none => s.count fun h => { h with memRefused := inc h.memRefused }
  let a := m.target + m.done
  (s1.amaxLost m).raise (match m.issuer with | some (b, _) => s.ownerOr0 b | none => m.partition) evAtomicDropped 2 (unitStack a)
    (det 168 a ||| msoDetail m)

/-- The last lock that an ATOMIC's source range holds is released, and a write that waited for it goes on (R103). -/
def BlockState.freeAtomic (x : BlockState) (r : Range) : BlockState :=
  { x with locks := delFirst (fun l => decide (l.owner = .atomic) && decide (l.range = r)) x.locks
           stall := if x.stall = .lock then .none else x.stall }

/-- An operation with every unit done: acknowledged to its group, or answered to the guest (R103, R285). -/
def State.msoDone (s : State) (m : MemSideOp) : State :=
  let s1 : State := { s with msos := s.msos.tail }
  match m.issuer, m.guestTag with
  | some (b, tag), _ =>
    let x := s1.block b
    let y := { x with cpls := updFirst (fun c => c.tag == tag && decide (0 < c.acks)) (fun c => { c with acks := c.acks - 1 }) x.cpls }
    let n := if msoG16 m.op then m.len + m.len / 512 else m.len
    s1.setBlock b (if m.imm.isNone then y.freeAtomic ⟨m.source, n⟩ else y)
  | none, some tag => s1.toGuest ⟨0x13, tag, 0, []⟩
  | none, none => s1

/-- The bytes of memory that one unit reads as its source, and its target: elements, and for G16 the block's scale byte (R175, R176). -/
def msoSources (m : MemSideOp) (u : Nat) : List Range :=
  if m.imm.isSome || !m.guestData.isEmpty then []
  else ⟨m.source + m.done, u⟩ :: if msoG16 m.op then [⟨m.source + m.len + m.done / 512, 1⟩] else []
def msoTargets (m : MemSideOp) (u : Nat) : List Range :=
  ⟨m.target + m.done, u⟩ :: if msoG16 m.op then [⟨m.target + m.len + m.done / 512, 1⟩] else []
/-- A range that R224 lets an operation reach. -/
def State.msoMay (s : State) (m : MemSideOp) (r : Range) : Bool :=
  match m.issuer with
  | some (b, _) => s.blockAllowed b r.base r.len
  | none => s.allowed m.partition r.base r.len
/-- The commit lane waits: a source in a landing ring has not landed (R134), or a stack has not been wiped (R237). -/
def State.msoWaits (s : State) (m : MemSideOp) (u : Nat) : Bool :=
  (match m.issuer with
   | some (b, _) => (msoSources m u).any fun r => s.ringWaits b r.base r.len
   | none => false) || (msoTargets m u ++ msoSources m u).any fun r => inStacked r.base r.len && !s.memUp r.base
/-- One unit: read, computed and written with nothing in between; a failed or a refused access drops it (R103, R176, Table 9.6). -/
def State.msoUnitRun (s : State) (m : MemSideOp) (u : Nat) : State :=
  if !(msoTargets m u ++ msoSources m u).all (s.msoMay m) then s.msoRefuse m
  else
    let src := (s.served (m.target + m.done) u).readRanges (msoSources m u)
    match src.2 with
    | some a => src.1.msoDrop m (src.1.classA a)
    | none =>
      let dst := src.1.readRanges (msoTargets m u)
      match dst.2 with
      | some a => dst.1.msoDrop m (dst.1.classA a)
      | none =>
        let r := dst.1.msoApply m
        let t : State := { dst.1 with mem := r.1 }
        ((t.errorsIn (msoTargets m u)).foldl (fun w a => w.cleanBurst a) t).msoFlags m r.2.1 r.2.2
/-- The oldest operation goes on to its next unit, or is done. -/
def State.msoNext (s : State) (m : MemSideOp) (u : Nat) : State :=
  if m.done + u < m.len then { s with msos := { m with done := m.done + u } :: s.msos.tail } else s.msoDone m

/-- MEMORY_SIDE_OPERATION (R176): the next unit of the oldest operation. -/
def execMemorySideOperation (srcHit dstHit : BurstErr) (s : State) : Res :=
  match s.msos with
  | [] => .next s
  | m :: _ =>
    let u := (msoUnit m.op).getD 4
    when_ (!s.msoWaits m u) s ((((s.struck (msoSources m u) srcHit).struck (msoTargets m u) dstHit).msoUnitRun m u).msoNext m u)

/-! ## Patrol scrub (R233) -/

/-- The scrub corrects the burst, on its first read or on the re-read, and so rewrites it. -/
def scrubFixes (chk : BurstCheck) (again : BurstErr) : Bool :=
  match chk with
  | .single => true
  | .retryOk => taken false again != some errZero
  | _ => false
/-- A burst that the scrub finds uncorrectable (R233). -/
def State.scrubFails (s : State) (a : Nat) : State := (s.countStack a fun t => { t with wUncorr := inc t.wUncorr }).raiseStack a evScrubUncorr 0
/-- PATROL_SCRUB_BURST (R233): what the scrub's read detects is handled and counted as for any read (R231, log 111); a corrected burst is rewritten, and the rewrite counted; class A ranges are not scrubbed. -/
def execPatrolScrubBurst (addr : Addr) (fault : BurstFault) (s : State) : Res :=
  let a := addr.toNat / 32 * 32
  when_ (inStacked a 32 && s.memUp a && !s.classA a && !(s.stack (stackOf a)).selfRefresh) s <|
    let t := (s.countBus a fault.bus fault.onDie).upset a fault.upset
    let again := t.burst a
    let chk := burstCheck false (errXor again fault.transient) again
    if fault.bus = .fails || chk = .fails then t.scrubFails a
    else if scrubFixes chk again then ((t.burstOk a chk).cleanBurst a).countStack a fun x => { x with scrubFix := inc x.scrubFix }
    else t.burstOk a chk

/-! ## Classes (R234) -/

/-- The bursts of some GiB ranges that one stack holds. -/
def stackBursts (stack : Nat) (gibs : List Nat) : List Nat :=
  gibs.flatMap fun g => ((List.range (2 ^ 25)).map fun i => g * 2 ^ 30 + 32 * i).filter fun a => decide (stackOf a = stack)
/-- Four free words together. -/
def State.free256 (s : State) : BitVec 256 × State :=
  let a := s.free
  let b := a.2.free
  let c := b.2.free
  let d := c.2.free
  (d.1 ++ c.1 ++ b.1 ++ a.1, d.2)
/-- A burst whose contents and check bits are undefined (R234). -/
def State.undefineBurst (s : State) (a : Nat) : State :=
  let d := s.free256
  let e := d.2.free256
  let c := e.2.free
  let t : State := { c.2 with mem := memPutNat c.2.mem a 32 d.1.toNat }
  (t.cleanBurst a).upset a ⟨e.1, c.1.setWidth 16⟩
/-- CLASS_SWITCH (R234): the controller takes the classes of MEM_CLASS_MAP; what a changed range holds is undefined until it is written, data and check bits. -/
def execClassSwitch (stack : Nat) (s : State) : Res :=
  when_ (decide (stack < 12)) s <|
    let x := s.stack stack
    (stackBursts stack (maskBits (x.classMap ^^^ s.classMap))).foldl (fun t a => t.undefineBurst a) (s.setStack stack { x with classMap := s.classMap })

/-! ## Refresh (R235) -/

/-- SELF_REFRESH_ENTRY (R235): 100 µs have passed without requests to the stack, or the partition that holds every range of it has drained; an all-bank refresh comes first (log 112). -/
def execSelfRefreshEntry (stack : Nat) (s : State) : Res :=
  let x := s.stack stack
  when_ (decide (stack < 12) && x.wipeDone && !x.selfRefresh && x.held.isEmpty && !s.msos.any fun m => stackOf (m.target + m.done) == stack) s <|
    (s.setStack stack { x with allBank := x.allBank + 1, selfRefresh := true }).emit (.refreshAll stack)

/-- REFRESH_MANAGEMENT_REQUEST (R235): the controller issues refresh management whenever the stack requests it. -/
def execRefreshManagementRequest (stack : Nat) (s : State) : Res :=
  when_ (decide (stack < 12)) s <|
    (s.setStack stack { s.stack stack with refreshManagement := (s.stack stack).refreshManagement + 1 }).emit (.refresh stack)

/-- PER_BANK_REFRESH (R235): in active operation. -/
def execPerBankRefresh (stack : Nat) (s : State) : Res :=
  when_ (decide (stack < 12) && !(s.stack stack).selfRefresh) s <|
    (s.setStack stack { s.stack stack with refreshes := (s.stack stack).refreshes + 1 }).emit (.refresh stack)

end Sys2Proof.Machine
end

