-- ==== Sys2Proof/Machine/Stages.lean ====
section
/-! DEFINITION. The version engine and the admission engine, and their commands; landing-ring bindings (R140, R147 to R160, R167). -/

namespace Sys2Proof.Machine

/-- k words of a number, the lowest first. -/
def natWords (k v : Nat) : List Word := (List.range k).map fun i => BitVec.ofNat 64 (v >>> (64 * i))
/-- Words of a byte string, padded with zeros. -/
def byteWords (bs : List Byte) : List Word := natWords (ceilDiv bs.length 8) (leNat bs)

/-! ## Notices (R147, R148) -/

/-- Addresses of an entry's version-table entries, as its shard list names them. -/
def State.shardAddrs (s : State) (e : StageEntry) : List Nat :=
  (List.range e.shardCount.toNat).map fun i => memNat s.mem (e.shardList.toNat + 8 * i) 6

/-- refs of one slot moved up or down; none where no slot fits or refs is 0 at a release. -/
def VEntry.countRef (v : VEntry) (version : BitVec 32) (hold : Bool) : Option VEntry :=
  match (enum v.slots).find? fun e => e.2.version == version && (e.2.state == vsCurrent || e.2.state == vsStashed) with
  | none => none
  | some e =>
    if !hold && e.2.refs == 0#32 then none
    else some (v.setSlot e.1 fun t => { t with refs := if hold then t.refs + 1 else t.refs - 1 })

/-- An access of the version engine refused under R224. -/
def State.engineRefused (s : State) : State := s.count fun h => { h with memRefused := inc h.memRefused }
/-- The version engine may reach n stacked bytes for a partition (R148, R224). -/
def State.engineMay (s : State) (p : PartId) (a n : Nat) : Bool := inStacked a n && s.allowed p a n

/-- The entry of one shard of a notice: the new state, and whether the accounting failed there. -/
def State.noticeEntry (s : State) (p : PartId) (n : Notice) (a : Nat) : State × Bool :=
  if !s.engineMay p a ventryBytes || a % 256 ≠ 0 then (s.engineRefused, true)
  else
    let r := s.readEntry p a
    if !r.2 then (r.1, false)
    else match (ventryAt r.1.mem a).countRef n.version n.hold with
      | some v => (r.1.putEntry a v, false)
      | none => (r.1, true)
/-- One shard of a notice (R148): its word of the shard list, then its entry; what cannot be used leaves the shard as it is, an address refused under R224 as an accounting error, a failed read with its CRIMSON alone. -/
def State.noticeShard (s : State) (p : PartId) (n : Notice) (word : Nat) : State × Bool :=
  if !s.engineMay p word 8 then (s.engineRefused, true)
  else
    let r := s.engineRead p word 8
    if r.2 then r.1.noticeEntry p n (memNat r.1.mem word 6) else (r.1, false)

/-- A notice that changed nothing it should have changed (R148). -/
def State.acctErr (s : State) (n : Notice) : State :=
  (s.count fun h => { h with verAcctErr := inc h.verAcctErr }).raise (s.stage n.entry).partition evVersionAccount 3
    (unitHub 0x07 n.entry.toNat) (det 168 n.entry.toNat ||| det 174 n.step.toNat ||| det 206 n.mb.toNat)
/-- CRIMSON HUB_FAULT of a hub unit for one partition (R378). -/
def State.engineMismatch (s : State) (p : PartId) (unit idx : Nat) : State := s.raise p evHubFault 3 (unitHub unit idx) (det 168 unit)

/-- One notice applied (R148): inflight, and refs in every shard in list order. -/
def State.applyNotice (s : State) (n : Notice) (mismatch : Bool) : State :=
  let e := s.stage n.entry
  if !e.valid || !epochGe n.epoch e.keptEpoch then s.acctErr n
  else if mismatch then s.engineMismatch e.partition 0x07 n.entry.toNat
  else
    let under := !n.hold && e.inflight == 0#16
    let e1 := if n.hold then { e with inflight := e.inflight + 1 } else if under then e else { e with inflight := e.inflight - 1 }
    let r := (List.range e.shardCount.toNat).foldl (fun t i =>
      let u := t.1.noticeShard e.partition n (e.shardList.toNat + 8 * i)
      (u.1, t.2 || u.2)) (s.setStage n.entry e1, under)
    if r.2 then r.1.acctErr n else r.1

/-- Bits that have turned over in the shard list that a notice has the version engine read (log 139). -/
def State.shardsStruck (s : State) (n : Notice) (hit : BurstErr) : State :=
  let e := s.stage n.entry
  s.struck [⟨e.shardList.toNat, 8 * e.shardCount.toNat⟩] hit

/-- HOLD_NOTICE (R148): the version engine applies the oldest notice. -/
def execHoldNotice (mismatch : Bool) (hit : BurstErr) (s : State) : Res :=
  match s.notices with
  | [] => .next s
  | n :: rest => when_ n.hold s ((({ s with notices := rest } : State).shardsStruck n hit).applyNotice n mismatch)

/-- RELEASE_NOTICE (R148). -/
def execReleaseNotice (mismatch : Bool) (hit : BurstErr) (s : State) : Res :=
  match s.notices with
  | [] => .next s
  | n :: rest => when_ (!n.hold) s ((({ s with notices := rest } : State).shardsStruck n hit).applyNotice n mismatch)

/-! ## Admission (R152, R351) -/

/-- The lanes of an entry (R142). -/
def State.lanesOf (s : State) (e : StageEntry) : List BlockId :=
  laneBlocks e.quadMask ((s.part e.partition).checkMode == 0b10#2)
/-- The fwd_q of every lane has more than 2 free entries. -/
def State.lanesRoom (s : State) (e : StageEntry) : Bool :=
  (s.lanesOf e).all fun b => !(s.block b).fenced && decide (2 < ((s.block b).queue e.fwdQ).room)
/-- Admission of an entry is on: what it waits for is staleness and room (R152, R351). -/
def State.admitOn (s : State) (e : StageEntry) : Bool := e.valid && e.first && e.admitEn && (s.part e.partition).mode == pRunning && !(s.lanesOf e).isEmpty
/-- The staleness condition of R152. -/
def StageEntry.staleOk (e : StageEntry) : Bool := decide (e.nextStep.toNat ≤ e.jobVersion.toNat + e.staleS.toNat)
/-- The conditions of R152 and R351. -/
def State.admits (s : State) (e : StageEntry) : Bool := s.admitOn e && s.lanesRoom e && e.staleOk
/-- The Rider posted to a lane (R152). -/
def admitRider (s : State) (e : StageEntry) (lead b : BlockId) (lane : Nat) : Descriptor :=
  descSeal { crc := 0, body := riderBody e.nextStep (e.nextMb.setWidth 12) (BitVec.ofNat 8 lane) e.pipeStage e.jobVersion
             len1 := 0, ptr1 := 0, len0 := 0, ptr0 := 0, stream := false, relay := false, rider := true, epoch := s.epoch
             sendSeq := 0, tag := 0, src := QAddr.mk s.deviceId lead e.fwdQ false, dst := QAddr.mk s.deviceId b e.fwdQ false }
/-- The admission position after one micro-batch. -/
def StageEntry.advance (e : StageEntry) : StageEntry :=
  if e.nextMb + 1 = e.mbPerStep then { e with nextMb := 0, nextStep := e.nextStep + 1 } else { e with nextMb := e.nextMb + 1 }

/-- The hub cycles for which admission waits on the staleness bound alone, a free number, counted (R152, R168, log 4). -/
def State.staleWait (s : State) : State :=
  let v := s.free
  v.2.count fun h => { h with admitStale := satAdd h.admitStale v.1.toNat }
/-- One micro-batch posted to every lane, and the position advanced (R152). -/
def State.postAdmission (s : State) (e : StageId) : State :=
  let x := s.stage e
  let lanes := s.lanesOf x
  let lead := lanes.headD ⟨0, 0⟩
  let s1 := (enum lanes).foldl (fun t b => t.enqueue (admitRider s x lead b.2 b.1)) s
  (s1.setStage e x.advance).count fun h => { h with admitPosted := inc h.admitPosted }

/-- ADMISSION_POST (R152, R378): the admission engine takes up an entry. -/
def execAdmissionPost (e : StageId) (mismatch : Bool) (s : State) : Res :=
  let x := s.stage e
  when_ (s.admitOn x && s.lanesRoom x) s <|
    if !x.staleOk then s.staleWait
    else if mismatch then s.engineMismatch x.partition 0x08 e.toNat
    else s.postAdmission e

/-! ## Retirement, allocation, publication (R157 to R160) -/

/-- The stashed slot of the lowest version, by index. -/
def VEntry.oldest (v : VEntry) : Option (Nat × VSlot) :=
  ((enum v.slots).filter fun e => e.2.state == vsStashed).foldl (fun a e =>
    match a with
    | none => some e
    | some b => if e.2.version.toNat < b.2.version.toNat then some e else some b) none

/-- Retirement for step c under staleness S (R158): the entry, the retired slots, and the version withheld by refs. `fuel` bounds the slots. -/
def retireSlots : Nat → VEntry → Nat → Nat → VEntry × List Nat × Option (BitVec 32)
  | 0, v, _, _ => (v, [], none)
  | fuel + 1, v, stale, c =>
    match v.oldest with
    | none => (v, [], none)
    | some (i, t) =>
      if c < t.version.toNat + stale then (v, [], none)
      else if t.refs ≠ 0#32 then (v, [], some t.version)
      else
        let v1 := { v.setSlot i (fun u => { u with state := vsRetiring }) with
          diffHead := if v.diffSize = 0 then v.diffHead else (v.diffHead + t.length) % v.diffSize }
        let r := retireSlots fuel v1 stale c
        (r.1, i :: r.2.1, r.2.2)

/-- A retirement withheld is counted and reported (R158). -/
def State.pinnedEvent (s : State) (p : PartId) (a : Nat) : Option (BitVec 32) → State
  | none => s
  | some u => (s.count fun h => { h with verPinned := inc h.verPinned }).raise p evVersionPinned 3 (unitHub 0x07 0)
      (det 168 a ||| det 216 u.toNat)

/-- A drain mark to every block of the partition (R160). -/
def State.startDrain (s : State) (p : PartId) (a : Nat) (slots : List Nat) (whole : Bool) : State :=
  let bs := (s.partBlocks p).filter fun b => !(s.block b).fenced && !(s.block b).inReset
  let s1 : State := { s with drains := s.drains ++ [⟨BitVec.ofNat 48 a, bs.map BlockId.idx, slots, whole⟩] }
  bs.foldl (fun t b => t.ship (.drainMark b (BitVec.ofNat 48 a))) s1

/-- The whole area that the current slot does not hold (R157). -/
def VEntry.otherArea (v : VEntry) : Nat := if (v.slot v.curSlot).base = v.wholeA then v.wholeB else v.wholeA
/-- An EXPORT_SHARD of the entry runs: allocations wait (R218). -/
def State.exporting (s : State) (a : Nat) : Bool := s.fl.exports.any fun x => (s.task x.region x.task).ventry.toNat == a
/-- The conditions of R157 for a building slot. -/
def State.slotOk (s : State) (t : TaskEntry) (v : VEntry) (c : BitVec 32) : Bool :=
  v.curVersion == c && !v.bldValid && !(s.stage t.stage).pinned && v.slots.any (fun u => u.state == vsFree)
    && !s.drains.any (fun d => d.entry == t.ventry && d.whole) && !s.exporting t.ventry.toNat
/-- The lowest free slot made building (R157). -/
def VEntry.allocate (v : VEntry) (c : BitVec 32) : VEntry :=
  match (enum v.slots).find? fun e => e.2.state == vsFree with
  | none => v
  | some e => { v.setSlot e.1 (fun _ => ⟨c + 1, 0, v.otherArea, vsBuilding, false, v.shardBytes⟩) with bldSlot := e.1, bldValid := true }

/-- The entry after retirement for step c, written back with the drain and the event that it brings (R158, R160). -/
def State.retireAt (s : State) (p : PartId) (a : Nat) (v : VEntry) (stale c : Nat) : State :=
  let r := retireSlots 8 v stale c
  (if r.2.1.isEmpty then s else (s.putEntry a r.1).startDrain p a r.2.1 false).pinnedEvent p a r.2.2
/-- A building slot for the task at the head of a region's queue, or its wait, which is counted once (R157). -/
def State.allocateFor (s : State) (region : RegionId) (t : TaskEntry) (k : Nat) (c : BitVec 32) : State :=
  let a := t.ventry.toNat
  let w := ventryAt s.mem a
  let u := (s.region region).upd
  if s.slotOk t w c then (s.putEntry a (w.allocate c)).setUpd region { u with slotReady := some k, slotWaited := u.slotWaited.filter (· ≠ k) }
  else
    let s1 := s.setUpd region { u with slotWaited := if u.slotWaited.contains k then u.slotWaited else k :: u.slotWaited }
    if u.slotWaited.contains k then s1 else s1.count fun h => { h with verSlotWait := inc h.verSlotWait }

/-- SLOT_ALLOCATION (R157, R158): for the task at the head of the region's queue; a failed read of the entry changes nothing (Table 9.6). -/
def execSlotAllocation (region : RegionId) (task : BitVec 8) (s : State) : Res :=
  let u := (s.region region).upd
  match u.queue with
  | [] => .next s
  | (k, c) :: _ =>
    when_ (decide (k = task.toNat) && u.slotReady.isNone && u.run.isNone) s <|
      let t := s.task region k
      let a := t.ventry.toNat
      let d := s.readEntry t.partition a
      if !s.engineMay t.partition a ventryBytes then s.engineRefused
      else if d.2 then (d.1.retireAt t.partition a (ventryAt d.1.mem a) (s.stage t.stage).staleS.toNat c.toNat).allocateFor region t k c
      else d.1

/-- The entry after publication of version c + 1 with staleness S and a stored difference of n bytes (R159), before retirement. -/
def VEntry.publish (v : VEntry) (stale n : Nat) : VEntry :=
  let old := v.curSlot
  let v1 := if stale = 0 then v.setSlot old fun t => { t with state := vsRetiring }
    else v.setSlot old fun t => { t with state := vsStashed, diff := true, base := v.diffTail, length := n }
  let v2 := v1.setSlot v.bldSlot fun t => { t with state := vsCurrent }
  { v2 with
    curSlot := v.bldSlot, curVersion := (v.slot v.bldSlot).version, bldValid := false
    diffTail := if stale = 0 ∨ v.diffSize = 0 then v.diffTail else (v.diffTail + n) % v.diffSize }

/-- Flapino runs: a control pair is active (R348, R379). -/
def State.flapinoUp (s : State) : Bool := !s.faults.status.getLsbD 0

/-- The publication of a completed task: one entry write, its drain, and the PUBLISHED record (R159, R160, R216). -/
def State.publishTask (s : State) (region : RegionId) (t : TaskEntry) (k : Nat) (c : BitVec 32) (n : Nat) : State :=
  let u := (s.region region).upd
  let a := t.ventry.toNat
  let v := ventryAt s.mem a
  let stale := (s.stage t.stage).staleS.toNat
  let r := retireSlots 8 (v.publish stale n) stale c.toNat
  let freed := if stale = 0 then v.curSlot :: r.2.1 else r.2.1
  let s1 := ((s.putEntry a r.1).startDrain t.partition a freed true).pinnedEvent t.partition a r.2.2
  let s2 := s1.setUpd region { (s1.region region).upd with doneTasks := delFirst (fun d => d.1 == k) u.doneTasks }
  if t.exportEn then s2.export_ t.partition (taskRec s2 t exPublished c (c + 1) 0 0 0 []) else s2
/-- PUBLICATION (R159): at Flapino's request for a completed task; a failed read of the entry changes nothing (Table 9.6). -/
def execPublication (region : RegionId) (task : BitVec 8) (s : State) : Res :=
  match (s.region region).upd.doneTasks.find? fun d => d.1 == task.toNat with
  | none => .next s
  | some (k, c, n) =>
    let t := s.task region k
    when_ (s.flapinoUp && (ventryAt s.mem t.ventry.toNat).bldValid) s <|
      let d := s.readEntry t.partition t.ventry.toNat
      if d.2 then d.1.publishTask region t k c n else d.1

/-- A version FETCH that the fetch engine has begun. -/
def BlockState.fetchingVersion (x : BlockState) : Bool :=
  match x.fetchQ with
  | .fetch f _ _ _ _ _ _ :: _ => f.versionEn && !x.fetchData.isEmpty
  | _ => false

/-- DRAIN_MARK_ANSWER (R160): no version FETCH begun before the mark runs. -/
def execDrainMarkAnswer (b : BlockId) (ventry : Addr) (s : State) : Res :=
  let mark := InFlight.drainMark b ventry
  whenHere (s.inflight.any (fun t => decide (t.item = mark)) && !(s.block b).fetchingVersion) s <|
    s.onArrival (fun i => decide (i = mark)) fun t => .next
      { t with
        drains := updFirst (fun d => d.entry == ventry && d.waiting.contains b.idx) (fun d => { d with waiting := d.waiting.filter (· ≠ b.idx) }) t.drains }

/-- VERSION_DRAIN_COMPLETE (R160): every block has answered; the drain's slots become free. -/
def execVersionDrainComplete (ventry : Addr) (s : State) : Res :=
  match s.drains.find? fun d => d.entry == ventry && d.waiting.isEmpty with
  | none => .next s
  | some d =>
    let t : State := { s with drains := delFirst (fun e => decide (e = d)) s.drains }
    if d.slots.isEmpty then .next t
    else
      let r := t.readEntry (s.memOwner ventry.toNat) ventry.toNat
      let v := d.slots.foldl (fun w i => w.setSlot i fun u => if u.state = vsRetiring then { u with state := vsFree } else u) (ventryAt r.1.mem ventry.toNat)
      .next (if r.2 then r.1.putEntry ventry.toNat v else r.1)

/-! ## Commands (Table 6.11) -/

/-- The 512 bits of a Stage Table entry (Table 6.1). -/
def stageBits (e : StageEntry) : BitVec 512 :=
  0#64 ++ e.recoveryPc ++ e.shardList ++ 0#4 ++ e.shardCount ++ e.nextMb ++ e.nextStep ++ e.jobVersion ++ e.pred ++ e.succ
    ++ e.quadMask ++ e.mbPerStep ++ e.inflight ++ e.budget ++ 0#9 ++ e.bwdQ ++ 0#1 ++ e.fwdQ ++ 0#8 ++ e.pipeStage ++ e.job
    ++ 0#4 ++ e.staleS ++ e.partition ++ BitVec.ofBool e.admitEn ++ BitVec.ofBool e.last ++ BitVec.ofBool e.first ++ BitVec.ofBool e.valid

/-- The scope of a command that names a stage entry: the entry's partition (R333). -/
def State.stageScope (s : State) (index : BitVec 8) : Scope :=
  let e := s.stage (index.setWidth 6)
  if e.valid && decide (index.toNat < 64) then .names e.partition else .own

/-- STAGE_QUERY (R167). -/
def execStageQuery (index : BitVec 8) (s : State) : Res :=
  s.cmd 0x0203 (s.stageScope index) fun s r =>
    s.unless r (firstReason [(decide (63 < index.toNat), rsField)]) <|
      s.okData r (natWords 8 (stageBits (s.stage (index.setWidth 6))).toNat)

/-- ADMIT_START (R167). -/
def execAdmitStart (index : BitVec 8) (step : BitVec 32) (mb : BitVec 16) (s : State) : Res :=
  s.cmd 0x0208 (s.stageScope index) fun s r =>
    let e := s.stage (index.setWidth 6)
    s.unless r (firstReason [(decide (63 < index.toNat), rsField), (!e.valid || !e.first, rsState),
        (decide (e.mbPerStep.toNat ≤ mb.toNat), rsField)]) <|
      (s.setStage (index.setWidth 6) { e with nextStep := step, nextMb := mb, admitEn := true }).ok r

/-- ADMIT_STOP (R167). -/
def execAdmitStop (index : BitVec 8) (s : State) : Res :=
  s.cmd 0x0209 (s.stageScope index) fun s r =>
    let e := s.stage (index.setWidth 6)
    s.unless r (firstReason [(decide (63 < index.toNat), rsField), (!e.valid || !e.first, rsState)]) <|
      (s.setStage (index.setWidth 6) { e with admitEn := false }).ok r

/-- The entry that VTABLE_INIT writes (R167). -/
def initEntry (x : VTableP) : VEntry :=
  { gen := 0, curVersion := x.v0, curSlot := 0, bldSlot := 0, bldValid := false, shardBytes := x.shardBytes.toNat
    wholeA := x.wholeA.toNat, wholeB := x.wholeB.toNat, diffBase := x.diffBase.toNat, diffSize := x.diffSize.toNat
    diffHead := 0, diffTail := 0
    slots := ⟨x.v0, 0, x.wholeA.toNat, vsCurrent, false, x.shardBytes.toNat⟩ :: List.replicate 7 VSlot.none }
/-- The areas of a new entry: whole A, whole B, the difference area. -/
def vtableAreas (x : VTableP) : List Range :=
  [⟨x.wholeA.toNat, x.shardBytes.toNat⟩, ⟨x.wholeB.toNat, x.shardBytes.toNat⟩, ⟨x.diffBase.toNat, x.diffSize.toNat⟩]
/-- Two of the ranges share a byte. -/
def anyOverlap : List Range → Bool
  | [] => false
  | r :: rs => rs.any (fun t => overlaps r.base r.len t.base t.len) || anyOverlap rs

/-- VTABLE_INIT (R167). -/
def execVtableInit (x : VTableP) (s : State) : Res :=
  s.cmd 0x0210 .own fun s r =>
    let p := s.part r.part
    s.unless r (firstReason [(decide (x.addr.toNat % 256 ≠ 0), rsField), (!p.hasStacked x.addr.toNat ventryBytes, rsAddress),
        (decide (x.shardBytes.toNat = 0) || decide (x.shardBytes.toNat % 64 ≠ 0), rsField),
        (decide (x.wholeA.toNat % 64 ≠ 0) || decide (x.wholeB.toNat % 64 ≠ 0) || anyOverlap (vtableAreas x), rsField),
        ((vtableAreas x).any fun a => decide (0 < a.len) && !p.hasStacked a.base a.len, rsAddress)]) <|
      (s.put x.addr.toNat (ventryEnc (initEntry x))).ok r

/-- VTABLE_QUERY (R167). -/
def execVtableQuery (addr : Addr) (s : State) : Res :=
  s.cmd 0x0211 .own fun s r =>
    s.unless r (firstReason [(!(s.part r.part).hasStacked addr.toNat ventryBytes, rsAddress)]) <|
      s.okData r (byteWords (memRead s.mem addr.toNat ventryBytes))

/-- VERSION_PIN (R167). -/
def execVersionPin (index : BitVec 8) (s : State) : Res :=
  s.cmd 0x0212 (s.stageScope index) fun s r =>
    let e := s.stage (index.setWidth 6)
    s.unless r (firstReason [(decide (63 < index.toNat), rsField), (!e.valid, rsState)]) <|
      (s.setStage (index.setWidth 6) { e with pinned := true }).ok r

/-- VERSION_UNPIN (R167). -/
def execVersionUnpin (index : BitVec 8) (s : State) : Res :=
  s.cmd 0x0213 (s.stageScope index) fun s r =>
    let e := s.stage (index.setWidth 6)
    s.unless r (firstReason [(decide (63 < index.toNat), rsField), (!e.pinned, rsState)]) <|
      (s.setStage (index.setWidth 6) { e with pinned := false }).ok r

/-! ## Landing-ring bindings (Table 5.11) -/

/-- LRING_BIND (R130, R140). -/
def execLringBind (q : QAddr) (base : Addr) (segments : BitVec 32) (s : State) : Res :=
  s.cmd 0x0231 .own fun s r =>
    let b := QAddr.blockId q
    let x := s.block b
    s.unless r (firstReason [(!s.partHas r.part b, rsAddress), ((s.ring q).isSome, rsState),
        (!(x.queue (QAddr.queue q)).entries.isEmpty, rsState), (decide (base.toNat % mib ≠ 0), rsField),
        (decide (segments.toNat < 8) || decide (4096 < segments.toNat), rsField),
        (!(s.part r.part).hasStacked base.toNat (segments.toNat * mib), rsAddress), (decide (512 ≤ s.rings.length), rsState)]) <|
      ((s.setRing q ⟨base.toNat, segments.toNat, 0, 0, 0, [], [], []⟩).setBlock b { x with landed := tSet x.landed (QAddr.queue q).toNat 0 }).ok r

/-- LRING_UNBIND (R140). -/
def execLringUnbind (q : QAddr) (s : State) : Res :=
  s.cmd 0x0232 .own fun s r =>
    match s.ring q with
    | none => s.rejected r rsState
    | some g =>
      s.unless r (firstReason [(!s.partHas r.part (QAddr.blockId q), rsAddress),
          (!g.pending.isEmpty || decide (g.release < g.alloc), rsState)]) <|
        (s.delRing q).ok r

end Sys2Proof.Machine
end

