-- ==== Sys2Proof/Machine/Collectives.lean ====
section
/-! DEFINITION. The collective engine: plan posts, instances and their pieces, scalar all-reduces, the job version, the global norm and failures (R151, R177 to R192, R195, R196). -/

namespace Sys2Proof

/-! ## Plan entries (R178, R179) -/

/-- The plan sums: all-reduce or reduce-scatter. -/
def PlanEntry.sums (p : PlanEntry) : Bool := p.op == 0#4 || p.op == 1#4
/-- The direct algorithm (R184). -/
def PlanEntry.direct (p : PlanEntry) : Bool := p.alg == 0b01#2
/-- Bytes of the tensor: elements and scales. -/
def PlanEntry.bytes (p : PlanEntry) : Nat := 2 * p.elements.toNat + p.elements.toNat / 256
/-- Base of the source: the posted half of the buffer, or the source tensor. -/
def PlanEntry.src (p : PlanEntry) (half : Bool) : Nat := p.src0.toNat + (if p.rbSrc && half then p.halfLen.toNat else 0)

end Sys2Proof

namespace Sys2Proof.Machine

/-! ## Plans (R178, R179, R182) -/

def opAllReduce : BitVec 4 := 0
def opReduceScatter : BitVec 4 := 1
def opAllGather : BitVec 4 := 2
def opBroadcast : BitVec 4 := 3
/-- K blocks of 256 elements: the blocks of a full chunk (R182). -/
def chunkBlocks (blocks n : Nat) : Nat := ceilDiv blocks n
/-- First block and block count of chunk c among n (R182). -/
def chunkRange (blocks n c : Nat) : Nat × Nat :=
  let k := chunkBlocks blocks n
  (min (c * k) blocks, min ((c + 1) * k) blocks - min (c * k) blocks)

/-- Blocks of one 64 KiB piece (R188). -/
def pieceBlocks : Nat := 128
/-- A piece to be sent or received. -/
structure PieceRef where
  gather : Bool
  ringStep : Nat
  chunk : Nat
  first : Nat
  blocks : Nat
  peer : Nat
  lastOfChunk : Bool
  deriving DecidableEq, Repr

/-- The pieces of one chunk in one step, in block order (R188); an empty chunk travels as one piece without data, which carries its scalar values (R187, log 114). -/
def chunkPieces (blocks n : Nat) (gather : Bool) (step chunk peer : Nat) : List PieceRef :=
  let c := chunkRange blocks n chunk
  let k := max 1 (ceilDiv c.2 pieceBlocks)
  (List.range k).map fun i =>
    ⟨gather, step, chunk, c.1 + i * pieceBlocks, min pieceBlocks (c.2 - i * pieceBlocks), peer, i + 1 == k⟩

/-- Gather flag, step, chunk and destination of what rank r of n sends, in order (R183, R184). -/
def sendSteps (p : PlanEntry) (n r : Nat) : List (Bool × Nat × Nat × Nat) :=
  let up := (r + 1) % n
  if p.direct then
    ((List.range (n - 1)).map fun j => (false, 0, (r + 1 + j) % n, (r + 1 + j) % n))
      ++ (if p.op = opAllReduce then (List.range (n - 1)).map fun j => (true, 0, r, (r + 1 + j) % n) else [])
  else if p.op = opBroadcast then
    (if (r + n - p.root.toNat % n) % n + 1 < n then (List.range n).map fun c => (true, 0, c, up) else [])
  else
    (if p.sums then (List.range (n - 1)).map fun s => (false, s, (r + n - 1 - s) % n, up) else [])
      ++ (if p.op = opReduceScatter then [] else (List.range (n - 1)).map fun g => (true, g, (r + n - g) % n, up))
/-- The same for what it receives. -/
def recvSteps (p : PlanEntry) (n r : Nat) : List (Bool × Nat × Nat × Nat) :=
  let down := (r + n - 1) % n
  if p.direct then
    ((List.range (n - 1)).map fun j => (false, 0, r, (r + 1 + j) % n))
      ++ (if p.op = opAllReduce then (List.range (n - 1)).map fun j => (true, 0, (r + 1 + j) % n, (r + 1 + j) % n) else [])
  else if p.op = opBroadcast then (if r = p.root.toNat % n then [] else (List.range n).map fun c => (true, 0, c, down))
  else
    (if p.sums then (List.range (n - 1)).map fun s => (false, s, (r + 2 * n - 2 - s) % n, down) else [])
      ++ (if p.op = opReduceScatter then [] else (List.range (n - 1)).map fun g => (true, g, (r + 2 * n - 1 - g) % n, down))

/-- Members and own rank of a plan's group. -/
def State.planN (s : State) (p : PlanEntry) : Nat := (s.group p.group).count.toNat
def State.planRank (s : State) (p : PlanEntry) : Nat := (s.group p.group).rank.toNat
/-- The pieces of a list of steps. -/
def stepPieces (p : PlanEntry) (n : Nat) (steps : List (Bool × Nat × Nat × Nat)) : List PieceRef :=
  steps.flatMap fun e => chunkPieces (p.elements.toNat / 256) n e.1 e.2.1 e.2.2.1 e.2.2.2
def State.sends (s : State) (p : PlanEntry) : List PieceRef := stepPieces p (s.planN p) (sendSteps p (s.planN p) (s.planRank p))
def State.recvs (s : State) (p : PlanEntry) : List PieceRef := stepPieces p (s.planN p) (recvSteps p (s.planN p) (s.planRank p))
/-- Pieces of the reduce phase among some. -/
def reducePieces (ps : List PieceRef) : Nat := (ps.filter fun x => !x.gather).length
/-- Pieces that a member sends before any has arrived. -/
def State.ownPieces (s : State) (p : PlanEntry) : Nat :=
  let n := s.planN p
  let r := s.planRank p
  if p.direct then reducePieces (s.sends p)
  else if p.op = opBroadcast then (if r = p.root.toNat % n then (s.sends p).length else 0)
  else ((s.sends p).filter fun x => x.ringStep == 0 && x.gather == !p.sums).length

/-! ## Data of one block -/

/-- Codes and scale byte of block b of a tensor of E elements at a base (R169). -/
def blockAt (m : Memory) (base e b : Nat) : List Nat × Byte := (codes16 (memRead m (base + 512 * b) 512), memByte m (base + 2 * e + b))
/-- Where n blocks of a tensor lie: elements and scales. -/
def blockRanges (base e first n : Nat) : List Range := [⟨base + 512 * first, 512 * n⟩, ⟨base + 2 * e + first, n⟩]
/-- A block written at a base. -/
def State.putBlock (s : State) (base e b : Nat) (codes : List Nat) (scale : Byte) : State :=
  (s.put (base + 512 * b) (codes.flatMap (leBytes 2))).put (base + 2 * e + b) [scale]
/-- The decoded values of a block (R32, R36). -/
def blockVals (c : List Nat × Byte) (t : Int) : List Dy := c.1.map fun x => g16Val x c.2 t

/-- S of R185, from which the engine seeds a block's generator. -/
def collSeed (planId : BitVec 16) (step : BitVec 32) (h b : Nat) : Word :=
  BitVec.ofNat 64 (planId.toNat * 2 ^ 48 + step.toNat % 2 ^ 12 * 2 ^ 36 + h * 2 ^ 24 + b % 2 ^ 24)
/-- n draws of a lane (R45). -/
def draws : Nat → Word → List Nat
  | 0, _ => []
  | n + 1, x => laneBits (laneStep x) :: draws n (laneStep x)
/-- Sums re-encoded as one G16 block (R185). -/
def reencode (p : PlanEntry) (step : BitVec 32) (h b : Nat) (sums : List (BitVec 32)) : List Nat × Byte :=
  let rs : List Rounding :=
    if p.roundSr then (draws sums.length (seedLane (collSeed p.planId step h b) 0)).map .stochastic else sums.map fun _ => .nearest
  let c := convBlock 0xC (tMem p.tOut) ((sums.map fun w => Val.fin (a32Read w).1).zip rs)
  (c.codes, c.scales.headD 0)
/-- A block brought to t_out by R186: unchanged at equal t, else converted with round-to-nearest-even. -/
def retune (p : PlanEntry) (t : Int) (c : List Nat × Byte) : List Nat × Byte :=
  if t = tMem p.tOut then c
  else
    let r := convBlock 0xC (tMem p.tOut) ((blockVals c t).map fun d => (Val.fin d, Rounding.nearest))
    (r.codes, r.scales.headD 0)

/-- The source header of a reduction buffer's half (R170). -/
def State.srcHeader (s : State) (p : PlanEntry) (half : Bool) : Nat := rbHeader p.owner (s.block p.owner) p.ppIndex.toNat half
/-- t of the member's source: its header's; for a source without a header the spec names none (log 41). -/
def State.srcT (s : State) (i : PlanId) (p : PlanEntry) (half : Bool) : BitVec 8 :=
  if p.rbSrc then memByte s.mem (s.srcHeader p half + 3) else Config.sourceT i.toNat
/-- A block of the member's source: zeros where it contributes zeros (R181). -/
def State.srcBlock (s : State) (i : Instance) (p : PlanEntry) (b : Nat) : List Nat × Byte :=
  if i.zeros then (List.replicate 256 0, 0x7F) else blockAt s.mem (p.src i.half) p.elements.toNat b

/-! ## Instances -/

/-- The running instance of a plan. -/
def State.instance_ (s : State) (k : PlanId) : Option Instance := s.instances.find? fun i => i.plan == k && i.running
/-- The running instance of a plan changed. -/
def State.setInstance (s : State) (i : Instance) : State :=
  { s with instances := updFirst (fun j => j.plan == i.plan && j.running) (fun _ => i) s.instances }
/-- An instance's lock of its read half given up, and a write that waited for it goes on (R181). -/
def State.unlockRead (s : State) (i : Instance) : State :=
  let b := (s.plan i.plan).owner
  let x := s.block b
  let own : LockOwner := .collective i.plan i.step
  if x.locks.any fun l => decide (l.owner = own) then
    s.setBlock b { x with locks := x.locks.filter (fun l => decide (l.owner ≠ own)), stall := if x.stall = .lock then .none else x.stall }
  else s

/-- The stage's job. -/
def State.planJob (s : State) (p : PlanEntry) : BitVec 16 := (s.stage p.stage).job
/-- The norm word of a job written for a step (Table 7.8). -/
def State.putNorm (s : State) (job : BitVec 16) (step : BitVec 32) (sumsq : BitVec 32) (state : Byte) : State :=
  let a := (s.job job).norm.toNat
  if a = 0 then s else s.put a (leBytes 4 step.toNat ++ leBytes 4 sumsq.toNat ++ [state] ++ leBytes 7 0)
/-- The norm word of a job for a step marked failed (R195). -/
def State.failNorm (s : State) (job : BitVec 16) (step : BitVec 32) : State :=
  let v := s.free
  v.2.putNorm job step (v.1.setWidth 32) 0x03

/-- Bytes left undefined: each a free value (log 4). -/
def State.undefine (s : State) (a n : Nat) : State :=
  (List.range n).foldl (fun t i =>
    let v := t.free
    { v.2 with mem := memPut v.2.mem (a + i) (v.1.setWidth 8) }) s
/-- Blocks of a tensor left undefined. -/
def State.undefineBlocks (s : State) (base e first n : Nat) : State :=
  (blockRanges base e first n).foldl (fun t r => t.undefine r.base r.len) s

/-- CRIMSON COLLECTIVE_FAILED, whose cause is a row of Table 7.10. -/
def State.collFailed (s : State) (p : PartId) (idx : Nat) (step : BitVec 32) (planId : BitVec 16) (cause : Nat) : State :=
  (s.count fun h => { h with colInstFail := inc h.colInstFail }).raise p evCollectiveFailed 3 (unitHub 0x06 idx)
    (det 168 step.toNat ||| det 200 planId.toNat ||| det 216 cause)

/-- An instance over: its credits go with it. -/
def State.dropInstance (s : State) (i : Instance) : State :=
  { s with
    instances := delFirst (fun j => decide (j = i)) s.instances
    pieceCredits := s.pieceCredits.filter fun c => !(c.planId == (s.plan i.plan).planId && c.step == i.step) }
/-- An instance fails (R195): result state 0x03, an undefined result, the norm word of its step, an abort notice unless one was received. -/
def State.failInstance (s : State) (i : Instance) (cause : Nat) (notify : Bool) : State :=
  let p := s.plan i.plan
  let s2 := ((((s.dropInstance i).put (p.dst.toNat + 1) [0x03]).undefine (p.dst.toNat + 64) p.bytes)).unlockRead i
  let s3 := if p.normEn then s2.failNorm (s.planJob p) i.step else s2
  let s4 := if notify then s3.ship (.abortNotice p.planId i.step) else s3
  s4.collFailed p.partition i.plan.toNat i.step p.planId cause

def causeLost : Nat := 1
def causeTimeout : Nat := 2
def causeMemory : Nat := 3
def causeAbort : Nat := 4
def causeScalar : Nat := 5

/-- The engine reads some ranges for an instance; an error status fails it (R195, Table 9.6). -/
def State.withReads (s : State) (i : Instance) (rs : List Range) (k : State → State) : State :=
  let r := s.readRanges rs
  if r.2.isSome then r.1.failInstance i causeMemory true else k r.1
/-- Blocks of a member's source, and of its result. -/
def srcRanges (i : Instance) (p : PlanEntry) (first n : Nat) : List Range :=
  if i.zeros then [] else blockRanges (p.src i.half) p.elements.toNat first n
def dstRanges (p : PlanEntry) (first n : Nat) : List Range := blockRanges (p.dst.toNat + 64) p.elements.toNat first n
/-- n blocks of the direct algorithm's workspace. -/
def wsRange (p : PlanEntry) (j n : Nat) : Range := ⟨p.ws.toNat + 1024 * j, 1024 * n⟩
/-- The chunk that this member owns: first block and count. -/
def State.ownChunk (s : State) (p : PlanEntry) : Nat × Nat := chunkRange (p.elements.toNat / 256) (s.planN p) (s.planRank p)

/-- Every byte of a member's source has been read (R181). -/
def State.sourceRead (s : State) (i : Instance) (p : PlanEntry) : Bool :=
  decide (s.ownPieces p ≤ i.sent) && (p.direct || decide (reducePieces (s.recvs p) ≤ i.arrived))

/-- The largest magnitude of the blocks [first, first + k) of the result (R187). -/
def State.dstMax (s : State) (p : PlanEntry) (first k : Nat) : BitVec 32 :=
  (List.range k).foldl (fun m j =>
    (blockVals (blockAt s.mem (p.dst.toNat + 64) p.elements.toNat (first + j)) (tMem p.tOut)).foldl (fun a d => amaxMax a (amaxOf d)) m) 0
/-- The maximum that a member contributes: over its owned chunk, or over the broadcast tensor at the root. -/
def State.ownMax (s : State) (p : PlanEntry) : BitVec 32 :=
  let blocks := p.elements.toNat / 256
  if p.op = opBroadcast then
    (if s.planRank p = p.root.toNat % s.planN p then s.dstMax p 0 blocks else 0)
  else
    let c := chunkRange blocks (s.planN p) (s.planRank p)
    s.dstMax p c.1 c.2

/-- A piece carries data of the member's own source (R183, R184). -/
def State.ownPiece (s : State) (i : Instance) (p : PlanEntry) (x : PieceRef) : Bool :=
  !x.gather && x.ringStep == 0 || x.gather && decide (i.sent < s.ownPieces p)
/-- The maximum that a piece of the gather phase carries: what the member has learnt, with its own chunk's blocks so far (R187). -/
def State.carriedMax (s : State) (i : Instance) (p : PlanEntry) (x : PieceRef) : BitVec 32 :=
  let c := s.ownChunk p
  amaxMax i.amax (if p.op ≠ opBroadcast ∧ x.chunk = s.planRank p then s.dstMax p c.1 (x.first + x.blocks - c.1) else s.ownMax p)
/-- The content of a piece that is sent: from the source where the member sends its own data first, else from the result (R183, R184). -/
def State.pieceOf (s : State) (k : PlanId) (i : Instance) (p : PlanEntry) (x : PieceRef) : Piece :=
  let own := s.ownPiece i p x
  let bs := (List.range x.blocks).map fun j =>
    if own then s.srcBlock i p (x.first + j) else blockAt s.mem (p.dst.toNat + 64) p.elements.toNat (x.first + j)
  { gatherPhase := x.gather, ringStep := x.ringStep, chunk := x.chunk, firstBlock := x.first
    t := if own then s.srcT k p i.half else p.tOut
    elems := bs.flatMap fun c => c.1.map (BitVec.ofNat 16), scales := bs.map (·.2)
    contrib := if x.gather then tGet i.contrib i.sums x.chunk else if x.ringStep = 0 then i.contrib else tGet i.contrib i.sums x.chunk
    amax := if x.gather then s.carriedMax i p x else 0
    lastOfChunk := x.lastOfChunk }

/-- The next piece may be sent: its data is there. -/
def State.canSend (s : State) (i : Instance) (p : PlanEntry) : Bool :=
  decide (i.sent < s.ownPieces p)
    || (if p.direct then decide (reducePieces (s.recvs p) ≤ i.arrived) else decide (i.sent < s.ownPieces p + i.arrived + i.gathered))

/-- Pieces leave while credits and data allow (R188). `fuel` bounds them. -/
def pumpPieces : Nat → PlanId → State → State
  | 0, _, s => s
  | fuel + 1, k, s =>
    match s.instance_ k with
    | none => s
    | some i =>
      let p := s.plan k
      match (s.sends p)[i.sent]? with
      | none => s
      | some x =>
        let c : PieceCredit := ⟨p.planId, i.step, x.peer⟩
        if s.pieceCredits.contains c && s.canSend i p then
          let r := s.readRanges (if s.ownPiece i p x then srcRanges i p x.first x.blocks else dstRanges p x.first x.blocks)
          if r.2.isSome then r.1.failInstance i causeMemory true
          else
            let j := { i with sent := i.sent + 1 }
            let s0 : State := { r.1 with pieceCredits := delFirst (· == c) r.1.pieceCredits }
            let s1 := (s0.ship (.piece p.planId i.step x.peer (s0.pieceOf k i p x))).setInstance j
            pumpPieces fuel k (if s1.sourceRead j p then s1.unlockRead j else s1)
        else s

/-! ## Posts (R180, R181) -/

/-- COLLECTIVE_POST (R181 steps 1 and 2): the oldest post. -/
def execCollectivePost (s : State) : Res :=
  match s.posts with
  | [] => .next s
  | q :: rest =>
    let s0 : State := { s with posts := rest }
    let p := s0.plan q.plan
    if !p.valid || p.owner != q.block || decide (q.step.toNat + 1 ≤ tGet 0 s0.lastSteps q.plan.toNat) then
      .next ((s0.count fun h => { h with colPostErr := inc h.colPostErr }).raise (s0.ownerOr0 q.block) evCollPost 3
        (unitHub 0x06 q.plan.toNat) (det 168 q.step.toNat ||| det 200 q.plan.toNat))
    else
      let h := s0.srcHeader p q.half
      let zeros := p.rbSrc && memNat s0.mem (h + 8) 4 != q.step.toNat
      let contrib : BitVec 32 :=
        if !p.rbSrc then Config.sourceContrib q.plan.toNat else if zeros then 0 else BitVec.ofNat 32 (memNat s0.mem (h + 12) 4)
      let i : Instance := ⟨q.plan, q.step, q.half, false, zeros, contrib, [], 0, 0, 0, [], 0⟩
      let s1 : State := { s0 with instances := s0.instances ++ [i], lastSteps := tSet s0.lastSteps q.plan.toNat (q.step.toNat + 1) }
      let s2 := if zeros then s1.count fun c => { c with colEmpty := inc c.colEmpty } else s1
      if p.rbSrc && !zeros then
        let x := s2.block p.owner
        .next (s2.setBlock p.owner { x with locks := x.locks ++ [⟨⟨p.src q.half, p.bytes⟩, .collective q.plan q.step⟩] })
      else .next s2

/-- The engine may reach every range of the plan (R224). -/
def State.planAllowed (s : State) (i : Instance) (p : PlanEntry) : Bool :=
  let c := chunkRange (p.elements.toNat / 256) (s.planN p) (s.planRank p)
  s.allowed p.partition p.dst.toNat (64 + p.bytes) && s.allowed p.partition (p.src i.half) p.bytes
    && (!(p.direct && p.sums) || s.allowed p.partition p.ws.toNat (4 * 256 * c.2))
    && (p.amax == 0#48 || s.allowed p.partition p.amax.toNat 4)

/-- The ranges of the source that `placeOwn` reads. -/
def State.placeReads (s : State) (i : Instance) (p : PlanEntry) : List Range :=
  let c := s.ownChunk p
  if p.op = opBroadcast then (if s.planRank p = p.root.toNat % s.planN p then srcRanges i p 0 (p.elements.toNat / 256) else [])
  else if (p.direct && p.sums) || p.op = opAllGather || s.planN p ≤ 1 then srcRanges i p c.1 c.2
  else []
/-- The own data that no hop writes: the own chunk of an all-gather, a broadcast at its root, a group of one; in ws for the direct algorithm (R182, R184). -/
def State.placeOwn (s : State) (k : PlanId) (i : Instance) (p : PlanEntry) : State :=
  let n := s.planN p
  let r := s.planRank p
  let blocks := p.elements.toNat / 256
  let t := tMem (s.srcT k p i.half)
  let copy (u : State) (first cnt : Nat) : State := (List.range cnt).foldl (fun v j =>
    let c := retune p t (v.srcBlock i p (first + j))
    v.putBlock (p.dst.toNat + 64) p.elements.toNat (first + j) c.1 c.2) u
  if p.direct && p.sums then
    let c := chunkRange blocks n r
    (List.range c.2).foldl (fun v j =>
      let ws := (blockVals (v.srcBlock i p (c.1 + j)) t).map fun d => (a32Of d).1
      v.put (p.ws.toNat + 1024 * j) (ws.flatMap fun w => leBytes 4 w.toNat)) s
  else if p.op = opBroadcast then (if r = p.root.toNat % n then copy s 0 blocks else s)
  else if p.op = opAllGather || n ≤ 1 then copy s (chunkRange blocks n r).1 (chunkRange blocks n r).2
  else s

/-- The A32 sums in ws re-encoded into the owned chunk (R184). -/
def State.encodeWs (s : State) (i : Instance) (p : PlanEntry) : State :=
  let c := chunkRange (p.elements.toNat / 256) (s.planN p) (s.planRank p)
  (List.range c.2).foldl (fun v j =>
    let ws := (List.range 256).map fun e => BitVec.ofNat 32 (memNat v.mem (p.ws.toNat + 1024 * j + 4 * e) 4)
    let r := reencode p i.step 0 (c.1 + j) ws
    v.putBlock (p.dst.toNat + 64) p.elements.toNat (c.1 + j) r.1 r.2) s
/-- The direct algorithm's reduction is over: the owned chunk is encoded, its sums being read for it. -/
def State.finishDirect (s : State) (i : Instance) (p : PlanEntry) : State :=
  if p.direct && p.sums && reducePieces (s.recvs p) == i.arrived then s.withReads i [wsRange p 0 (s.ownChunk p).2] fun t => t.encodeWs i p else s

/-- Instances that run (R177). -/
def State.runningInstances (s : State) : Nat := (s.instances.filter (·.running)).length
/-- An instance that runs: state 0x01 is written, credit is granted for every piece expected (R181 step 3, R188). -/
def State.runInstance (s : State) (at_ : Nat) (i : Instance) (p : PlanEntry) : State :=
  let j := { i with running := true }
  let s1 := ({ s with instances := setNth s.instances at_ j } : State).put (p.dst.toNat + 1) [0x01]
  let s2 := (s1.recvs p).foldl (fun t x => t.ship (.pieceCredit p.planId i.step x.peer)) s1
  let s3 := (s2.placeOwn i.plan j p).finishDirect j p
  pumpPieces (s3.sends p).length i.plan (if s3.sourceRead j p then s3.unlockRead j else s3)
/-- INSTANCE_START (R181 step 3, R177, R188): the plan's oldest queued instance, once the result is empty. -/
def execInstanceStart (plan : PlanId) (s : State) : Res :=
  match (enum s.instances).find? fun e => e.2.plan == plan && !e.2.running with
  | none => .next s
  | some (at_, i) =>
    let p := s.plan plan
    when_ ((s.instance_ plan).isNone && decide (s.runningInstances < 256) && memByte s.mem (p.dst.toNat + 1) == 0#8) s <|
      if !s.planAllowed i p then
        (s.count fun h => { h with memRefused := inc h.memRefused }).failInstance i causeMemory true
      else s.withReads i (⟨p.dst.toNat, 64⟩ :: s.placeReads i p) fun t => t.runInstance at_ i p

/-! ## Pieces (R182 to R188) -/

/-- The place, among the pieces that a member receives, of a piece from a rank: the next one of a ring or a broadcast, one that is still awaited of the direct algorithm. -/
def State.expected (s : State) (i : Instance) (p : PlanEntry) (rank : Nat) (x : Piece) : Option Nat :=
  let fits (r : PieceRef) : Bool := r.gather == x.gatherPhase && r.ringStep == x.ringStep && r.chunk == x.chunk && r.first == x.firstBlock
    && r.peer == rank && x.scales.length == r.blocks && x.elems.length == 256 * r.blocks
  ((enum (s.recvs p)).find? fun e =>
    fits e.2 && (if p.direct then !i.took.contains e.1 else e.1 == i.arrived + i.gathered)).map (·.1)

/-- The blocks of a piece with their codes and scale bytes. -/
def blocksOf (x : Piece) : List (Nat × List Nat × Byte) :=
  (enum x.scales).map fun e => (e.1, ((x.elems.drop (256 * e.1)).take 256).map (·.toNat), e.2)

/-- A piece of a ring's reduce phase: added to the own chunk, re-encoded into the result (R183, R185). -/
def State.ringSum (s : State) (k : PlanId) (i : Instance) (p : PlanEntry) (x : Piece) : State :=
  let t := tMem (s.srcT k p i.half)
  (blocksOf x).foldl (fun v e =>
    let b := x.firstBlock + e.1
    let sums := ((blockVals e.2 (tMem x.t)).zip (blockVals (v.srcBlock i p b) t)).map fun d => (a32Sum d.1 d.2).1
    let r := reencode p i.step x.ringStep b sums
    v.putBlock (p.dst.toNat + 64) p.elements.toNat b r.1 r.2) s
/-- A piece of the direct algorithm's reduce phase: added in ws (R184). -/
def State.directSum (s : State) (p : PlanEntry) (x : Piece) : State :=
  let c := chunkRange (p.elements.toNat / 256) (s.planN p) (s.planRank p)
  (blocksOf x).foldl (fun v e =>
    let a := p.ws.toNat + 1024 * (x.firstBlock - c.1 + e.1)
    let ws := (enum (blockVals e.2 (tMem x.t))).map fun d =>
      (a32Plus (BitVec.ofNat 32 (memNat v.mem (a + 4 * d.1) 4)) (a32Read (a32Of d.2).1).1).1
    v.put a (ws.flatMap fun w => leBytes 4 w.toNat)) s
/-- A piece of the gather phase or of a broadcast: written, converted where its t differs (R186). -/
def State.gather (s : State) (p : PlanEntry) (x : Piece) : State :=
  let s1 := (blocksOf x).foldl (fun v e =>
    let r := retune p (tMem x.t) e.2
    v.putBlock (p.dst.toNat + 64) p.elements.toNat (x.firstBlock + e.1) r.1 r.2) s
  if tMem x.t ≠ tMem p.tOut ∧ x.lastOfChunk = true ∧ x.scales ≠ [] then s1.count fun h => { h with colTMismatch := inc h.colTMismatch } else s1

/-- What a piece changes in its instance (R187): contribution totals along the reduce path, carried totals and maxima in the gather phase. -/
def Instance.take (i : Instance) (p : PlanEntry) (place : Nat) (x : Piece) : Instance :=
  let j := { i with took := place :: i.took }
  if x.gatherPhase then { j with gathered := i.gathered + 1, amax := amaxMax i.amax x.amax, sums := tSet i.sums x.chunk x.contrib }
  else
    let c := if p.direct then (if x.lastOfChunk then tGet i.contrib i.sums x.chunk + x.contrib else tGet i.contrib i.sums x.chunk)
      else x.contrib + i.contrib
    { j with arrived := i.arrived + 1, sums := tSet i.sums x.chunk c }

/-- The running instance of a plan_id and a step. -/
def State.runningOf (s : State) (planId : BitVec 16) (step : BitVec 32) : Option Instance :=
  s.instances.find? fun i => i.running && (s.plan i.plan).planId == planId && i.step == step
/-- The ranges that a piece of the reduce phase has the engine read. -/
def State.pieceReads (s : State) (i : Instance) (p : PlanEntry) (x : Piece) : List Range :=
  if x.gatherPhase then []
  else if p.direct then [wsRange p (x.firstBlock - (s.ownChunk p).1) x.scales.length]
  else srcRanges i p x.firstBlock x.scales.length
/-- A piece taken in (R183 to R187). -/
def State.takePiece (s : State) (i : Instance) (p : PlanEntry) (place : Nat) (x : Piece) : State :=
  let s1 := if x.gatherPhase then s.gather p x else if p.direct then s.directSum p x else s.ringSum i.plan i p x
  let j := i.take p place x
  let s2 := s1.setInstance j
  let s3 := if x.gatherPhase then s2 else s2.finishDirect j p
  pumpPieces (s3.sends p).length i.plan (if s3.sourceRead j p then s3.unlockRead j else s3)
/-- The device ID of a group's member (R178). -/
def State.memberDev (s : State) (g : BitVec 6) (rank : Nat) : BitVec 16 := BitVec.ofNat 16 (memNat s.mem ((s.group g).list.toNat + 2 * rank) 2)
/-- COLLECTIVE_PIECE (R183 to R186): a piece of a running instance from a rank; an error status of what the engine reads for it fails the instance (R195). -/
def execCollectivePiece (inst : InstanceId) (rank : BitVec 12) (x : Piece) (s : State) : Res :=
  match s.runningOf inst.planId inst.step with
  | none => .next s
  | some i =>
    let p := s.plan i.plan
    match s.expected i p rank.toNat x with
    | none => .next s
    | some k =>
      let s1 := s.unship (isControl 0x05 (inst.planId ++ inst.step.setWidth 16) (s.memberDev p.group rank.toNat))
      .next (s1.withReads i (s1.pieceReads i p x) fun t => t.takePiece i p k x)

/-- A control packet of a plan, read by the command that its body makes (R246). -/
def State.takeControl (s : State) (planId : BitVec 16) : State :=
  match s.inflight.find? fun t => match t.item with | .control p => p.kind == 0x06#8 && p.flow == planId.setWidth 32 | _ => false with
  | some t => { s with inflight := delFirst (fun u => decide (u = t)) s.inflight }
  | none => s
/-- COLLECTIVE_CREDIT (R188): a member grants a piece of its instance; it may come before this member has posted. -/
def execCollectiveCredit (inst : InstanceId) (rank : BitVec 12) (s : State) : Res :=
  let s0 := s.takeControl inst.planId
  let s1 : State := { s0 with pieceCredits := s0.pieceCredits ++ [⟨inst.planId, inst.step, rank.toNat⟩] }
  match s1.runningOf inst.planId inst.step with
  | none => .next s1
  | some i => .next (pumpPieces (s1.sends (s1.plan i.plan)).length i.plan s1)

/-- COLLECTIVE_ABORT_NOTICE (R195). -/
def execCollectiveAbortNotice (planId : BitVec 16) (step : BitVec 32) (s : State) : Res :=
  let t := s.takeControl planId
  match t.instances.find? fun i => (t.plan i.plan).planId == planId && i.step == step with
  | none => .next t
  | some i => .next (t.failInstance i causeAbort false)

/-! ## Completion (R187, R190) -/

/-- The A32 sum of squares of the owned chunk's values as written (R190). -/
def State.sumsq (s : State) (p : PlanEntry) : BitVec 32 :=
  let c := chunkRange (p.elements.toNat / 256) (s.planN p) (s.planRank p)
  (List.range c.2).foldl (fun a j =>
    (blockVals (blockAt s.mem (p.dst.toNat + 64) p.elements.toNat (c.1 + j)) (tMem p.tOut)).foldl (fun w d => (a32Plus w (d.mul d)).1) a) 0
/-- The contribution count of the result header (R187): under count_en the group's total, which the owned chunk's path has brought. -/
def State.resultContrib (s : State) (i : Instance) (p : PlanEntry) : BitVec 32 :=
  if !p.countEn || !p.sums || s.planN p ≤ 1 then i.contrib else tGet i.contrib i.sums (s.planRank p)
/-- The 64 bytes of a result header (Table 7.2). -/
def resultHeader (p : PlanEntry) (step contrib sumsq nominal amax : BitVec 32) : List Byte :=
  [0x0C, 0x02, 0x00, p.tOut] ++ leBytes 4 p.elements.toNat ++ leBytes 4 step.toNat ++ leBytes 4 contrib.toNat ++ leBytes 4 sumsq.toNat
    ++ leBytes 4 nominal.toNat ++ leBytes 4 amax.toNat ++ leBytes 36 0
/-- The key of a plan's step among a job's norms. -/
def normKey (job : BitVec 16) (k : Nat) (step : BitVec 32) : Nat := (job.toNat * 2 ^ 10 + k) * 2 ^ 32 + step.toNat
/-- The key of a job's region sum for a step. -/
def normStep (job : BitVec 16) (step : BitVec 32) : Nat := job.toNat * 2 ^ 32 + step.toNat

/-- Every valid task of a region whose plan is k queued in ascending index (R202). -/
def State.queueTasks (s : State) (r : RegionId) (k : PlanId) (step : BitVec 32) : State :=
  let u := (s.region r).upd
  s.setUpd r { u with
    queue := u.queue ++ ((u.tasks.filter fun e => e.2.valid && e.2.plan == k).map fun e => (e.1, step))
    lost := u.lost.filter fun l => l != (k, step) }

/-- The sum of squares of an instance added to its region's sum for the step (R190). -/
def State.addNorm (s : State) (p : PlanEntry) (i : Instance) (sq : BitVec 32) : State :=
  let job := s.planJob p
  let r := s.region p.owner.region
  let key := normStep job i.step
  let sum := (a32Plus (tGet 0 r.normSums key) (a32Read sq).1).1
  ({ s with normDone := tSet s.normDone (normKey job i.plan.toNat i.step) 1 } : State).setRegion p.owner.region
    { r with normSums := tSet r.normSums key sum }
/-- The chunks of a reduce-scatter's result that this member does not own are undefined (R182). -/
def State.scatterRest (s : State) (p : PlanEntry) : State :=
  if p.op = opReduceScatter then
    let c := s.ownChunk p
    let blocks := p.elements.toNat / 256
    (s.undefineBlocks (p.dst.toNat + 64) p.elements.toNat 0 c.1).undefineBlocks (p.dst.toNat + 64) p.elements.toNat (c.1 + c.2) (blocks - (c.1 + c.2))
  else s
/-- The end of an instance: result header, amax merge, the region's norm sum, the signal to the update unit (R187, R190). -/
def State.endInstance (s : State) (i : Instance) (p : PlanEntry) : State :=
  let sq := if p.normEn then s.sumsq p else 0
  let amax := amaxMax i.amax (s.ownMax p)
  let nominal := BitVec.ofNat 32 ((s.stage p.stage).mbPerStep.toNat * s.planN p)
  let s1 := ((s.dropInstance i).scatterRest p).put p.dst.toNat (resultHeader p i.step (s.resultContrib i p) sq nominal amax)
  let s2 : State := { s1 with
    msos := if p.amax = 0#48 then s1.msos
      else s1.msos ++ [⟨0x32, 0, 0, p.amax.toNat, 0, some amax, 4, 0, none, none, [], p.partition⟩] }
  let s3 := (s2.unlockRead i).count fun h => { h with colInstDone := inc h.colInstDone }
  (if p.normEn then s3.addNorm p i sq else s3).queueTasks p.owner.region i.plan i.step

/-- INSTANCE_COMPLETE (R187, R190): every piece has come and gone; the owned chunk is read for its maximum and its squares. -/
def execInstanceComplete (plan : PlanId) (s : State) : Res :=
  match s.instance_ plan with
  | none => .next s
  | some i =>
    let p := s.plan plan
    when_ (i.arrived + i.gathered == (s.recvs p).length && i.sent == (s.sends p).length) s <|
      s.withReads i (dstRanges p (s.ownChunk p).1 (s.ownChunk p).2) fun t => t.endInstance i p

/-! ## Scalar all-reduces (R192) -/

/-- The operations of R192. -/
def scalarOp (op : ScalarOp) (a b : Word) : Word :=
  let x : BitVec 32 := a.setWidth 32
  let y : BitVec 32 := b.setWidth 32
  match op with
  | .a32Sum => ((a32Plus x (a32Read y).1).1).setWidth 64
  | .a32Max => ((a32Of (dyLarger (a32Read x).1 (a32Read y).1)).1).setWidth 64
  | .int64Sum => a + b
  | .u32Min => (if x.toNat ≤ y.toNat then x else y).setWidth 64
  | .u32Max => (if x.toNat ≤ y.toNat then y else x).setWidth 64
/-- A rank's children in the tree, and how many they are. -/
def childRanks (n r : Nat) : List Nat := [2 * r + 1, 2 * r + 2].filter (· < n)
def treeChildren (n r : Nat) : Nat := (childRanks n r).length

/-- The result of a COLL_SCALAR put at its address. -/
def State.scalarResult (s : State) (r : Running) (a : Addr) (v : Word) : State :=
  if inStacked a.toNat 8 then s.put a.toNat (leBytes 8 v.toNat)
  else s.companionReq 269 a.toNat 8 (.report r.part) (leBytes 8 v.toNat)
/-- A scalar all-reduce ends on this member with its result (R191, R192, R151). -/
def State.endScalar (s : State) (x : Scalar) (v : Word) : State :=
  let s1 := s.count fun h => { h with colScalarDone := inc h.colScalarDone }
  let s2 := (childRanks (s.group x.group).count.toNat (s.group x.group).rank.toNat).foldl (fun t k => t.ship (.scalar x.group x.use v true k)) s1
  match x.use, x.cmd with
  | .norm job step, _ => s2.putNorm job step (v.setWidth 32) 0x02
  | .jobVersion _, _ => { s2 with scalars := s2.scalars ++ [{ x with result := some v }] }
  | .command, some (r, a) => (s2.scalarResult r a v).okData r [v]
  | .command, none => s2
/-- A scalar all-reduce goes on: with every child's value it ends at rank 0, elsewhere its value travels up. -/
def State.runScalar (s : State) (x : Scalar) : State :=
  let n := (s.group x.group).count.toNat
  let r := (s.group x.group).rank.toNat
  if x.children < treeChildren n r then { s with scalars := s.scalars ++ [x] }
  else if r = 0 then s.endScalar x x.value
  else ({ s with scalars := s.scalars ++ [{ x with sentUp := true }] } : State).ship (.scalar x.group x.use x.value false ((r - 1) / 2))
/-- A new one contributed by this member. -/
def State.startScalar (s : State) (g : BitVec 6) (use : ScalarUse) (op : ScalarOp) (v : Word) (cmd : Option (Running × Addr)) : State :=
  s.runScalar ⟨g, use, op, v, 0, false, none, cmd⟩

/-- SCALAR_VALUE (R192): a child's value is combined, a parent's result is passed down. A value for an all-reduce that this member has not started waits. -/
def execScalarValue (group : BitVec 6) (use : ScalarUse) (value : Word) (down : Bool) (s : State) : Res :=
  let n := (s.group group).count.toNat
  let r := (s.group group).rank.toNat
  let takes (x : Scalar) : Bool :=
    x.group == group && decide (x.use = use) && x.result.isNone && (if down then x.sentUp else !x.sentUp && decide (x.children < treeChildren n r))
  match s.scalars.find? takes with
  | none => .next s
  | some x =>
    let s0 := s.takeControl (group.setWidth 16)
    let s1 : State := { s0 with scalars := delFirst takes s0.scalars }
    .next (if down then s1.endScalar x value else s1.runScalar { x with value := scalarOp x.op x.value value, children := x.children + 1 })

/-! ## The global norm (R190, R191) -/

/-- The plans of a job that contribute to its norm. -/
def State.normPlans (s : State) (job : BitVec 16) : List Nat :=
  (s.plans.filter fun e => e.2.valid && e.2.normEn && s.planJob e.2 == job).map (·.1)

/-- NORM_COMPLETE (R190, R191): the four region sums are added and contributed to the job's group. -/
def execNormComplete (job : BitVec 16) (step : BitVec 32) (s : State) : Res :=
  let key := normStep job step
  let ps := s.normPlans job
  let sums := allRegions.filterMap fun r => tFind (s.region r).normSums key
  when_ (!ps.isEmpty && !sums.isEmpty && ps.all (fun k => (tFind s.normDone (normKey job k step)).isSome)
      && (s.group (s.job job).group).valid) s <|
    let chip := sums.foldl (fun a v => (a32Plus a (a32Read v).1).1) (0 : BitVec 32)
    let s0 : State := { s with normDone := ps.foldl (fun t k => tDel t (normKey job k step)) s.normDone }
    let s1 := allRegions.foldl (fun t r => t.setRegion r { t.region r with normSums := tDel (t.region r).normSums key }) s0
    s1.startScalar (s.job job).group (.norm job step) .a32Sum (chip.setWidth 64) none

/-! ## The job version (R151) -/

/-- The valid entries of a job. -/
def State.jobStages (s : State) (job : BitVec 16) : List (Nat × StageEntry) := s.stages.filter fun e => e.2.valid && e.2.job == job
/-- The version-table entries of a job's shards on this package. -/
def State.jobShards (s : State) (job : BitVec 16) : List VEntry :=
  ((s.jobStages job).flatMap fun e => s.shardAddrs e.2).map fun a => ventryAt s.mem a
/-- The lowest of some numbers. -/
def lowest : List Nat → Nat
  | [] => 0
  | x :: r => r.foldl min x
/-- The lowest job_version held by a job's entries. -/
def State.jobHeld (s : State) (job : BitVec 16) : Nat := lowest ((s.jobStages job).map fun e => e.2.jobVersion.toNat)
/-- The lowest cur_version of a job's shards. -/
def State.jobCurrent (s : State) (job : BitVec 16) : Nat := lowest ((s.jobShards job).map fun v => v.curVersion.toNat)
/-- The condition of R151. -/
def State.jobReady (s : State) (job : BitVec 16) : Bool :=
  !(s.jobShards job).isEmpty && (s.jobShards job).all (fun v => (v.slot v.curSlot).state == vsCurrent) && decide (s.jobHeld job < s.jobCurrent job)
/-- The partition of a job: that of its first entry. -/
def State.jobPart (s : State) (job : BitVec 16) : PartId := ((s.jobStages job).head?.map (·.2.partition)).getD 0

/-- What Flapino reads for the check: the shard lists and the entries that they name. -/
def State.jobReads (s : State) (job : BitVec 16) : List Range :=
  (s.jobStages job).flatMap fun e => ⟨e.2.shardList.toNat, 8 * e.2.shardCount.toNat⟩ :: (s.shardAddrs e.2).map fun a => ⟨a, ventryBytes⟩
/-- JOB_VERSION_CHECK (R151): the lowest current version is contributed, one all-reduce at a time; where a list or an entry cannot be read the condition does not hold. -/
def execJobVersionCheck (job : BitVec 16) (s : State) : Res :=
  when_ (s.flapinoUp && s.jobReady job && !s.scalars.any (fun x => decide (x.use = .jobVersion job)) && (s.group (s.job job).group).valid) s <|
    let r := s.readRanges (s.jobReads job)
    if r.2.isSome then r.1 else r.1.startScalar (s.job job).group (.jobVersion job) .u32Min (BitVec.ofNat 64 (s.jobCurrent job)) none

/-- The agreed version written to the job's entries and to their blocks (R151, R166). -/
def State.setJobVersion (s : State) (job : BitVec 16) (v : BitVec 32) : State :=
  ((s.jobStages job).foldl (fun t e => t.setStage (BitVec.ofNat 6 e.1) { e.2 with jobVersion := v }) s).syncJobs

/-- JOB_VERSION_AGREED (R151): the all-reduce has completed with the version; a higher one is written. -/
def execJobVersionAgreed (job : BitVec 16) (version : BitVec 32) (s : State) : Res :=
  let done (x : Scalar) : Bool := decide (x.use = .jobVersion job) && x.result == some (version.setWidth 64)
  when_ (s.scalars.any done) s <|
    let s1 : State := { s with scalars := delFirst done s.scalars }
    if s1.jobHeld job < version.toNat then s1.setJobVersion job version else s1

/-! ## Scalar failures (R195) -/

/-- A scalar all-reduce that cannot finish. -/
def State.failScalar (s : State) (x : Scalar) : State :=
  let s1 : State := { s with scalars := delFirst (fun y => decide (y = x)) s.scalars }
  match x.use, x.cmd with
  | .norm job step, _ => (s1.failNorm job step).collFailed (s.jobPart job) 0 step 0 causeScalar
  | .jobVersion job, _ => s1.collFailed (s.jobPart job) 0 0 0 causeScalar
  | .command, some (r, _) => (s1.collFailed r.part 0 0 0 causeTimeout).failed r rsState
  | .command, none => s1

/-! ## Commands (Table 7.11) -/

/-- The scope of a command that names a plan. -/
def State.planScope (s : State) (index : BitVec 16) : Scope :=
  let p := s.plan (index.setWidth 10)
  if p.valid && decide (index.toNat < 1024) then .names p.partition else .own
/-- The 512 bits of a plan entry (Table 7.5). -/
def planBits (p : PlanEntry) : BitVec 512 :=
  p.amax ++ p.dst ++ p.src0 ++ p.halfLen ++ p.elements ++ p.planId ++ p.tOut ++ 0#2 ++ p.stage ++ 0#2 ++ p.group ++ p.owner.region
    ++ p.owner.block ++ p.ppIndex ++ p.op ++ p.alg ++ BitVec.ofBool p.roundSr ++ BitVec.ofBool p.normEn ++ BitVec.ofBool p.countEn
    ++ BitVec.ofBool p.rbSrc ++ p.partition ++ p.root ++ 0#1 ++ p.ws ++ 0#175 ++ BitVec.ofBool p.valid
/-- An instance's state as a query returns it: none, queued, running (log 24). -/
def State.instanceCode (s : State) (k : PlanId) : Nat :=
  if (s.instance_ k).isSome then 2 else if s.instances.any (fun i => i.plan == k) then 1 else 0

/-- COLL_QUERY (R196). -/
def execCollQuery (index : BitVec 16) (s : State) : Res :=
  s.cmd 0x0246 (s.planScope index) fun s r =>
    s.unless r (firstReason [(decide (1023 < index.toNat), rsField)]) <|
      let k : PlanId := index.setWidth 10
      s.okData r (natWords 8 (planBits (s.plan k)).toNat ++ [BitVec.ofNat 64 (tGet 0 s.lastSteps k.toNat - 1), BitVec.ofNat 64 (s.instanceCode k)])

/-- COLL_SCALAR (R192, R196): completes with the result. -/
def execCollScalar (group : BitVec 8) (op : ScalarOp) (value : Word) (result : Addr) (s : State) : Res :=
  s.cmd 0x0244 .own fun s r =>
    let p := s.part r.part
    s.unless r (firstReason [(decide (63 < group.toNat), rsField), (!(s.group (group.setWidth 6)).valid, rsState),
        (!p.hasStacked result.toNat 8 && !p.hasCompanion result.toNat 8, rsAddress)]) <|
      s.startScalar (group.setWidth 6) .command op value (some (r, result))

end Sys2Proof.Machine
end

