-- ==== Sys2Proof/Machine/Transcendental.lean ====
section
/-! DEFINITION. The transcendental functions to some 60 bits, so that the bound of Table 2.6 can be held: an open result is taken where it lies within 2 units in the last place of the exact value, and the correctly rounded value elsewhere (R48, R49, R94, R207, log 20). Numbers are integers in units of 2^-128 where no other unit is named. -/

namespace Sys2Proof.Machine

/-- ln 2. -/
def fixLn2 : Int := 0xb17217f7d1cf79abc9e3b39803f2f6af
/-- π / 2. -/
def fixHalfPi : Int := 0x1921fb54442d18469898cc51701b839a2
/-- 1. -/
def fixOne : Int := 2 ^ 128
/-- A product. -/
def fixMul (a b : Int) : Int := a * b / fixOne
/-- A value, floored. -/
def Dy.fix (d : Dy) : Int :=
  let e := d.e + 128
  let m : Int := if d.neg then -(d.m : Int) else d.m
  if 0 ≤ e then m * 2 ^ e.toNat else m / 2 ^ (-e).toNat
/-- An integer of these units as a value. -/
def Dy.ofFix (i : Int) : Dy := Dy.ofInt i (-128) false
/-- |a| < b. -/
def Dy.below (a b : Dy) : Bool := (Dy.mk false a.m a.e).lt b
/-- a − b. -/
def Dy.sub (a b : Dy) : Dy := a.add { b with neg := !b.neg }
/-- A small whole number. -/
def Dy.nat (n : Nat) : Dy := ⟨false, n, 0⟩

/-- The sum of a power series: each term is the last times x over its divisor. -/
def fixSeries (x : Int) : List Nat → Int → Int
  | [], _ => 0
  | n :: r, t => t + fixSeries x r (fixMul t x / n)
/-- e^r for r in [0, ln 2): 40 terms. -/
def fixExp (r : Int) : Int := fixSeries r ((List.range 40).map (· + 1)) fixOne
/-- e^x for |x| up to 256. -/
def dyExp (x : Dy) : Dy :=
  let i := x.fix
  let n := i / fixLn2
  (Dy.ofFix (fixExp (i - n * fixLn2))).scale n
/-- 2^x. -/
def dyExp2 (x : Dy) : Dy :=
  let i := x.fix
  let n := i / fixOne
  (Dy.ofFix (fixExp (fixMul (i - n * fixOne) fixLn2))).scale n

/-- ln of a positive value: k ln 2 + 2 artanh((v − 1) / (v + 1)) with v in [1, 2). -/
def fixLog (d : Dy) : Int :=
  let v : Int := (d.m : Int) * fixOne / 2 ^ (bitLen d.m - 1)
  let y := (v - fixOne) * fixOne / (v + fixOne)
  let y2 := fixMul y y
  d.top * fixLn2 + 2 * ((List.range 42).foldl (fun (a : Int × Int) (i : Nat) => (a.1 + a.2 / ((2 * i + 1 : Nat) : Int), fixMul a.2 y2)) ((0 : Int), y)).1

/-- x − x³ / a + x⁵ / b, for |x| below 2^-12. -/
def dySmall (x : Dy) (a b : Nat) : Dy :=
  let x3 := x.mul (x.mul x)
  let x5 := x3.mul (x.mul x)
  (x.sub (dyDiv x3 (Dy.nat a))).add (dyDiv x5 (Dy.nat b))
/-- sin r and cos r for |r| up to π / 4. -/
def fixSin (r : Int) : Int := r * fixSeries (-fixMul r r) ((List.range 16).map fun i => (2 * i + 2) * (2 * i + 3)) fixOne / fixOne
def fixCos (r : Int) : Int := fixSeries (-fixMul r r) ((List.range 16).map fun i => (2 * i + 1) * (2 * i + 2)) fixOne
/-- sin(x + q π / 2). -/
def dySinq (q : Int) (x : Dy) : Dy :=
  let i := x.fix
  let n := (2 * i + fixHalfPi) / (2 * fixHalfPi)
  let r := i - n * fixHalfPi
  Dy.ofFix (match ((n + q) % 4).toNat with
    | 0 => fixSin r
    | 1 => fixCos r
    | 2 => -fixSin r
    | _ => -fixCos r)
/-- |x| is below 2^-12. -/
def Dy.tiny (x : Dy) : Bool := x.below ⟨false, 1, -12⟩
def dySin (x : Dy) : Dy := if x.m = 0 then x else if x.tiny then dySmall x 6 120 else dySinq 0 x
def dyCos (x : Dy) : Dy := dySinq 1 x
/-- tanh: its series for small x, (e^2x − 1) / (e^2x + 1) elsewhere, 1 from 64 on. -/
def dyTanh (x : Dy) : Dy :=
  if x.m = 0 then x
  else if x.tiny then (dySmall x 3 15).add (dyDiv (x.mul ((x.mul x).mul (x.mul x))) (Dy.nat 15))
  else if x.below (Dy.nat 64) then
    let e := dyExp { x with neg := false, e := x.e + 1 }
    { dyDiv (e.sub (Dy.nat 1)) (e.add (Dy.nat 1)) with neg := x.neg }
  else ⟨x.neg, 1, 0⟩
/-- 1 / (1 + e^−x); 1 and 0 beyond 128. -/
def dySigmoid (x : Dy) : Dy :=
  if x.below (Dy.nat 128) then dyDiv (Dy.nat 1) ((Dy.nat 1).add (dyExp { x with neg := !x.neg }))
  else if x.neg then Dy.zero false else Dy.nat 1

/-- An FP32 word lies within 2 units in the last place of y (Table 2.6). -/
def ulp2 (y : Dy) (w : BitVec 32) : Bool :=
  match f32 w with
  | .fin d => !Dy.lt ⟨false, 2, max y.top (-126) - 23⟩ { d.sub y with neg := false }
  | _ => false
/-- The open word where it holds the bound, else the correctly rounded value. -/
def bounded (y : Dy) (open_ : BitVec 32) : BitVec 32 := if y.m != 0 && ulp2 y open_ then f32Flush open_ else f32Round y

/-- An FP32 word in [−1, 1]: the open word, or the nearest end, or zero for a NaN (R94). -/
def unitRange (w : BitVec 32) : BitVec 32 :=
  if f32IsNan w then f32Zero
  else if f32Lt f32One w then f32One
  else if f32Lt w 0xBF800000#32 then 0xBF800000#32 else w

/-- cos(π f) within the bound of Table 2.6 (R207), for f in [0, 1). -/
def f32CosPi (f : BitVec 32) : BitVec 32 :=
  match f32 f with
  | .fin d => bounded (dyCos (Dy.ofFix (fixMul d.fix (2 * fixHalfPi)))) (Config.cosine f)
  | _ => f32Nan f 0

/-- What a transcendental operation of the vector unit computes (Table 4.10). -/
inductive Trans where
  | exp | exp2 | log | log2 | rcp | rsqrt | sqrt | tanh | sigmoid | sin | cos
  deriving DecidableEq, Repr

/-- The result for an infinite argument, by IEEE 754 (R94): none where it is undefined. -/
def Trans.ofInf (o : Trans) (neg : Bool) : Option (BitVec 32) :=
  match o with
  | .exp | .exp2 => some (if neg then f32Zero else f32Inf false)
  | .log | .log2 | .sqrt => if neg then none else some (f32Inf false)
  | .rcp => some (if neg then 0x80000000#32 else f32Zero)
  | .rsqrt => if neg then none else some f32Zero
  | .tanh => some (if neg then 0xBF800000#32 else f32One)
  | .sigmoid => some (if neg then f32Zero else f32One)
  | .sin | .cos => none

/-- The exact value for a finite argument, or the IEEE 754 result at a pole; none where it is undefined. -/
inductive TransVal where
  | undefined
  | word (w : BitVec 32)
  | exact (y : Dy)

/-- The function at a finite argument, with e^x and 2^x taken as infinite and zero beyond the range of FP32. -/
def Trans.at_ (o : Trans) (d : Dy) : TransVal :=
  let far := !d.below (Dy.nat 200)
  let big : TransVal := .word (if d.neg then f32Zero else f32Inf false)
  match o with
  | .exp => if far then big else .exact (dyExp d)
  | .exp2 => if far then big else .exact (dyExp2 d)
  | .log => if d.m = 0 then .word (f32Inf true) else if d.neg then .undefined else .exact (Dy.ofFix (fixLog d))
  | .log2 => if d.m = 0 then .word (f32Inf true) else if d.neg then .undefined else .exact (Dy.ofFix (fixLog d * fixOne / fixLn2))
  | .rcp => if d.m = 0 then .word (f32Inf d.neg) else .exact (dyDiv (Dy.nat 1) d)
  | .rsqrt => if d.m = 0 then .word (f32Inf d.neg) else if d.neg then .undefined else .exact (dyRsqrt d)
  | .sqrt => if d.m = 0 then .word (BitVec.ofNat 32 (fmtFP32.signed d.neg 0)) else if d.neg then .undefined else .exact (dySqrt d)
  | .tanh => .exact (dyTanh d)
  | .sigmoid => .exact (dySigmoid d)
  | .sin => .exact (dySin d)
  | .cos => .exact (dyCos d)

/-- An argument lies in the domain of R94, where the bound holds instead of the correctly rounded result. -/
def Trans.inDomain (o : Trans) (d : Dy) : Bool :=
  match o with
  | .exp => !Dy.lt ⟨false, 887, 0⟩ (d.mul (Dy.nat 10)) && !(d.mul (Dy.nat 10)).lt ⟨true, 873, 0⟩
  | .exp2 => d.lt (Dy.nat 128) && !d.lt ⟨true, 126, 0⟩
  | _ => true

/-- A transcendental result of the vector unit and its invalid flag: the operation code, the argument's word, and its value (R94, Table 2.6). -/
def transOp (code : BitVec 8) (o : Trans) (a : BitVec 32) (v : Val) : FRes :=
  let w := Config.transcendental code a
  match v with
  | .nan => (f32Nan a 0, false)
  | .inf n => match o.ofInf n with | some r => (r, false) | none => (f32Nan a 0, true)
  | .fin d =>
    if (o = .sin ∨ o = .cos) ∧ Dy.lt (Dy.nat 4096) { d with neg := false } then (unitRange (f32Flush w), false)
    else match o.at_ d with
      | .undefined => (f32Nan a 0, true)
      | .word r => (r, false)
      | .exact y => (if o.inDomain d then bounded y w else f32Round y, false)

end Sys2Proof.Machine
end

