-- ==== Sys2Proof/Machine/Engines.lean ====
section
/-! DEFINITION. The engines: issue checks of R85, VEC and CONVERT, FETCH and COPY, version fetches, and how a command leaves its queue (R84 to R89, R93, R94, R163, R165). The array is in Array.lean. -/

namespace Sys2Proof.Machine

/-! ## Issue (R84, R85) -/

/-- A command put at the end of an engine's queue. -/
def BlockState.push (x : BlockState) (e : EngineId) (c : EngineCmd) : BlockState :=
  match e with
  | .array => { x with arrayQ := x.arrayQ ++ [c] }
  | .vector => { x with vectorQ := x.vectorQ ++ [c] }
  | .fetch => { x with fetchQ := x.fetchQ ++ [c] }
  | .queue => x

/-- Ranges of at least one byte. -/
def nonEmpty (rs : List Range) : List Range := rs.filter fun r => decide (0 < r.len)
/-- A range of the scratchpad aperture starts on a 64-byte boundary, with strides that keep it (R85). -/
def spadAligned (a stride : Nat) : Bool := a < apertureBase || companionBase ≤ a || (a % 64 == 0 && stride % 64 == 0)
/-- An amax word that a command names exists (R47, R85). -/
def amaxOk (g : Group) (en : Bool) (idx : BitVec 3) : Bool := !en || decide (idx.toNat < g.amaxWords.length)
/-- A range in the own scratchpad or in stacked memory (R86). -/
def ownOrStacked (b : BlockId) (r : Range) : Bool := inOwn b r.base r.len || inStacked r.base r.len

/-- The common course of a heavy command: a full queue stalls, a failed check rejects, a refused address is refused, a void group has no effect (R84, R85, R107, R224). -/
def State.issue (s : State) (b : BlockId) (x : BlockState) (g : Group) (e : EngineId) (ok : Bool) (reads writes : List Range)
    (c : EngineCmd) (start : State → State) : State :=
  if 8 ≤ x.engineLoad e then s.setBlock b { x with stall := .engine e }
  else if !ok || !(nonEmpty reads).all (fun r => readOk b x r.base r.len) || !(nonEmpty writes).all (fun r => writeOk b x r.base r.len) then
    s.reject b
  else if !(nonEmpty (reads ++ writes)).all (fun r => s.blockAllowed b r.base r.len) then s.refuseAccess b
  else if g.void then s.done b x
  else start (s.done b (x.push e c))

/-! ## Flags, draws and ranges of a command -/

/-- The conversion flags of a command joined to its group's, with its amax (R46, R47). -/
def BlockState.flagGroup (x : BlockState) (sat inv amaxEn : Bool) (idx : BitVec 3) (amax : BitVec 32) : BlockState :=
  x.mapGroup fun g => { g with
    saturated := g.saturated || sat, invalid := g.invalid || inv
    amaxMax := if amaxEn then tSet g.amaxMax idx.toNat (amaxMax (g.amax idx.toNat) amax) else g.amaxMax }

/-- A lane's next draw (R45). -/
def drawLane (x : BlockState) (lane : Nat) : Nat × BlockState :=
  let v := laneStep (tGet (seedLane x.laneSeed lane) x.lanes lane)
  (laneBits v, { x with lanes := tSet x.lanes lane v })
/-- One rounding for each lane of a list, in order; nearest-even draws nothing. -/
def roundings (sr : Bool) : List Nat → BlockState → List Rounding × BlockState
  | [], x => ([], x)
  | l :: r, x =>
    if sr then
      let d := drawLane x l
      let q := roundings sr r d.2
      (.stochastic d.1 :: q.1, q.2)
    else
      let q := roundings sr r x
      (.nearest :: q.1, q.2)

/-- What the output stage carries from block to block of a tile. -/
structure OutAcc where
  mem : Memory
  x : BlockState
  sat : Bool
  inv : Bool
  amax : BitVec 32

/-- The ranges of a command that has been issued. -/
def EngineCmd.reads : EngineCmd → List Range
  | .matmul f a b _ z ssA ssB sA sC sB _ => mmReads f a b z ssA ssB sA sC sB
  | .vec f cv a b c _ _ =>
    let v := if cv then some .copy else vopOf f.vop
    [⟨a, tensorBytes f.fmtA f.count.toNat⟩]
      ++ (match v with
          | some o =>
            (if o.usesB && !f.scalarB then [⟨b, tensorBytes f.fmtB (if f.bcastB then vecRow f else f.count.toNat)⟩] else [])
              ++ (if o.usesC then [⟨c, tensorBytes f.fmtB f.count.toNat⟩] else [])
          | none => [])
  | .fetch f src _ len _ _ _ => if f.versionEn then [] else [⟨src, len + scaleBytes f.fmtSrc (len * 8 / fmtBits f.fmtSrc)⟩]
  | .copy src _ len => [⟨src, len⟩]
  | .fence _ _ => []
def EngineCmd.writes : EngineCmd → List Range
  | .matmul f _ _ c _ _ _ _ sC _ _ => cRanges f f.fmtC c sC
  | .vec f cv _ _ _ d _ =>
    [⟨d, tensorBytes f.fmtD (match (if cv then some Vop.copy else vopOf f.vop) with | some o => vecOut f o | none => 0)⟩]
  | .fetch f _ dst len _ _ _ => if f.toShadow || f.versionEn then [] else [⟨dst, tensorBytes f.fmtDst (len * 8 / fmtBits f.fmtSrc)⟩]
  | .copy _ dst len => [⟨dst, len⟩]
  | .fence _ _ => []

/-- A command must wait: a segment it reads has not landed (R134), a range it writes is locked (R103). -/
def State.cmdWaits (s : State) (b : BlockId) (c : EngineCmd) : Bool :=
  c.reads.any (fun r => s.ringWaits b r.base r.len) || c.writes.any fun r => (s.block b).lockedBy r.base r.len
/-- The Relay of an abandoned segment that a command reads (R137). -/
def State.cmdAbandoned (s : State) (b : BlockId) (c : EngineCmd) : Option (BitVec 32) :=
  (c.reads.filterMap fun r => s.ringAbandoned b r.base r.len).head?

/-! ## VEC and CONVERT (R87, R93, R94, R449) -/

/-- The checks of R85, R87 and R94 but for the ranges. -/
def vecOk (g : Group) (f : VecFields) (v : Option Vop) (a b c d : Nat) : Bool :=
  match v with
  | none => false
  | some o =>
    let n := f.count.toNat
    f.count != 0#32 && isVectorFmt f.fmtA && isVectorFmt f.fmtD && tValid f.t && amaxOk g f.amaxEn f.amaxIdx
      && wholeBlocks f.fmtA n && wholeBlocks f.fmtD (vecOut f o) && spadAligned a 0 && spadAligned d 0
      && (!(o.usesB && !f.scalarB) || (isVectorFmt f.fmtB && wholeBlocks f.fmtB (if f.bcastB then vecRow f else n) && spadAligned b 0))
      && (!o.usesC || (isVectorFmt f.fmtB && wholeBlocks f.fmtB n && spadAligned c 0))

/-- The vector unit starts the command at its head: reads of companion memory are sent (R301). -/
def State.startVec (s : State) (b : BlockId) : State :=
  let x := s.block b
  let s1 := s.setBlock b { x with vecData := [] }
  match x.vectorQ with
  | c :: _ => (c.reads.filter fun r => decide (0 < r.len) && inCompanion r.base r.len).foldl (fun t r => t.ucRead b.idx r.base r.len (.vec b)) s1
  | [] => s1
/-- Memory as the vector unit's head command sees it: the companion bytes that its reads returned lie over it. -/
def State.vecMem (s : State) (x : BlockState) : Memory := x.vecData.foldl (fun m e => memWrite m e.1 e.2) s.mem

/-- The common course of VEC and CONVERT. -/
def State.vecIssue (s : State) (b : BlockId) (f : VecFields) (cv : Bool) : Res :=
  s.core b fun s x =>
    match x.group with
    | none => s.refuse b pkUnlisted
    | some g =>
      let a := x.addr f.sa
      let rb := x.addr f.sb
      let c := x.addr f.sc
      let d := x.addr f.sd
      let cmd : EngineCmd := .vec f cv a rb c d ((x.reg f.sb).extractLsb' 0 32)
      s.issue b x g .vector (vecOk g f (if cv then some .copy else vopOf f.vop) a rb c d) cmd.reads cmd.writes cmd fun t =>
        if (t.block b).vectorQ.length = 1 then t.startVec b else t

/-- VEC. -/
def execVec (b : BlockId) (f : VecFields) (s : State) : Res := s.vecIssue b f false
/-- CONVERT. -/
def execConvert (b : BlockId) (f : VecFields) (s : State) : Res := s.vecIssue b f true

/-- The value of element i in the vector unit: exact without a block scale, an INT32 beyond 24 bits too; its FP32 widening with one (R32, R36, log 93). -/
def vecSource (mem : Memory) (a : Nat) (c : BitVec 4) (n i : Nat) : Val :=
  match scaleAt mem a c n i with
  | none => readElem c (elemBits mem a c i)
  | some e => f32 (vectorVal c (elemBits mem a c i) (some e)).1

/-- An input or a partial result of the vector unit: its FP32 word, and the value that the arithmetic takes. -/
abbrev VecVal := BitVec 32 × Val
/-- A result in FP32 as a value. -/
def ofWord (r : FRes) : VecVal × Bool := ((r.1, f32 r.1), r.2)

/-- The transcendental operations among the vector operations. -/
def Vop.trans : Vop → Option Trans
  | .exp => some .exp
  | .exp2 => some .exp2
  | .log => some .log
  | .log2 => some .log2
  | .rcp => some .rcp
  | .rsqrt => some .rsqrt
  | .sqrt => some .sqrt
  | .tanh => some .tanh
  | .sigmoid => some .sigmoid
  | .sin => some .sin
  | .cos => some .cos
  | _ => none

/-- One element's result (Table 4.10). -/
def vecElem (code : BitVec 8) (o : Vop) (a b c : VecVal) : VecVal × Bool :=
  match o with
  | .add => ofWord (valAdd (f32Nan a.1 b.1) a.2 b.2)
  | .sub => ofWord (valAdd (f32Nan a.1 (f32Neg b.1)) a.2 (valNeg b.2))
  | .mul => ofWord (valMul (f32Nan a.1 b.1) a.2 b.2)
  | .fma => ofWord (valFma (f32Nan a.1 b.1) (f32Nan a.1 c.1) a.2 b.2 c.2)
  | .max => ofWord (f32Max a.1 b.1, false)
  | .min => ofWord (f32Min a.1 b.1, false)
  | .abs => ofWord (f32Abs a.1, false)
  | .neg => ofWord (f32Neg a.1, false)
  | .cmplt => ofWord (f32Bool (valLt a.2 b.2), false)
  | .cmpeq => ofWord (f32Bool (valEq a.2 b.2), false)
  | .sel => ofWord (if f32Eq a.1 f32Zero then c.1 else b.1, false)
  | .rssq => ofWord (valMul (f32Nan a.1 a.1) a.2 a.2)
  | _ => match o.trans with
    | some t => ofWord (transOp code t a.1 a.2)
    | none => (a, false)

/-- A row reduced by the tree that its length fixes (R94, log 32); `fuel` bounds the depth, `z` stands for an empty row. -/
def treeReduce {α : Type} (z : α) (op : α → α → α × Bool) : Nat → List α → α × Bool
  | 0, xs => (xs.headD z, false)
  | _, [] => (z, false)
  | _, [x] => (x, false)
  | fuel + 1, xs =>
    let es := enum xs
    let l := (es.filter fun e => Config.treeLeft xs.length e.1).map (·.2)
    let r := (es.filter fun e => !Config.treeLeft xs.length e.1).map (·.2)
    let p := if l.isEmpty || r.isEmpty then (xs.take (xs.length / 2), xs.drop (xs.length / 2)) else (l, r)
    let u := treeReduce z op fuel p.1
    let v := treeReduce z op fuel p.2
    let w := op u.1 v.1
    (w.1, u.2 || v.2 || w.2)

/-- The operation that joins two values of a row. -/
def redOp (o : Vop) (a b : VecVal) : VecVal × Bool :=
  match o with
  | .rmax => ofWord (f32Max a.1 b.1, false)
  | _ => ofWord (valAdd (f32Nan a.1 b.1) a.2 b.2)

/-- Element i of a tensor as the vector unit takes it, and whether it saturated or had a NaN scale (R32, R34). -/
def vecRead (mem : Memory) (a : Nat) (c : BitVec 4) (n i : Nat) : VecVal × Bool × Bool :=
  let w := vectorVal c (elemBits mem a c i) (scaleAt mem a c n i)
  ((w.1, vecSource mem a c n i), w.2)

/-- The inputs of element i: a, b and c widened, and whether one saturated or had a NaN scale (R32, R34, R87). -/
def vecIn (mem : Memory) (f : VecFields) (o : Vop) (a b c : Nat) (scalar : BitVec 32) (i : Nat) : (VecVal × VecVal × VecVal) × Bool × Bool :=
  let n := f.count.toNat
  let word (w : BitVec 32) : VecVal × Bool × Bool := ((w, f32 w), false, false)
  let zero := word 0
  let va := vecRead mem a f.fmtA n i
  let j := if f.bcastB then i % vecRow f else i
  let nb := if f.bcastB then vecRow f else n
  let vb := if !o.usesB then zero else if f.scalarB then word (f32Flush scalar) else vecRead mem b f.fmtB nb j
  let vc := if o.usesC then vecRead mem c f.fmtB n i else zero
  ((va.1, vb.1, vc.1), va.2.1 || vb.2.1 || vc.2.1, va.2.2 || vb.2.2 || vc.2.2)

/-- The results of a VEC, saturated, invalid. -/
def vecResults (mem : Memory) (f : VecFields) (o : Vop) (a b c : Nat) (scalar : BitVec 32) : List VecVal × Bool × Bool :=
  let ins := (List.range f.count.toNat).map (vecIn mem f o a b c scalar)
  let es := ins.map fun v => vecElem f.vop o v.1.1 v.1.2.1 v.1.2.2
  let sat := ins.any (·.2.1)
  let inv := es.any (·.2) || ins.any (·.2.2)
  if o.reduces then
    let rs := (chunks (vecRow f) (es.map (·.1))).map fun row => treeReduce (0, .fin (Dy.zero false)) (redOp o) row.length row
    (rs.map fun r => (r.1.1, f32 r.1.1), sat, inv || rs.any (·.2))
  else (es.map (·.1), sat, inv)

/-- 512 elements a cycle: BF16 throughout, an operation that allows it (R93). -/
def vecWide (f : VecFields) (o : Vop) : Bool :=
  let bf (c : BitVec 4) : Bool := c == 0x2#4
  [Vop.add, .sub, .mul, .fma, .max, .min].contains o && bf f.fmtA && bf f.fmtD
    && ((f.scalarB && !o.usesC) || bf f.fmtB)
/-- The generator lane of element e (R45). -/
def vecLane (wide : Bool) (e : Nat) : Nat := if wide then 128 + e % 512 / 2 else 128 + e % 256

/-- amax of values moved or written without a conversion: finite magnitudes only (R40 step 6). -/
def amaxVals (vs : List Val) : BitVec 32 :=
  vs.foldl (fun a v => match v with | .fin d => amaxMax a (amaxOf d) | _ => a) 0
/-- The values of a tensor in element order. -/
def tensorVals (mem : Memory) (base : Nat) (c : BitVec 4) (n : Nat) : List Val :=
  (List.range n).map fun i =>
    match scaleAt mem base c n i, readElem c (elemBits mem base c i) with
    | none, v => v
    | some b, v => match readScale b, v with
      | some k, .fin d => .fin (d.scale k)
      | none, _ => .nan
      | _, w => w

/-- A tensor moved bit for bit, scale bytes included (R40). -/
def moveTensor (mem : Memory) (dst src : Nat) (c : BitVec 4) (n : Nat) : Memory :=
  memWrite (writePacked mem dst (fmtBits c) ((List.range n).map (elemBits mem src c))) (dst + elemBytes c n)
    (memRead mem (src + elemBytes c n) (scaleBytes c n))

/-- The bytes that a VEC or CONVERT writes, and its flags (R40, R93); the FP32 values of a reduction are converted to the destination format like any result (DESIGN CHOICE, log 101). -/
def vecOutput (mem : Memory) (f : VecFields) (cv : Bool) (o : Vop) (a b c d : Nat) (scalar : BitVec 32) (x : BlockState) : OutAcc :=
  let n := f.count.toNat
  if o = .copy ∧ f.fmtD = f.fmtA then
    ⟨moveTensor mem d a f.fmtA n, x, false, false, amaxVals (tensorVals mem a f.fmtA n)⟩
  else
    let r := vecResults mem f o a b c scalar
    if isFp32 f.fmtD && o != .copy then
      let ws := r.1.map fun v => if f.t = 0#8 then v.1 else f32Scale v.1 f.t.toInt
      ⟨writePacked mem d 32 (ws.map (·.toNat)), x, r.2.1, r.2.2, amaxVals (r.1.map fun v => f32 v.1)⟩
    else
      let rs := roundings f.roundSr ((List.range r.1.length).map (vecLane (!cv && vecWide f o))) x
      let q := convert f.fmtD f.t.toInt ((r.1.map (·.2)).zip rs.1)
      ⟨writeTensor mem d f.fmtD r.1.length q, rs.2, r.2.1 || q.saturated, r.2.2 || q.invalid, q.amax⟩

/-! ## FETCH and COPY (R88, R163, R165) -/

/-- The source format of a FETCH: a version is FP32 (R163). -/
def fetchSrc (f : FetchFields) : BitVec 4 := if f.versionEn then 0#4 else f.fmtSrc
/-- The destination formats that R88 allows. -/
def fetchFormats (f : FetchFields) : Bool :=
  isVectorFmt (fetchSrc f) && (isFp32 f.fmtDst || isArrayOperand f.fmtDst || f.fmtDst == fetchSrc f)
/-- Elements in a number of bytes; whole elements and whole blocks of both formats (R448). -/
def fetchCount (f : FetchFields) (len : Nat) : Nat := len * 8 / fmtBits (fetchSrc f)
def fetchWhole (f : FetchFields) (len : Nat) : Bool :=
  len * 8 % fmtBits (fetchSrc f) == 0 && wholeBlocks (fetchSrc f) (fetchCount f len) && wholeBlocks f.fmtDst (fetchCount f len)
/-- Places of sources and destinations (R88). -/
def fetchFrom (b : BlockId) (r : Range) : Bool :=
  r.len == 0 || inStacked r.base r.len || inCompanion r.base r.len || inOwn b r.base r.len
    || (match place r.base with | .spad _ off => decide (off + r.len ≤ spadBytes) | _ => false)
def fetchTo (b : BlockId) (r : Range) : Bool :=
  r.len == 0 || inStacked r.base r.len || inCompanion r.base r.len || inOwn b r.base r.len

/-- The fetch engine starts the command at its head: companion reads are sent, a fence is passed or sent (R301, R303). -/
def State.startFetch (s : State) (b : BlockId) : State :=
  let s1 := startFence 8 b s
  match (s1.block b).fetchQ with
  | c :: _ =>
    match c.reads with
    | [r] => if 0 < r.len ∧ inCompanion r.base r.len then s1.ucRead b.idx r.base r.len (.fetch b) else s1
    | _ => s1
  | [] => s1
/-- A command put on the fetch engine starts at once when the engine was idle. -/
def State.startIfHead (s : State) (b : BlockId) : State :=
  if (s.block b).fetchQ.length = 1 then s.startFetch b else s

/-- FETCH (R88, R165). -/
def execFetch (b : BlockId) (f : FetchFields) (s : State) : Res :=
  s.core b fun s x =>
    match x.group with
    | none => s.refuse b pkUnlisted
    | some g =>
      let src := x.addr f.sa
      let dst := x.addr f.sd
      let len := (x.reg f.sb).toNat
      let e := x.addr f.sv
      let v := (x.reg (f.sv + 1)).extractLsb' 0 32
      let cmd : EngineCmd := .fetch f src dst len e v x.shadowNo
      let ok := fetchFormats f && tValid f.t && amaxOk g f.amaxEn f.amaxIdx
        && (if f.versionEn then decide (f.sv.toNat < 31) && inStacked e ventryBytes && e % 256 == 0
            else fetchWhole f len && cmd.reads.all (fetchFrom b) && cmd.writes.all (fetchTo b))
      if f.versionEn && ok && !s.blockAllowed b e ventryBytes then s.refuseAccess b
      else s.issue b x g .fetch ok cmd.reads cmd.writes cmd fun t =>
        let y := t.block b
        (if f.toShadow then t.setBlock b { y with
            shadowNo := y.shadowNo + 1, untaken := some ⟨x.shadowNo, f.fmtDst, [], true, false, false⟩
            shadow := if x.untaken.any (·.complete) then WeightSet.empty else y.shadow } else t).startIfHead b

/-- COPY (R88). -/
def execCopy (b : BlockId) (f : FetchFields) (s : State) : Res :=
  s.core b fun s x =>
    match x.group with
    | none => s.refuse b pkUnlisted
    | some g =>
      let cmd : EngineCmd := .copy (x.addr f.sa) (x.addr f.sd) (x.reg f.sb).toNat
      s.issue b x g .fetch (cmd.reads.all (fetchFrom b) && cmd.writes.all (fetchTo b)) cmd.reads cmd.writes cmd fun t => t.startIfHead b

/-- The end of a range check that a version FETCH makes late (R85, R163): the destination breaks the write set, or is refused. -/
def State.lateRange (s : State) (b : BlockId) (x : BlockState) (f : FetchFields) (dst n : Nat) : Option (State → State) :=
  if f.toShadow then none
  else
    let r : Range := ⟨dst, tensorBytes f.fmtDst n⟩
    if !wholeBlocks f.fmtDst n || !writeOk b x r.base r.len || !fetchTo b r then some fun t => t.reject b
    else if !s.blockAllowed b r.base r.len then some fun t => t.refuseAccess b
    else none

/-- VERSION_ENTRY_READ (R163): the entry is checked, the version reconstructed from its slots and held for the FETCH; slots in a landing ring that have not landed are waited for (R134). -/
def execVersionEntryRead (b : BlockId) (hit : BurstErr) (s : State) : Res :=
  let x := s.block b
  match x.fetchQ with
  | .fetch f _ dst _ ea v _ :: _ =>
    when_ (f.versionEn && x.fetchData.isEmpty && !x.fenced && !x.inReset) s <|
      let q := (s.struck [⟨ea, ventryBytes⟩] hit).readRanges [⟨ea, ventryBytes⟩]
      match q.2 with
      | some a => q.1.killPair b (s.readKill a)
      | none =>
        let s := q.1
        let e := ventryAt s.mem ea
        match versionChain e v with
        | none => s.reject b
        | some chain =>
          match s.lateRange b x f dst (e.shardBytes / 4) with
          | some k => k s
          | none =>
            if !(nonEmpty (versionReads e chain)).all (fun r => s.blockAllowed b r.base r.len) then s.refuseAccess b
            else if (versionReads e chain).any (fun r => s.ringWaits b r.base r.len) then s
            else match (versionReads e chain).filterMap fun r => s.ringAbandoned b r.base r.len with
              | num :: _ => s.killPair b (.relayAbandoned num)
              | [] =>
                let d := s.readRanges (versionReads e chain)
                match d.2, versionBytes s.mem e chain with
                | some a, _ => d.1.killPair b (s.readKill a)
                | none, none => d.1.killPair b .coder
                | none, some bs => d.1.setBlock b { x with fetchData := bs }
  | _ => .next s

/-- The bytes that a FETCH writes from its source bytes, with its flags: a move passes every bit (R40). -/
def fetchOutput (f : FetchFields) (n : Nat) (bytes : List Byte) (x : BlockState) : OutAcc :=
  let c := fetchSrc f
  let m := memWrite [] 0 bytes
  if f.fmtDst = c then ⟨m, x, false, false, amaxVals (tensorVals m 0 c n)⟩
  else
    let vs := (List.range n).map fun i => fetchVal c (elemBits m 0 c i) (scaleAt m 0 c n i)
    let q := convert f.fmtDst f.t.toInt (vs.map fun v => (Val.fin v.1, Rounding.nearest))
    ⟨writeTensor [] 0 f.fmtDst n q, x, q.saturated, q.invalid || vs.any (·.2), q.amax⟩

/-- A MATMUL's load changed. -/
def EngineCmd.mapTake (g : ShadowLoad → ShadowLoad) : EngineCmd → EngineCmd
  | .matmul f a b c z ssA ssB sA sC sB t => .matmul f a b c z ssA ssB sA sC sB (t.map g)
  | c => c
/-- The codes of a shadow load: the elements of the tile in order (R165). -/
def shadowCodes (f : FetchFields) (m : Memory) (n : Nat) : List (BitVec 16) :=
  (List.range n).map fun i => BitVec.ofNat 16 (elemBits m 0 f.fmtDst i)
/-- A shadow load's data has arrived. -/
def BlockState.fillLoad (x : BlockState) (no : Nat) (codes : List (BitVec 16)) : BlockState :=
  let put (l : ShadowLoad) : ShadowLoad := if l.no = no then { l with codes := codes, fetched := true } else l
  { x with untaken := x.untaken.map put, arrayQ := x.arrayQ.map (·.mapTake put) }

/-! ## Finish (R84) -/

/-- The engine's head command leaves its queue; WAITs and full queues that this frees go on. -/
def BlockState.pop (x : BlockState) (e : EngineId) : BlockState :=
  (match e with
   | .array => { x with arrayQ := x.arrayQ.drop 1 }
   | .vector => { x with vectorQ := x.vectorQ.drop 1 }
   | .fetch => { x with fetchQ := x.fetchQ.drop 1, fetchData := [] }
   | .queue => x)
/-- Where a MATMUL starts: its first tile, with nothing loaded for it. -/
def ArrayRun.start : ArrayRun := ⟨0, 0, 0, false, 0, []⟩
/-- Every pass of the MATMUL has run. -/
def ArrayRun.over (r : ArrayRun) (f : MatmulFields) : Bool := decide (tilesM f ≤ r.mt)
/-- What the next MATMUL starts from. -/
def BlockState.nextRun (x : BlockState) : BlockState := { x with run := if x.arrayQ.isEmpty then none else some ArrayRun.start }

/-- The source bytes of the fetch engine's head command: held for a companion or version source, else in memory. -/
def State.fetchBytes (s : State) (x : BlockState) (held : Bool) (r : Range) : List Byte := if held then x.fetchData else memRead s.mem r.base r.len

/-- The head command of the fetch engine has what it needs. -/
def State.fetchReady (s : State) (b : BlockId) (c : EngineCmd) : Bool :=
  match c with
  | .fetch f _ _ _ _ _ _ => (!f.versionEn || !(s.block b).fetchData.isEmpty) && !s.hasReq fun u => u == .fetch b
  | .copy _ _ _ => !s.hasReq fun u => u == .fetch b
  | _ => false
/-- A write to companion memory needs the session (Table 12.6). -/
def State.sessionFor (s : State) (c : EngineCmd) : Bool := s.attached || !c.writes.any fun r => decide (0 < r.len) && inCompanion r.base r.len

/-- The destination of a version FETCH, whose length its entry gave, is locked (R103, R163). -/
def State.versionLocked (s : State) (b : BlockId) (f : FetchFields) (dst : Nat) : Bool :=
  let x := s.block b
  f.versionEn && !f.toShadow && x.lockedBy dst (tensorBytes f.fmtDst (x.fetchData.length / 4))

/-- The effect of a FETCH as it finishes. -/
def State.finishFetch (s : State) (b : BlockId) (f : FetchFields) (src dst len no : Nat) : State :=
  let x := s.block b
  let n := if f.versionEn then x.fetchData.length / 4 else fetchCount f len
  let r : Range := ⟨src, tensorBytes (fetchSrc f) n⟩
  let o := fetchOutput f n (s.fetchBytes x (f.versionEn || inCompanion r.base r.len) r) x
  let y := x.flagGroup o.sat o.inv f.amaxEn f.amaxIdx o.amax
  if f.toShadow then s.setBlock b (y.fillLoad no (shadowCodes f o.mem n))
  else (s.setBlock b y).store b sigFetch dst (memRead o.mem 0 (tensorBytes f.fmtDst n))
/-- The effect of a COPY as it finishes. -/
def State.finishCopy (s : State) (b : BlockId) (src dst len : Nat) : State :=
  s.store b sigFetch dst (s.fetchBytes (s.block b) (inCompanion src len) ⟨src, len⟩)
/-- The effect of a VEC or CONVERT as it finishes. -/
def State.finishVec (s : State) (b : BlockId) (f : VecFields) (cv : Bool) (a rb c d : Nat) (scalar : BitVec 32) : State :=
  match (if cv then some Vop.copy else vopOf f.vop) with
  | none => s
  | some o =>
    let r := vecOutput (s.vecMem (s.block b)) f cv o a rb c d scalar (s.block b)
    (s.setBlock b (r.x.flagGroup r.sat r.inv f.amaxEn f.amaxIdx r.amax)).store b sigVector d (memRead r.mem d (tensorBytes f.fmtD (vecOut f o)))

/-- A finished command's place taken by the next one. -/
def State.retireCmd (s : State) (b : BlockId) (e : EngineId) : State :=
  let x := (s.block b).pop e
  match e with
  | .array => s.setBlock b x.nextRun.keeperIdle.wake
  | .vector =>
    let s1 := (s.setBlock b x).startVec b
    s1.setBlock b (s1.block b).wake
  | .fetch =>
    let s1 := (s.setBlock b x).startFetch b
    s1.setBlock b (s1.block b).wake
  | .queue => s

/-- The outcome of a command's end: its reads may reach an abandoned segment, or be answered with an error status (R137, Table 9.6). -/
def State.finish (s : State) (b : BlockId) (e : EngineId) (c : EngineCmd) (hit : BurstErr) (f : State → State) : State :=
  match s.cmdAbandoned b c with
  | some num => s.killPair b (.relayAbandoned num)
  | none =>
    let r := (s.struck c.reads hit).readRanges c.reads
    match r.2 with
    | some a => r.1.killPair b (s.readKill a)
    | none => (f r.1).retireCmd b e

/-- ENGINE_COMMAND_FINISH (R84, Table 9.6, R137). -/
def execEngineCommandFinish (b : BlockId) (e : EngineId) (hit : BurstErr) (s : State) : Res :=
  let x := s.block b
  let live := !x.fenced && !x.inReset && !x.report
  match e, x.engineQ e with
  | .queue, _ => when_ live s (s.placeQueued b)
  | .array, c@(.matmul f _ _ _ _ _ _ _ _ _ _) :: _ =>
    match x.run with
    | some r => when_ (live && r.over f) s (s.finish b .array c hit id)
    | none => .next s
  | .vector, c@(.vec f cv a rb rc d sc) :: _ =>
    when_ (live && !s.hasReq (fun u => u == .vec b) && !s.cmdWaits b c && s.sessionFor c) s
      (s.finish b .vector c hit fun t => t.finishVec b f cv a rb rc d sc)
  | .fetch, c@(.fetch f src dst len _ _ no) :: _ =>
    when_ (live && s.fetchReady b c && !s.cmdWaits b c && !s.versionLocked b f dst && s.sessionFor c) s
      (s.finish b .fetch c hit fun t => t.finishFetch b f src dst len no)
  | .fetch, c@(.copy src dst len) :: _ =>
    when_ (live && s.fetchReady b c && !s.cmdWaits b c && s.sessionFor c) s
      (s.finish b .fetch c hit fun t => t.finishCopy b src dst len)
  | _, _ => .next s

end Sys2Proof.Machine
end

