-- ==== Sys2Proof/Machine/Updates.lean ====
section
/-! DEFINITION. The update units: task start, the groups of 16 elements, programs, the scale step, interruption, and their commands (R198 to R212, R218 to R221). -/

namespace Sys2Proof.Machine

/-! ## Parameters and schedule (Table 8.2, R207) -/

/-- Word i of a parameter block. -/
def paramWord (p : BitVec 512) (i : Nat) : BitVec 32 := p.extractLsb' (32 * i) 32
def paramBeta1 (p : BitVec 512) : BitVec 32 := paramWord p 0
def paramBeta2 (p : BitVec 512) : BitVec 32 := paramWord p 1
def paramEps (p : BitVec 512) : BitVec 32 := paramWord p 2
def paramWd (p : BitVec 512) : BitVec 32 := paramWord p 3
def paramMaxNorm (p : BitVec 512) : BitVec 32 := paramWord p 4
def paramKNorm (p : BitVec 512) : BitVec 32 := paramWord p 5
def paramEpsClip (p : BitVec 512) : BitVec 32 := paramWord p 6
def paramLrMult (p : BitVec 512) : BitVec 32 := paramWord p 7
def paramNesterov (p : BitVec 512) : Bool := p.getLsbD 448
def paramBias (p : BitVec 512) : Bool := p.getLsbD 449
def paramSchedFirst (p : BitVec 512) : Nat := (p.extractLsb' 480 6).toNat
def paramSchedCount (p : BitVec 512) : Nat := (p.extractLsb' 488 7).toNat

/-- The active segment: the last selected whose first_step is at most c. -/
def activeSeg (segs : List SchedSeg) (c : Nat) : Option SchedSeg := (segs.filter fun g => decide (g.firstStep.toNat ≤ c)).getLast?
/-- schedule(c) (R207). -/
def schedule (segs : List SchedSeg) (c : Nat) : BitVec 32 :=
  match activeSeg segs c with
  | none => (segs.head?.map (·.lrStart)).getD 0
  | some g =>
    let f := (f32Div (f32OfNat (c - g.firstStep.toNat)) (f32OfNat g.length.toNat)).1
    if !f32Lt f f32One then g.lrEnd
    else if g.kind = 0#2 then g.lrStart
    else if g.kind = 1#2 then (f32Add g.lrStart (f32Mul (f32Sub g.lrEnd g.lrStart).1 f).1).1
    else
      let half := (f32Mul 0x3F000000#32 (f32Add f32One (f32CosPi f)).1).1
      (f32Add g.lrEnd (f32Mul (f32Sub g.lrStart g.lrEnd).1 half).1).1

/-- x to the n by repeated squaring, the lowest bit first (R204, log 42); `fuel` is the number of bits. -/
def f32Pow : Nat → BitVec 32 → Nat → BitVec 32 → BitVec 32
  | 0, _, _, acc => acc
  | fuel + 1, x, n, acc =>
    let acc1 := if n % 2 = 1 then (f32Mul acc x).1 else acc
    if n / 2 = 0 then acc1 else f32Pow fuel (f32Mul x x).1 (n / 2) acc1
/-- 1 / (1 − β^s) or 1 (R204). -/
def biasCorr (on : Bool) (beta : BitVec 32) (n : Nat) : BitVec 32 :=
  if on then (f32Div f32One (f32Sub f32One (f32Pow 32 beta n f32One)).1).1 else f32One

/-! ## Programs (R209) -/

/-- A program word's opcode is listed, and needs a block only where it has one. -/
def progOpOk (block : Bool) (w : BitVec 32) : Bool :=
  let op := (w.extractLsb' 26 6).toNat
  decide (op ≤ 0x10) || (block && (op == 0x18 || op == 0x19))
/-- The first invalid word of a program; a program without END has none of its own. -/
def progInvalid (block : Bool) (ws : List (BitVec 32)) : Option (Option Nat) :=
  match (enum ws).find? fun e => !progOpOk block e.2 with
  | some e => some (some e.1)
  | none => if ws.any (fun w => w.extractLsb' 26 6 == 0#6) then none else some none

/-- −1, 0 or +1 by the sign of a. -/
def f32Sign (a : BitVec 32) : BitVec 32 :=
  match f32 a with
  | .nan => a
  | .fin d => if d.m = 0 then f32Zero else if d.neg then 0xBF800000#32 else f32One
  | .inf n => if n then 0xBF800000#32 else f32One

/-- The result of a word in one element, where it does not look at the block; arithmetic reads a subnormal as zero (R31, R204), while a selection, a constant and a move keep the pattern. -/
def progElem (param : BitVec 512) (w : BitVec 32) (f : List (BitVec 32)) : BitVec 32 :=
  let r (lo : Nat) : BitVec 32 := f.getD (w.extractLsb' lo 4).toNat 0
  let a := r 18
  let b := r 14
  let c := r 10
  match (w.extractLsb' 26 6).toNat with
  | 0x01 => (f32Add a b).1
  | 0x02 => (f32Sub a b).1
  | 0x03 => (f32Mul a b).1
  | 0x04 => (f32Fma a b c).1
  | 0x05 => (f32Div a b).1
  | 0x06 => (f32Sqrt a).1
  | 0x07 => (f32Rsqrt a).1
  | 0x08 => f32Max (f32Flush a) (f32Flush b)
  | 0x09 => f32Min (f32Flush a) (f32Flush b)
  | 0x0A => f32Abs (f32Flush a)
  | 0x0B => f32Neg (f32Flush a)
  | 0x0C => f32Sign a
  | 0x0D => if f32Eq a f32Zero then c else b
  | 0x0E => f32Bool (f32Lt a b)
  | 0x0F => paramWord param (w.extractLsb' 0 4).toNat
  | _ => a
/-- One word run in every element of a block. -/
def progWord (param : BitVec 512) (w : BitVec 32) (es : List (List (BitVec 32))) : List (List (BitVec 32)) :=
  let d := (w.extractLsb' 22 4).toNat
  let as := es.map fun f => f.getD (w.extractLsb' 18 4).toNat 0
  match (w.extractLsb' 26 6).toNat with
  | 0x18 => es.map fun f => setNth f d (treeReduce 0#32 f32Add as.length as).1
  | 0x19 => es.map fun f => setNth f d ((as.map f32Flush).tail.foldl f32Max (f32Flush (as.headD 0)))
  | _ => es.map fun f => setNth f d (progElem param w f)
/-- A program run to its END. -/
def progRun (param : BitVec 512) : List (BitVec 32) → List (List (BitVec 32)) → List (List (BitVec 32))
  | [], es => es
  | w :: ws, es => if w.extractLsb' 26 6 = 0#6 then es else progRun param ws (progWord param w es)

/-! ## Native updates (R204) -/

/-- The new (w, m, v) of one element. -/
def nativeElem (opt : BitVec 2) (p : BitVec 512) (lr c1 c2 w m v g : BitVec 32) : BitVec 32 × BitVec 32 × BitVec 32 :=
  let b1 := paramBeta1 p
  let b2 := paramBeta2 p
  let mul (a b : BitVec 32) : BitVec 32 := (f32Mul a b).1
  let dk := f32Neg (mul lr (paramWd p))
  let decay := (f32Fma dk w w).1
  match opt.toNat with
  | 0 =>
    let m' := (f32Fma b1 m (mul (f32Sub f32One b1).1 g)).1
    let v' := (f32Fma b2 v (mul (f32Sub f32One b2).1 (mul g g))).1
    let den := (f32Add (f32Sqrt (mul v' c2)).1 (paramEps p)).1
    ((f32Sub decay (mul (mul lr c1) (f32Div m' den).1)).1, m', v')
  | 1 =>
    let m' := (f32Fma b1 m g).1
    let d := if paramNesterov p then (f32Fma b1 m' g).1 else m'
    ((f32Sub decay (mul lr d)).1, m', v)
  | _ =>
    let u := f32Sign (f32Fma b1 m (mul (f32Sub f32One b1).1 g)).1
    let m' := (f32Fma b2 m (mul (f32Sub f32One b2).1 g)).1
    ((f32Sub decay (mul lr u)).1, m', v)

/-! ## Where a task's data lies (R200, R210) -/

/-- FP32 words of the shard. -/
def VEntry.words (v : VEntry) : Nat := v.shardBytes / 4
/-- Moment arrays of an area: m, and v for AdamW and programs. -/
def momArrays (t : Sys2Proof.TaskEntry) : Nat := if t.opt = 0b00#2 ∨ t.opt = 0b11#2 then 2 else 1
def momSize (t : Sys2Proof.TaskEntry) : Nat := if t.momFmt then 2 else 4
/-- The moment area of the current version, and the other one (R200). -/
def momCur (t : Sys2Proof.TaskEntry) (v : VEntry) : Nat := if (v.slot v.curSlot).base = v.wholeA then t.momA.toNat else t.momB.toNat
def momNew (t : Sys2Proof.TaskEntry) (v : VEntry) : Nat := if (v.slot v.curSlot).base = v.wholeA then t.momB.toNat else t.momA.toNat
/-- Address of moment array j's element i in an area. -/
def momAddr (t : Sys2Proof.TaskEntry) (v : VEntry) (area j i : Nat) : Nat := area + momSize t * (j * v.words + i)
/-- The moments lie in the companion window (R212). -/
def slowTier (t : Sys2Proof.TaskEntry) : Bool := decide (companionBase ≤ t.momA.toNat)
/-- Groups of 16 elements. -/
def VEntry.groups (v : VEntry) : Nat := v.shardBytes / 64

/-! ## Task start (R202, R203) -/

/-- The result header of a task's plan. -/
def State.taskHeader (s : State) (t : Sys2Proof.TaskEntry) : Nat := (s.plan t.plan).dst.toNat
/-- The job of a task. -/
def State.taskJob (s : State) (t : Sys2Proof.TaskEntry) : BitVec 16 := (s.stage t.stage).job
/-- The parameter block of a task. -/
def State.taskParam (s : State) (r : RegionId) (t : Sys2Proof.TaskEntry) : BitVec 512 := tGet 0 (s.region r).upd.params t.param.toNat
/-- The segments that a parameter block selects. -/
def State.taskSegs (s : State) (r : RegionId) (p : BitVec 512) : List SchedSeg :=
  (List.range (paramSchedCount p)).map fun i => tGet SchedSeg.reset (s.region r).upd.scheds (paramSchedFirst p + i)
/-- The words of a task's program. -/
def State.taskProg (s : State) (t : Sys2Proof.TaskEntry) : List (BitVec 32) :=
  (List.range 64).map fun i => BitVec.ofNat 32 (memNat s.mem (t.prog.toNat + 4 * i) 4)

/-- clip (R203). -/
def clipOf (p : BitVec 512) (sumsq : BitVec 32) : BitVec 32 :=
  let den := (f32Add (f32Mul (f32Sqrt sumsq).1 (paramKNorm p)).1 (paramEpsClip p)).1
  f32Min f32One (f32Div (paramMaxNorm p) den).1
/-- gs (R203): a step with nominal counting and no contribution has every g zero. -/
def gsOf (nominal : Bool) (contrib count clip : BitVec 32) : BitVec 32 :=
  if nominal && contrib == 0#32 then f32Zero else (f32Mul (f32Div f32One (f32OfNat count.toNat)).1 clip).1

/-- The norm word of a task's job (R191). -/
def State.taskNorm (s : State) (t : Sys2Proof.TaskEntry) : Nat := (s.job (s.taskJob t)).norm.toNat
/-- What a task reads at its start: its version-table entry, the result header, its program and its norm word (R202, R203). -/
def State.startReads (s : State) (t : Sys2Proof.TaskEntry) : List Range :=
  [⟨t.ventry.toNat, ventryBytes⟩, ⟨s.taskHeader t, 64⟩] ++ (if t.opt = 0b11#2 then [⟨t.prog.toNat, 256⟩] else [])
    ++ (if t.clipEn then [⟨s.taskNorm t, 16⟩] else [])
/-- Every range that a task uses may be reached by its partition (R224). -/
def State.taskAllowed (s : State) (t : Sys2Proof.TaskEntry) (v : VEntry) : Bool :=
  let ok (a n : Nat) : Bool := n == 0 || s.allowed t.partition a n
  let pl := s.plan t.plan
  ok v.wholeA v.shardBytes && ok v.wholeB v.shardBytes && ok v.diffBase v.diffSize
    && ok t.momA.toNat (momArrays t * momSize t * v.words) && ok t.momB.toNat (momArrays t * momSize t * v.words)
    && ok pl.dst.toNat (64 + pl.bytes) && ok t.scaleList.toNat (16 * t.scaleCount.toNat)
    && (t.opt != 0b11#2 || ok t.prog.toNat 256)

/-- A queued task removed without running (R202); one whose norm failed does not complete, one whose version has been published already has (log 116). -/
def UpdateUnit.stale (u : UpdateUnit) (k : Nat) (gone : List (PlanId × BitVec 32)) : UpdateUnit :=
  { u with queue := u.queue.tail, slotReady := none, slotWaited := u.slotWaited.filter (· ≠ k), lost := gone ++ u.lost, staleTask := inc u.staleTask }

/-- A task's scalars and its start (R203, R204, R209), with its BEGIN record. -/
def State.startTask (s : State) (r : RegionId) (k : Nat) (c : BitVec 32) (t : Sys2Proof.TaskEntry) (v : VEntry) : State :=
  let u := (s.region r).upd
  let p := s.taskParam r t
  let h := s.taskHeader t
  let contrib := BitVec.ofNat 32 (memNat s.mem (h + 12) 4)
  let count := if t.countMode then BitVec.ofNat 32 (memNat s.mem (h + 20) 4) else contrib
  let sumsq := BitVec.ofNat 32 (memNat s.mem (s.taskNorm t + 4) 4)
  let none_ := !t.countMode && contrib == 0#32
  let sat := t.clipEn && sumsq == 0x7F7FFFFF#32
  let clip := if t.clipEn then clipOf p sumsq else f32One
  let n := (c - t.step0 + 1).toNat
  let run : RunTask :=
    { task := k, entry := t, param := p, step := c, gs := gsOf t.countMode contrib count clip
      lr := (f32Mul (schedule (s.taskSegs r p) c.toNat) (paramLrMult p)).1
      c1 := biasCorr (paramBias p) (paramBeta1 p) n, c2 := biasCorr (paramBias p) (paramBeta2 p) n
      group := 0, skip := none_ || sat, coded := [], series := [], nonfinite := 0, asked := false, slow := [], readback := 0
      prog := if t.opt = 0b11#2 then s.taskProg t else [], scaled := false }
  let mark := (t.partition, c)
  let u1 := { u with
    queue := u.queue.tail, slotReady := none, run := some run, lastTask := BitVec.ofNat 8 k, lastStep := c
    started := if u.started.contains mark then u.started else mark :: u.started
    skipped := if run.skip then inc u.skipped else u.skipped }
  let s1 := s.setUpd r u1
  let s2 := if run.skip then
      s1.raise t.partition evUpdateSkipped 2 (unitRegion r 5 k) (det 168 c.toNat ||| det 200 (if none_ then 0 else 1))
    else s1
  if t.exportEn then s2.export_ t.partition (taskRec s2 t exBegin c (c + 1) 0 0 (BitVec.ofNat 32 v.shardBytes) []) else s2

/-- An invalid program: not run, CRIMSON, its building slot freed (R209); the task will not complete. -/
def State.progFails (s : State) (r : RegionId) (k : Nat) (c : BitVec 32) (t : Sys2Proof.TaskEntry) (w : Option Nat) : State :=
  let v := s.free
  let word := match w with | some i => i | none => v.1.toNat % 64
  let s1 := v.2.freeBuilding t.partition t.ventry.toNat
  let u := (s1.region r).upd
  (s1.setUpd r { u with queue := u.queue.tail, slotReady := none, lost := (t.plan, c) :: u.lost }).raise t.partition evProgramInvalid 2
    (unitRegion r 5 k) (det 168 word)

/-- An access of a region's update unit refused under R224. -/
def State.updRefused (s : State) (r : RegionId) : State := s.setRegion r { s.region r with memRefused := inc (s.region r).memRefused }
/-- A task at the head of its queue whose slot is ready (R202, R209, R224); what it may not reach or cannot read interrupts it (Table 9.6). -/
def State.beginTask (s : State) (r : RegionId) (k : Nat) (c : BitVec 32) (t : Sys2Proof.TaskEntry) (v : VEntry) : State :=
  let rd := s.readRanges (s.startReads t)
  if !s.taskAllowed t v then ((s.startTask r k c t v).updRefused r).interruptUpdate r .memory
  else if rd.2.isSome then (rd.1.startTask r k c t v).interruptUpdate r .memory
  else match (if t.opt = 0b11#2 then progInvalid t.progBlock (rd.1.taskProg t) else none) with
    | some w => rd.1.progFails r k c t w
    | none => rd.1.startTask r k c t v

/-- The norm word of a task's job holds a value for step c (R191, R202). -/
def State.normHere (s : State) (t : Sys2Proof.TaskEntry) (c : BitVec 32) : Bool :=
  decide (memNat s.mem (s.taskNorm t) 4 = c.toNat) && memByte s.mem (s.taskNorm t + 8) != 0#8
/-- That norm's state is 0x03: it failed. -/
def State.normFailed (s : State) (t : Sys2Proof.TaskEntry) : Bool := memByte s.mem (s.taskNorm t + 8) == 0x03#8

/-- UPDATE_TASK_START (R202): the head of the region's queue, which is removed as stale, or waits for its norm or its slot, or starts. -/
def execUpdateTaskStart (region : RegionId) (s : State) : Res :=
  let u := (s.region region).upd
  match u.queue with
  | [] => .next s
  | (k, c) :: _ =>
    when_ (u.run.isNone && !(s.region region).fenced) s <|
      let t := s.task region k
      let v := ventryAt s.mem t.ventry.toNat
      if c.toNat < v.curVersion.toNat then s.setUpd region (u.stale k [])
      else if t.clipEn && s.normHere t c && s.normFailed t then s.setUpd region (u.stale k [(t.plan, c)])
      else if (t.clipEn && !s.normHere t c) || v.curVersion != c || u.slotReady != some k then s
      else s.beginTask region k c t v

/-! ## Groups (R203 to R206, R210) -/

/-- A stored moment as FP32. -/
def momVal (t : Sys2Proof.TaskEntry) (bs : List Byte) : BitVec 32 :=
  if t.momFmt then BitVec.ofNat 32 (leNat bs * 2 ^ 16) else BitVec.ofNat 32 (leNat bs)
/-- A moment as it is stored: BF16 by R42. -/
def momStore (t : Sys2Proof.TaskEntry) (w : BitVec 32) : List Byte :=
  if t.momFmt then (match f32 w with | .fin d => leBytes 2 (writeElem 0x2 d .nearest).1 | _ => leBytes 2 (w.toNat / 2 ^ 16)) else leBytes 4 w.toNat

/-- Where the gradient of the shard's element i lies: its code and its block's scale byte (R169, R203). -/
def State.gradAt (s : State) (t : Sys2Proof.TaskEntry) (i : Nat) : Nat × Nat :=
  let p := s.plan t.plan
  let e := t.gFirst.toNat + i
  (p.dst.toNat + 64 + 2 * e, p.dst.toNat + 64 + 2 * p.elements.toNat + e / 256)
/-- The gradient element of the shard's element i, decoded exactly and multiplied by gs; a NaN stays a NaN and an infinity infinite, for R205 (R203). -/
def State.gradient (s : State) (t : Sys2Proof.TaskEntry) (gs : BitVec 32) (i : Nat) : BitVec 32 :=
  let a := s.gradAt t i
  let code := memNat s.mem a.1 2
  let nan := f32Nan (BitVec.ofNat 32 code) gs
  match readScale (memByte s.mem a.2) with
  | none => nan
  | some k =>
    let x := match readElem 0xC code with
      | .fin d => .fin (d.scale (k - tMem (memByte s.mem ((s.plan t.plan).dst.toNat + 3))))
      | v => v
    (valMul nan x (f32 gs)).1

/-- Stored bytes of a moment: from stacked memory, or from the companion data that has come back; a group runs once all of it has. -/
def State.momRead (s : State) (t : Sys2Proof.TaskEntry) (slow : List (Addr × List Byte)) (a : Nat) : List Byte :=
  if slowTier t then
    match slow.find? fun e => decide (e.1.toNat + companionBase ≤ a) && decide (a < e.1.toNat + companionBase + e.2.length) with
    | some e => (e.2.drop (a - e.1.toNat - companionBase)).take (momSize t)
    | none => []
  else memRead s.mem a (momSize t)

/-- Old w, m, v of an element with its stored moment bytes, and its scaled gradient. -/
structure UpdElem where
  w : BitVec 32
  m : BitVec 32
  v : BitVec 32
  g : BitVec 32
  mBytes : List Byte
  vBytes : List Byte
  deriving DecidableEq, Repr

/-- Element i of a task. -/
def State.updElem (s : State) (t : Sys2Proof.TaskEntry) (v : VEntry) (x : RunTask) (i : Nat) : UpdElem :=
  let area := momCur t v
  let mb := s.momRead t x.slow (momAddr t v area 0 i)
  let vb := if momArrays t = 2 then s.momRead t x.slow (momAddr t v area 1 i) else []
  ⟨BitVec.ofNat 32 (memNat s.mem ((v.slot v.curSlot).base + 4 * i) 4), momVal t mb, momVal t vb, s.gradient t x.gs i, mb, vb⟩

/-- The results of a block of elements before R205: native, or by the program. -/
def updResults (t : Sys2Proof.TaskEntry) (x : RunTask) (es : List UpdElem) :
    List (BitVec 32 × BitVec 32 × BitVec 32) :=
  if t.opt = 0b11#2 then
    (progRun x.param x.prog (es.map fun e => [e.w, e.m, e.v, e.g, x.lr, x.c1, x.c2] ++ List.replicate 9 0)).map fun f => (f.getD 0 0, f.getD 1 0, f.getD 2 0)
  else es.map fun e => nativeElem t.opt x.param x.lr x.c1 x.c2 e.w e.m e.v e.g

/-- What is written for an element: new word, moment bytes, and whether it was kept for a nonfinite result (R203, R205). -/
def updWrite (t : Sys2Proof.TaskEntry) (skip : Bool) (e : UpdElem) (r : BitVec 32 × BitVec 32 × BitVec 32) : BitVec 32 × List Byte × List Byte × Bool :=
  let two := momArrays t == 2
  if skip then (e.w, e.mBytes, e.vBytes, false)
  else if !(f32Finite r.1 && f32Finite r.2.1 && (!two || f32Finite r.2.2)) then (e.w, e.mBytes, e.vBytes, true)
  else (r.1, momStore t r.2.1, if two then momStore t r.2.2 else [], false)

/-- The elements that group g of a task computes: 16, or the block of 32 of a program per block (R209). -/
def groupElems (t : Sys2Proof.TaskEntry) (v : VEntry) (g : Nat) : Nat × Nat :=
  if t.opt = 0b11#2 ∧ t.progBlock then (g / 2 * 32, min 32 (v.words - g / 2 * 32)) else (g * 16, 16)
/-- The moment ranges that group g reads (R200). -/
def momRanges (t : Sys2Proof.TaskEntry) (v : VEntry) (g : Nat) : List Range :=
  let e := groupElems t v g
  (List.range (momArrays t)).map fun j => ⟨momAddr t v (momCur t v) j e.1, e.2 * momSize t⟩
/-- What group g reads of memory: weights, gradient with its scales, and moments that are not in the companion. -/
def State.groupReads (s : State) (t : Sys2Proof.TaskEntry) (v : VEntry) (g : Nat) : List Range :=
  let e := groupElems t v g
  let a := s.gradAt t e.1
  [⟨(v.slot v.curSlot).base + 4 * e.1, 4 * e.2⟩, ⟨a.1, 2 * e.2⟩, ⟨a.2, 1⟩] ++ (if slowTier t then [] else momRanges t v g)
/-- The new group of a task: words, m bytes, v bytes, elements kept. A program per block of 32 sees the whole block (R209). -/
def State.updGroup (s : State) (t : Sys2Proof.TaskEntry) (v : VEntry) (x : RunTask) : List (BitVec 32) × List Byte × List Byte × Nat :=
  let e := groupElems t v x.group
  let es := (List.range e.2).map fun i => s.updElem t v x (e.1 + i)
  let rs := if t.opt == 0b11#2 && t.progBlock then updResults t x es else es.flatMap fun y => updResults t x [y]
  let ws := (((es.zip rs).drop (x.group * 16 - e.1)).take 16).map fun y => updWrite t x.skip y.1 y.2
  (ws.map (·.1), ws.flatMap (·.2.1), ws.flatMap (·.2.2.1), (ws.filter (·.2.2.2)).length)

/-- The stream of an update unit's share (R302). -/
def updStream (r : RegionId) (v : VEntry) (g : Nat) : Nat := 256 + r.toNat * 3 + stackOf ((v.slot v.curSlot).base + 64 * g) % 3
/-- A group's results written: weights, moments (to the companion by UC_WR in the slow tier), coded difference, records. -/
def State.writeGroup (s : State) (r : RegionId) (t : Sys2Proof.TaskEntry) (v : VEntry) (x : RunTask) : State :=
  let g := s.updGroup t v x
  let i := x.group * 16
  let wb := g.1.flatMap fun w => leBytes 4 w.toNat
  let old := memRead s.mem ((v.slot v.curSlot).base + 64 * x.group) 64
  let code := codeGroup (xorBytes old wb)
  let s1 := s.put ((v.slot v.bldSlot).base + 64 * x.group) wb
  let putMom (u : State) (j : Nat) (bs : List Byte) : State :=
    if bs.isEmpty then u
    else
      let a := momAddr t v (momNew t v) j i
      if slowTier t then u.companionReq (updStream r v x.group) a bs.length (.update r) bs else u.put a bs
  let s2 := putMom (putMom s1 0 g.2.1) 1 g.2.2.1
  let mark := (s2.part t.partition).marks.contains x.step
  let off := BitVec.ofNat 32 x.group
  let recs := if t.exportEn then
      taskRec s2 t exDiff x.step (x.step + 1) off 1 0 code
        :: (if mark then taskRec s2 t exState x.step (x.step + 1) off 1 0 g.2.1
              :: (if g.2.2.1.isEmpty then [] else [taskRec s2 t exState x.step (x.step + 1) off 1 1 g.2.2.1]) else [])
    else []
  let s3 := recs.foldl (fun u e => u.export_ t.partition e) s2
  let u := (s3.region r).upd
  s3.setUpd r { u with
    nonfinite := satAdd u.nonfinite g.2.2.2
    run := some { x with
      group := x.group + 1, coded := x.coded ++ code, series := x.series ++ recs.flatMap (·.payload), nonfinite := x.nonfinite + g.2.2.2
      asked := false, slow := [] } }

/-- The export ring of a task's partition has no room under the wait policy (R217). -/
def State.exportFull (s : State) (t : Sys2Proof.TaskEntry) : Bool :=
  t.exportEn && match (s.part t.partition).exportRing with | some g => g.waiting | none => false

/-- The moments of group g have all come from the companion (R212). -/
def momsHere (t : Sys2Proof.TaskEntry) (v : VEntry) (x : RunTask) : Bool :=
  (momRanges t v x.group).all fun r => covered (x.slow.map fun e => ⟨e.1.toNat + companionBase, e.2.length⟩) r
/-- A group with everything it reads at hand: written, or recomputed once, or the update interrupted (R206). -/
def State.runGroup (s : State) (r : RegionId) (t : Sys2Proof.TaskEntry) (v : VEntry) (x : RunTask) (firstMatch secondMatch : Bool) : State :=
  let u := (s.region r).upd
  if firstMatch then s.writeGroup r t v x
  else if secondMatch then
    ((s.setUpd r { u with dupRetry := inc u.dupRetry }).raise t.partition evUpdateRetry 2 (unitRegion r 5 x.task)
      (det 168 x.step.toNat ||| det 200 x.group)).writeGroup r t v x
  else s.interruptUpdate r .mismatch

/-- UPDATE_GROUP (R203 to R206): the next group, computed twice and compared; in the slow tier its moments are first read from the companion, and a read that fails interrupts the update. -/
def execUpdateGroup (region : RegionId) (firstMatch secondMatch : Bool) (hit : BurstErr) (s : State) : Res :=
  let u := (s.region region).upd
  match u.run with
  | none => .next s
  | some x =>
    let t := x.entry
    let v := ventryAt s.mem t.ventry.toNat
    when_ (decide (x.group < v.groups)) s <|
      if s.exportFull t then s
      else if slowTier t && !x.asked then
        (momRanges t v x.group).foldl (fun w a => w.ucRead (updStream region v x.group) a.base a.len (.update region))
          (s.setUpd region { u with run := some { x with asked := true, slow := [] } })
      else if slowTier t && !momsHere t v x then s
      else
        let rd := (s.struck (s.groupReads t v x.group) hit).readRanges (s.groupReads t v x.group)
        if rd.2.isSome then rd.1.interruptUpdate region .memory else rd.1.runGroup region t v x firstMatch secondMatch

/-! ## The scale step (R208) -/

/-- The largest finite value of a format (Table 2.2). -/
def fmtMax (c : BitVec 4) : Dy := match fmtFp c with | some f => f.maxVal false | none => ⟨false, 127, 0⟩
/-- t_next of Delayed scaling. -/
def scaleNext (c : BitVec 4) (margin : Nat) (amax : BitVec 32) (t : Int) : Int :=
  if amax = 0#32 then t
  else
    let a : Dy := match f32 amax with | .fin d => { d with neg := false } | _ => fmtFP32.maxVal false
    if a.m = 0 then 127
    else
      let f := fmtMax c
      let k := f.top - a.top
      let n := (if f.lt (a.scale k) then k - 1 else k) - (margin : Int)
      if n < -127 then -127 else if 127 < n then 127 else n
/-- One entry of the scale list at an address: the state, and whether the step may go on; a skipped entry is counted, an access that fails or is refused interrupts the update (R208, R224, Table 9.6; a t byte in the companion window counts as refused, log 117). -/
def State.scaleEntry (s : State) (r : RegionId) (t : Sys2Proof.TaskEntry) (a : Nat) : State × Bool :=
  let rd := s.readRanges [⟨a, 16⟩]
  let w := BitVec.ofNat 128 (memNat s.mem a 16)
  let amaxAt := (w.extractLsb' 0 48).toNat
  let tAt := (w.extractLsb' 64 48).toNat
  let c : BitVec 4 := w.extractLsb' 116 4
  if rd.2.isSome then (rd.1, false)
  else if !([0x2, 0x3, 0x4, 0x5, 0xB, 0xD].contains c.toNat && inStacked amaxAt 4) then
    (rd.1.setUpd r { (rd.1.region r).upd with scaleErr := inc (rd.1.region r).upd.scaleErr }, true)
  else if !(s.allowed t.partition amaxAt 4 && s.allowed t.partition tAt 1) || inCompanion tAt 1 then (rd.1.updRefused r, false)
  else
    let rx := rd.1.readRanges [⟨amaxAt, 4⟩, ⟨tAt, 1⟩]
    if rx.2.isSome then (rx.1, false)
    else (rx.1.put tAt [BitVec.ofInt 8 (scaleNext c (w.extractLsb' 120 8).toNat (BitVec.ofNat 32 (memNat rx.1.mem amaxAt 4)) (tMem (memByte rx.1.mem tAt)))], true)
/-- The scale list of a task, in order (R208). -/
def State.scaleStep (s : State) (r : RegionId) (t : Sys2Proof.TaskEntry) : State × Bool :=
  (List.range t.scaleCount.toNat).foldl (fun v i => if v.2 then v.1.scaleEntry r t (t.scaleList.toNat + 16 * i) else v) (s, true)

/-! ## Completion and interruption (R210, R211) -/

/-- Another task of the plan has not completed for the step: it is queued, held or lost (R210). -/
def State.planPending (s : State) (r : RegionId) (plan : PlanId) (c : BitVec 32) : Bool :=
  let u := (s.region r).upd
  u.queue.any (fun e => (s.task r e.1).plan == plan && e.2 == c) || u.held.any (fun e => (s.task r e.1).plan == plan && e.2.1 == c)
    || u.lost.contains (plan, c)
/-- The verified difference at diff_tail, when it is stored, and the END record (Table 8.3 order 6). -/
def State.closeSeries (s : State) (t : Sys2Proof.TaskEntry) (v : VEntry) (x : RunTask) : State :=
  let s1 := if (s.stage t.stage).staleS = 0#3 ∨ v.diffSize = 0 then s else (diffPlaces v x.coded).foldl (fun u p => u.put p.1 p.2) s
  if t.exportEn then
    s1.export_ t.partition (taskRec s1 t exEnd x.step (x.step + 1) 0 (BitVec.ofNat 32 v.groups) (crc32c x.series) [])
  else s1
/-- Completion posted to Flapino; the header released by the plan's last task (Table 8.3 order 8, R205, R210). -/
def State.postTask (s : State) (r : RegionId) (t : Sys2Proof.TaskEntry) (x : RunTask) : State :=
  let s1 := if 0 < x.nonfinite then
      s.raise t.partition evUpdateNonfinite 2 (unitRegion r 5 x.task) (det 168 x.step.toNat ||| det 200 x.nonfinite)
    else s
  let u := (s1.region r).upd
  let s2 := s1.setUpd r { u with run := none, done := inc u.done, doneTasks := u.doneTasks ++ [(x.task, x.step, x.coded.length)] }
  if s2.planPending r t.plan x.step then s2 else s2.put (s2.taskHeader t + 1) [0x00]
/-- The verified difference and the scale step (Table 8.3 orders 6 and 7); a task without a scale list completes at once. -/
def State.finishTask (s : State) (r : RegionId) (t : Sys2Proof.TaskEntry) (v : VEntry) (x : RunTask) : State :=
  let s1 := s.closeSeries t v x
  if t.scaleCount = 0#8 then s1.postTask r t x
  else
    let sc := s1.scaleStep r t
    if sc.2 then sc.1.setUpd r { (sc.1.region r).upd with run := some { x with scaled := true } } else sc.1.interruptUpdate r .memory

/-- UPDATE_TASK_COMPLETE (R210): the coder has verified the difference; the slow tier makes its read-back first (R304). A task with a scale list posts its completion with a second command, so that an abort can meet the scale step (log 117). -/
def execUpdateTaskComplete (region : RegionId) (coderOk : Bool) (s : State) : Res :=
  let u := (s.region region).upd
  match u.run with
  | none => .next s
  | some x =>
    let t := x.entry
    let v := ventryAt s.mem t.ventry.toNat
    when_ (decide (v.groups ≤ x.group)) s <|
      if x.scaled then s.postTask region t x
      else if !coderOk then s.interruptUpdate region .coder
      else if slowTier t && x.readback == 0 then
        let a := momAddr t v (momNew t v) (momArrays t - 1) (v.words - 16)
        (s.setUpd region { u with run := some { x with readback := 1 } }).ucRead (updStream region v (v.groups - 1)) a 8 (.update region)
      else if slowTier t && x.readback == 1 then s
      else s.finishTask region t v x

/-- UPDATE_INTERRUPT (R211). -/
def execUpdateInterrupt (region : RegionId) (cause : UpdCause) (s : State) : Res :=
  when_ (s.region region).upd.run.isSome s (s.interruptUpdate region cause)

/-! ## Queries and marks (Table 8.11) -/

/-- The 512 bits of a task entry (Table 8.1). -/
def taskBits (t : Sys2Proof.TaskEntry) : BitVec 512 :=
  t.prog ++ t.momB ++ t.momA ++ t.ventry ++ t.scaleList ++ 0#8 ++ t.scaleCount ++ t.step0 ++ t.gFirst ++ t.plan ++ t.stage ++ t.param
    ++ t.partition ++ t.opt ++ BitVec.ofBool t.momFmt ++ BitVec.ofBool t.countMode ++ BitVec.ofBool t.clipEn ++ BitVec.ofBool t.exportEn
    ++ BitVec.ofBool t.progBlock ++ 0#158 ++ BitVec.ofBool t.valid
/-- UPD_STATUS.state (Table 8.9): what the head of the queue waits for, or what the running task does. -/
def State.updState (s : State) (r : RegionId) : BitVec 4 :=
  let u := (s.region r).upd
  match u.run, u.queue with
  | some x, _ =>
    if s.exportFull x.entry then 4
    else if x.readback = 1 ∨ (x.asked ∧ !momsHere x.entry (ventryAt s.mem x.entry.ventry.toNat) x) then 5
    else if x.scaled then 6 else 3
  | none, (k, c) :: _ =>
    let t := s.task r k
    if t.clipEn && !s.normHere t c then 1 else if u.slotReady != some k then 2 else 0
  | none, [] => 0
/-- UPD_STATUS (Table 8.9). -/
def State.updStatusWord (s : State) (r : RegionId) : Word :=
  let u := (s.region r).upd
  u.lastStep ++ u.lastTask ++ BitVec.ofNat 12 u.queue.length ++ 0#8 ++ s.updState r
/-- The scope of a command that names a task. -/
def State.taskScope (s : State) (r : RegionId) (index : Nat) : Scope :=
  let t := s.task r index
  if t.valid && decide (index < 256) then .names t.partition else .own

/-- UPD_QUERY (R221). -/
def execUpdQuery (region : RegionId) (index : BitVec 16) (s : State) : Res :=
  s.cmd 0x0254 (s.taskScope region index.toNat) fun s r =>
    s.unless r (firstReason [(decide (255 < index.toNat), rsField)]) <|
      s.okData r (natWords 8 (taskBits (s.task region index.toNat)).toNat ++ [s.updStatusWord region])

/-- A task of a partition has started for a step. -/
def State.stepStarted (s : State) (p : PartId) (c : BitVec 32) : Bool :=
  allRegions.any fun r => (s.region r).upd.started.contains (p, c)

/-- CHECKPOINT_MARK (R218). -/
def execCheckpointMark (partition : PartId) (step : BitVec 32) (s : State) : Res :=
  s.cmd 0x0803 (.names partition) fun s r =>
    s.unless r (firstReason [(s.stepStarted partition step, rsState)]) <|
      (s.setPart partition { s.part partition with marks := (s.part partition).marks ++ [step] }).ok r

end Sys2Proof.Machine
end

