-- ==== Sys2Proof/Machine/Accesses.lean ====
section
/-! DEFINITION. Accesses that the stack controllers serve for a requester: who may make them, what a refusal and an error status do, and requests held until a stack serves (R224, R227, R231, R235, R237, R450, Table 9.6). -/

namespace Sys2Proof.Machine

/-! ## The requester -/

/-- The requester has an operation in progress that can make the access. -/
def State.reqActs (s : State) : Requester → Bool
  | .engine b => (s.block b).group.isSome
  | .ld b => match (s.block b).stall with | .load _ _ c => !c | _ => false
  | .relay num => s.relays.any fun r => r.num == num
  | .lane b tag => match s.msos with | m :: _ => m.issuer == some (b, tag) | [] => false
  | .collective k => s.instances.any fun i => i.plan == k && i.running
  | .update r => (s.region r).upd.run.isSome
  | .versionEntry e => (s.stage e).valid
  | .scrub => true
/-- An access that R224 does not refuse to the requester; the scrub is the controller's own. -/
def State.reqAllowed (s : State) (a n : Nat) : Requester → Bool
  | .engine b => s.blockAllowed b a n
  | .ld b => s.blockAllowed b a n
  | .relay num =>
    match s.relays.find? fun r => r.num == num with
    | some r => s.hubSends.any (fun h => h.relay == some num) || s.blockAllowed r.block a n
    | none => false
  | .lane b _ => s.blockAllowed b a n
  | .collective k => s.allowed (s.plan k).partition a n
  | .update r => match (s.region r).upd.run with | some t => s.allowed t.entry.partition a n | none => false
  | .versionEntry e => s.allowed (s.stage e).partition a n
  | .scrub => inStacked a n

/-- What the operation of a requester meets when its access is refused: counted by the region or the hub that refused it, and failed under its own rules (R224). -/
def State.reqRefused (s : State) (req : Requester) : State :=
  let hub := s.count fun h => { h with memRefused := inc h.memRefused }
  match req with
  | .engine b => s.refuseAccess b
  | .ld b => s.refuseAccess b
  | .relay num =>
    match s.relays.find? fun r => r.num == num with
    | some r => hub.cancelRelay r
    | none => hub
  | .lane _ _ =>
    match s.msos with
    | m :: _ => (s.msoRefuse m).msoNext m ((msoUnit m.op).getD 4)
    | [] => s
  | .collective k =>
    match hub.instances.find? fun i => i.plan == k && i.running with
    | some i => hub.failInstance i causeMemory true
    | none => hub
  | .update r => (s.updRefused r).interruptUpdate r .memory
  | .versionEntry _ => hub
  | .scrub => s

/-- What an error status in place of data does, by requester and by the class under which it is handled (Table 9.6). -/
def State.reqFails (s : State) (a : Nat) (classA : Bool) (req : Requester) : State :=
  match req with
  | .engine b => s.killPair b (if classA then .memA (BitVec.ofNat 48 a) else .memW (BitVec.ofNat 48 a))
  | .ld b => s.ldError b a classA
  | .relay num =>
    match s.relays.find? fun r => r.num == num with
    | some r => s.cancelRelay r
    | none => s
  | .lane _ _ =>
    match s.msos with
    | m :: _ => (s.msoDrop m classA).msoNext m ((msoUnit m.op).getD 4)
    | [] => s
  | .collective k =>
    match s.instances.find? fun i => i.plan == k && i.running with
    | some i => s.failInstance i causeMemory true
    | none => s
  | .update r => s.interruptUpdate r .memory
  | .versionEntry e => if classA then s.raise (s.stage e).partition evMemUncorrectable 2 (unitStack a) (det 168 a) else s
  | .scrub => s

/-! ## Serving (R231, R235, R450) -/

/-- A read of one burst served: parity, what has turned over since, the check of R231, and an error status to the requester. -/
def State.serveRead (s : State) (a : Nat) (req : Requester) (f : BurstFault) : State :=
  let t := (s.served a 32).countBus a f.bus f.onDie
  if f.bus = .fails then (t.busFails a).reqFails a false req
  else
    let r := (t.upset a f.upset).readBurst a f.transient
    if r.2 then r.1 else r.1.reqFails a (r.1.classA a) req
/-- A write served: parity, then the bytes, merged where they cover a burst in part; a second parity failure leaves memory as it is (R235, R450). -/
def State.serveWrite (s : State) (a : Nat) (bs : List Byte) (req : Requester) (bus : BusCheck) : State :=
  let t := (s.served a bs.length).countBus a bus false
  if bus = .fails then (t.busFails a).reqFails a false req else t.put a bs
/-- A held access served. -/
def State.serve (s : State) : MemAccess → State
  | .read a req f => s.serveRead (a.toNat / 32 * 32) req f
  | .write a bs req bus => s.serveWrite a.toNat bs req bus
/-- An access at a controller: held while its stack does not serve, else served (R237, R404). -/
def State.access (s : State) (a : Nat) (m : MemAccess) : State :=
  let x := s.stack (stackOf a)
  if x.wipeDone then s.serve m else s.setStack (stackOf a) { x with held := x.held ++ [m] }
/-- The accesses that a stack has held, served in their order. -/
def State.serveHeld (s : State) (stack : Nat) : State :=
  let x := s.stack stack
  x.held.foldl (fun t m => t.serve m) (s.setStack stack { x with held := [] })

/-- MEMORY_READ (R231): one burst for a requester. -/
def execMemoryRead (addr : Addr) (req : Requester) (fault : BurstFault) (s : State) : Res :=
  let a := addr.toNat / 32 * 32
  when_ (s.reqActs req) s <|
    if !s.reqAllowed a 32 req then s.reqRefused req
    else if inStacked a 32 then s.access a (.read addr req fault) else s

/-- A write that waits for the lock of a source range (R103, R136). -/
def State.reqLocked (s : State) (a n : Nat) : Requester → Bool
  | .engine b => (s.block b).lockedBy a n
  | _ => false
/-- MEMORY_WRITE (R450): bytes of one granule for a requester. -/
def execMemoryWrite (addr : Addr) (data : WriteData) (req : Requester) (s : State) : Res :=
  let a := addr.toNat
  let n := data.bytes.length
  when_ (s.reqActs req && decide (0 < n) && decide (a % 256 + n ≤ 256) && !s.reqLocked a n req) s <|
    if !s.reqAllowed a n req then s.reqRefused req
    else if inStacked a n then s.access a (.write addr data.bytes req data.bus) else s

end Sys2Proof.Machine
end

