-- ==== Sys2Proof/Machine/Array.lean ====
section
/-! DEFINITION. The cell array: MATMUL, its weight registers and their loads, the arithmetic of a pass with the checks of residue and range-check mode, the output stage, and the current keeper (R15 to R17, R50 to R75, R86, R165). -/

namespace Sys2Proof.Machine

/-! ## MATMUL (R86, Table 4.6) -/

/-- The formats of a MATMUL (R29, R65, R448). -/
def mmFormats (f : MatmulFields) : Bool :=
  isArrayOperand f.fmtA && isArrayOperand f.fmtB && ((f.fmtA == 0xB#4) == (f.fmtB == 0xB#4)) && isArrayDest f.fmtC
    && (!isG16 f.fmtC || f.tiled)
    && (!f.fusedEn || (isVectorFmt f.fmtZ && f.zShape != 0b11#2
        && (match f.zShape.toNat with
            | 0 => !isG16 f.fmtZ || f.tiled
            | 1 => wholeBlocks f.fmtZ (mmN f)
            | _ => wholeBlocks f.fmtZ (mmM f))))
/-- A row-major MX tensor's stride covers its row (R448). -/
def mxStride (f : MatmulFields) (c : BitVec 4) (stride : Nat) : Bool :=
  f.tiled || !isMx c || decide (rowBytes c (mmN f) ≤ stride)
/-- An MX operand is named. -/
def mmMx (f : MatmulFields) : Bool := isMx f.fmtA || isMx f.fmtB
/-- The scale arrays that a MATMUL reads start on 64-byte boundaries in the scratchpad (R85, R86). -/
def scalesAligned (f : MatmulFields) (ssA ssB : Nat) : Bool :=
  (!isMx f.fmtA || spadAligned ssA 0) && (!isMx f.fmtB || spadAligned ssB 0)
/-- The checks of R85 and R86 on a MATMUL but for its ranges. -/
def mmOk (g : Group) (f : MatmulFields) (a b c z ssA ssB strideA strideC strideB : Nat) : Bool :=
  mmFormats f && tValid f.t && decide (f.st.toNat < 31) && (!mmMx f || (decide (f.ss.toNat < 31) && mmK f % 32 == 0))
    && scalesAligned f ssA ssB
    && amaxOk g f.amaxEn f.amaxIdx && spadAligned a strideA && spadAligned b strideB
    && spadAligned c (if f.tiled then 0 else strideC) && mxStride f f.fmtC strideC
    && (!f.fusedEn || (spadAligned z (if f.tiled || f.zShape != 0#2 then 0 else strideC)
        && (f.zShape != 0#2 || mxStride f f.fmtZ strideC)))

/-- MATMUL (R86); it takes an untaken shadow load as its first tile (R165). -/
def execMatmul (b : BlockId) (f : MatmulFields) (s : State) : Res :=
  s.core b fun s x =>
    match x.group with
    | none => s.refuse b pkUnlisted
    | some g =>
      let st := x.reg f.st
      let strideA := (st.extractLsb' 0 32).toNat
      let strideC := (st.extractLsb' 32 32).toNat
      let strideB := ((x.reg (f.st + 1)).extractLsb' 0 32).toNat
      let ra := x.addr f.sa
      let rb := x.addr f.sb
      let rc := x.addr f.sd
      let rz := x.addr f.sz
      let ssA := x.addr f.ss
      let ssB := x.addr (f.ss + 1)
      let reads := mmReads f ra rb rz ssA ssB strideA strideC strideB
      let writes := cRanges f f.fmtC rc strideC
      let ok := mmOk g f ra rb rc rz ssA ssB strideA strideC strideB && (reads ++ writes).all (ownOrStacked b)
      s.issue b x g .array ok reads writes (.matmul f ra rb rc rz ssA ssB strideA strideC strideB x.untaken) fun t =>
        let u := if x.arrayQ.isEmpty then t.keeperWork b else t
        let y := u.block b
        u.setBlock b { y with untaken := none, run := if x.arrayQ.isEmpty then some ArrayRun.start else y.run }

/-! ## Weight registers and their loads (R51 to R54, R165) -/

/-- The mod-7 residue of an element's integer significand (R67); an element that counts as zero has none. -/
def sigResidue (c : BitVec 4) (bits : Nat) : Nat :=
  match readElem c bits with
  | .fin d => d.m % 7
  | _ => 0
/-- A register loaded with one element, or with two 4-bit elements (R51, R53). -/
def packReg (c : BitVec 4) (lo hi : Nat) : WeightReg :=
  ⟨BitVec.ofNat 16 (lo + 16 * hi), BitVec.ofNat 3 (sigResidue c lo), BitVec.ofNat 3 (if hi = 0 then 0 else sigResidue c hi)⟩
/-- Registers in rising order from a table of rows and columns. -/
def regTable (rows cols : Nat) (f : Nat → Nat → WeightReg) : Tab WeightReg :=
  (List.range rows).flatMap fun i => (List.range cols).map fun j => (128 * i + j, f i j)

/-- Both operands are 4-bit formats: a register holds two elements and a pass covers 256 values of k (R51, R52). -/
def fourBit (f : MatmulFields) : Bool := passK f == 256
/-- The registers of the tile at k₀ and n₀, from B in memory (R50). -/
def tileRegs (mem : Memory) (f : MatmulFields) (b strideB k0 n0 : Nat) : Tab WeightReg :=
  let code (k n : Nat) : Nat := if k < mmK f then elemBits mem (b + k * strideB) f.fmtB n else 0
  regTable (min 128 (mmK f - k0)) (min 128 (mmN f - n0)) fun i j =>
    packReg f.fmtB (code (k0 + i) (n0 + j)) (if fourBit f then code (k0 + 128 + i) (n0 + j) else 0)
/-- The column sideband of the tile: a scale for each segment of each column of an MX operand (R53, R86). -/
def tileScales (mem : Memory) (f : MatmulFields) (ssB k0 n0 : Nat) : Tab Byte :=
  if isMx f.fmtB then
    (List.range (min 128 (mmN f - n0))).flatMap fun j => (List.range (min (passK f) (mmK f - k0) / 32)).map fun i =>
      (8 * j + i, memByte mem (ssB + (k0 / 32 + i) * mmN f + n0 + j))
  else []
/-- The registers that a FETCH with to_shadow loads: the elements of a tile in tile order, 128 to a row; the rows from 128 on are the second elements of the pairs (R51, R165). -/
def fetchedRegs (l : ShadowLoad) : Tab WeightReg :=
  let n := l.codes.length
  regTable (min 128 (ceilDiv n 128)) (min 128 n) fun i j =>
    packReg l.fmt (l.codes.getD (128 * i + j) 0).toNat (l.codes.getD (128 * (i + 128) + j) 0).toNat

/-- The first k and the first n of the running tile's pass. -/
def ArrayRun.k0 (r : ArrayRun) (f : MatmulFields) : Nat := r.kp * passK f
def ArrayRun.n0 (r : ArrayRun) : Nat := r.nt * 128
/-- The MATMUL stands before its first pass. -/
def ArrayRun.first (r : ArrayRun) : Bool := r.mt == 0 && r.nt == 0 && r.kp == 0
/-- The load that the pass takes instead of loading its tile: the MATMUL's first, where it took one (R165). -/
def ArrayRun.takes (r : ArrayRun) (take : Option ShadowLoad) : Option ShadowLoad := if r.first then take else none
/-- The shadow registers hold the pass's weights (R16). -/
def ArrayRun.ready (r : ArrayRun) (take : Option ShadowLoad) : Bool :=
  match r.takes take with
  | some l => l.complete
  | none => r.loaded

/-- Block cycles of a shadow load with every slot free (R16, log 40). -/
def loadCycles : Nat := 128
/-- A load stop of the array: counted, and filled by the keeper (R16, R69, R73). -/
def BlockState.loadStop (x : BlockState) (lead : Nat) : BlockState :=
  { x with shadowStall := satAdd x.shadowStall (loadCycles - lead) }.dummies (loadCycles - lead)

/-- A shadow load marked complete. -/
def loadDone (l : ShadowLoad) : ShadowLoad := { l with complete := true }
/-- The registers after a fetched load: its group's, or an earlier group's (R54). -/
def ShadowLoad.regSet (l : ShadowLoad) : WeightSet := ⟨if l.ofGroup then .ofGroup else .earlier, fetchedRegs l, []⟩

/-- The load of the running MATMUL's next tile completes: its weights and sideband are in the shadow registers (R16, R53). -/
def State.tileLoaded (s : State) (b : BlockId) (f : MatmulFields) (rb ssB strideB : Nat) (r : ArrayRun) : State :=
  let x := s.block b
  s.setBlock b { x.loadStop r.lead with
    shadow := ⟨.ofGroup, tileRegs s.mem f rb strideB (r.k0 f) r.n0, tileScales s.mem f ssB (r.k0 f) r.n0⟩
    run := some { r with loaded := true } }
/-- The load that the running MATMUL took completes while the array waits for it (R16, R165). -/
def State.takenLoaded (s : State) (b : BlockId) (l : ShadowLoad) (r : ArrayRun) : State :=
  let x := s.block b
  s.setBlock b { x.loadStop r.lead with shadow := l.regSet, arrayQ := x.arrayQ.head?.toList.map (·.mapTake loadDone) ++ x.arrayQ.drop 1 }
/-- The untaken load completes; the shadow registers are free for it. -/
def BlockState.untakenLoaded (x : BlockState) : BlockState :=
  match x.untaken with
  | some l => if l.fetched && !l.complete then { x with shadow := l.regSet, untaken := some (loadDone l) } else x
  | none => x

/-- SHADOW_LOAD_COMPLETE (R16, R54): the load that the running MATMUL waits for, else the untaken load while the array has no use for the shadow registers. -/
def execShadowLoadComplete (b : BlockId) (s : State) : Res :=
  let x := s.block b
  when_ (!x.fenced && !x.inReset && !x.report) s <|
    match x.arrayQ, x.run with
    | .matmul f _ rb _ _ _ ssB _ _ sB take :: rest, some r =>
      if r.over f then (if rest.isEmpty then s.setBlock b x.untakenLoaded else s)
      else match r.takes take with
        | some l => if l.fetched && !l.complete then s.takenLoaded b l r else s
        | none => if r.loaded then s else s.tileLoaded b f rb ssB sB r
    | _, _ => s.setBlock b x.untakenLoaded

/-! ## The arithmetic of a pass with its checks (R56 to R60, R67, R68) -/

/-- 2^e mod 7 (R67). -/
def pow2Mod7 (e : Int) : Nat := 2 ^ (e % 3).toNat
/-- A residue. -/
def mod7 (i : Int) : Nat := (i % 7).toNat
/-- The residue of a value, its exponent taken with 2³ ≡ 1 (R67). -/
def Dy.residue (d : Dy) : Nat := mod7 ((if d.neg then -(d.m : Int) else d.m) * pow2Mod7 d.e)

/-- An operand as a cell has it: its value, whether it counts as invalid, and the residue that travels beside it. -/
structure CellVal where
  val : Dy
  inv : Bool
  residue : Nat

/-- Element A[m, k] as the array reads it, its residue formed at row entry (R67). -/
def mmA (mem : Memory) (f : MatmulFields) (a ssA strideA m k : Nat) : CellVal :=
  let bits := elemBits mem (a + m * strideA) f.fmtA k
  let v := fetchVal f.fmtA bits (if isMx f.fmtA then some (memByte mem (ssA + m * (mmK f / 32) + k / 32)) else none)
  ⟨v.1, v.2, sigResidue f.fmtA bits⟩
/-- Element B[k, n] from the active registers, with the residue that its load formed (R50, R53). -/
def mmB (w : WeightSet) (f : MatmulFields) (k0 n0 k n : Nat) : CellVal :=
  let i := (k - k0) % 128
  let hi := decide (128 ≤ k - k0)
  let reg := tGet ⟨0, 0, 0⟩ w.regs (128 * i + (n - n0))
  let bits := if hi then reg.code.toNat / 16 else if fourBit f then reg.code.toNat % 16 else reg.code.toNat
  let v := fetchVal f.fmtB bits (if isMx f.fmtB then some (tGet 0 w.scales (8 * (n - n0) + (k - k0) / 32)) else none)
  ⟨v.1, v.2, (if hi then reg.residueHi else reg.residue).toNat⟩
/-- The active registers with a fault in one of them (R17). -/
def WeightSet.struck (w : WeightSet) (fault : ArrayFault) : WeightSet :=
  match fault with
  | .weight i j flip =>
    let k := 128 * i.toNat + j.toNat
    { w with regs := tSet w.regs k { tGet ⟨0, 0, 0⟩ w.regs k with code := (tGet ⟨0, 0, 0⟩ w.regs k).code ^^^ flip } }
  | _ => w

/-- What a segment or an accumulation of a fault-ridden element is off by: the exponent, the sum, the bits of the accumulator. -/
def faultAt (fault : ArrayFault) (m n seg : Nat) : Int × Int × BitVec 32 :=
  match fault with
  | .exponent m' n' g d => if m = m' ∧ n = n' ∧ seg = g then (d, 0, 0) else (0, 0, 0)
  | .segment m' n' g d => if m = m' ∧ n = n' ∧ seg = g then (0, d, 0) else (0, 0, 0)
  | .accumulator m' n' g w => if m = m' ∧ n = n' ∧ seg = g then (0, 0, w) else (0, 0, 0)
  | _ => (0, 0, 0)

/-- Which checks an element's pass failed: residue (R67), exponent agreement, and the other tests of Table 3.5. -/
structure Failed where
  residue : Bool
  exponent : Bool
  range : Bool
  deriving DecidableEq, Repr
/-- No check failed. -/
def Failed.none : Failed := ⟨false, false, false⟩
/-- Failures joined. -/
def Failed.or (a b : Failed) : Failed := ⟨a.residue || b.residue, a.exponent || b.exponent, a.range || b.range⟩

/-- The residue that a cell derives for its floored, aligned product, from the operand residues and the bits that the aligner drops (R67 steps 2 and 3). -/
def productResidue (ee : Int) (a b : CellVal) : Nat :=
  let p := a.val.mul b.val
  let r : Int := if p.neg then -((a.residue * b.residue : Nat) : Int) else (a.residue * b.residue : Nat)
  if p.m = 0 then mod7 r
  else
    let sh := p.e - (ee - 46)
    let m : Int := if p.neg then -(p.m : Int) else p.m
    let dropped : Int := if 0 ≤ sh then 0 else m % 2 ^ (-sh).toNat
    mod7 ((r - dropped) * pow2Mod7 sh)

/-- A segment: its sum, its exponent, and the checks it fails (R56, R57, R67 step 4, Table 3.5). -/
def segment (int8 : Bool) (dE dS : Int) (ps : List (CellVal × CellVal)) : Int × Int × Failed :=
  let vs := ps.map fun p => (p.1.val, p.2.val)
  match (if int8 then some 14 else (segExp vs).map (· + dE)) with
  | none => (dS, 0, ⟨mod7 dS != 0 || ps.any fun p => p.1.residue * p.2.residue % 7 != 0, false, false⟩)
  | some e =>
    let s := vs.foldl (fun s p => if p.1.m = 0 ∨ p.2.m = 0 then s else s + productUnits e (p.1.mul p.2)) 0 + dS
    let r := ps.foldl (fun a p => a + productResidue e p.1 p.2) 0
    (s, e, ⟨r % 7 != mod7 s, !int8 && !vs.any (fun p => p.1.m != 0 && p.2.m != 0 && p.1.top + p.2.top == e), decide (2 ^ 53 ≤ s.natAbs)⟩)

/-- An accumulator addition: the A32 word, whether it saturated, and the checks it fails (R60, R67 step 5, Table 3.5). -/
def accumulate (flip acc : BitVec 32) (s e : Int) : BitVec 32 × Bool × Failed :=
  let w := a32Add acc s e
  let out := w.1 ^^^ flip
  let a := (a32Read acc).1
  let sum := Dy.ofInt s (e - 46) false
  let dropped := (a.add sum).sub (a32Read w.1).1
  let o := (a32Read out).1
  let limit := if a.m = 0 then e + 7 else max a.top (e + 7)
  (out, w.2, ⟨o.residue != (a.residue + sum.residue + 7 - dropped.residue) % 7, false, o.m != 0 && decide (limit + 1 < o.top)⟩)

/-- What an element carries through its passes. -/
structure CellOut where
  acc : BitVec 32
  sat : Bool
  inv : Bool
  failed : Failed

/-- One element's segments over a pass added to its partial sum, in ascending k (R59, R60). -/
def mmCell (fault : ArrayFault) (m n k0 kEnd kMax : Nat) (int8 : Bool) (av bv : Nat → CellVal) (acc : BitVec 32) : CellOut :=
  (List.range ((kEnd - k0) / 32)).foldl (fun r i =>
    let ks := ((List.range 32).map fun j => k0 + 32 * i + j).filter (· < kMax)
    let ps := ks.map fun k => (av k, bv k)
    let d := faultAt fault m n i
    let g := segment int8 d.1 d.2.1 ps
    let w := accumulate d.2.2 r.acc g.1 g.2.1
    ⟨w.1, r.sat || w.2.1, r.inv || ps.any (fun p => p.1.inv || p.2.inv), (r.failed.or g.2.2).or w.2.2⟩)
    ⟨acc, false, (a32Read acc).2, Failed.none⟩

/-- The places of a tile: rows and columns of the result that it covers. -/
def tileRows (f : MatmulFields) (mt : Nat) : List Nat := ((List.range 128).map fun i => 128 * mt + i).filter (· < mmM f)
def tileCols (f : MatmulFields) (nt : Nat) : List Nat := ((List.range 128).map fun i => 128 * nt + i).filter (· < mmN f)

/-- Where the partial sum of an element lies: the tile set of its tile in the working area, behind the fetch landing area, the activation and the weight buffers (R62, R92, log 105). -/
def psumAddr (b : BlockId) (x : BlockState) (f : MatmulFields) (r : ArrayRun) (m n : Nat) : Nat :=
  spadBase b + (if x.workSize && (r.mt * tilesN f + r.nt) % 2 == 1 then 0x80000 else 0) + 0x50000 + 4 * (m % 128 * 128 + n % 128)

/-- The elements of a tile after the running pass, by their place in it, with the pass's flags and failed checks. -/
structure PassOut where
  cells : Tab (BitVec 32)
  sat : Bool
  inv : Bool
  failed : Failed

/-- The running pass over a tile (R55): the partial sums are read from the working area, or start from +0 on the first pass (R59, R62). -/
def mmPass (mem : Memory) (b : BlockId) (x : BlockState) (w : WeightSet) (f : MatmulFields) (fault : ArrayFault) (a ssA strideA : Nat) (r : ArrayRun) : PassOut :=
  let k0 := r.k0 f
  (tileRows f r.mt).foldl (fun t m => (tileCols f r.nt).foldl (fun t n =>
    let acc := if r.kp = 0 then 0 else BitVec.ofNat 32 (memNat mem (psumAddr b x f r m n) 4)
    let c := mmCell fault m n k0 (k0 + passK f) (mmK f) (f.fmtA == 0xB#4) (mmA mem f a ssA strideA m) (fun k => mmB w f k0 r.n0 k n) acc
    ⟨tSet t.cells (m % 128 * 128 + n % 128) c.acc, t.sat || c.sat, t.inv || c.inv, t.failed.or c.failed⟩) t)
    ⟨[], false, false, Failed.none⟩
/-- The partial sums written to the working area (R62). -/
def putSums (mem : Memory) (b : BlockId) (x : BlockState) (f : MatmulFields) (r : ArrayRun) (cells : Tab (BitVec 32)) : Memory :=
  cells.foldl (fun m c => memPutNat m (psumAddr b x f r (c.1 / 128) c.1) 4 c.2.toNat) mem

/-! ## The output stage (R63 to R65, R68) -/

/-- The row or column of z that the output-stage registers take at tile start (R64): bits and scale of each place. -/
def zLoad (mem : Memory) (f : MatmulFields) (z strideC : Nat) (r : ArrayRun) : Tab (Nat × Option Byte) :=
  if !f.fusedEn then []
  else match f.zShape.toNat with
    | 0 => []
    | 1 => (tileCols f r.nt).map fun n => (n % 128, zElem mem f z strideC 0 n)
    | _ => (tileRows f r.mt).map fun m => (m % 128, zElem mem f z strideC m 0)
/-- Bits and scale of z for an element: a full tensor from memory, a row or a column from the registers (R64). -/
def zOf (mem : Memory) (f : MatmulFields) (z strideC : Nat) (zregs : Tab (Nat × Option Byte)) (m n : Nat) : Nat × Option Byte :=
  match f.zShape.toNat with
  | 0 => zElem mem f z strideC m n
  | 1 => tGet (0, none) zregs (n % 128)
  | _ => tGet (0, none) zregs (m % 128)

/-- The fused operation of R63 step 1: the value, saturated, invalid. An INT32 z is rounded to nearest even as it is widened (DESIGN CHOICE, log 106). -/
def mmFused (mem : Memory) (f : MatmulFields) (z strideC : Nat) (zregs : Tab (Nat × Option Byte)) (m n : Nat) (acc : Dy) : Dy × Bool × Bool :=
  if !f.fusedEn then (acc, false, false)
  else
    let e := zOf mem f z strideC zregs m n
    let v := fetchVal f.fmtZ e.1 e.2
    let t : Int := if f.fmtZ == f.fmtC && !isFp32 f.fmtZ && !isA32 f.fmtZ then f.t.toInt else 0
    let zw := f32Sat (v.1.scale (-t))
    let zd := (a32Read zw.1).1
    let y := f32Sat (if f.fusedMul then acc.mul zd else acc.add zd)
    ((a32Read y.1).1, zw.2 || y.2, v.2)

/-- One element written at its place, other bits kept. -/
def putElem (m : Memory) (base w i code : Nat) : Memory :=
  let lo := w * i / 8
  let n := (w * i % 8 + w + 7) / 8
  let old := memNat m (base + lo) n
  let sh := w * i % 8
  memPutNat m (base + lo) n (old - old / 2 ^ sh % 2 ^ w * 2 ^ sh + code % 2 ^ w * 2 ^ sh)

/-- The elements of C in the blocks that share a scale: pairs of rows for G16, 32 columns for MX, single elements else. -/
def mmBlocks (f : MatmulFields) (rows cols : List Nat) : List (List (Nat × Nat)) :=
  if isG16 f.fmtC then (chunks 2 rows).map fun rs => rs.flatMap fun m => cols.map fun n => (m, n)
  else if isMx f.fmtC then rows.flatMap fun m => (chunks 32 cols).map fun ns => ns.map fun n => (m, n)
  else rows.flatMap fun m => cols.map fun n => [(m, n)]

/-- Where element (m, n) of C lies: base and index of the packed stream, and its scale byte (R65, R448). -/
def cPlace (f : MatmulFields) (c strideC m n : Nat) : Nat × Nat × Nat :=
  if f.tiled then
    let i := tiledPlace f m n
    (c, i, c + elemBytes f.fmtC (tiledPlaces f) + i / (if isG16 f.fmtC then 256 else 32))
  else (c + m * strideC, n, c + m * strideC + ceilDiv (mmN f) 32 * (4 * fmtBits f.fmtC) + n / 32)

/-- One block of C written: the elements, and the scale that they share. -/
def cWrite (f : MatmulFields) (c strideC : Nat) (mem : Memory) (ps : List (Nat × Nat)) (codes : List Nat) (scales : List Byte) : Memory :=
  let m1 := (ps.zip codes).foldl (fun m e =>
    let p := cPlace f c strideC e.1.1 e.1.2
    putElem m p.1 (fmtBits f.fmtC) p.2.1 e.2) mem
  match ps, scales with
  | p :: _, sc :: _ => memPut m1 (cPlace f c strideC p.1 p.2).2.2 sc
  | _, _ => m1

/-- The destination receives the accumulator bit for bit (R63). -/
def mmExact (f : MatmulFields) : Bool := (isFp32 f.fmtC || isA32 f.fmtC) && !f.fusedEn && f.t == 0#8

/-- One place of a destination format at a magnitude: the weight of the last bit of its element there. -/
def destPlace (c : BitVec 4) (top : Int) : Int :=
  match fmtFp c with
  | some p => if p.half then max (top - p.mb) (1 - (p.bias : Int) - p.mb) else top - p.mb
  | none => 0
/-- The exponent below which a destination format flushes. -/
def destFloor (c : BitVec 4) : Int :=
  match fmtFp c with
  | some p => 1 - (p.bias : Int)
  | none => 0
/-- The output consistency test of Table 3.5: the element read back lies within one place of y × 2^s, or R41 accounts for the difference by saturation or flushing. -/
def outOk (c : BitVec 4) (s : Int) (y : Dy) (code : Nat) : Bool :=
  let x := y.scale s
  match readElem c code with
  | .fin d =>
    let diff := d.sub x
    let place := if d.m = 0 then destPlace c x.top else if x.m = 0 then destPlace c d.top else destPlace c (max d.top x.top)
    diff.m == 0 || !Dy.lt ⟨false, 1, place⟩ { diff with neg := false }
      || (d.m == 0 && decide (x.top < destFloor c))
      || (code == maxCodeOf c x.neg && Dy.lt { d with neg := false } { x with neg := false })
  | _ => false
/-- The exponent added to y for its destination: the tensor scale, less the block scale (R40, R44). -/
def outScale (f : MatmulFields) (scales : List Byte) : Int :=
  f.t.toInt - (match scales with | b :: _ => (b.toNat : Int) - 127 | [] => 0)

/-- What the output stage carries from block to block of a tile. -/
structure StageOut where
  out : OutAcc
  bad : Bool                                  -- the output consistency test failed

/-- The bits of a converted element that a fault turns over (R17). -/
def faultFlip (fault : ArrayFault) (m n : Nat) : Nat :=
  match fault with
  | .output m' n' flip => if m = m' ∧ n = n' then flip else 0
  | _ => 0

/-- The output stage over one block of elements (R63): acc gives each element's sum. A destination written bit for bit takes its draws as any conversion does, unless it is A32, whose write is a move (DESIGN CHOICE, log 107). -/
def mmOutBlock (f : MatmulFields) (fault : ArrayFault) (c z strideC : Nat) (zregs : Tab (Nat × Option Byte)) (src : Memory) (acc : Nat → Nat → BitVec 32)
    (o : StageOut) (ps : List (Nat × Nat)) : StageOut :=
  let ys := ps.map fun p => mmFused src f z strideC zregs p.1 p.2 (a32Read (acc p.1 p.2)).1
  let rs := roundings (f.roundSr && !(mmExact f && isA32 f.fmtC)) (ps.map fun p => p.2 % 128) o.out.x
  let r := convert f.fmtC f.t.toInt ((ys.map fun y => Val.fin y.1).zip rs.1)
  let clean := if mmExact f then ps.map fun p => (acc p.1 p.2).toNat else r.codes
  let codes := (ps.zip clean).map fun e => (e.2 ^^^ faultFlip fault e.1.1 e.1.2) % 2 ^ fmtBits f.fmtC
  let sc := outScale f r.scales
  { out := { mem := cWrite f c strideC o.out.mem ps codes r.scales, x := rs.2
             sat := o.out.sat || (r.saturated && !mmExact f) || ys.any (·.2.1), inv := o.out.inv || r.invalid || ys.any (·.2.2)
             amax := amaxMax o.out.amax r.amax }
    bad := o.bad || (ys.zip codes).any fun e => !outOk f.fmtC sc e.1.1 e.2 }

/-! ## A pass in a block (R55, R62 to R64, R69, R73) -/

/-- The next place of a MATMUL after a pass; the loader had the pass's cycles for the next tile. -/
def ArrayRun.advance (r : ArrayRun) (f : MatmulFields) (cycles : Nat) : ArrayRun :=
  let s : ArrayRun := { r with loaded := false, lead := cycles }
  if r.kp + 1 < passes f then { s with kp := r.kp + 1 }
  else if r.nt + 1 < tilesN f then { s with nt := r.nt + 1, kp := 0, zregs := [] }
  else { s with mt := r.mt + 1, nt := 0, kp := 0, zregs := [] }

/-- Sixteen-bit mode: a vector takes two cycles (R51, R52). -/
def sixteenBit (f : MatmulFields) : Bool := fmtBits f.fmtA == 16 || fmtBits f.fmtB == 16
/-- A full-tensor z shares its port with the partial sums on the last pass of a tile of two or more passes (R64). -/
def zHalves (f : MatmulFields) (r : ArrayRun) : Bool :=
  f.fusedEn && f.zShape == 0#2 && !sixteenBit f && decide (1 < passes f) && decide (r.kp + 1 = passes f)
/-- Cycles in which a pass issues a real vector; each vector of sixteen-bit mode counts its two cycles (DESIGN CHOICE, log 108). -/
def passBusy (f : MatmulFields) (r : ArrayRun) : Nat := (tileRows f r.mt).length * (if sixteenBit f then 2 else 1)
/-- Cycles of a pass (R55, R64). -/
def passCycles (f : MatmulFields) (r : ArrayRun) : Nat := passBusy f r * (if zHalves f r then 2 else 1)

/-- The registers swap at a pass's start: the shadow load becomes active; a taken load's sideband comes from the MATMUL's scale array (R16, R54, log 96). -/
def State.swapSet (s : State) (x : BlockState) (f : MatmulFields) (ssB : Nat) (r : ArrayRun) (take : Option ShadowLoad) : WeightSet :=
  match r.takes take with
  | some _ => { x.shadow with scales := tileScales s.mem f ssB 0 0 }
  | none => x.shadow

/-- What a pass does to the block and to memory, and the checks that failed in it. -/
def State.passEffect (s : State) (b : BlockId) (f : MatmulFields) (fault : ArrayFault) (ra rc rz ssA ssB strideA strideC : Nat)
    (take : Option ShadowLoad) (r : ArrayRun) : State × Failed :=
  let x := s.block b
  let w := s.swapSet x f ssB r take
  let zr := if r.kp = 0 then zLoad s.mem f rz strideC r else r.zregs
  let p := mmPass s.mem b x (w.struck fault) f fault ra ssA strideA r
  let busy := passBusy f r
  let x1 := BlockState.dummies { x with
    arrayBusy := satAdd x.arrayBusy busy, active := w, shadow := WeightSet.empty
    run := some (({ r with zregs := zr } : ArrayRun).advance f (passCycles f r)) } (passCycles f r - busy)
  if r.kp + 1 < passes f then
    (({ s with mem := putSums s.mem b x f r p.cells } : State).setBlock b (x1.flagGroup p.sat p.inv false 0 0), p.failed)
  else
    let acc (m n : Nat) : BitVec 32 := tGet 0 p.cells (m % 128 * 128 + n % 128)
    let o := (mmBlocks f (tileRows f r.mt) (tileCols f r.nt)).foldl (mmOutBlock f fault rc rz strideC zr s.mem acc) ⟨⟨s.mem, x1, p.sat, p.inv, 0⟩, false⟩
    let keep := s.isChecker b && !inOwn b rc 1
    let signed := (cRanges f f.fmtC rc strideC).flatMap fun q => sigWrite b q.base (memRead o.out.mem q.base q.len)
    ((if keep then s else s.wrote o.out.mem (cRanges f f.fmtC rc strideC)).setBlock b
        ((o.out.x.flagGroup o.out.sat o.out.inv f.amaxEn f.amaxIdx o.out.amax).mapGroup fun g => g.sign sigArray signed),
     { p.failed with range := p.failed.range || o.bad })

/-- The check that a pass fails under the group's mode: residues and the exponent agreement in the residue modes, all of Table 3.5 in range-check mode (R66 to R68, Table 15.7). -/
def Failed.check (mode : BitVec 2) (q : Failed) : CellCheck :=
  if checkRuns mode .residue && q.residue then .residue
  else if q.exponent then .exponent
  else if checkRuns mode .range && q.range then .range
  else .pass
/-- A check that strikes the data on their way: what the block finds without the array (R19). -/
def faultPath : ArrayFault → CellCheck
  | .ecc1 => .ecc1
  | .ecc2 => .ecc2
  | .parity => .parity
  | _ => .pass

/-- A pass of the array: what was issued lands, and a failed check kills the group (R17, R19, R75). -/
def State.arrayPass (s : State) (b : BlockId) (f : MatmulFields) (fault : ArrayFault) (ra rc rz ssA ssB strideA strideC : Nat)
    (take : Option ShadowLoad) (r : ArrayRun) : State :=
  if killCorrects (.check (faultPath fault)) then
    let s1 := if fault = .ecc1 then s.countGrey b else s
    let e := s1.passEffect b f fault ra rc rz ssA ssB strideA strideC take r
    match e.2.check (s.block b).mode with
    | .pass => e.1
    | c => e.1.killPair b (.check c)
  else s.killPair b (.check (faultPath fault))

/-- ARRAY_PASS (R55): the pass runs once the shadow registers hold its weights, and swaps them in (R16). -/
def execArrayPass (b : BlockId) (fault : ArrayFault) (s : State) : Res :=
  let x := s.block b
  match x.arrayQ, x.run with
  | c@(.matmul f ra _ rc rz ssA ssB sA sC _ take) :: _, some r =>
    when_ (x.inGroup && !x.fenced && !x.inReset && !r.over f && r.ready take && !s.cmdWaits b c) s <|
      match s.cmdAbandoned b c with
      | some num => s.killPair b (.relayAbandoned num)
      | none => s.arrayPass b f fault ra rc rz ssA ssB sA sC take r
  | _, _ => .next s

/-! ## The current keeper (R69 to R71, Table 3.6) -/

/-- KEEPER_FILL_EXPIRY (R70): the array has been idle for the whole fill. -/
def execKeeperFillExpiry (b : BlockId) (s : State) : Res :=
  let x := s.block b
  when_ (x.keeperEn && x.arrayQ.isEmpty && !x.inReset && (x.keeperState == .fill || x.keeperState == .busy)) s <|
    s.setBlock b { x.dummies keeperFillCycles with keeperState := .rampDown }

/-- KEEPER_RAMP_STEP (R70, R71): the duty falls to a gated array, or the issue limit rises to full rate. A step of the ramp-up issues real vectors where the array has work and dummy vectors otherwise; a ramp-up that ends without work goes into the fill (DESIGN CHOICE, log 109). -/
def execKeeperRampStep (b : BlockId) (s : State) : Res :=
  let x := s.block b
  let cycles := keeperStepCycles * x.keeperDuty / 16
  let idle := x.arrayQ.isEmpty
  match x.keeperState with
  | .rampDown =>
    when_ (x.keeperEn && !x.inReset) s <|
      let d := x.keeperDuty - 1
      s.setBlock b { x.dummies cycles with keeperDuty := d, keeperState := if d = 0 then .gated else .rampDown }
  | .rampUp =>
    when_ (x.keeperEn && !x.inReset) s <|
      let d := x.keeperDuty + 1
      let y := if idle then x.dummies cycles else { x with rampHold := satAdd x.rampHold (keeperStepCycles - cycles) }
      s.setBlock b { y with keeperDuty := d, keeperState := if 16 ≤ d then (if idle then .fill else .busy) else .rampUp }
  | _ => .next s

end Sys2Proof.Machine
end

