-- ==== Sys2Proof/Machine/Reset.lean ====
section
/-! DEFINITION. Asserting a reset that restarts the hub: what it clears, what it keeps, and which of two resets prevails (R394, R396 to R398, Table 16.1). -/

namespace Sys2Proof.Machine

/-- Reset kinds as PWR_RESET_CAUSE codes them (Table 16.2), in order of precedence, the highest first (Table 16.1). -/
def resetCode : ResetKind → BitVec 4
  | .powerOn => 0
  | .lifeCycle => 1
  | .cold => 2
  | .warm => 3
  | .warmPreserve => 4
/-- The source bit of a reset that a command causes (Table 16.2). -/
def resetSource : ResetKind → Nat
  | .powerOn => 0
  | .lifeCycle => 2
  | .cold => 4
  | .warm => 6
  | .warmPreserve => 8
/-- ROS fields and MEM_CLASS_MAP are cleared (Table 16.1). -/
def resetClears (k : ResetKind) : Bool := k == .powerOn || k == .lifeCycle
/-- The boot stage from which a kind's release goes on (R398): power-on waits for PORST_N; a cold or a life-cycle reset measures the strap again and finds the board's resistor unchanged (log 60). -/
def resetStage (k : ResetKind) : BitVec 8 := if k = .powerOn then 0x00 else 0x02

/-- What the fuses hold; every reset disarms a preserve token (R402, R427). -/
def LifeCycle.afterReset (x : LifeCycle) : LifeCycle :=
  { LifeCycle.reset with
    state := x.state, returns := x.returns, ownerKeys := x.ownerKeys, ownerRevoked := x.ownerRevoked, ownerKey := x.ownerKey
    fwRevoked := x.fwRevoked, rollback := x.rollback, native := x.native, secret := x.secret, certificate := x.certificate }

/-- The setpoint of a block clock in MHz: the fused voltage table within 600 to 860 mV (R407, R410). -/
def setpointOf (mhz : Nat) : Nat := min (max (Config.voltageTable mhz) 600) 860
/-- Order 3: the telemetry island sends the core setpoint of the fused voltage table (Table 16.3). -/
def State.sendSetpoint (s : State) : State :=
  let mv := setpointOf 1100
  ({ s with power := { s.power with setpointMv := mv } } : State).emit (.avs mv)

/-- A reset that restarts the hub is asserted: every register, SRAM, FIFO and counter of its scope is cleared; fuses, ROS fields, the class map and stacked memory are cleared or kept as Table 16.1 says (R396). Memory that the release will wipe is cleared here. -/
def State.restartHub (s : State) (k : ResetKind) (sources : BitVec 10) (count : BitVec 32) (stage : BitVec 8) : State :=
  { State.reset with
    pending := s.pending, out := s.out, freeCount := s.freeCount
    mem := if k = .warmPreserve then s.mem.filter (fun c => decide (c.1 < stackedEnd)) else []
    bursts := if k = .warmPreserve then s.bursts else []
    classMap := if resetClears k then 0 else s.classMap
    stackCtl := if k = .warmPreserve then (List.range 12).map fun i => (i, { StackState.reset with selfRefresh := true }) else []
    lc := s.lc.afterReset
    guest := { GuestState.reset with present := s.guest.present }
    faults := ⟨0, if resetClears k then 0 else s.faults.status⟩
    reset_ := { ResetState.reset with
      bootCount := count, kind := k, sources := sources, bootStage := stage, strapValid := stage != 0#8, tripped := s.reset_.tripped
      strap := if stage = 0#8 then 0 else s.reset_.strap } }

/-- A reset is in progress: the hub is held, or its release has not reached order 10 and has not stopped (R397, R398). -/
def ResetState.busy (x : ResetState) : Bool := x.active && decide (x.bootStage.toNat < 0xE0)
/-- boot_count after a restart of some kind: it saturates as every counter does (R10, Table 16.2). -/
def ResetState.nextCount (x : ResetState) (k : ResetKind) : BitVec 32 :=
  if resetClears k then 1 else if x.bootCount = 0xFFFFFFFF#32 then x.bootCount else x.bootCount + 1

/-- A reset arrives: one of the same or lower precedence than a reset in progress is absorbed, and its source recorded (R397). -/
def State.assertReset (s : State) (k : ResetKind) (source : Nat) : State :=
  let x := s.reset_
  if x.busy && decide ((resetCode x.kind).toNat ≤ (resetCode k).toNat) then
    { s with reset_ := { x with sources := putBit x.sources source true } }
  else s.restartHub k (bitMask 10 source) (x.nextCount k) (resetStage k)

/-- A completion record has its WR_ACK: the reset that waited for it is asserted (R419, R430). -/
def State.resetAfter (s : State) (r : CplRecord) : State :=
  match r, s.reset_.pendingReset with
  | .cmdDone c, some k =>
    if (c.opcode = 0x0704#16 ∨ c.opcode = opLcTransition) ∧ c.status = cdOk then s.assertReset k (resetSource k) else s
  | _, _ => s

end Sys2Proof.Machine
end

