-- ==== Sys2Proof/Machine/Records.lean ====
section
/-! DEFINITION. Partition windows, the reading of command rings, device records, the completion collector, event placement and interference reports (R308, R319 to R332, R360 to R364, R369 to R374). -/

namespace Sys2Proof.Machine

/-! ## Partition windows (R319, R321, R322, Tables 13.7 to 13.9) -/

/-- FMP_P_STATUS (Table 13.8). -/
def pStatusWord (x : Partition) : Word :=
  x.epoch ++ BitVec.ofNat 8 x.draft.length ++ 0#16 ++ BitVec.ofBool x.headErr ++ x.park ++ 0#1 ++ x.mode
/-- The defined bits of a ring register (Table 13.9). -/
def ringRegBits (v : Word) : Word := v &&& 0x0000FFFFFFFFF03F#64
/-- The count in a head or tail register (R322). -/
def countOf (v : Word) : BitVec 32 := v.extractLsb' 0 32
/-- Every ring register is writable: no host is attached (R322). -/
def State.ringsOpen (s : State) : Bool := s.scl.mode == .none || s.scl.mode == .detached
/-- A head that leaves tail − head above S, or a tail that does (R329). -/
def headBad (r : RingRegs) : Bool := decide (ringUnits r < ringUsed r)
/-- A head or tail written into a partition's ring under the check of R329. -/
def State.putCount (s : State) (p : PartId) (r : RingRegs) (f : Partition → Partition) : State :=
  let x := s.part p
  if !s.partExists p then s else if headBad r then s.setPart p { x with headErr := true } else s.setPart p (f x)

/-- FMP_P_CMD_TAIL written: the doorbell, which unparks the ring and restarts the re-reads (R308, R327). -/
def State.writeCmdTail (s : State) (p : PartId) (v : Word) : State :=
  let r := { (s.part p).cmdRing with tail := countOf v }
  s.putCount p r fun x => { x with cmdRing := r, park := 0, rereads := 0 }
/-- FMP_P_CPL_HEAD written: records that did not fit may be written now (R328). -/
def State.writeCplHead (s : State) (p : PartId) (v : Word) : State :=
  let r := { (s.part p).cplRing with head := countOf v }
  (s.putCount p r fun x => { x with cplRing := r }).pumpCpl p
/-- FMP_P_EVT_HEAD written. -/
def State.writeEvtHead (s : State) (p : PartId) (v : Word) : State :=
  let r := { (s.part p).evtRing with head := countOf v }
  (s.putCount p r fun x => { x with evtRing := r }).pumpEvt p
/-- FMP_P_STATUS written: head_err is cleared by a one (Table 13.8). -/
def State.writePStatus (s : State) (p : PartId) (v : Word) : State :=
  let x := s.part p
  if s.partExists p && v.getLsbD 7 then s.setPart p { x with headErr := false } else s

/-- A register of a partition window read (Table 13.7). -/
def State.windowRead (s : State) (p : PartId) (off : Nat) : Word :=
  let x := s.part p
  if !s.partExists p then 0
  else match off with
    | 0x000 => pStatusWord x
    | 0x040 => x.cmdRing.reg
    | 0x048 => x.cmdRing.head.setWidth 64
    | 0x050 => x.cmdRing.tail.setWidth 64
    | 0x060 => x.cplRing.reg
    | 0x068 => x.cplRing.head.setWidth 64
    | 0x070 => x.cplRing.tail.setWidth 64
    | 0x080 => x.evtRing.reg
    | 0x088 => x.evtRing.head.setWidth 64
    | 0x090 => x.evtRing.tail.setWidth 64
    | _ => 0
/-- A register of a partition window written (Table 13.7, R322). -/
def State.windowWrite (s : State) (p : PartId) (off : Nat) (v : Word) : State :=
  let x := s.part p
  let open_ (t : State) : State := if s.partExists p && s.ringsOpen then t else s
  match off with
  | 0x000 => s.writePStatus p v
  | 0x040 => open_ (s.setPart p { x with cmdRing := { x.cmdRing with reg := ringRegBits v } })
  | 0x048 => open_ (s.setPart p { x with cmdRing := { x.cmdRing with head := countOf v } })
  | 0x050 => s.writeCmdTail p v
  | 0x060 => open_ (s.setPart p { x with cplRing := { x.cplRing with reg := ringRegBits v } })
  | 0x068 => s.writeCplHead p v
  | 0x070 => open_ (s.setPart p { x with cplRing := { x.cplRing with tail := countOf v } })
  | 0x080 => open_ (s.setPart p { x with evtRing := { x.evtRing with reg := ringRegBits v } })
  | 0x088 => s.writeEvtHead p v
  | 0x090 => open_ (s.setPart p { x with evtRing := { x.evtRing with tail := countOf v } })
  | _ => s

/-- FMP_P_CMD_TAIL_WRITE (R308, R329). -/
def execFmpPCmdTailWrite (p : PartId) (value : Word) (s : State) : Res := .next (s.writeCmdTail p value)
/-- FMP_P_CPL_HEAD_WRITE (R329). -/
def execFmpPCplHeadWrite (p : PartId) (value : Word) (s : State) : Res := .next (s.writeCplHead p value)
/-- FMP_P_EVT_HEAD_WRITE (R329). -/
def execFmpPEvtHeadWrite (p : PartId) (value : Word) (s : State) : Res := .next (s.writeEvtHead p value)
/-- HEAD_ERR_CLEAR (R8, Table 13.8). -/
def execHeadErrClear (p : PartId) (value : Word) (s : State) : Res := .next (s.writePStatus p value)

/-! ## Reading command rings (R308, R325 to R327, R332, R348) -/

/-- The control complex reads rings: booted, a control pair runs, no handover is in progress, and the session is attached. -/
def State.readsRings (s : State) : Bool := !s.reset_.active && s.flapinoUp && s.attached
/-- A command of the partition that the next record of its ring waits for (R332): a CINCH, or a COLL_SCALAR. -/
def State.ringBusy (s : State) (p : PartId) : Bool :=
  (match s.fl.cut with | some c => c.part == p | none => false) || s.fl.waitingCinch.any (fun c => c.part == p)
    || s.scalars.any fun c => match c.cmd with | some (r, _) => r.part == p | none => false
/-- A ring with a record to be read. -/
def State.ringReady (s : State) (p : PartId) : Bool :=
  let x := s.part p
  s.partExists p && x.park == 0#2 && decide (0 < ringUnits x.cmdRing) && x.cmdRing.tail != x.cmdRing.head && !s.ringBusy p
/-- The partitions in round-robin order after the one that had the last turn. -/
def turnOrder (last : PartId) : List PartId := (List.range 32).map fun i => last + 1 + BitVec.ofNat 5 i
/-- The ring whose turn it is (R332). -/
def State.turn (s : State) : Option PartId := (turnOrder s.fl.lastTurn).find? fun p => s.ringReady p && (s.part p).rereads == 0

/-- A background command beyond the limits of R332. -/
def State.bgFull (s : State) (p : PartId) (op : BitVec 16) : Bool :=
  bgOpcodes.contains op && (decide (4 ≤ (s.fl.bg.filter fun r => r.part == p).length) || (s.bgOf p op).isSome)

/-- Lines read by CO_RD enter the line cache of 512 lines, the oldest going first (R307). -/
def State.cacheLines (s : State) (ls : List (BitVec 47)) : State :=
  let c := s.scl.lineCache.filter (fun l => !ls.contains l) ++ ls
  { s with scl := { s.scl with lineCache := c.drop (c.length - 512) } }

/-- A record's length is not one the ring can hold (R327). -/
def tooLong (r : RingRegs) (n : Nat) : Bool := decide (n = 0) || decide (ringUnits r ≤ n)
/-- The head moved past a record. -/
def RingRegs.take (r : RingRegs) (n : Nat) : RingRegs := { r with head := r.head + BitVec.ofNat 32 n }

/-- The record at a ring's head as it was read: TOO_LONG parks the ring; an invalid record is counted; a PAD is skipped; a valid command becomes current, unless it must wait for other background commands (R308, R326, R327, R332). -/
def State.readRecord (s : State) (p : PartId) (h : CmdHeader) (again : State → State) : State :=
  let x := s.part p
  let n := h.units.toNat
  let s0 : State := { s with fl := { s.fl with lastTurn := p } }
  if h.seqOk && tooLong x.cmdRing n then
    (s0.setPart p { x with park := 0b10, rereads := 0 }).cmdDone ⟨p, h, x.cmdRing.head⟩ cdTooLong 0 0 []
  else
    let s1 := s0.cacheLines ((List.range (min n 512)).map fun i => ringLine x.cmdRing (x.cmdRing.head.toNat + i))
    if !(h.seqOk && h.crcOk) then again { s1 with scl := { s1.scl with ringReread := inc s1.scl.ringReread } }
    else if h.opcode = 0#16 then s1.setPart p { x with cmdRing := x.cmdRing.take n, rereads := 0 }
    else if s.bgFull p h.opcode then s1.setPart p { x with rereads := 0 }
    else
      let s2 := s1.setPart p { x with cmdRing := x.cmdRing.take n, rereads := 0 }
      { s2 with fl := { s2.fl with current := some ⟨p, h, x.cmdRing.head⟩ } }

/-- COMMAND_RECORD_READ (R332): one record of the ring whose turn it is, when the command before it has started. -/
def execCommandRecordRead (p : PartId) (h : CmdHeader) (s : State) : Res :=
  when_ (s.readsRings && s.fl.current.isNone && s.turn == some p) s <|
    s.readRecord p h fun t => t.setPart p { t.part p with rereads := 1 }

/-- The stream of the control complex (R302) as an event's unit (Table 15.3). -/
def unitControlStream : BitVec 24 := 269#10 ++ 0#14
/-- The ring parked stale after its 64th re-read (R308). -/
def State.parkStale (s : State) (p : PartId) : State :=
  let x := s.part p
  let s1 := (s.setPart p { x with park := 0b01, rereads := 0 }).raise p evStale 5 unitControlStream (det 200 x.cmdRing.head.toNat)
  { s1 with scl := { s1.scl with ringStale := inc s1.scl.ringStale } }

/-- RING_REREAD (R308): the record at the head is read once more. -/
def execRingReread (p : PartId) (h : CmdHeader) (s : State) : Res :=
  let x := s.part p
  when_ (s.readsRings && s.fl.current.isNone && s.ringReady p && decide (0 < x.rereads)) s <|
    s.readRecord p h fun t => if 64 ≤ x.rereads then t.parkStale p else t.setPart p { t.part p with rereads := x.rereads + 1 }

/-- The opcodes of Table 13.13. -/
def listedOpcodes : List (BitVec 16) :=
  (List.range 15).map (fun i => BitVec.ofNat 16 (0x0101 + i)) ++ [0x0201, 0x0202, 0x0203, 0x0208, 0x0209, 0x0210, 0x0211, 0x0212, 0x0213]
    ++ [0x0230, 0x0231, 0x0232] ++ (List.range 7).map (fun i => BitVec.ofNat 16 (0x0240 + i))
    ++ (List.range 5).map (fun i => BitVec.ofNat 16 (0x0250 + i)) ++ [0x0301, 0x0302, 0x0303]
    ++ (List.range 6).map (fun i => BitVec.ofNat 16 (0x0401 + i)) ++ [0x0410, 0x0411, 0x0412, 0x0501, 0x0502, 0x0503, 0x0504]
    ++ [0x0601, 0x0602, 0x0603, 0x0604, 0x0605, 0x0611] ++ (List.range 6).map (fun i => BitVec.ofNat 16 (0x0701 + i))
    ++ [0x0710, 0x0711, 0x0712, 0x0713, 0x0801, 0x0802, 0x0803, 0x0804] ++ (List.range 7).map (fun i => BitVec.ofNat 16 (0x0901 + i))

/-- UNKNOWN (R336): an opcode outside Table 13.13. -/
def execUnknown (s : State) : Res :=
  match s.fl.current with
  | none => .next s
  | some r =>
    when_ (!listedOpcodes.contains r.hdr.opcode) s <|
      ({ s with fl := { s.fl with current := none } } : State).cmdDone r cdUnknown 0 0 []

/-! ## Device records acknowledged (R307, R315, R328, R373) -/

/-- Holding follows the partition's entries in the store: at 64 + 7b it begins, below it ends (R363). -/
def State.settleHold (s : State) (p : PartId) : State :=
  let x := s.part p
  s.setPart p { x with held := decide (64 + 7 * (s.partBlocks p).length ≤ x.stored) }

/-- The entry being written freed, or given its follow-on's content (R373 step 5). -/
def ackEntry : List ErrEntry → List ErrEntry
  | [] => []
  | e :: r =>
    if e.writing then
      match e.follow with
      | some f => { e with record := f, writing := false, follow := none, no := e.followNo } :: r
      | none => r
    else e :: ackEntry r

/-- A line of a partition's completion or event record waits for its WR_ACK. -/
def recordOf (p : PartId) (event : Bool) : CompanionUse → Bool
  | .record q e => q == p && e == event
  | _ => false
/-- Every line of a record has its WR_ACK: the tail moves, the store or error entry is freed, and the next record is written (R328). -/
def State.ackRecord (s : State) (p : PartId) (event : Bool) : State :=
  let x := s.part p
  if event then
    match x.mbox with
    | (_, true) :: rest => (s.setPart p { x with evtRing := ringPut x.evtRing 2, mbox := rest }).pumpEvt p
    | _ => (s.setPart p { x with evtRing := ringPut x.evtRing 1, errs := ackEntry x.errs }).pumpEvt p
  else
    match x.records with
    | r :: rest =>
      (((s.setPart p { x with cplRing := ringPut x.cplRing (recordUnits r.record), records := rest }).settleHold p).pumpCpl p).resetAfter r.record
    | [] => s

/-- DEVICE_RECORD_ACK (R328): the lines of the record that still wait have their WR_ACKs. -/
def execDeviceRecordAck (p : PartId) (event : Bool) (s : State) : Res :=
  let x := s.part p
  let busy := if event then x.evtBusy else match x.records with | r :: _ => r.writing | [] => false
  when_ (s.scl.mode == .attached && busy) s ((s.dropReqs (recordOf p event)).ackRecord p event)

/-! ## Events (R369, R373, R374) -/

/-- An event counted in its class, and placed or masked; a CRIMSON fails its partition (R350, R369, R374). -/
def State.takeEvent (s : State) (e : EventReq) : State :=
  let c := eventClass e.code
  let x := (s.part e.partition).countClass c
  if (c = clsGrey ∨ c = clsAmber) ∧ x.mask.contains e.code then s.setPart e.partition { x with masked := inc x.masked }
  else
    let s1 := (s.setPart e.partition x).placeEvent e
    if c = clsCrimson then s1.failPart e.partition else s1

/-- EVENT_RAISE (R373): the oldest event that a unit has reported. -/
def execEventRaise (s : State) : Res :=
  match s.events with
  | [] => .next s
  | e :: rest => .next (({ s with events := rest } : State).takeEvent e)

/-! ## The completion collector (R362 to R364) -/

/-- The regions in round-robin order from the one whose turn it is. -/
def collectOrder (r : RegionId) : List RegionId := (List.range 4).map fun i => r + BitVec.ofNat 2 i

/-- COMPLETION_COLLECT (R362 steps 2 and 3): one entry of the next FIFO that is not empty. -/
def execCompletionCollect (s : State) : Res :=
  match (collectOrder s.collectNext).find? fun r => !(s.region r).fifo.isEmpty with
  | none => .next s
  | some r =>
    match (s.region r).fifo with
    | [] => .next s
    | e :: rest =>
      let p := s.ownerOr0 e.block
      let s1 := s.setRegion r { s.region r with fifo := rest }
      let x := s1.part p
      .next (({ s1 with collectNext := r + 1 } : State).setPart p { x with pendingCpl := x.pendingCpl ++ [e] } |>.settleHold p)

/-- Up to 16 pending entries put into one GROUP_DONE record (R362 step 4). -/
def State.writeGroupDone (s : State) (p : PartId) : State :=
  let x := s.part p
  (s.setPart p { x with pendingCpl := x.pendingCpl.drop 16 }).storeRecord p (.groupDone (x.pendingCpl.take 16))

/-- GROUP_DONE_WRITE (R362 step 4): 16 entries are pending, or the partition is not RUNNING. -/
def execGroupDoneWrite (p : PartId) (s : State) : Res :=
  let x := s.part p
  when_ (decide (16 ≤ x.pendingCpl.length) || (!x.pendingCpl.isEmpty && x.mode != pRunning)) s (s.writeGroupDone p)
/-- COALESCING_WAIT_EXPIRY (R362 step 4): the oldest pending entry has waited the coalescing wait. -/
def execCoalescingWaitExpiry (p : PartId) (s : State) : Res := when_ (!(s.part p).pendingCpl.isEmpty) s (s.writeGroupDone p)
/-- COMPLETION_HOLD (R363): hub cycles for which the partition was held, counted; the hold ends when the entries have fallen. -/
def execCompletionHold (p : PartId) (cycles : Word) (s : State) : Res :=
  let x := s.part p
  when_ x.held s ((s.setPart p { x with cplHold := satAdd x.cplHold cycles.toNat }).settleHold p)

/-! ## Interference reports (R360, R361) -/

/-- A share in units of 2⁻¹⁶. -/
def shareOf (part total : Nat) : Nat := if total = 0 then 0 else min (part * 65536 / total) 65535
/-- meas / est in unsigned 16.16; all ones when est is 0 or the quotient does not fit. -/
def ratioOf (meas est : Nat) : Nat := if est = 0 then 0xFFFFFFFF else min (meas * 65536 / est) 0xFFFFFFFF
/-- The sum of a counter over the partition's blocks. -/
def State.sumBlocks (s : State) (p : PartId) (f : BlockState → Word) : Word :=
  (s.partBlocks p).foldl (fun a b => a + f (s.block b)) 0

/-- The bytes of a report record (Table 14.3). -/
def reportBytes (s : State) (p : PartId) (ratio linkShare memShare : Nat) (meas est groups memB linkB : Word) : List Byte :=
  let x := s.part p
  let w : BitVec 480 := BitVec.ofNat 16 linkShare ++ BitVec.ofNat 16 memShare ++ linkB ++ memB ++ BitVec.ofNat 32 ratio ++ est ++ meas
    ++ groups.setWidth 32 ++ 0#24 ++ BitVec.ofNat 8 p.toNat ++ x.report.intervalMs ++ s.epoch ++ x.reportSeq
  let bs := leBytes 60 w.toNat
  bs ++ leBytes 4 (crc32c bs).toNat

/-- REPORT_INTERVAL_END (R361): the counters sampled, one record to the report ring, SLOWDOWN when the ratio exceeds the threshold. -/
def execReportIntervalEnd (p : PartId) (s : State) : Res :=
  let x := s.part p
  when_ (s.partExists p && x.report.intervalMs != 0#32 && !s.faults.status.getLsbD 4) s <|
    let m := s.sumBlocks p (·.grpMeas)
    let e := s.sumBlocks p (·.grpEst)
    let g := s.sumBlocks p (·.grpCount)
    let meas := m - x.sampledMeas
    let est := e - x.sampledEst
    let groups := g - x.sampledGroups
    let memB := x.memBytes - x.memSampled
    let linkB := x.linkBytes - x.linkSampled
    let ratio := ratioOf meas.toNat est.toNat
    let bs := reportBytes s p ratio (shareOf linkB.toNat (s.hub.linkAll - x.linkAllSampled).toNat)
      (shareOf memB.toNat (s.hub.memAll - x.memAllSampled).toNat) meas est groups memB linkB
    let s1 := s.setPart p { x with
      lastReport := bs, reportSeq := x.reportSeq + 1, sampledMeas := m, sampledEst := e, sampledGroups := g
      memSampled := x.memBytes, linkSampled := x.linkBytes, memAllSampled := s.hub.memAll, linkAllSampled := s.hub.linkAll }
    let s2 := s1.companionReq 269 (x.report.ring.toNat + x.reportSeq.toNat % 64 * 64) 64 (.report p) bs
    if x.report.threshold.toNat < ratio then
      s2.raise p evSlowdown 3 (unitHub 0x04 p.toNat) (det 168 ratio ||| det 200 x.reportSeq.toNat)
    else s2

end Sys2Proof.Machine
end

