-- ==== Sys2Proof/Machine/Draft.lean ====
section
/-! DEFINITION. Draft sets: what each staged command changes, when it is refused, CHECK, and the D commands (R337 to R339, Table 13.14; Tables 5.11, 6.11, 7.11, 8.11, 9.12, 10.14, 11.11, 12.16, 14.2, 14.6, 15.14, 16.10). -/

namespace Sys2Proof.Machine

/-! ## The object and the partition that a command names -/

/-- The object of a command: a family and a number (R337). -/
def draftKey : DraftSetting → Nat × Nat
  | .partCreate x => (0, x.index.toNat)
  | .partDestroy i => (0, i.toNat)
  | .partQuads i _ => (1, i.toNat)
  | .partMem x => (2, x.index.toNat)
  | .partCheckMode _ => (3, 0)
  | .reportSet _ => (4, 0)
  | .stageSet x => (5, x.index.toNat)
  | .stageClear i => (5, i.toNat)
  | .queueConfig x => (6, x.partition.toNat)
  | .collGroupSet i _ _ => (7, i.toNat)
  | .collPlanSet i _ => (8, i.toNat)
  | .collPlanClear i => (8, i.toNat)
  | .collJobSet j _ _ _ => (9, j.toNat)
  | .updTaskSet r i _ => (10, r.toNat * 256 + i.toNat)
  | .updTaskClear r i => (10, r.toNat * 256 + i.toNat)
  | .updParamSet r i _ => (11, r.toNat * 32 + i.toNat)
  | .updSchedSet r i _ => (12, r.toNat * 256 + i.toNat)
  | .memClassSet _ first _ _ => (13, first.toNat)
  | .linkConfig x => (14, x.portMask.toNat)
  | .linkRouteSet first _ _ => (15, first.toNat)
  | .linkIdSet _ _ => (16, 0)
  | .sclConfig _ => (17, 0)
  | .eventMaskSet _ => (18, 0)
  | .powerLimitSet _ => (19, 0)
  | .guestFwSet _ => (20, 0)
  | .exportSet x => (21, x.partition.toNat)
  | .batchSet _ => (22, 0)

/-- The partition whose settings a command changes (R339); none for settings that move no partition epoch. -/
def draftMoves (c : DraftCmd) : Option PartId :=
  match c.setting with
  | .partCreate x => some (x.index.setWidth 5)
  | .partDestroy _ => none
  | .partQuads i _ => some (i.setWidth 5)
  | .partMem x => some (x.index.setWidth 5)
  | .partCheckMode _ => none
  | .linkConfig _ => none
  | .linkRouteSet _ _ _ => none
  | .linkIdSet _ _ => none
  | .sclConfig _ => none
  | .powerLimitSet _ => none
  | .guestFwSet x => some x.partition
  | _ => some c.target
/-- The partitions whose epoch the draft moves (R339). -/
def draftParts (cs : List DraftCmd) : List PartId := allParts.filter fun p => cs.any fun c => draftMoves c == some p

/-! ## Partitions as the draft changes them (R349, R352) -/

/-- A range of a partition's payload in bytes (R352). -/
def gibRange (g : Nat × Nat) : Range := ⟨g.1 * 2 ^ 30, g.2 * 2 ^ 30⟩
/-- A partition freshly created; its counters and the records that the hub still holds stay. -/
def Partition.created (x : Partition) (c : PartCreateP) : Partition :=
  { Partition.reset with
    mode := pCreated, quads := c.quadMask, checkMode := c.checkMode, seqBase := c.seqBase.toNat, seqCount := c.seqCount.toNat
    coalesce := if c.coalesce = 0#32 then 1400 else c.coalesce.toNat
    pendingCpl := x.pendingCpl, records := x.records, errs := x.errs, errNo := x.errNo, cplHold := x.cplHold
    grey := x.grey, amber := x.amber, umber := x.umber, crimson := x.crimson, masked := x.masked, merged := x.merged }
/-- A partition destroyed. -/
def Partition.destroyed (x : Partition) : Partition :=
  { x with mode := pNone, quads := 0, stacked := [], companion := [], draft := [], exportRing := none, batch := none, wlStarted := false
           report := ReportP.reset, mask := [] }
/-- A change of a partition's state recorded as an event (R350). -/
def State.putPart (s : State) (p : PartId) (x : Partition) : State :=
  let old := (s.part p).mode
  let t := s.setPart p x
  if old = x.mode then t else t.raise p evPartState 3 (unitHub 0x02 p.toNat) (det 168 old.toNat ||| det 172 x.mode.toNat)
/-- A block outside a running partition: stopped in the open state, with its owner's mode and estimates (R349, R353). -/
def State.idleBlock (s : State) (b : BlockId) : State :=
  let x := s.block b
  let o := s.owner b
  let m := match o with | some p => (s.part p).checkMode | none => 0
  s.setBlock b { x with
    core := .openState, stall := .none, running := false, stopAtGhdr := false, checkMode := m, pairRole := m == 0b10#2 && b.block.getLsbD 0
    estimates := match o with
      | some p => (enum (s.part p).report.estimates).map fun e => (e.1, e.2)
      | none => [] }
/-- The blocks of a mask that changed hands brought to rest. -/
def State.idleQuads (s : State) (mask : BitVec 64) : State :=
  (allBlocks.filter fun b => mask.getLsbD b.quadBit && !(s.block b).fenced).foldl (fun t b => t.idleBlock b) s

/-! ## What the hub holds -/

/-- Own rank in a member list (R178). -/
def State.ownRank (s : State) (list : Addr) (count : Nat) : Nat :=
  (((List.range count).find? fun i => BitVec.ofNat 16 (memNat s.mem (list.toNat + 2 * i) 2) == s.deviceId).getD 0)
/-- Times that the own device ID stands in a member list. -/
def State.ownCount (s : State) (list : Addr) (count : Nat) : Nat :=
  ((List.range count).filter fun i => BitVec.ofNat 16 (memNat s.mem (list.toNat + 2 * i) 2) == s.deviceId).length
/-- A routing entry from memory (Table 10.9). -/
def routeAt (m : Memory) (a : Nat) : RouteEntry :=
  let w := BitVec.ofNat 64 (memNat m a 8)
  ⟨w.extractLsb' 24 24, w.extractLsb' 0 24, w.getLsbD 48⟩
/-- A Stage Table entry set by Cinch: its hardware fields stay, but J starts anew where the job or the shard list changes (Table 6.1, R148, R151). -/
def StageEntry.put (e : StageEntry) (x : StageP) (epoch : Epoch) : StageEntry :=
  { e with
    recoveryPc := x.recoveryPc, shardList := x.shardList, shardCount := x.shardCount, pred := x.pred, succ := x.succ, quadMask := x.quadMask
    mbPerStep := x.mbPerStep, budget := x.budget, bwdQ := x.bwdQ, fwdQ := x.fwdQ, pipeStage := x.pipeStage, job := x.job, staleS := x.staleS
    partition := x.partition, last := x.last, first := x.first, valid := x.valid, keptEpoch := epoch
    jobVersion := if e.job = x.job ∧ e.shardList = x.shardList ∧ e.shardCount = x.shardCount then e.jobVersion else 0 }
/-- A new export ring (R213, R214). -/
def newRing (x : ExportP) : ExportRing := ⟨x, 0, 0, [], 0, [], [], 0, false⟩

/-- The settings that the hub crossbar's engines hold, changed by one command of a partition's draft (Table 11.1). -/
def hubSet (c : DraftCmd) (s : State) : State :=
  match c.setting with
  | .partCreate x =>
    let p : PartId := x.index.setWidth 5
    let s1 := s.putPart p ((s.part p).created x)
    ({ s1 with seqs := s1.seqs.filter fun e => !(decide (x.seqBase.toNat ≤ e.1) && decide (e.1 < x.seqBase.toNat + x.seqCount.toNat)) } : State).idleQuads
      x.quadMask
  | .partDestroy i =>
    let p : PartId := i.setWidth 5
    let x := s.part p
    (s.putPart p x.destroyed).idleQuads x.quads
  | .partQuads i m =>
    let p : PartId := i.setWidth 5
    let x := s.part p
    (s.setPart p { x with quads := m }).idleQuads (x.quads ^^^ m)
  | .partMem x =>
    let p : PartId := x.index.setWidth 5
    s.setPart p { s.part p with
      stacked := (x.stacked.map gibRange).filter fun r => decide (0 < r.len)
      companion := (x.companion.map fun r => Range.mk r.1 r.2).filter fun r => decide (0 < r.len) }
  | .partCheckMode m => s.setPart c.target { s.part c.target with checkMode := m }
  | .stageSet x => s.setStage (x.index.setWidth 6) ((s.stage (x.index.setWidth 6)).put x (s.epoch + 1))
  | .stageClear i => s.setStage (i.setWidth 6) StageEntry.reset
  | .queueConfig x => { s with lossLimitMs := x.lossLimitMs }
  | .collGroupSet i list count =>
    { s with groups := tSet s.groups i.toNat ⟨list, count, BitVec.ofNat 12 (s.ownRank list count.toNat), true⟩ }
  | .collPlanSet i x => { s with plans := tSet s.plans i.toNat { x with valid := true } }
  | .collPlanClear i => { s with plans := tDel s.plans i.toNat, lastSteps := tDel s.lastSteps i.toNat }
  | .collJobSet j g norm t => { s with jobs := tSet s.jobs j.toNat ⟨g.setWidth 6, norm, t⟩ }
  | .memClassSet _ first count a =>
    { s with classMap := (List.range count.toNat).foldl (fun m i => putBit m (first.toNat + i) a) s.classMap }
  | .linkRouteSet first count addr =>
    { s with routes := (List.range count.toNat).foldl (fun t i => tSet t (first.toNat + i) (routeAt s.mem (addr.toNat + 8 * i))) s.routes }
  | .linkIdSet d h => { s with deviceId := d, hopLimit := h, idValid := true }
  | .sclConfig x => { s with scl := { s.scl with sharedBase := x.sharedBase, sharedEnable := x.sharedEnable } }
  | .eventMaskSet codes => s.setPart c.target { s.part c.target with mask := codes }
  | .guestFwSet x =>
    { s with guest := { s.guest with
        enable := x.enable, partition := x.partition, windows := x.windows, queues := x.queues, rate := x.rate
        mode := if s.guest.mode = 0b11 then 0b11 else if x.enable then 0b10 else 0b01 } }
  | .exportSet x =>
    s.setPart x.partition { s.part x.partition with exportRing := if x.kind = .none then none else some (newRing x) }
  | .batchSet x => (s.setPart c.target { s.part c.target with batch := some x }).settlePages c.target
  | _ => s

/-- The settings that a region's update unit holds (R199, R201, R207). -/
def updSet (r : RegionId) (c : DraftCmd) (s : State) : State :=
  let u := (s.region r).upd
  match c.setting with
  | .updTaskSet q i x => if q = r then s.setUpd r { u with tasks := tSet u.tasks i.toNat { x with valid := true } } else s
  | .updTaskClear q i => if q = r then s.setUpd r { u with tasks := tDel u.tasks i.toNat } else s
  | .updParamSet q i w => if q = r then s.setUpd r { u with params := tSet u.params i.toNat w } else s
  | .updSchedSet q first segs =>
    if q = r then s.setUpd r { u with scheds := (enum segs).foldl (fun t e => tSet t (first.toNat + e.1) e.2) u.scheds } else s
  | _ => s

/-- The settings of the telemetry island: report intervals and power limits (R361, Table 16.9). -/
def telemetrySet (c : DraftCmd) (s : State) : State :=
  match c.setting with
  | .reportSet x =>
    let p := c.target
    s.setPart p { s.part p with
      report := x, reportSeq := 0, sampledMeas := s.sumBlocks p (·.grpMeas), sampledEst := s.sumBlocks p (·.grpEst)
      sampledGroups := s.sumBlocks p (·.grpCount), memSampled := (s.part p).memBytes, linkSampled := (s.part p).linkBytes
      memAllSampled := s.hub.memAll, linkAllSampled := s.hub.linkAll }
  | .powerLimitSet x => { s with power := { s.power with limit := x } }
  | _ => s

/-! ## When a command is refused -/

/-- No program of the partition runs: it is DRAINED, or CREATED (R91, R234). -/
def Partition.drained (x : Partition) : Bool := x.mode == pDrained || x.mode == pCreated
/-- Two number ranges share a number. -/
def numOverlap (a n b m : Nat) : Bool := decide (0 < n) && decide (0 < m) && decide (a < b + m) && decide (b < a + n)
/-- A quad of a mask belongs to another partition, or is fenced. -/
def State.quadsTaken (s : State) (own : Option PartId) (mask : BitVec 64) : Bool :=
  (List.range 64).any fun i => mask.getLsbD i &&
    ((s.region (BitVec.ofNat 2 (i / 16))).fencedQuads.getLsbD (i % 16) || s.parts_.any fun p => some p != own && (s.part p).quads.getLsbD i)
/-- A block of the mask has its landing ring. -/
def State.ringsOf_ (s : State) (mask : BitVec 64) : List (Nat × Ring) :=
  s.rings.filter fun e => mask.getLsbD (QAddr.blockId (BitVec.ofNat 32 (e.1 * 2))).quadBit
/-- Something of the partition remains: a Stage Table entry, plan, task or ring (Table 14.2). -/
def State.partUsed (s : State) (p : PartId) : Bool :=
  s.stages.any (fun e => e.2.valid && e.2.partition == p) || s.plans.any (fun e => e.2.valid && e.2.partition == p)
    || allRegions.any (fun r => (s.region r).upd.tasks.any fun e => e.2.valid && e.2.partition == p)
    || !(s.ringsOf_ (s.part p).quads).isEmpty
/-- The quads that the partition's valid Stage Table entries name. -/
def State.stageQuads (s : State) (p : PartId) : BitVec 64 :=
  s.stages.foldl (fun m e => if e.2.valid && e.2.partition == p then m ||| e.2.quadMask else m) 0
/-- Bytes of a task's moment area (R200). -/
def momBytes (t : Sys2Proof.TaskEntry) (v : VEntry) : Nat := momArrays t * momSize t * v.words
/-- The memory that a task names (R199, R200, R209). -/
def State.taskAreas (s : State) (t : Sys2Proof.TaskEntry) : List Range :=
  let v := ventryAt s.mem t.ventry.toNat
  [⟨t.ventry.toNat, ventryBytes⟩, ⟨t.momA.toNat, momBytes t v⟩, ⟨t.momB.toNat, momBytes t v⟩, ⟨t.scaleList.toNat, 8 * t.scaleCount.toNat⟩]
    ++ (if t.opt = 0b11#2 then [⟨t.prog.toNat, 256⟩] else [])
/-- The shard list of a stage and the version-table entries that it names. -/
def State.stageAreas (s : State) (e : StageEntry) : List Range :=
  ⟨e.shardList.toNat, 8 * e.shardCount.toNat⟩ :: (s.shardAddrs e).map fun a => ⟨a, ventryBytes⟩
/-- What a partition's memory must keep holding: shard lists, version tables, rings and task areas (Table 14.2). -/
def State.partAreas (s : State) (p : PartId) : List Range :=
  (s.stages.filter fun e => e.2.valid && e.2.partition == p).flatMap (fun e => s.stageAreas e.2)
    ++ (s.ringsOf_ (s.part p).quads).map (fun e => Range.mk e.2.base (e.2.segs * mib))
    ++ allRegions.flatMap (fun r => ((s.region r).upd.tasks.filter fun e => e.2.valid && e.2.partition == p).flatMap fun e => s.taskAreas e.2)
    ++ (match (s.part p).exportRing with | some g => [Range.mk g.cfg.base.toNat g.cfg.size.toNat] | none => [])
/-- A range inside the partition's memory. -/
def Partition.holds (x : Partition) (r : Range) : Bool := decide (r.len = 0) || x.hasStacked r.base r.len || x.hasCompanion r.base r.len

/-- PART_CREATE (Table 14.2, Table 17.8). -/
def partCreateRejects (s : State) (x : PartCreateP) : List (Bool × BitVec 8) :=
  [(decide (x.index.toNat = 0) || decide (31 < x.index.toNat), rsField), (s.partExists (x.index.setWidth 5) || s.lc.state == 3#4, rsState),
   (x.checkMode == 0b11#2, rsField), (s.quadsTaken none x.quadMask, rsState),
   (decide (x.seqBase.toNat % 256 ≠ 0) || decide (x.seqCount.toNat % 256 ≠ 0) || decide (65536 < x.seqBase.toNat + x.seqCount.toNat), rsField),
   (s.parts_.any fun p => numOverlap x.seqBase.toNat x.seqCount.toNat (s.part p).seqBase (s.part p).seqCount, rsField),
   (decide (65535 < x.coalesce.toNat), rsField)]
/-- PART_DESTROY. -/
def partDestroyRejects (s : State) (i : BitVec 8) : List (Bool × BitVec 8) :=
  let x := s.part (i.setWidth 5)
  [(decide (i.toNat = 0) || decide (31 < i.toNat), rsField),
   (!(x.mode == pCreated || x.mode == pDrained || x.mode == pFailed), rsState), (s.partUsed (i.setWidth 5), rsState)]
/-- PART_QUADS. -/
def partQuadsRejects (s : State) (i : BitVec 8) (m : BitVec 64) : List (Bool × BitVec 8) :=
  let p : PartId := i.setWidth 5
  let x := s.part p
  [(decide (31 < i.toNat), rsField), (!(x.mode == pCreated || x.mode == pDrained), rsState), (s.quadsTaken (some p) (m &&& ~~~x.quads), rsState),
   (s.stageQuads p &&& (x.quads &&& ~~~m) != 0#64, rsState)]
/-- PART_MEM (R352). -/
def partMemRejects (s : State) (x : PartMemP) : List (Bool × BitVec 8) :=
  let p : PartId := x.index.setWidth 5
  let st := (x.stacked.map gibRange).filter fun r => decide (0 < r.len)
  let co := (x.companion.map fun r => Range.mk r.1 r.2).filter fun r => decide (0 < r.len)
  let y : Partition := { s.part p with stacked := st, companion := co }
  [(decide (31 < x.index.toNat), rsField), (!s.partExists p, rsState),
   (decide (16 < x.stacked.length) || decide (4 < x.companion.length) || st.any (fun r => !inStacked r.base r.len)
     || co.any (fun r => !inCompanion r.base r.len || decide (r.base % 0x200000 ≠ 0) || decide (r.len % 0x200000 ≠ 0)), rsField),
   (st.any fun r => s.parts_.any fun q => q != p && (s.part q).stacked.any fun t => overlaps r.base r.len t.base t.len, rsField),
   ((s.partAreas p).any fun r => (s.part p).holds r && !y.holds r, rsState)]
/-- REPORT_SET. -/
def reportRejects (s : State) (p : PartId) (x : ReportP) : List (Bool × BitVec 8) :=
  [(decide (10000 < x.intervalMs.toNat) || decide (256 < x.estimates.length), rsField), (decide (x.ring.toNat % 4096 ≠ 0), rsField),
   (!(s.part p).hasCompanion x.ring.toNat 4096, rsAddress)]

/-- A shard of the list that another valid stage lists as well (Table 6.11). -/
def State.shardShared (s : State) (k : Nat) (e : StageEntry) : Bool :=
  s.stages.any fun o => decide (o.1 ≠ k) && o.2.valid && (s.shardAddrs o.2).any fun a => (s.shardAddrs e).contains a
/-- A shard whose difference area is too small for S differences (R162). -/
def State.diffSmall (s : State) (e : StageEntry) : Bool :=
  (s.shardAddrs e).any fun a =>
    let v := ventryAt s.mem a
    decide (v.diffSize * 8 < e.staleS.toNat * v.shardBytes * 9)
/-- STAGE_SET. -/
def stageSetRejects (s : State) (x : StageP) : List (Bool × BitVec 8) :=
  let k : StageId := x.index.setWidth 6
  let old := s.stage k
  let e := old.put x 0
  [(decide (63 < x.index.toNat), rsField), (x.quadMask &&& ~~~(s.part x.partition).quads != 0#64, rsField), (x.fwdQ == x.bwdQ, rsField),
   (x.budget == 0#16, rsField), (decide (x.mbPerStep.toNat = 0) || decide (4096 < x.mbPerStep.toNat), rsField),
   (s.shardShared k.toNat e, rsState), (s.diffSmall e, rsField),
   (old.valid && old.inflight != 0#16 && (old.quadMask != x.quadMask || old.fwdQ != x.fwdQ || old.bwdQ != x.bwdQ
     || old.shardList != x.shardList || old.shardCount != x.shardCount), rsState)]
/-- The lane blocks that a QUEUE_CONFIG names. -/
def State.queueLanes (s : State) (x : QueueConfigP) : List (Nat × BlockId) :=
  let q := s.part x.partition
  (enum (laneBlocks q.quads (q.checkMode == 0b10#2))).filter fun e => x.blockMask.getLsbD e.1
/-- A depth changes in a partition that is not drained (R140). -/
def State.depthsMove (s : State) (x : QueueConfigP) : Bool :=
  !(s.part x.partition).drained &&
    (s.queueLanes x).any fun e => (enum x.depths).any fun d => ((s.block e.2).queue (BitVec.ofNat 7 d.1)).depth ≠ d.2
/-- QUEUE_CONFIG (R91, R115, R125, Table 5.5). -/
def queueRejects (s : State) (x : QueueConfigP) : List (Bool × BitVec 8) :=
  let named := s.queueLanes x
  let area := 64 * x.depths.sum
  [(decide (x.depths.length ≠ 128) || x.depths.any (fun d => decide (d % 4 ≠ 0) || decide (d < 4) || decide (64 < d)), rsField),
   (decide (1 < x.stallPolicy.toNat) || decide (x.stallLimitLog2.toNat < 16) || decide (28 < x.stallLimitLog2.toNat)
     || decide (x.lossLimitMs.toNat < 10) || decide (2000 < x.lossLimitMs.toNat), rsField),
   (named.any fun e => decide (0x100000 < (if (s.block e.2).workSize then 0x100000 else 0x80000) + area), rsField),
   (!s.partExists x.partition, rsState), (s.depthsMove x, rsState)]

/-- A plan of the state uses a group. -/
def State.groupUsed (s : State) (g : Nat) : Bool := s.plans.any fun e => e.2.valid && decide (e.2.group.toNat = g)
/-- An instance of a plan is queued or running. -/
def State.planBusy (s : State) (k : Nat) : Bool := s.instances.any fun i => decide (i.plan.toNat = k)
/-- COLL_GROUP_SET (R178). -/
def groupRejects (s : State) (i : BitVec 8) (list : Addr) (count : BitVec 13) : List (Bool × BitVec 8) :=
  [(decide (63 < i.toNat) || decide (count.toNat = 0) || decide (4096 < count.toNat), rsField),
   (!inStacked list.toNat (2 * count.toNat), rsAddress), (decide (s.ownCount list count.toNat ≠ 1), rsField), (s.groupUsed i.toNat, rsState)]
/-- COLL_PLAN_SET. -/
def planRejects (s : State) (i : BitVec 16) (x : PlanEntry) : List (Bool × BitVec 8) :=
  [(decide (1023 < i.toNat) || decide (x.elements.toNat % 256 ≠ 0) || decide (3 < x.op.toNat) || decide (1 < x.alg.toNat)
     || !tValid x.tOut, rsField),
   (!s.partHas x.partition x.owner, rsField), (x.alg == 0b01#2 && !x.sums, rsField), (x.rbSrc && !x.sums, rsField), (s.planBusy i.toNat, rsState)]
/-- COLL_JOB_SET (R195). -/
def jobRejects (s : State) (p : PartId) (g : BitVec 8) (norm : Addr) (t : BitVec 32) : List (Bool × BitVec 8) :=
  [(decide (63 < g.toNat) || !(s.group (g.setWidth 6)).valid, rsField), (decide (t.toNat < 1000) || decide (3600000 < t.toNat), rsField),
   (!(s.part p).hasStacked norm.toNat 16, rsAddress)]
/-- A task of a region is queued or running. -/
def State.taskBusy (s : State) (r : RegionId) (k : Nat) : Bool :=
  let u := (s.region r).upd
  u.queue.any (fun q => decide (q.1 = k)) || u.held.any (fun q => decide (q.1 = k)) || (match u.run with | some x => decide (x.task = k) | none => false)
/-- A moment area in the partition's stacked memory, or in the companion window. -/
def State.momPlaced (s : State) (p : PartId) (r : Range) : Bool :=
  decide (r.len = 0) || (s.part p).hasStacked r.base r.len || inCompanion r.base r.len
/-- UPD_TASK_SET. -/
def taskRejects (s : State) (r : RegionId) (i : BitVec 8) (x : Sys2Proof.TaskEntry) : List (Bool × BitVec 8) :=
  let v := ventryAt s.mem x.ventry.toNat
  let a : Range := ⟨x.momA.toNat, momBytes x v⟩
  let b : Range := ⟨x.momB.toNat, momBytes x v⟩
  [(decide (x.gFirst.toNat % 256 ≠ 0), rsField), (decide ((s.plan x.plan).elements.toNat < x.gFirst.toNat + v.words), rsField),
   (inCompanion a.base a.len != inCompanion b.base b.len || overlaps a.base a.len b.base b.len
     || decide (a.base % 64 ≠ 0) || decide (b.base % 64 ≠ 0), rsField),
   (!s.momPlaced x.partition a || !s.momPlaced x.partition b, rsAddress), (decide (64 < x.scaleCount.toNat), rsField), (s.taskBusy r i.toNat, rsState)]
/-- Strictly ascending first steps (R207). -/
def ascending : List SchedSeg → Bool
  | a :: b :: r => decide (a.firstStep.toNat < b.firstStep.toNat) && ascending (b :: r)
  | _ => true
/-- Segments selected by a parameter block: count 1 to 64, within the 64 (Table 8.11). -/
def schedSelOk (w : BitVec 512) : Bool :=
  decide (1 ≤ paramSchedCount w) && decide (paramSchedCount w ≤ 64) && decide (paramSchedFirst w + paramSchedCount w ≤ 64)

/-- EXPORT_SET (R213). -/
def exportRejects (s : State) (x : ExportP) : List (Bool × BitVec 8) :=
  let p := s.part x.partition
  let n := x.size.toNat
  if x.kind = .none then [(!s.partExists x.partition, rsState)]
  else
    [(!s.partExists x.partition, rsState), (!(List.range 11).any (fun k => decide (n = 2 ^ (24 + k))) || decide (x.base.toNat % n ≠ 0), rsField),
     (if x.kind = .host then !p.hasCompanion x.base.toNat n else !p.hasStacked x.base.toNat n, rsAddress),
     (x.kind == .host && (!s.scl.sharedEnable || decide (x.indexBlock.toNat % 64 ≠ 0)
       || !inRange x.indexBlock.toNat 64 s.scl.sharedBase.toNat 0x4000000), rsAddress),
     (x.kind == .package && (decide (x.spanMax.toNat < mib) || decide (64 * mib < x.spanMax.toNat)), rsField)]
/-- MEM_CLASS_SET (R234). -/
def classRejects (s : State) (p : PartId) (first count : BitVec 16) : List (Bool × BitVec 8) :=
  [(decide (432 < first.toNat + count.toNat), rsField),
   (!(List.range count.toNat).all fun i => (s.part p).hasStacked ((first.toNat + i) * 2 ^ 30) (2 ^ 30), rsAddress), (!(s.part p).drained, rsState)]

/-- Set bits of a lane mask. -/
def lanesIn {n : Nat} (m : BitVec n) : Nat := (maskBits m).length
/-- LINK_CONFIG (Table 10.10). -/
def linkRejects (x : LinkConfigP) : List (Bool × BitVec 8) :=
  [(decide (x.graceMs.toNat = 0) || decide (1000 < x.graceMs.toNat) || decide (x.ackTimeoutUs.toNat < 2) || decide (64 < x.ackTimeoutUs.toNat)
     || !([1, 2, 4, 8].contains (lanesIn x.laneMask)), rsField)]
/-- LINK_ROUTE_SET (Table 10.9). -/
def routeRejects (s : State) (first : BitVec 16) (count : BitVec 32) (addr : Addr) : List (Bool × BitVec 8) :=
  [(decide (65536 < first.toNat + count.toNat), rsField), (!inStacked addr.toNat (8 * count.toNat), rsAddress),
   ((List.range count.toNat).any fun i => decide (2 ^ 49 ≤ memNat s.mem (addr.toNat + 8 * i) 8), rsField)]
/-- Every GiB that a range touches is of class W. -/
def State.allClassW (s : State) (a n : Nat) : Bool := !(List.range 432).any fun g => s.classMap.getLsbD g && overlaps a n (g * 2 ^ 30) (2 ^ 30)
/-- SCL_CONFIG (R305, Table 12.9). -/
def sclRejects (s : State) (x : SclConfigP) : List (Bool × BitVec 8) :=
  let a := x.sharedBase.toNat
  [((x.heartbeatMs != 0#16 && (decide (x.heartbeatMs.toNat < 10) || decide (60000 < x.heartbeatMs.toNat))) || decide (x.graceMs.toNat = 0)
     || decide (1000 < x.graceMs.toNat) || decide (x.ackTimeoutUs.toNat < 2) || decide (64 < x.ackTimeoutUs.toNat), rsField),
   (x.sharedEnable && (decide (a % 0x4000000 ≠ 0) || !inStacked a 0x4000000 || !s.allClassW a 0x4000000), rsField),
   (x.sharedBase != s.scl.sharedBase && !s.ringsOpen, rsState)]
/-- EVENT_MASK_SET (R374). -/
def maskRejects (codes : List (BitVec 16)) : List (Bool × BitVec 8) :=
  [(decide (64 < codes.length) || codes.any fun c => !(greyCodes.contains c || amberCodes.contains c), rsField)]
/-- POWER_LIMIT_SET (Table 16.9). -/
def powerRejects (x : PowerLimitP) : List (Bool × BitVec 8) :=
  [(decide (x.wdtMs.toNat < 100) || decide (60000 < x.wdtMs.toNat) || x.memFloor == 0b11#2 || decide (x.sustainedW.toNat < 600)
     || decide (2800 < x.sustainedW.toNat), rsField)]
/-- A window in the partition's stacked memory or in the companion window (R288). -/
def windowOk (p : Partition) (w : FwWindow) : Bool :=
  let a := w.base64k.toNat * 65536
  let n := (w.end64k.toNat - w.base64k.toNat) * 65536
  !w.valid || p.hasStacked a n || inCompanion a n
/-- A queue-list entry that names blocks of the partition on the own device (R288). -/
def State.fwQueueOk (s : State) (p : PartId) (q : FwQueue) : Bool :=
  let hits : List BlockId := allBlocks.filter fun b =>
    let d := QAddr.mk s.deviceId b 0 false &&& 0xFFFFFF00#32
    d &&& (q.mask &&& 0xFFFFFF00#32) == q.required &&& (q.mask &&& 0xFFFFFF00#32)
  !q.valid || (q.mask.extractLsb' 16 16 == 0xFFFF#16 && QAddr.device q.required == s.deviceId && !hits.isEmpty && hits.all (fun b => s.partHas p b)
    && QAddr.device q.replyTo == s.deviceId && s.partHas p (QAddr.blockId q.replyTo))
/-- The conditions of R288. -/
def State.fwOk (s : State) (x : GuestFwP) : Bool := x.windows.all (windowOk (s.part x.partition)) && x.queues.all (s.fwQueueOk x.partition)
/-- GUEST_FW_SET. -/
def guestRejects (s : State) (x : GuestFwP) : List (Bool × BitVec 8) :=
  [(!s.guest.present, rsState), (decide (16 < x.windows.length) || decide (32 < x.queues.length) || decide (1024 < x.rate.descRate.toNat)
     || decide (x.rate.burstKib.toNat < 4) || decide (x.rate.byteRate.toNat = 0) || decide (1024 < x.rate.byteRate.toNat), rsField),
   (!s.fwOk x, rsAddress)]
/-- BATCH_SET (Table 14.6). -/
def batchRejects (s : State) (p : PartId) (x : BatchP) : List (Bool × BitVec 8) :=
  [(decide (x.listDepth.toNat = 0) || decide (4 < x.listDepth.toNat) || decide (x.maxEntries.toNat = 0) || decide (4096 < x.maxEntries.toNat)
     || decide (x.batchMin.toNat = 0) || decide (x.batchMax.toNat < x.batchMin.toNat) || decide (65535 < x.batchMax.toNat)
     || decide (x.deadlineUs.toNat < 10) || decide (100000 < x.deadlineUs.toNat) || x.chunk == 0#32
     || !(List.range 9).any (fun k => decide (x.pageTokens.toNat = 2 ^ (4 + k))), rsField),
   (!(s.part p).hasStacked x.listBase.toNat (x.listDepth.toNat * (64 + 32 * x.maxEntries.toNat)), rsAddress)]

/-- Why a command is refused, against the settings that it meets (R331, R337). -/
def settingReject (s : State) (c : DraftCmd) : Option (BitVec 8) :=
  firstReason <| match c.setting with
    | .partCreate x => partCreateRejects s x
    | .partDestroy i => partDestroyRejects s i
    | .partQuads i m => partQuadsRejects s i m
    | .partMem x => partMemRejects s x
    | .partCheckMode m => [(m == 0b11#2, rsField)]
    | .reportSet x => reportRejects s c.target x
    | .stageSet x => stageSetRejects s x
    | .stageClear i => [(decide (63 < i.toNat), rsField), ((s.stage (i.setWidth 6)).inflight != 0#16 || (s.stage (i.setWidth 6)).admitEn, rsState)]
    | .queueConfig x => queueRejects s x
    | .collGroupSet i l n => groupRejects s i l n
    | .collPlanSet i x => planRejects s i x
    | .collPlanClear i => [(decide (1023 < i.toNat), rsField), (s.planBusy i.toNat, rsState)]
    | .collJobSet _ g a t => jobRejects s c.target g a t
    | .updTaskSet r i x => taskRejects s r i x
    | .updTaskClear r i => [(s.taskBusy r i.toNat, rsState)]
    | .updParamSet _ _ w => [(!schedSelOk w, rsField)]
    | .updSchedSet _ first segs =>
      [(decide (64 < first.toNat + segs.length) || !ascending segs || segs.any (fun g => g.kind == 0b11#2 || g.length == 0#30), rsField)]
    | .memClassSet p f n _ => classRejects s p f n
    | .linkConfig x => linkRejects x
    | .linkRouteSet f n a => routeRejects s f n a
    | .linkIdSet _ h => [(h == 0#8, rsField)]
    | .sclConfig x => sclRejects s x
    | .eventMaskSet cs => maskRejects cs
    | .powerLimitSet x => powerRejects x
    | .guestFwSet x => guestRejects s x
    | .exportSet x => exportRejects s x
    | .batchSet x => batchRejects s c.target x

/-! ## The draft as a whole (R338, Table 13.14) -/

/-- One command of a draft applied to every setting that the checks look at. -/
def draftStep (s : State) (c : DraftCmd) : State := allRegions.foldl (fun t r => updSet r c t) (telemetrySet c (hubSet c s))
/-- The settings as a draft would leave them. -/
def draftState (s : State) (cs : List DraftCmd) : State := cs.foldl draftStep s

/-- A stage entry's quads, shard lists, queues and rings lie in its partition. -/
def State.stageOk (s : State) (e : StageEntry) : Bool :=
  let p := s.part e.partition
  let local_ (q : QAddr) : Bool := QAddr.device q != s.deviceId || s.partHas e.partition (QAddr.blockId q)
  !e.valid || (s.partExists e.partition && (e.quadMask &&& ~~~p.quads) == 0#64
    && (s.stageAreas e).all (fun r => decide (r.len = 0) || p.hasStacked r.base r.len) && (e.first || local_ e.pred) && (e.last || local_ e.succ)
    && (s.ringsOf_ e.quadMask).all fun g => p.hasStacked g.2.base (g.2.segs * mib))
/-- The stage entries of a partition are right. -/
def State.stagesOk (s : State) (p : PartId) : Bool := s.stages.all fun e => e.2.partition != p || s.stageOk e.2
/-- Partitions share neither quads nor stacked memory. -/
def State.partsApart (s : State) : Bool :=
  s.parts_.all fun p => s.parts_.all fun q => p == q || ((s.part p).quads &&& (s.part q).quads == 0#64
    && (s.part p).stacked.all fun r => (s.part q).stacked.all fun t => !overlaps r.base r.len t.base t.len)
/-- No entry names a partition that does not exist. -/
def State.noOrphans (s : State) : Bool :=
  s.stages.all (fun e => !e.2.valid || s.partExists e.2.partition) && s.plans.all (fun e => !e.2.valid || s.partExists e.2.partition)
    && allRegions.all (fun r => (s.region r).upd.tasks.all fun e => !e.2.valid || s.partExists e.2.partition)
    && (!s.guest.enable || s.partExists s.guest.partition)
/-- A plan names a valid group and stage. -/
def State.planOk (s : State) (x : PlanEntry) : Bool :=
  !x.valid || ((s.group x.group).valid && (s.stage x.stage).valid && s.partExists x.partition)
/-- A task names a valid plan, stage, parameter block and segments. -/
def State.taskOk (s : State) (r : RegionId) (x : Sys2Proof.TaskEntry) : Bool :=
  let w := s.taskParam r x
  !x.valid || ((s.plan x.plan).valid && (s.stage x.stage).valid && schedSelOk w && ascending (s.taskSegs r w) && s.partExists x.partition)
/-- Every plan and every task is right. -/
def State.plansOk (s : State) : Bool := s.plans.all fun e => s.planOk e.2
def State.tasksOk (s : State) : Bool := allRegions.all fun r => (s.region r).upd.tasks.all fun e => s.taskOk r e.2

/-- The conditions of Table 13.14 that a command is involved in, on the settings as the whole draft leaves them. -/
def crossReject (t : State) (c : DraftCmd) : Option (BitVec 8) :=
  firstReason <| match c.setting with
    | .partCreate _ => [(!t.partsApart, rsField)]
    | .partDestroy _ => [(!t.noOrphans, rsState)]
    | .partQuads i _ => [(!t.partsApart, rsField), (!t.stagesOk (i.setWidth 5), rsField)]
    | .partMem x => [(!t.partsApart, rsField), (!t.stagesOk (x.index.setWidth 5), rsAddress)]
    | .stageSet x => [(!t.stageOk (t.stage (x.index.setWidth 6)), rsField)]
    | .collGroupSet _ _ _ => [(!t.plansOk, rsField)]
    | .collPlanSet i _ => [(!t.planOk (t.plan (i.setWidth 10)), rsField)]
    | .collPlanClear _ => [(!t.tasksOk, rsField)]
    | .updTaskSet r i x => [(!t.taskOk r (t.task r i.toNat), rsField), ((taskRejects t r i x).any fun e => e.1 && e.2 == rsAddress, rsAddress)]
    | .updParamSet _ _ _ => [(!t.tasksOk, rsField)]
    | .updSchedSet _ _ _ => [(!t.tasksOk, rsField)]
    | .memClassSet p f n _ => classRejects t p f n
    | .exportSet x => exportRejects t x
    | .guestFwSet x => guestRejects t x
    | .queueConfig x => [(t.depthsMove x, rsState)]
    | .linkRouteSet _ _ _ => [(!t.idValid, rsState)]
    | .linkIdSet _ _ => [(!t.idValid, rsState)]
    | _ => []

/-- A conflict: draft index, reason, the object's number (R336). -/
abbrev Conflict := Nat × BitVec 8 × Nat
/-- Each command's own conditions, with the commands before it applied. -/
def ownConflicts : Nat → State → List DraftCmd → List Conflict
  | _, _, [] => []
  | i, s, c :: r =>
    (match settingReject s c with | some k => [(i, k, (draftKey c.setting).2)] | none => []) ++ ownConflicts (i + 1) (draftStep s c) r
/-- The conflicts of a draft, at most 64 (R336, R338). -/
def State.conflicts (s : State) (cs : List DraftCmd) : List Conflict :=
  let t := draftState s cs
  (ownConflicts 0 s cs ++ (enum cs).filterMap fun e => (crossReject t e.2).map fun k => (e.1, k, (draftKey e.2.setting).2)).take 64
/-- The four bytes of a conflict. -/
def conflictBytes (c : Conflict) : List Byte := BitVec.ofNat 8 c.1 :: c.2.1 :: leBytes 2 c.2.2

/-! ## Staging (R337) -/

/-- The draft with a command put in: in the place of one that names the same object, else at its end. -/
def putDraft (cs : List DraftCmd) (c : DraftCmd) : List DraftCmd :=
  if cs.any (fun d => draftKey d.setting == draftKey c.setting) then
    updFirst (fun d => draftKey d.setting == draftKey c.setting) (fun _ => c) cs
  else cs ++ [c]
/-- A draft beyond 255 commands or 64 KiB of payload. -/
def draftBig (cs : List DraftCmd) : Bool := decide (255 < cs.length) || decide (65536 < (cs.map (·.bytes)).sum)

/-- A D command: checked against the settings as the draft would change them, then staged (R337). -/
def State.stageCmd (s : State) (op : BitVec 16) (sc : State → Scope) (d : DraftSetting) : Res :=
  s.cmd op (sc s) fun s r =>
    let x := s.part r.part
    let c : DraftCmd := ⟨op, r.hdr.tag, r.hdr.payloadBytes, scopeTarget r (sc s), d⟩
    let others := x.draft.filter fun e => draftKey e.setting != draftKey d
    match settingReject (draftState s others) c with
    | some k => s.rejected r k
    | none =>
      let cs := putDraft x.draft c
      if draftBig cs then s.rejected r rsDraftFull
      else (s.setPart r.part { x with draft := cs }).cmdDone r cdOk 0 flStaged []

/-! ## The D commands of Table 13.13 -/

/-- PART_CREATE (R353). -/
def execPartCreate (x : PartCreateP) (s : State) : Res := s.stageCmd 0x0101 (fun _ => .package) (.partCreate x)
/-- PART_DESTROY (R353). -/
def execPartDestroy (index : BitVec 8) (s : State) : Res := s.stageCmd 0x0102 (fun _ => .package) (.partDestroy index)
/-- PART_QUADS (R353). -/
def execPartQuads (index : BitVec 8) (mask : BitVec 64) (s : State) : Res := s.stageCmd 0x0103 (fun _ => .package) (.partQuads index mask)
/-- PART_MEM (R353). -/
def execPartMem (x : PartMemP) (s : State) : Res := s.stageCmd 0x0104 (fun _ => .package) (.partMem x)
/-- PART_CHECK_MODE (R380). -/
def execPartCheckMode (mode : BitVec 2) (s : State) : Res := s.stageCmd 0x0105 (fun _ => .own) (.partCheckMode mode)
/-- REPORT_SET (R360). -/
def execReportSet (x : ReportP) (s : State) : Res := s.stageCmd 0x010E (fun _ => .own) (.reportSet x)
/-- STAGE_SET (R167). -/
def execStageSet (x : StageP) (s : State) : Res := s.stageCmd 0x0201 (fun _ => .names x.partition) (.stageSet x)
/-- STAGE_CLEAR (R167). -/
def execStageClear (index : BitVec 8) (s : State) : Res := s.stageCmd 0x0202 (fun t => t.stageScope index) (.stageClear index)
/-- QUEUE_CONFIG (R140). -/
def execQueueConfig (x : QueueConfigP) (s : State) : Res := s.stageCmd 0x0230 (fun _ => .names x.partition) (.queueConfig x)
/-- COLL_GROUP_SET (R196). -/
def execCollGroupSet (index : BitVec 8) (list : Addr) (count : BitVec 13) (s : State) : Res :=
  s.stageCmd 0x0240 (fun _ => .own) (.collGroupSet index list count)
/-- COLL_PLAN_SET (R196). -/
def execCollPlanSet (index : BitVec 16) (x : PlanEntry) (s : State) : Res := s.stageCmd 0x0241 (fun _ => .names x.partition) (.collPlanSet index x)
/-- COLL_PLAN_CLEAR (R196). -/
def execCollPlanClear (index : BitVec 16) (s : State) : Res := s.stageCmd 0x0242 (fun t => t.planScope index) (.collPlanClear index)
/-- COLL_JOB_SET (R196). -/
def execCollJobSet (job : BitVec 16) (group : BitVec 8) (norm : Addr) (timeoutMs : BitVec 32) (s : State) : Res :=
  s.stageCmd 0x0243 (fun _ => .own) (.collJobSet job group norm timeoutMs)
/-- UPD_TASK_SET (R221). -/
def execUpdTaskSet (region : RegionId) (index : BitVec 8) (x : Sys2Proof.TaskEntry) (s : State) : Res :=
  s.stageCmd 0x0250 (fun _ => .names x.partition) (.updTaskSet region index x)
/-- UPD_TASK_CLEAR (R221). -/
def execUpdTaskClear (region : RegionId) (index : BitVec 8) (s : State) : Res :=
  s.stageCmd 0x0251 (fun t => t.taskScope region index.toNat) (.updTaskClear region index)
/-- UPD_PARAM_SET (R221). -/
def execUpdParamSet (region : RegionId) (index : BitVec 5) (words : BitVec 512) (s : State) : Res :=
  s.stageCmd 0x0252 (fun _ => .own) (.updParamSet region index words)
/-- UPD_SCHED_SET (R207). -/
def execUpdSchedSet (region : RegionId) (first : BitVec 8) (segs : List SchedSeg) (s : State) : Res :=
  s.stageCmd 0x0253 (fun _ => .own) (.updSchedSet region first segs)
/-- MEM_CLASS_SET (R234). -/
def execMemClassSet (partition : PartId) (first count : BitVec 16) (classA : Bool) (s : State) : Res :=
  s.stageCmd 0x0301 (fun _ => .names partition) (.memClassSet partition first count classA)
/-- LINK_CONFIG (R269). -/
def execLinkConfig (x : LinkConfigP) (s : State) : Res := s.stageCmd 0x0401 (fun _ => .package) (.linkConfig x)
/-- LINK_ROUTE_SET (R264). -/
def execLinkRouteSet (first : BitVec 16) (count : BitVec 32) (addr : Addr) (s : State) : Res :=
  s.stageCmd 0x0402 (fun _ => .package) (.linkRouteSet first count addr)
/-- LINK_ID_SET (R271). -/
def execLinkIdSet (device : BitVec 16) (hopLimit : BitVec 8) (s : State) : Res := s.stageCmd 0x0403 (fun _ => .package) (.linkIdSet device hopLimit)
/-- SCL_CONFIG (R318). -/
def execSclConfig (x : SclConfigP) (s : State) : Res := s.stageCmd 0x0410 (fun _ => .package) (.sclConfig x)
/-- EVENT_MASK_SET (R374). -/
def execEventMaskSet (codes : List (BitVec 16)) (s : State) : Res := s.stageCmd 0x0602 (fun _ => .own) (.eventMaskSet codes)
/-- POWER_LIMIT_SET (R419). -/
def execPowerLimitSet (x : PowerLimitP) (s : State) : Res := s.stageCmd 0x0604 (fun _ => .package) (.powerLimitSet x)
/-- GUEST_FW_SET (R288). -/
def execGuestFwSet (x : GuestFwP) (s : State) : Res := s.stageCmd 0x0710 (fun _ => .package) (.guestFwSet x)
/-- EXPORT_SET (R213). -/
def execExportSet (x : ExportP) (s : State) : Res := s.stageCmd 0x0801 (fun _ => .names x.partition) (.exportSet x)
/-- BATCH_SET (R366). -/
def execBatchSet (x : BatchP) (s : State) : Res := s.stageCmd 0x0905 (fun _ => .own) (.batchSet x)

/-! ## CHECK and the draft's own commands (R336, R338) -/

/-- CHECK (R338). -/
def execCheck (s : State) : Res :=
  s.cmd 0x0501 .own fun s r =>
    match s.conflicts (s.part r.part).draft with
    | [] => s.ok r
    | cs => s.cmdDone r cdRejected rsDraftCheck 0 (byteWords (cs.flatMap conflictBytes))
/-- DRAFT_DISCARD. -/
def execDraftDiscard (s : State) : Res :=
  s.cmd 0x0503 .own fun s r => (s.setPart r.part { s.part r.part with draft := [] }).ok r
/-- DRAFT_QUERY: opcode, tag and draft index of each command. -/
def execDraftQuery (s : State) : Res :=
  s.cmd 0x0504 .own fun s r =>
    s.okData r ((enum (s.part r.part).draft).map fun e => BitVec.ofNat 16 e.1 ++ e.2.tag ++ e.2.opcode)

end Sys2Proof.Machine
end

