-- ==== Sys2Proof/Machine/Permutes.lean ====
section
/-! DEFINITION. Re-sharding by permutation, and COL_TIMEOUT (R193 to R195). -/

namespace Sys2Proof.Machine

/-! ## Entries and staging (R193, R194) -/

/-- A permutation entry in 32 bytes (Table 7.9). -/
def permEntry (w : BitVec 256) : PermEntry :=
  { length := w.extractLsb' 224 32, cycle := w.extractLsb' 192 32, pos := w.extractLsb' 176 16, last := w.getLsbD 175
    dstDev := w.extractLsb' 112 16, dstAddr := w.extractLsb' 64 48, srcDev := w.extractLsb' 48 16, srcAddr := w.extractLsb' 0 48 }
/-- The entries of a table in memory. -/
def permTable (m : Memory) (a n : Nat) : List PermEntry := (List.range n).map fun i => permEntry (BitVec.ofNat 256 (memNat m (a + 32 * i) 32))

/-- The staging address of a cycle. -/
def Permute.stagingOf (x : Permute) (cycle : BitVec 32) : Option Nat := (x.alloc.find? fun a => a.1 == cycle.toNat).map (·.2.1)
/-- An address in the staging area where a length fits beside what is allocated. -/
def Permute.place (x : Permute) (n : Nat) : Option Nat :=
  (x.staging :: x.alloc.map fun a => a.2.1 + a.2.2).find? fun a =>
    inRange a n x.staging x.stagingSize && !x.alloc.any fun b => overlaps a n b.2.1 b.2.2
/-- An entry put in its place by cycle number. -/
def insertCycle (e : PermEntry) : List PermEntry → List PermEntry
  | [] => [e]
  | x :: r => if e.cycle.toNat ≤ x.cycle.toNat then e :: x :: r else x :: insertCycle e r
/-- The cycles whose a(1) lies here and that still need staging, in ascending number. -/
def Permute.waitingCycles (x : Permute) (dev : BitVec 16) : List PermEntry :=
  ((x.entries.filter fun e => e.1.srcDev == dev && e.1.pos == 1#16 && !e.1.last && decide (e.2 ≠ .landed)
      && (x.stagingOf e.1.cycle).isNone).map (·.1)).foldr insertCycle []
/-- Staging taken by the waiting cycles in turn, until one does not fit. -/
def takeStaging : List PermEntry → Permute → Permute
  | [], x => x
  | e :: r, x =>
    match x.place e.length.toNat with
    | some a => takeStaging r { x with alloc := x.alloc ++ [(e.cycle.toNat, a, e.length.toNat)] }
    | none => x

/-- Entries whose move may start when staging is there: the last of a cycle (R194 step 1). -/
def Permute.startable (x : Permute) (dev : BitVec 16) (e : PermEntry × PermState) : Bool :=
  e.1.srcDev == dev && e.1.last && e.1.pos != 1#16 && decide (e.2 = .waiting) && (e.1.dstDev != dev || (x.stagingOf e.1.cycle).isSome)
/-- An entry's state changed. -/
def Permute.mark (x : Permute) (e : PermEntry) (v : PermState) : Permute :=
  { x with entries := x.entries.map fun f => if f.1 = e then (f.1, v) else f }
/-- Another of the permutations in progress. -/
def Permute.other (x y : Permute) : Bool := !(y.partition == x.partition && y.cmd == x.cmd)
/-- The entries of this package have moved, and its staging copies are made (R194). -/
def Permute.ownDone (x : Permute) (dev : BitVec 16) : Bool := (x.entries.filter fun e => e.1.srcDev == dev).all fun e => decide (e.2 = .landed)
/-- A permutation put back; its command completes once its own entries and staging copies are done, and it is forgotten once what was on its way here has come too (R194). -/
def State.storePermute (s : State) (x : Permute) : State :=
  let rest := s.permutes.filter x.other
  let ended := x.ownDone s.deviceId
  let t : State := { s with permutes := if ended && x.entries.all (fun e => decide (e.2 = .landed)) then rest else rest ++ [{ x with done := ended }] }
  if ended && !x.done then t.endBg x.partition opPermute fun u c => if x.failed then u.failed c rsState else u.ok c else t

/-- A cycle fails: every location of it is undefined, other cycles keep their result (R195). -/
def State.failCycle (s : State) (x : Permute) (cycle : BitVec 32) : State × Permute :=
  let es := x.entries.filter fun e => e.1.cycle == cycle
  let s1 := es.foldl (fun t e =>
    let u := if e.1.srcDev = s.deviceId then t.undefine e.1.srcAddr.toNat e.1.length.toNat else t
    if e.1.dstDev = s.deviceId ∧ e.1.last = false then u.undefine e.1.dstAddr.toNat e.1.length.toNat else u) s
  let s2 := (s1.count fun h => { h with colInstFail := inc h.colInstFail }).raise x.partition evPermuteFailed 3
    (unitHub 0x06 x.partition.toNat) (det 168 cycle.toNat)
  (s2, { x with
    entries := x.entries.map fun e => if e.1.cycle = cycle then (e.1, .landed) else e
    alloc := x.alloc.filter fun b => b.1 ≠ cycle.toNat, early := x.early.filter fun b => b.1 ≠ cycle.toNat, failed := true })
/-- The move of an entry starts: its data is read, and leaves where it goes to another package; an error status fails its cycle (R194, R195). -/
def State.startMove (s : State) (x : Permute) (e : PermEntry) : State × Permute :=
  let r := s.readRanges [⟨e.srcAddr.toNat, e.length.toNat⟩]
  if r.2.isSome then r.1.failCycle x e.cycle
  else (if e.dstDev = s.deviceId then r.1 else r.1.ship (.move e.cycle e.pos e.dstDev (memRead s.mem e.srcAddr.toNat e.length.toNat)), x.mark e (.moving 0))

/-- Bytes of an entry written at their place; the entry has landed with its last byte. -/
def State.landMove (s : State) (x : Permute) (e : PermEntry × PermState) (at_ : Nat) (data : List Byte) : State × Permute :=
  let got := (match e.2 with | .moving g => g | _ => 0) + data.length
  (s.put at_ data, x.mark e.1 (if e.1.length.toNat ≤ got then .landed else .moving got))
/-- Data that waited for its cycle's staging is written there. -/
def State.landEarly (s : State) (x : Permute) : State × Permute :=
  x.early.foldl (fun t d =>
    match t.2.stagingOf (BitVec.ofNat 32 d.1), t.2.entries.find? fun e => e.1.cycle.toNat == d.1 && e.1.last with
    | some a, some e =>
      let r := t.1.landMove t.2 e (a + d.2.1) d.2.2
      (r.1, { r.2 with early := delFirst (fun f => decide (f = d)) r.2.early })
    | _, _ => t) (s, x)
/-- A permutation's staging and last entries brought up to date, and the permutation put back. -/
def State.putPermute (s : State) (x : Permute) : State :=
  let a := s.landEarly (takeStaging (x.waitingCycles s.deviceId) x)
  let r := (a.2.entries.filter (a.2.startable s.deviceId)).foldl (fun t e => t.1.startMove t.2 e.1) a
  r.1.storePermute r.2

/-! ## Moves (R194) -/

/-- The permutation with an entry of this package at (cycle, pos), and that entry. -/
def State.findMove (s : State) (cycle : BitVec 32) (pos : BitVec 16) : Option (Permute × PermEntry × PermState) :=
  let here (e : PermEntry × PermState) : Bool := e.1.srcDev == s.deviceId && e.1.cycle == cycle && e.1.pos == pos
  match s.permutes.find? fun x => x.entries.any here with
  | some x => (x.entries.find? here).map fun e => (x, e.1, e.2)
  | none => none

/-- Where a local entry's data goes: its staging copy, or a(j + 1). -/
def Permute.target (x : Permute) (e : PermEntry) : Nat := if e.last then (x.stagingOf e.cycle).getD 0 else e.dstAddr.toNat
/-- a(pos) is vacated: the next entry down starts here, or its package is told (R194 step 2). -/
def State.vacated (s : State) (x : Permute) (cycle : BitVec 32) (pos : BitVec 16) : State × Permute :=
  match x.entries.find? fun e => e.1.srcDev == s.deviceId && e.1.cycle == cycle && e.1.pos + 1 == pos && decide (e.2 = .waiting) with
  | some e => s.startMove x e.1
  | none =>
    match x.entries.find? fun e => e.1.dstDev == s.deviceId && e.1.cycle == cycle && e.1.pos + 1 == pos with
    | some e => (s.ship (.vacate cycle pos e.1.srcDev), x)
    | none => (s, x)
/-- a(1) is vacated: staging is copied into it and given up (R194 step 3). -/
def State.copyBack (s : State) (x : Permute) (e : PermEntry) : State × Permute :=
  match x.stagingOf e.cycle with
  | none => (s, x)
  | some a =>
    let r := s.readRanges [⟨a, e.length.toNat⟩]
    if r.2.isSome then r.1.failCycle x e.cycle
    else
      ((r.1.put e.srcAddr.toNat (memRead s.mem a e.length.toNat)).count fun h =>
        { h with colPermuteMoves := inc h.colPermuteMoves }, { x with alloc := x.alloc.filter fun b => b.1 ≠ e.cycle.toNat })

/-- PERMUTE_MOVE_LANDED (R194). -/
def execPermuteMoveLanded (cycle : BitVec 32) (pos : BitVec 16) (s : State) : Res :=
  match s.findMove cycle pos with
  | some (x, e, .moving _) =>
    let s1 := if e.dstDev = s.deviceId then s.put (x.target e) (memRead s.mem e.srcAddr.toNat e.length.toNat) else s
    let s2 := s1.count fun h => { h with colPermuteMoves := inc h.colPermuteMoves }
    let y := x.mark e .landed
    let r := if e.pos = 1#16 then s2.copyBack y e else s2.vacated y cycle pos
    .next (r.1.putPermute r.2)
  | _ => .next s

/-- VACATE_NOTICE (R194 step 2): a(pos) is vacated on another package. -/
def execVacateNotice (cycle : BitVec 32) (pos : BitVec 16) (s : State) : Res :=
  match s.findMove cycle (pos - 1) with
  | some (x, e, .waiting) =>
    when_ (!e.last) s <| let r := (s.unship (isControl 0x06 cycle e.dstDev)).startMove x e; r.1.putPermute r.2
  | _ => .next s

/-- The entry of the highest position among some. -/
def highestEntry (es : List (PermEntry × PermState)) : Option (PermEntry × PermState) :=
  es.foldl (fun a e =>
    match a with
    | none => some e
    | some b => if b.1.pos.toNat < e.1.pos.toNat then some e else some b) none
/-- Bytes of a cycle that arrive from a device (Table 10.5, kind 0x07): written at the location of the cycle's entry that is on its way here; a last entry's bytes wait for the cycle's staging. -/
def State.moveData (s : State) (cycle : BitVec 32) (dev : BitVec 16) (off : Nat) (data : List Byte) : State :=
  let from_ (e : PermEntry × PermState) : Bool :=
    e.1.cycle == cycle && e.1.srcDev == dev && e.1.dstDev == s.deviceId && decide (e.2 ≠ .landed)
  match s.permutes.find? fun x => x.entries.any from_ with
  | none => s
  | some x =>
    match highestEntry (x.entries.filter from_) with
    | none => s
    | some e =>
      if e.1.last && (x.stagingOf cycle).isNone then s.putPermute { x with early := x.early ++ [(cycle.toNat, off, data)] }
      else let r := s.landMove x e (x.target e.1 + off) data; r.1.putPermute r.2

/-! ## PERMUTE_START (R193) -/

/-- PERMUTE_START (R193, R194): a background command. -/
def execPermuteStart (group : BitVec 8) (table : Addr) (count : BitVec 32) (staging : Addr) (size : BitVec 64) (s : State) : Res :=
  s.cmd opPermute .own fun s r =>
    let p := s.part r.part
    let es := permTable s.mem table.toNat count.toNat
    let mine := es.filter fun e => e.srcDev == s.deviceId
    let busy := s.stages.any fun e => e.2.valid && e.2.partition == r.part && (e.2.inflight != 0#16 || e.2.admitEn || !e.2.pinned)
    s.unless r (firstReason [(decide (63 < group.toNat), rsField), (!(s.group (group.setWidth 6)).valid, rsState),
        (busy, rsState), (!p.hasStacked table.toNat (32 * count.toNat), rsAddress),
        (mine.any fun e => !p.hasStacked e.srcAddr.toNat e.length.toNat, rsAddress),
        (decide (0 < size.toNat) && !p.hasStacked staging.toNat size.toNat, rsAddress),
        (mine.any fun e => e.pos == 1#16 && !e.last && decide (size.toNat < e.length.toNat), rsField)]) <|
      let entries := (es.filter fun e => e.srcDev == s.deviceId || e.dstDev == s.deviceId).map fun e =>
        (e, if e.pos = 1#16 ∧ e.last = true then PermState.landed else PermState.waiting)
      (s.startBg r).putPermute ⟨r.part, r.seq, false, entries, false, staging.toNat, size.toNat, [], []⟩

/-! ## Timeouts (R195) -/

/-- COL_TIMEOUT_EXPIRY (R195). -/
def execColTimeoutExpiry (w : ColWait) (s : State) : Res :=
  match w with
  | .instance_ plan =>
    match s.instance_ plan with
    | some i => .next (s.failInstance i causeTimeout true)
    | none => .next s
  | .scalar use group =>
    match s.scalars.find? fun x => decide (x.use = use) && x.group == group && x.result.isNone with
    | some x => .next (s.failScalar x)
    | none => .next s
  | .permute cycle =>
    match s.permutes.find? fun x => x.entries.any fun e => e.1.cycle == cycle && e.1.srcDev == s.deviceId && decide (e.2 ≠ .landed) with
    | some x => let r := s.failCycle x cycle; .next (r.1.putPermute r.2)
    | none => .next s

end Sys2Proof.Machine
end

