-- ==== Sys2Proof/Machine/Session.lean ====
section
/-! DEFINITION. Sceolink sessions as the link layer meets them: HELD, ATTACHED again, and the flush with its consequences (R309 to R315, Table 12.7). -/

namespace Sys2Proof.Machine

/-- The Sceolink state changed. -/
def State.setScl (s : State) (f : SclState → SclState) : State := { s with scl := f s.scl }

/-! ## HELD and ATTACHED (Table 12.6) -/

/-- A Hitch on Sceolink holds an attached session. -/
def State.holdSession (s : State) (heartbeat : Bool) : State :=
  if s.scl.mode = .attached then s.setScl fun t => { t with mode := .held, heldByHeartbeat := heartbeat } else s

/-- A line of a record (R315). -/
def isRecord : CompanionUse → Bool
  | .record _ _ => true
  | _ => false
/-- Records of a partition whose writes were not acknowledged are written again, then those that wait (R315). -/
def State.rewriteRecords (s : State) (p : PartId) : State :=
  let x := s.part p
  let s1 := match x.records with
    | r :: _ => if r.writing then s.emitRecord p r.record else s
    | [] => s
  let s2 := match x.errs.find? (·.writing) with
    | some e => s1.emitEvent p e.record
    | none => s1.setPart p { s1.part p with mbox := x.mbox.map fun (m : List Byte × Bool) => (m.1, false) }
  (s2.pumpCpl p).pumpEvt p

/-- The session is ATTACHED: waiting requests leave in order, and records are written (R311, R314, R315). -/
def State.attach (s : State) : State :=
  let ws := s.scl.waiting
  let s1 := s.setScl fun t => { t with
    mode := .attached, heldByHeartbeat := false, attachErr := false, waiting := [], reqs := t.reqs.filter fun r => !isRecord r.use }
  let s2 := ws.foldl (fun t r => t.sendReq r) s1
  s2.parts_.foldl (fun t p => t.rewriteRecords p) s2

/-- A link that resumes brings back a session that its Hitch held (R311). -/
def State.resumeSession (s : State) : State := if s.scl.mode = .held && !s.scl.heldByHeartbeat then s.attach else s

/-! ## The flush (R311, R312) -/

/-- Records that the host's copy of an export ring has not confirmed: treated as not written, to be covered by a LOSS record (R312). -/
def State.exportLost (s : State) (p : PartId) : State :=
  let x := s.part p
  match x.exportRing with
  | some g =>
    match g.spanRecs.filter fun r => !r.pad with
    | [] => s
    | r :: rs =>
      let n := rs.length + 1
      (s.setPart p { x with exportRing := some ({ g with spanRecs := [] }.lose r.seq n) }).count fun h => { h with exportDrop := satAdd h.exportDrop n }
  | none => s

/-- A group's write to companion memory was lost: the committed group that waits for its read-back completes FAILED_COMPANION, or the open group takes the drop mark (R108, R312). -/
def State.writeLost (s : State) (b : BlockId) (committed : Bool) : State :=
  let x := s.block b
  if committed then
    match x.cpls.find? waitsBack with
    | some c => s.endReadback b c false
    | none => s
  else s.setBlock b (x.mapGroup fun g => if g.companion then { g with dropMark := true } else g)

/-- A read of a block lost to the flush: the open group is killed and reruns; in the open state it is reissued once attached (R312). -/
def State.readLost (s : State) (r : CompanionReq) (b : BlockId) (ofGroup : Bool) : State :=
  if (s.block b).group.isSome && ofGroup then s.killGroup b .companion
  else s.setScl fun t => { t with waiting := t.waiting ++ [r] }

/-- One discarded or unanswered request; `later` are those sent after it (Table 12.7). -/
def State.flushReq (s : State) (r : CompanionReq) (later : List CompanionReq) : State :=
  match r.use with
  | .fetch b => s.readLost r b true
  | .vec b => s.readLost r b true
  | .ld b => s.readLost r b true
  | .fence b => s.readLost r b (match (s.block b).fetchQ with | .fence og true :: _ => og | _ => true)
  | .commitReadback b => s.writeLost b true
  | .write b =>
    (s.setScl fun t => { t with wrDrop := inc t.wrDrop }).writeLost b (later.any fun q => q.use == .commitReadback b)
  | .update q => s.interruptUpdate q .slowTier
  | .exportBlock p => s.exportLost p
  | .record _ _ => s
  | .bootImage => s
  | _ => s.setScl fun t => { t with waiting := t.waiting ++ [r] }
/-- Every such request, in the order in which they were sent. -/
def State.flushReqs (s : State) : List CompanionReq → State
  | [] => s
  | r :: rest => (s.flushReq r rest).flushReqs rest

/-- A request that is a block's posted write. -/
def isBlockWrite (r : CompanionReq) : Bool := match r.use with | .write _ => true | _ => false
/-- A device access to the shared window that waited for a snoop: it proceeds with every line at I. -/
def State.endSnoop (s : State) (w : SnoopWait) : State :=
  match w.write with
  | some bs => s.put w.line.toNat bs
  | none => s

/-- The Sceolink island flushes (R311): the requests, the line cache, the directory; DETACHED, and SCEOLINK_FLUSH. -/
def State.sessionFlush (s : State) (flits : Nat) : State :=
  let rs := s.scl.reqs
  let s1 := (s.setScl fun t => { t with reqs := [], flushFlits := satAdd t.flushFlits flits }).flushReqs rs
  let lines := s1.scl.lineCache.length
  let s2 := s1.scl.snoops.foldl (fun t w => t.endSnoop w) s1
  let s3 := s2.setScl fun t => { t with
    lineCache := [], lineInval := satAdd t.lineInval lines, directory := [], snoops := [], mode := .detached, heldByHeartbeat := false
    detaching := false, remountTx := none, remountRx := none }
  s3.raiseAll s3.parts_ evSceolinkFlush 5 (unitLink sclLink)
    (det 168 flits ||| det 200 (rs.filter isBlockWrite).length ||| det 232 lines)

end Sys2Proof.Machine
end

