-- ==== Sys2Proof/Machine/Links.lean ====
section
/-! DEFINITION. The link layer of the fabric ports and of Sceolink: flits, replay, credits, training, Hitch and flush, lane width and Remount, routing, forwarding and the delivery of packets (R240 to R273, R293 to R296). -/

namespace Sys2Proof.Machine

/-! ## Sequence numbers and acks (R247 to R250) -/

/-- Sequence a is newer than b (R247). -/
def seqNewer (a b : BitVec 12) : Bool := decide (1 ≤ (a - b).toNat) && decide ((a - b).toNat ≤ 2047)
/-- Entries of the replay buffer (R247). -/
def replayDepth : Nat := 2048
/-- The counters of a link changed. -/
def LinkState.tally (x : LinkState) (f : LinkCounters → LinkCounters) : LinkState := { x with counters := f x.counters }
/-- The ack fields of the next flit (R249). -/
def LinkState.ackFields (x : LinkState) : FlitAck := ⟨x.accepted, x.rxExpected - 1, x.replayReq⟩
/-- Entries up to a sequence number are acknowledged (R250); a value older than the acknowledged point is ignored. -/
def LinkState.ackTo (x : LinkState) (seq : BitVec 12) : LinkState :=
  if seqNewer seq x.acked then
    { x with
      acked := seq, replaysInRow := 0
      replayBuf := x.replayBuf.filter fun f => seqNewer f.seq seq
      replaying := x.replaying.filter fun f => seqNewer f.seq seq
      sentPackets := x.sentPackets.filter fun p => seqNewer p.1 seq }
  else x
/-- The ack fields of a received flit taken in. -/
def LinkState.takeAck (x : LinkState) (a : FlitAck) : LinkState := if a.ackValid then x.ackTo a.ackSeq else x
/-- Replay is asked of the partner in the next flit, once for each rx_expected (R251). -/
def LinkState.askReplay (x : LinkState) : LinkState :=
  if x.replayReqFor = some x.rxExpected then x else { x with replayReq := true, replayReqFor := some x.rxExpected }

/-- The link runs: it is up, or its width is changing. -/
def LinkState.isUp (x : LinkState) : Bool := decide (x.mode = .up) || decide (x.mode = .widthChange)
/-- A lane exchange is open at this end (R261, R262). -/
def LinkState.changing (x : LinkState) : Bool := x.exchange.isSome || x.wide.isSome || x.txSwitch.isSome || x.rxSwitch.isSome
/-- An open lane exchange abandoned and counted (R261, R262). -/
def LinkState.abandonWidth (x : LinkState) : LinkState :=
  if x.changing then
    { x with exchange := none, wide := none, txSwitch := none, rxSwitch := none }.tally fun c => { c with widthFail := inc c.widthFail }
  else x
/-- A DETACH waited for every packet in the Sceolink island to be sent and acknowledged (R310). -/
def State.settleDetach (s : State) : State :=
  let x := s.link sclLink
  if s.scl.detaching && x.replayBuf.isEmpty && x.txBypass.isEmpty && x.txRequest.isEmpty && x.txResponse.isEmpty then
    s.setScl fun t => { t with mode := .detached, detaching := false }
  else s
/-- A link's new state after an ack, and what waited for it. -/
def State.putAcked (s : State) (l : LinkId) (x : LinkState) : State :=
  if l = sclLink then (s.setLink l x).settleDetach else s.setLink l x
/-- A link command for a link that the package has. -/
def onLink (l : LinkId) (s : State) (r : State → LinkState → Res) : Res := whenHere (decide (l ≤ 24)) s (r s (s.link l))

/-! ## LINK flits (R243, R249) -/

/-- The CREDIT record that a LINK flit carries (R249, R254). -/
def LinkState.creditRec (x : LinkState) : CreditRec := ⟨x.rxExpected - 1, x.accepted, x.freedByp, x.freedReq, x.freedRsp⟩
/-- A flit that carries ack fields leaves: replay_req and the accepted flits are reported. -/
def LinkState.acksSent (x : LinkState) : LinkState := { x with replayReq := false, unacked := 0 }
/-- A LINK flit with some records; on a link that is up a CREDIT record goes first. -/
def State.sendRecs (s : State) (l : LinkId) (rs : List LinkRec) : State :=
  let x := s.link l
  let y := if x.isUp then { x.acksSent with linkDue := false, creditDue := false } else x.acksSent
  (s.setLink l y).emit (.flit l (linkFlit (if x.isUp then .credit x.creditRec :: rs else rs) x.ackFields))

/-! ## The flush (R259) -/

/-- The channel of a packet (Table 10.5). -/
def packetChannel (p : Packet) : Channel :=
  match p.kind with
  | 0x01#8 =>
    let d := descOfBits (BitVec.ofNat 512 (leNat p.data))
    if d.rider then .bypass else if QAddr.cls d.dst then .response else .request
  | 0x04#8 | 0x05#8 | 0x07#8 => .request
  | _ => .bypass
/-- Flits of a queued packet that have come. -/
def TxPacket.flits (p : TxPacket) : Nat := flitsReady p.total p.packet.data.length
/-- What a flush discards: packets not wholly acknowledged, waiting and held (R259). -/
def LinkState.discarded (x : LinkState) : List TxPacket :=
  x.sentPackets.map (·.2) ++ x.txBypass ++ x.txResponse ++ x.txRequest ++ x.heldPackets
/-- Flits that waiting packets fill: three Bypass packets share one. -/
def waitingFlits (ps : List TxPacket) : Nat :=
  let byp := ps.filter fun p => packetChannel p.packet == .bypass
  ceilDiv byp.length 3 + ((ps.filter fun p => packetChannel p.packet != .bypass).map TxPacket.flits).sum
/-- The flits that a flush discards: held entries, and the packets' flits that have not been sent. -/
def LinkState.discardedFlits (x : LinkState) : Nat :=
  x.replayBuf.length + ceilDiv x.txBypass.length 3 + ((x.txRequest.map TxPacket.flits).sum - x.sendingReq)
    + ((x.txResponse.map TxPacket.flits).sum - x.sendingRsp) + waitingFlits x.heldPackets

/-- The hub engine that owns a discarded packet acts on the loss (R259 step 3, Tables 5.7 and 7.10): the sending link engine cancels its Relay, an instance, scalar all-reduce or cycle fails. A landing credit or a cancel that is lost has no rule of its own: its receiver meets LOSS_LIMIT. -/
def State.noticeLoss (s : State) (i : InFlight) : State :=
  let relay (num : BitVec 32) : State := match s.relays.find? fun r => r.num == num with | some r => s.cancelRelay r | none => s
  let instance_ (planId : BitVec 16) (step : BitVec 32) : State :=
    match s.instances.find? fun i => (s.plan i.plan).planId == planId && i.step == step with
    | some i => s.failInstance i causeLost true
    | none => s
  let cycle (c : BitVec 32) : State :=
    match s.permutes.find? fun x => x.entries.any fun e => e.1.cycle == c with
    | some x => let r := s.failCycle x c; r.1.putPermute r.2
    | none => s
  match i with
  | .relayOpen o => relay o.num
  | .segment _ id _ _ => if id.dev = s.deviceId then relay id.num else s
  | .piece planId step _ _ => instance_ planId step
  | .pieceCredit planId step _ => instance_ planId step
  | .abortNotice planId step => instance_ planId step
  | .scalar group use _ _ _ =>
    match s.scalars.find? fun x => x.group == group && decide (x.use = use) && x.result.isNone with
    | some x => s.failScalar x
    | none => s
  | .vacate c _ _ => cycle c
  | .move c _ _ _ => cycle c
  | _ => s

/-- A link without what it held for its partner. -/
def LinkState.emptied (x : LinkState) : LinkState :=
  { x with
    replayBuf := [], replaying := [], sentPackets := [], txBypass := [], txRequest := [], txResponse := [], heldPackets := []
    sendingReq := 0, sendingRsp := 0, rspInRow := 0, replaysInRow := 0 }

/-- A flush (R259). -/
def State.flushLink (s : State) (l : LinkId) : State :=
  let x := s.link l
  let n := x.discardedFlits
  let y := { x.emptied with mode := .flushed, fresh := true, quick := false, trained := false, resuming := false, graceOver := false }.tally
    fun c => { c with flushFlits := satAdd c.flushFlits n }
  let s1 := (s.setLink l y).raiseAll s.parts_ evHitchFlush (levelLink l) (unitLink l)
    (det 168 x.partnerDev.toNat ||| det 184 x.partnerPort.toNat ||| det 200 n)
  if l = sclLink then s1 else (x.discarded.filterMap (·.entry)).foldl (fun t i => t.noticeLoss i) s1

/-- The grace of a held link is over: it flushes, and with Sceolink's link the session that it held (R258, R259, R311). -/
def State.graceFlush (s : State) (l : LinkId) : State :=
  if l = sclLink ∧ s.scl.mode = .held then (s.flushLink l).sessionFlush (s.link l).discardedFlits else s.flushLink l

/-! ## Hitch and replay (R251, R252, R257) -/

/-- Training is lost once more on a link that is held or in training; one whose grace has ended then flushes (R257, R259). -/
def State.loseTraining (s : State) (l : LinkId) : State :=
  let x := s.link l
  if x.trained || x.resuming then
    let s1 := s.setLink l { x with trained := false, resuming := false }
    if x.graceOver then s1.graceFlush l else s1
  else s
/-- A Hitch (R257): held, counted, raised, a quick retrain started; an open width change is abandoned (R262). On Sceolink the session is held, and Remount exchanges end. -/
def State.hitch (s : State) (l : LinkId) : State :=
  let x := s.link l
  if !x.isUp then s.loseTraining l
  else
    let y := { x.abandonWidth with
      mode := .held, quick := true, quickRetrains := 1, trained := false, resuming := false, graceOver := false, replaying := [] }
    let s1 := (s.setLink l (y.tally fun c => { c with hitch := inc c.hitch })).raiseAll s.parts_ evHitch (levelLink l) (unitLink l) 0
    if l = sclLink then (s1.setScl fun t => { t with remountTx := none, remountRx := none }).holdSession false else s1

/-- A replay starts from the oldest held entry; the eighth in a row without progress forces a retrain, after which the run is counted anew (R251, R252; log 122). -/
def State.replay (s : State) (l : LinkId) : State :=
  let x := s.link l
  let y := { x with replaying := x.replayBuf, replayFrom := x.acked, replaysInRow := x.replaysInRow + 1 }.tally fun c => { c with replay := inc c.replay }
  if 8 ≤ y.replaysInRow then (s.setLink l ({ y with replaysInRow := 0 }.tally fun c => { c with retrain := inc c.retrain })).hitch l else s.setLink l y

/-- The ack fields and replay_req of a received flit (R250, R251): a replay starts at the acknowledged point unless one from that point is in progress. -/
def State.takeFlitAck (s : State) (l : LinkId) (a : FlitAck) : State :=
  let x := (s.link l).takeAck a
  let s1 := s.putAcked l x
  let inProgress := !x.replaying.isEmpty && x.replayFrom == x.acked
  if a.replayReq && x.isUp && a.ackSeq == x.acked && !x.replayBuf.isEmpty && !inProgress then s1.replay l else s1

/-- REPLAY_REQUEST (R251): the ack fields of a flit with replay_req. -/
def execReplayRequest (l : LinkId) (ack : FlitAck) (s : State) : Res :=
  onLink l s fun s _ => .next (s.takeFlitAck l { ack with replayReq := true })

/-- ACK_TIMEOUT_EXPIRY (R251, R272): the timer ran from an acknowledged point; it has no effect where that point has moved on. -/
def execAckTimeoutExpiry (timer : AckTimer) (s : State) : Res :=
  onLink timer.link s fun s x => when_ (x.isUp && !x.replayBuf.isEmpty && x.acked == timer.point) s (s.replay timer.link)

/-- ACK_FLIT_DUE (R249): 256 port cycles with an accepted flit or a freed credit not yet reported; a LINK flit is required, and goes first (R255). -/
def execAckFlitDue (l : LinkId) (s : State) : Res :=
  onLink l s fun s x => when_ (x.isUp && (decide (0 < x.unacked) || x.creditDue)) s (s.setLink l { x with linkDue := true })

/-! ## Receiving (R248) -/

/-- The flit written into its channel's buffer. -/
def LinkState.store (x : LinkState) (f : Flit) : LinkState :=
  match f.vc with
  | .bypass => { x with rxBypass := x.rxBypass ++ [f] }
  | .request => { x with rxRequest := x.rxRequest ++ [f] }
  | .response => { x with rxResponse := x.rxResponse ++ [f] }

/-- A DATA flit that passed its checks (R248); 64 of them not yet reported require a LINK flit (R249). -/
def LinkState.accept (x : LinkState) (f : Flit) : LinkState :=
  if f.seq = x.rxExpected then
    ({ x with
      rxExpected := x.rxExpected + 1, accepted := true, replayReqFor := none, unacked := x.unacked + 1
      linkDue := x.linkDue || decide (64 ≤ x.unacked + 1) }.store f).tally fun c => { c with rxFlits := inc c.rxFlits }
  else if (x.rxExpected - f.seq).toNat ≤ 2048 then x.tally fun c => { c with dupDrop := inc c.dupDrop }
  else x.askReplay.tally fun c => { c with seqGap := inc c.seqGap }

/-- A CREDIT record (R250, R254). -/
def State.takeCredit (s : State) (l : LinkId) (c : CreditRec) : State :=
  let x := s.link l
  if x.isUp then
    let y := if c.consValid then x.ackTo c.consSeq else x
    s.putAcked l { y with gotByp := c.bypTotal, gotReq := c.reqTotal, gotRsp := c.rspTotal }
  else s

/-! ## Sending (R244, R253 to R255) -/

/-- Advertised credits of a channel (Table 10.6). -/
def creditSize : Channel → Nat
  | .bypass => 128
  | .request => 1280
  | .response => 640
/-- Available credit of a channel (R254). -/
def LinkState.creditLeft (x : LinkState) (vc : Channel) : Nat :=
  let left (got sent : BitVec 16) : Nat := (BitVec.ofNat 16 (creditSize vc) + got - sent).toNat
  match vc with
  | .bypass => left x.gotByp x.sentByp
  | .request => left x.gotReq x.sentReq
  | .response => left x.gotRsp x.sentRsp
/-- The next flit of the packet at a queue's head has come. -/
def headReady (ps : List TxPacket) (sent : Nat) : Bool :=
  match ps with
  | p :: _ => decide (sent < p.flits)
  | [] => false
/-- A flit of a channel is ready: a packet that has begun goes on; no new one begins before a SWITCH (R262). -/
def LinkState.ready (x : LinkState) (vc : Channel) : Bool :=
  decide (0 < x.creditLeft vc) && match vc with
    | .bypass => !x.txBypass.isEmpty
    | .request => headReady x.txRequest x.sendingReq && (decide (0 < x.sendingReq) || x.txSwitch.isNone)
    | .response => headReady x.txResponse x.sendingRsp && (decide (0 < x.sendingRsp) || x.txSwitch.isNone)

/-- A new DATA flit leaves and is held in the replay buffer (R247). -/
def State.sendNew (s : State) (l : LinkId) (x : LinkState) (vc : Channel) (first : Bool) (npkt : Nat) (payload : List Byte) : State :=
  let f : Flit := ⟨vc, first, BitVec.ofNat 2 npkt, x.txNext, payload⟩
  let y := { x.acksSent with txNext := x.txNext + 1, replayBuf := x.replayBuf ++ [f] }.tally fun c => { c with txFlits := inc c.txFlits }
  (s.setLink l y).emit (.flit l (dataFlit f x.ackFields))

/-- A width switch is over at this end when both directions have moved (R262). -/
def LinkState.settleWidth (x : LinkState) : LinkState :=
  if x.mode = .widthChange ∧ x.wide = none ∧ x.txSwitch = none ∧ x.rxSwitch = none then
    { x with mode := .up, exchange := match x.exchange with | some e => if e.accepted then none else some e | none => none }.tally
      fun c => { c with widthChange := inc c.widthChange }
  else x
/-- A width change is asked for, once no other exchange is open and the link is up (R261). -/
def State.askWidth (s : State) (l : LinkId) (mask : BitVec 8) (cause : BitVec 4) : State :=
  let x := s.link l
  if x.isUp && !x.changing then
    let r : LaneRec := ⟨x.nextCmd, mask, cause⟩
    (s.setLink l { x with exchange := some ⟨r, 0, false⟩, nextCmd := x.nextCmd + 1, wanted := none }).sendRecs l [.lane 1 r]
  else s.setLink l { x with wanted := some (mask, cause) }
/-- A link that is up asks for the width that waited, or for the lanes that its configuration wants, where they differ from those in use and none of them is excluded (R263, R269). -/
def State.wantWidth (s : State) (l : LinkId) : State :=
  let x := s.link l
  if !x.isUp || x.changing then s
  else match x.wanted with
    | some (m, c) => s.askWidth l m c
    | none =>
      if l != sclLink && x.lanesActive != x.cfg.laneMask && (x.cfg.laneMask &&& x.excluded.setWidth 8) == 0#8 then s.askWidth l x.cfg.laneMask 0 else s
/-- Physical lanes of a direction that have trained, have not failed, and serve no logical lane in use (Table 12.10, R294). -/
def spareLanes (good : BitVec 18) (map : BitVec 80) (width : Nat) : List Nat :=
  (List.range 18).filter fun i => good.getLsbD i && !(List.range width).any fun k => (map.extractLsb' (5 * k) 5).toNat == i
/-- The spares of a Sceolink direction. -/
def State.spareLanesOf (s : State) : SclDir → List Nat
  | .tx => spareLanes ((s.link sclLink).trainedLanes &&& ~~~s.scl.failedTx) s.scl.mapTx s.scl.widthTx.toNat
  | .rx => spareLanes ((s.link sclLink).trainedLanes &&& ~~~(s.link sclLink).excluded) s.scl.mapRx s.scl.widthRx.toNat
/-- SCL_STATUS's spares after a training, a Remount or a change of width (Table 12.10). -/
def State.countSpares (s : State) : State :=
  s.setScl fun t => { t with sparesTx := BitVec.ofNat 5 (s.spareLanesOf .tx).length, sparesRx := BitVec.ofNat 5 (s.spareLanesOf .rx).length }
/-- The transmitter takes its new lane set: a mask on a port; on Sceolink the width of its direction (R296). -/
def State.setTxLanes (s : State) (l : LinkId) (m : BitVec 8) : State :=
  if l = sclLink then (s.setScl fun t => { t with widthTx := m }).countSpares else s.setLink l { s.link l with lanesActive := m }
/-- The sender's own SWITCH, in a LINK flit; every later flit uses the new lane set (R262). -/
def State.sendSwitch (s : State) (l : LinkId) (x : LinkState) (r : LaneRec) : State :=
  (((s.setLink l { x with txSwitch := none }.settleWidth).sendRecs l [.lane 4 r]).setTxLanes l r.mask).wantWidth l
/-- A SWITCH may go: no partial packet is left, and on Sceolink no Remount of the direction is open (R262, R296). -/
def State.switchDue (s : State) (l : LinkId) (x : LinkState) : Bool :=
  x.txSwitch.isSome && decide (x.sendingReq = 0) && decide (x.sendingRsp = 0) && (l != sclLink || s.scl.remountTx.isNone)

/-- The Response flit before the Request flit, except after 16 in a row (R255). -/
def LinkState.responseFirst (x : LinkState) : Bool := x.ready .response && !(decide (16 ≤ x.rspInRow) && x.ready .request)
/-- A packet whose last flit leaves is kept until that flit is acknowledged. -/
def LinkState.sentLast (x : LinkState) (p : TxPacket) : List (BitVec 12 × TxPacket) := x.sentPackets ++ [(x.txNext, p)]

/-! ## Training, resume and fresh start (R256 to R260) -/

/-- The link's island has left reset (Table 16.3, orders 4 and 9), and its domain is on (Table 16.6). -/
def State.linkReleased (s : State) (l : LinkId) : Bool :=
  if l = sclLink then s.reset_.released.contains .sceolink
  else s.reset_.released.contains (.port l) && !s.power.domainsOff.getLsbD (75 + l / 6)

/-- SIGNAL_DETECT (R256). -/
def execSignalDetect (l : LinkId) (s : State) : Res :=
  onLink l s fun s x => when_ (x.cfg.enable && decide (x.mode = .disabled) && s.linkReleased l) s <|
    s.setLink l { x with mode := .training, quick := false, quickRetrains := 0, trained := false, resuming := false }

/-- A port that trains: after signal detect, in a Hitch, or after a flush. -/
def LinkState.trains (x : LinkState) : Bool := x.mode == .training || x.mode == .held || x.mode == .flushed

/-- This end's IDENT (Table 10.3, R293). -/
def State.identOf (s : State) (l : LinkId) (x : LinkState) : IdentRec :=
  if l = sclLink then ⟨s.deviceId, 0, s.idValid, x.fresh, 0, 2⟩ else ⟨s.deviceId, BitVec.ofNat 5 l, s.idValid, x.fresh, x.lanesActive, 2⟩
/-- Training has ended on some lanes: IDENT is exchanged (R256); on Sceolink its spares are counted (R294). -/
def State.trainingEnds (s : State) (l : LinkId) (x : LinkState) (lanes : BitVec 18) : State :=
  let y := { x with
    trained := true, trainedLanes := lanes
    lanesActive := if l = sclLink then x.lanesActive else lanes.setWidth 8
    rxLanes := if l = sclLink then x.rxLanes else lanes.setWidth 8 }
  let s1 := (s.setLink l y).sendRecs l [.ident (s.identOf l y)]
  if l = sclLink then s1.countSpares else s1
/-- The added lanes of a widening have trained: it switches as a narrowing does (R262). -/
def LinkState.armWide (x : LinkState) (r : LaneRec) (lanes : BitVec 18) : LinkState :=
  { x with wide := none, txSwitch := some r, rxSwitch := some r, trainedLanes := x.trainedLanes ||| lanes }
/-- TRAINING_COMPLETE (R256, R262): of the link, or of the lanes that a widening adds. -/
def execTrainingComplete (l : LinkId) (lanes : BitVec 18) (s : State) : Res :=
  onLink l s fun s x =>
    match x.wide with
    | some r => when_ (x.isUp && (r.mask &&& ~~~(x.lanesActive ||| lanes.setWidth 8)) == 0#8) s (s.setLink l (x.armWide r lanes))
    | none => when_ (x.trains && !x.trained) s (s.trainingEnds l x lanes)

/-- QUICK_RETRAIN_FAIL (R256): after two, full training. -/
def execQuickRetrainFail (l : LinkId) (s : State) : Res :=
  onLink l s fun s x => when_ (x.trains && x.quick && !x.trained) s <|
    if x.quickRetrains < 2 then s.setLink l { x with quickRetrains := x.quickRetrains + 1 } else s.setLink l { x with quick := false }

/-- The flits of whole packets at the front of a buffer, and those behind a packet cut short. `fuel` bounds the packets. -/
def wholePackets (scl : Bool) (vc : Channel) : Nat → List Flit → List Flit
  | 0, _ => []
  | fuel + 1, fs =>
    match headPacket scl vc fs with
    | .whole _ rest n => fs.take n ++ wholePackets scl vc fuel rest
    | .short rest _ => wholePackets scl vc fuel rest
    | .none => []
/-- What a buffer keeps at a fresh start: the rest of a packet that has begun to go on where all of it is here, then whole packets. -/
def keepWhole (scl : Bool) (vc : Channel) (cut : Option CutThrough) (fs : List Flit) : List Flit :=
  let n := match cut with | some c => c.left | none => 0
  if n ≤ fs.length then fs.take n ++ wholePackets scl vc fs.length (fs.drop n) else []
/-- A packet that has begun to go on and whose rest will not come. -/
def cutLost (cut : Option CutThrough) (fs : List Flit) : Bool := match cut with | some c => decide (fs.length < c.left) | none => false
/-- A packet put in the queue of its channel. -/
def LinkState.enqueue (x : LinkState) (p : TxPacket) : LinkState := x.queue (packetChannel p.packet) p

/-- A fresh start (R247, R253): sequence, credits and rx_expected reset; what is left of a packet cut short is dropped; flits that have not left the buffer count against the credits; packets that came in training follow. -/
def LinkState.freshStart (x : LinkState) (scl : Bool) : LinkState :=
  let q := keepWhole scl .request x.cutReq x.rxRequest
  let p := keepWhole scl .response x.cutRsp x.rxResponse
  x.heldPackets.foldl LinkState.enqueue { x with
    mode := .up, fresh := false, trained := false, resuming := false, graceOver := false, quick := false, quickRetrains := 0, acked := 0xFFF
    txNext := 0, rxExpected := 0, accepted := false, unacked := 0, creditDue := false, replayReq := false, replayReqFor := none, linkDue := true
    replayBuf := [], replaying := [], sentPackets := [], sendingReq := 0, sendingRsp := 0, rspInRow := 0, replaysInRow := 0, heldPackets := []
    sentByp := 0, sentReq := 0, sentRsp := 0, gotByp := 0, gotReq := 0, gotRsp := 0, rxRequest := q, rxResponse := p
    cutReq := if cutLost x.cutReq x.rxRequest then none else x.cutReq, cutRsp := if cutLost x.cutRsp x.rxResponse then none else x.cutRsp
    freedByp := 0 - BitVec.ofNat 16 x.rxBypass.length, freedReq := 0 - BitVec.ofNat 16 q.length, freedRsp := 0 - BitVec.ofNat 16 p.length }

/-! ## Packets that pass on flit by flit (R266) -/

/-- The input that a packet comes from: port × 2, plus 1 for Response. -/
def inputOf (l : LinkId) (vc : Channel) : Nat := 2 * l + if vc = .response then 1 else 0
/-- The queued packets that come from an input changed. -/
def LinkState.onVia (x : LinkState) (v : Nat) (f : TxPacket → TxPacket) : LinkState :=
  let g (p : TxPacket) : TxPacket := if p.via = some v then f p else p
  { x with txRequest := x.txRequest.map g, txResponse := x.txResponse.map g, heldPackets := x.heldPackets.map g }
/-- A queued packet still comes from an input. -/
def LinkState.hasVia (x : LinkState) (v : Nat) : Bool := (x.txRequest ++ x.txResponse ++ x.heldPackets).any fun p => p.via == some v
/-- The queue without its first packet when all that will come of it has been sent. -/
def dropSent (ps : List TxPacket) (sent : Nat) : List TxPacket × Nat :=
  match ps with
  | p :: r => if 0 < sent ∧ p.via = none ∧ flitsOf p.total ≤ sent then (r, 0) else (ps, sent)
  | [] => ([], sent)
/-- A packet whose rest will not come ends where it is (log 123). -/
def LinkState.endVia (x : LinkState) (v : Nat) : LinkState :=
  let y := x.onVia v fun p => { p with via := none, total := p.packet.data.length }
  let a := dropSent y.txRequest y.sendingReq
  let b := dropSent y.txResponse y.sendingRsp
  { y with txRequest := a.1, sendingReq := a.2, txResponse := b.1, sendingRsp := b.2 }
/-- The same at the output port that a cut-through names. -/
def State.endForward (s : State) (c : Option CutThrough) (v : Nat) : State :=
  match c with
  | some ⟨some o, _⟩ => s.setLink o ((s.link o).endVia v)
  | _ => s

/-- A fresh start of a link; a session or port that was held is flushed first, and packets that its partner will not complete end (R260, R311). -/
def State.startFresh (s : State) (l : LinkId) (i : IdentRec) : State :=
  let x := s.link l
  let s2 := if x.mode = .held then s.graceFlush l else if l = sclLink ∧ s.scl.mode = .held then s.sessionFlush x.discardedFlits else s
  let s3 := if cutLost x.cutReq x.rxRequest then s2.endForward x.cutReq (inputOf l .request) else s2
  let s4 := if cutLost x.cutRsp x.rxResponse then s3.endForward x.cutRsp (inputOf l .response) else s3
  (s4.setLink l { (s4.link l).freshStart (l == sclLink) with partnerDev := i.device, partnerPort := i.port }).wantWidth l

/-- An IDENT asks for a fresh start: either end is fresh, or the partner is not the one recorded (R260). -/
def LinkState.asksFresh (x : LinkState) (i : IdentRec) : Bool := x.fresh || i.fresh || i.device != x.partnerDev || i.port != x.partnerPort
/-- An IDENT record (R258, R260): a link that was held resumes when neither end is fresh and the partner is the one recorded; else it starts fresh. -/
def State.takeIdent (s : State) (l : LinkId) (i : IdentRec) : State :=
  let x := s.link l
  if !(x.trains && x.trained && !x.resuming) then s
  else if x.mode == .held && !x.asksFresh i then
    (s.setLink l { x with resuming := true }).sendRecs l [.resume ⟨x.rxExpected, x.freedByp, x.freedReq, x.freedRsp⟩]
  else s.startFresh l i

/-- A RESUME record (R258): entries up to the partner's rx_expected − 1 are freed, the rest replayed, and held packets follow. -/
def State.takeResume (s : State) (l : LinkId) (r : ResumeRec) : State :=
  let x := s.link l
  if x.mode == .held && x.resuming then
    let y := x.ackTo (r.rxExpected - 1)
    let z := y.heldPackets.foldl LinkState.enqueue { y with
      heldPackets := [], mode := .up, trained := false, resuming := false, graceOver := false, quick := false, quickRetrains := 0
      gotByp := r.bypTotal, gotReq := r.reqTotal, gotRsp := r.rspTotal, linkDue := true }
    let s1 := s.setLink l (z.tally fun c => { c with hitchResume := inc c.hitchResume })
    let s2 := if l = sclLink then s1.resumeSession.settleDetach else s1
    (if y.replayBuf.isEmpty then s2 else s2.replay l).wantWidth l
  else s

/-- SIGNAL_LOST (R257). -/
def execSignalLost (l : LinkId) (s : State) : Res := onLink l s fun s _ => .next (s.hitch l)

/-- GRACE_EXPIRY (R258, R259, R273): a port that is still held flushes, but one whose training is complete resumes if its partner's IDENT allows it. -/
def execGraceExpiry (l : LinkId) (s : State) : Res :=
  onLink l s fun s x => when_ (x.mode == .held) s <|
    if x.trained then s.setLink l { x with graceOver := true }
    else s.graceFlush l

/-- UNCORRECTABLE_CODEWORD (R241, R257): the flits that overlap it fail; more than 64 in 1 ms are a Hitch. -/
def execUncorrectableCodeword (l : LinkId) (flits windowCount : Nat) (s : State) : Res :=
  onLink l s fun s x => when_ x.isUp s <|
    let y := (if flits = 0 then x else x.askReplay).tally fun c => { c with fecUncorr := inc c.fecUncorr, crcDrop := satAdd c.crcDrop flits }
    if 64 < windowCount then (s.setLink l y).hitch l else s.setLink l y

/-! ## Lane width (R261 to R263, R296) -/

/-- The receiver takes its new lane set. -/
def State.setRxLanes (s : State) (l : LinkId) (m : BitVec 8) : State :=
  if l = sclLink then (s.setScl fun t => { t with widthRx := m }).countSpares else s.setLink l { s.link l with rxLanes := m }
/-- The receiver follows the partner's SWITCH (R262). -/
def State.takeSwitch (s : State) (l : LinkId) (r : LaneRec) : State :=
  ((s.setLink l { s.link l with rxSwitch := none }.settleWidth).setRxLanes l r.mask).wantWidth l
/-- An agreed change: both directions of a port, of Sceolink the one whose receiver asked (R296). A widening first trains the lanes that it adds (R262). -/
def LinkState.agree (x : LinkState) (l : LinkId) (r : LaneRec) (own : Bool) : LinkState :=
  if l = sclLink then (if own then { x with mode := .widthChange, rxSwitch := some r } else { x with mode := .widthChange, txSwitch := some r })
  else if (r.mask &&& ~~~x.lanesActive) = 0#8 then { x with mode := .widthChange, txSwitch := some r, rxSwitch := some r }
  else { x with mode := .widthChange, wide := some r }

/-- A mask that this end refuses: it names a lane that is excluded or has not trained (R261); on Sceolink, no width. -/
def badMask (l : LinkId) (x : LinkState) (mask : BitVec 8) : Bool :=
  if l = sclLink then !([16#8, 8#8, 4#8].contains mask)
  else (mask &&& x.excluded.setWidth 8) != 0#8 || (mask &&& ~~~x.trainedLanes.setWidth 8) != 0#8
/-- The partner's REQ is the one already accepted, sent again because its ACCEPT was lost. -/
def LinkState.acceptedReq (x : LinkState) (r : LaneRec) : Bool := x.txSwitch == some r || x.rxSwitch == some r || x.wide == some r
/-- This end's REQ crossed the partner's and stands: its device ID is the lower (R261). -/
def State.reqStands (s : State) (x : LinkState) : Bool :=
  match x.exchange with
  | some e => !e.accepted && decide (s.deviceId.toNat < x.partnerDev.toNat)
  | none => false

/-- LANE REQ (R261). -/
def State.laneReq (s : State) (l : LinkId) (r : LaneRec) : State :=
  let x := s.link l
  if x.acceptedReq r then s.sendRecs l [.lane 2 r]
  else if !decide (x.mode = .up) || badMask l x r.mask || s.reqStands x then s.sendRecs l [.lane 3 r]
  else (s.setLink l (x.agree l r false)).sendRecs l [.lane 2 r]

/-! ### Remount (R294, R295) -/

/-- Physical lane of a logical lane in a map (Table 12.11). -/
def laneAt (m : BitVec 80) (i : Nat) : Nat := (m.extractLsb' (5 * i) 5).toNat
/-- A map with one logical lane moved. -/
def laneSet (m : BitVec 80) (i phys : Nat) : BitVec 80 :=
  (m &&& ~~~(0x1F#80 <<< (5 * i))) ||| (BitVec.ofNat 80 (phys % 32) <<< (5 * i))
/-- A map with a logical lane moved to a physical lane; a logical lane that held it takes the one left. -/
def laneMove (m : BitVec 80) (r : RemountRec) : BitVec 80 :=
  let m1 := (List.range 16).foldl (fun t i => if laneAt m i = r.physTo.toNat then laneSet t i r.physFrom.toNat else t) m
  laneSet m1 r.logical.toNat r.physTo.toNat
/-- The exchange of a direction. -/
def SclState.remount (x : SclState) : SclDir → Option Remount
  | .tx => x.remountTx
  | .rx => x.remountRx
/-- That exchange replaced. -/
def SclState.setRemount (x : SclState) (d : SclDir) (r : Option Remount) : SclState :=
  match d with
  | .tx => { x with remountTx := r }
  | .rx => { x with remountRx := r }

/-- A REMOUNT REQ sent by the receiving end (R295). -/
def State.openRemount (s : State) (dir : SclDir) (logical physFrom physTo : Nat) (cause : BitVec 4) : State :=
  let x := s.link sclLink
  let r : RemountRec := ⟨dir, x.nextCmd, BitVec.ofNat 4 logical, BitVec.ofNat 5 physFrom, BitVec.ofNat 5 physTo, cause⟩
  let s1 := (s.setLink sclLink { x with nextCmd := x.nextCmd + 1 }).sendRecs sclLink [.remount 1 r]
  s1.setScl fun t => t.setRemount dir (some ⟨r, 1, false⟩)
/-- Before a narrowing's SWITCH, a logical lane that stays is moved off a failed lane onto a good one that the narrowing frees (R296). -/
def State.moveOffFailed (s : State) (width : Nat) : State :=
  let bad (i : Nat) : Bool := (s.link sclLink).excluded.getLsbD (laneAt s.scl.mapRx i)
  match (List.range width).find? bad, ((List.range 16).filter (width ≤ ·)).find? fun i => !bad i with
  | some i, some j => s.openRemount .rx i (laneAt s.scl.mapRx i) (laneAt s.scl.mapRx j) 1
  | _, _ => s
/-- The receive direction narrows to the widest of x8 and x4 that excludes every failed lane; fewer than 4 good lanes are a Hitch (R296). -/
def State.narrowRx (s : State) (phys : Nat) : State :=
  let n := s.scl.widthRx.toNat
  let good := ((List.range n).filter fun i => !(s.link sclLink).excluded.getLsbD (laneAt s.scl.mapRx i)).length
  if good < 4 then s.hitch sclLink
  else
    let w : Nat := if 8 ≤ good ∧ 8 < n then 8 else 4
    (s.raiseAll s.parts_ evLaneExcluded 5 (unitLink sclLink) (det 168 phys ||| det 176 w)).askWidth sclLink (BitVec.ofNat 8 w) 2
/-- What the failed lanes of the receive direction still ask for, once no exchange is open: a Remount to a spare, or the direction narrows (R295, R296). -/
def State.fixLanes (s : State) : State :=
  let x := s.link sclLink
  if !x.isUp || s.scl.remountRx.isSome then s
  else match x.rxSwitch with
    | some r => s.moveOffFailed r.mask.toNat
    | none =>
      if x.changing then s
      else match (List.range s.scl.widthRx.toNat).find? fun i => x.excluded.getLsbD (laneAt s.scl.mapRx i) with
        | none => s
        | some i =>
          let phys := laneAt s.scl.mapRx i
          match (s.spareLanesOf .rx).head? with
          | some j => s.openRemount .rx i phys j 1
          | none => s.narrowRx phys
/-- A Remount counted and raised. -/
def State.remounted (s : State) (r : RemountRec) : State :=
  (s.setScl fun t => { t with remounts := inc t.remounts }).raiseAll s.parts_ evRemount 5 (unitLink sclLink)
    (det 168 r.logical.toNat ||| det 176 r.physFrom.toNat ||| det 184 r.physTo.toNat)
/-- A Remount of the receive direction is complete. -/
def State.endRemountRx (s : State) (r : RemountRec) : State :=
  ((s.setScl fun t => { t with mapRx := laneMove t.mapRx r, remountRx := none }).countSpares.remounted r).fixLanes
/-- The transmitter sends SWITCH and takes the new map (R295 step 3). -/
def State.switchTx (s : State) (r : RemountRec) : State :=
  ((s.sendRecs sclLink [.remount 4 r]).setScl fun t => { t with
    mapTx := laneMove t.mapTx r, remountTx := none
    failedTx := if r.cause = 1#4 then putBit t.failedTx r.physFrom.toNat true else t.failedTx }).countSpares.remounted r
/-- REMOUNT REQ at the transmitting end: refused when the spare has failed training, the link is held, or another exchange in the direction is open. -/
def State.remountReq (s : State) (r : RemountRec) : State :=
  match r.dir, s.scl.remountTx with
  | .rx, _ => s
  | .tx, some m => s.sendRecs sclLink [.remount (if m.msg = r then 2 else 3) r]
  | .tx, none =>
    let x := s.link sclLink
    if x.trainedLanes.getLsbD r.physTo.toNat && x.isUp then
      (s.setScl fun t => { t with remountTx := some ⟨r, 1, true⟩ }).sendRecs sclLink [.remount 2 r]
    else s.sendRecs sclLink [.remount 3 r]
/-- REMOUNT ACCEPT. -/
def State.remountAccept (s : State) (dir : SclDir) (cmd : BitVec 8) : State :=
  match s.scl.remount dir with
  | some m =>
    if m.msg.cmd == cmd && (s.link sclLink).isUp then
      match dir with
      | .tx => s.switchTx m.msg
      | .rx => s.setScl fun t => { t with remountRx := some { m with accepted := true } }
    else s
  | none => s
/-- REMOUNT REFUSE. -/
def State.remountRefuse (s : State) (dir : SclDir) (cmd : BitVec 8) : State :=
  match s.scl.remount dir with
  | some m => if m.msg.cmd = cmd then s.setScl fun t => t.setRemount dir none else s
  | none => s
/-- REMOUNT SWITCH: the receiver applies the new map. -/
def State.remountSwitch (s : State) (dir : SclDir) (cmd : BitVec 8) : State :=
  match dir, s.scl.remountRx with
  | .rx, some m => if m.msg.cmd == cmd && m.accepted && (s.link sclLink).isUp then s.endRemountRx m.msg else s
  | _, _ => s

/-- The direction of this end's open REQ with a number; the record names none. -/
def State.askedDir (s : State) (cmd : BitVec 8) : SclDir :=
  match s.scl.remountTx with
  | some m => if !m.accepted && m.msg.cmd == cmd then .tx else .rx
  | none => .rx

/-! ### The sender (R255) -/

/-- The Remount that this end has accepted as the transmitter; its SWITCH is due (R295 step 3). -/
def State.remountDue (s : State) (l : LinkId) : Option RemountRec :=
  if l = sclLink then s.scl.remountTx.bind fun m => if m.accepted then some m.msg else none else none

/-- FLIT_SEND (R255): one flit in the order of the rule. -/
def execFlitSend (l : LinkId) (s : State) : Res :=
  onLink l s fun s x => when_ x.isUp s <|
    match s.remountDue l, x.txSwitch with
    | some r, _ => s.switchTx r
    | none, some r => if s.switchDue l x then s.sendSwitch l x r else send s x
    | none, none => send s x
where
  /-- Every flit but a REMOUNT or LANE SWITCH. -/
  send (s : State) (x : LinkState) : State :=
    if x.linkDue then s.sendRecs l []
    else match x.replaying with
      | f :: rest =>
        (s.setLink l ({ x.acksSent with replaying := rest }.tally fun c => { c with txFlits := inc c.txFlits })).emit (.flit l (dataFlit f x.ackFields))
      | [] =>
        if replayDepth ≤ x.replayBuf.length then s.sendRecs l []
        else if x.ready .bypass then
          let ps := x.txBypass.take 3
          s.sendNew l { x with
            txBypass := x.txBypass.drop 3, sentByp := x.sentByp + 1, rspInRow := 0
            sentPackets := x.sentPackets ++ ps.map fun p => (x.txNext, p) } .bypass false ps.length (bypassPayload (ps.map (·.packet)))
        else if x.responseFirst then
          match x.txResponse with
          | p :: rest =>
            let k := x.sendingRsp
            let last := decide (k + 1 = flitsOf p.total)
            s.sendNew l { x with
              sendingRsp := if last then 0 else k + 1, sentRsp := x.sentRsp + 1, rspInRow := x.rspInRow + 1
              txResponse := if last then rest else p :: rest, sentPackets := if last then x.sentLast p else x.sentPackets }
              .response (k == 0) 0 (flitPayload p.packet k)
          | [] => s
        else if x.ready .request then
          match x.txRequest with
          | p :: rest =>
            let k := x.sendingReq
            let last := decide (k + 1 = flitsOf p.total)
            s.sendNew l { x with
              sendingReq := if last then 0 else k + 1, sentReq := x.sentReq + 1, rspInRow := 0
              txRequest := if last then rest else p :: rest, sentPackets := if last then x.sentLast p else x.sentPackets }
              .request (k == 0) 0 (flitPayload p.packet k)
          | [] => s
        else s.sendRecs l []

/-! ### The rest of a lane exchange -/

/-- LANE ACCEPT (R262): this end's switch is agreed. -/
def State.laneAccept (s : State) (l : LinkId) (cmd : BitVec 8) : State :=
  let x := s.link l
  match x.exchange with
  | some e =>
    if x.isUp && e.lane.cmd == cmd && !e.accepted then
      let s1 := s.setLink l ({ x with exchange := some { e with accepted := true } }.agree l e.lane true)
      if l = sclLink then s1.fixLanes else s1
    else s
  | none => s
/-- LANE REFUSE (R261). -/
def State.laneRefuse (s : State) (l : LinkId) (cmd : BitVec 8) : State :=
  let x := s.link l
  match x.exchange with
  | some e => if e.lane.cmd == cmd && !e.accepted then s.setLink l { x with exchange := none } else s
  | none => s
/-- LANE SWITCH (R262): the receiver moves to the new lane set. -/
def State.laneSwitch (s : State) (l : LinkId) (cmd : BitVec 8) : State :=
  let x := s.link l
  match x.rxSwitch with
  | some r => if x.isUp && r.cmd == cmd then s.takeSwitch l r else s
  | none => s

/-- LANE_REQ_TIMEOUT (R261): the REQ is sent again, up to 8 times; then the change is abandoned. -/
def execLaneReqTimeout (l : LinkId) (s : State) : Res :=
  onLink l s fun s x =>
    match x.exchange with
    | some e => when_ (x.isUp && !e.accepted) s <|
        if e.attempts < 8 then (s.setLink l { x with exchange := some { e with attempts := e.attempts + 1 } }).sendRecs l [.lane 1 e.lane]
        else s.setLink l ({ x with exchange := none }.tally fun c => { c with widthFail := inc c.widthFail })
    | none => .next s

/-- Lanes of a corrected-symbol window that exceed the limit, counted in a row (R263). -/
def overLanes (x : LinkState) (counts : List Nat) : Tab Nat :=
  (enum counts).filterMap fun c =>
    if x.cfg.laneErrLimit.toNat * 1024 < c.2 then some (c.1, tGet 0 x.laneOver c.1 + 1) else none
/-- The widest mask of 4, 2 or 1 good lanes, taken in ascending order (R263). -/
def narrowMask (good : List Nat) : BitVec 8 :=
  let k := if 4 ≤ good.length then 4 else if 2 ≤ good.length then 2 else 1
  (good.take k).foldl (fun m i => m ||| bitMask 8 i) 0

/-- LANE_ERROR_WINDOW (R263): symbols corrected on each lane in a 1 ms window. Every lane that has exceeded its limit in three windows is excluded, and one REQ leaves them all out. -/
def execLaneErrorWindow (l : LinkId) (counts : List Nat) (s : State) : Res :=
  whenHere (decide (l < 24)) s <|
    let x := s.link l
    when_ x.isUp s <|
      let hot := overLanes x counts
      let y := { x with laneOver := hot }.tally fun c => { c with fecCorr := satAdd c.fecCorr counts.sum }
      let out := (hot.filter fun e => decide (3 ≤ e.2) && x.lanesActive.getLsbD e.1 && !x.excluded.getLsbD e.1).map (·.1)
      if !x.cfg.autoExclude || out.isEmpty then s.setLink l y
      else
        let ex := out.foldl (fun m i => putBit m i true) x.excluded
        let good := (maskBits (x.cfg.laneMask &&& x.trainedLanes.setWidth 8)).filter fun j => !ex.getLsbD j
        let m := narrowMask good
        let s1 := out.foldl (fun t i => t.raiseAll s.parts_ evLaneExcluded (levelLink l) (unitLink l) (det 168 i ||| det 176 (maskBits m).length))
          (s.setLink l { y with excluded := ex, laneOver := out.foldl tDel hot })
        if good.isEmpty then s1 else s1.askWidth l m 2

/-- FEC_LOCK_LOST (R257, R262, R295): the receiver tries the new lane set or map that it has agreed before it enters Hitch. -/
def execFecLockLost (l : LinkId) (s : State) : Res :=
  onLink l s fun s x => .next <|
    match (if x.isUp then x.rxSwitch else none) with
    | some r => s.takeSwitch l r
    | none =>
      match s.scl.remountRx with
      | some m => if x.isUp ∧ l = sclLink ∧ m.accepted then s.endRemountRx m.msg else s.hitch l
      | none => s.hitch l

/-! ## Received flits (R242, R243, R248) -/

/-- A record of a LINK flit; an op that no table gives is ignored. -/
def State.takeRec (s : State) (l : LinkId) : LinkRec → State
  | .credit c => s.takeCredit l c
  | .resume r => s.takeResume l r
  | .ident i => s.takeIdent l i
  | .lane op r => match op.toNat with
    | 1 => s.laneReq l r
    | 2 => s.laneAccept l r.cmd
    | 3 => s.laneRefuse l r.cmd
    | 4 => s.laneSwitch l r.cmd
    | _ => s
  | .remount op r => match op.toNat with
    | 1 => s.remountReq r
    | 2 => s.remountAccept (s.askedDir r.cmd) r.cmd
    | 3 => s.remountRefuse (s.askedDir r.cmd) r.cmd
    | 4 => s.remountSwitch r.dir r.cmd
    | _ => s
/-- A flit dropped under R242. -/
def LinkState.dropFlit (x : LinkState) : LinkState := x.tally fun c => { c with crcDrop := inc c.crcDrop }
/-- DATA_FLIT_RECEIVED (R242, R243, R248): a flit from the lanes, by the fields of Table 10.2: bits 41:0, the reserved bits, the payload and the crc. One that fails its CRC asks for a replay whatever its type was, which is not to be trusted (log 124); a LINK flit is acted on whatever its position. -/
def execDataFlitReceived (l : LinkId) (head : BitVec 42) (reserved : BitVec 54) (payload : List Byte) (crc : BitVec 32) (s : State) : Res :=
  onLink l s fun s x => .next <|
    match rxFlit (l == sclLink) (flitBytes head reserved payload crc) with
    | .crcFails => if x.isUp then s.setLink l x.askReplay.dropFlit else s
    | .unused => if x.isUp then s.setLink l x.dropFlit else s
    | .link a rs => rs.foldl (fun t r => t.takeRec l r) (s.takeFlitAck l a)
    | .data a f => if x.isUp then (s.setLink l (x.accept f)).takeFlitAck l a else s

/-- A record that comes alone: its flit's ack fields, then the record (R250, R272). -/
def withRec (l : LinkId) (ack : FlitAck) (r : LinkRec) (s : State) : Res := onLink l s fun s _ => .next ((s.takeFlitAck l ack).takeRec l r)
/-- CREDIT (R250, R254). -/
def execCredit (l : LinkId) (c : Carried CreditRec) (s : State) : Res := withRec l c.ack (.credit c.body) s
/-- IDENT (R258, R260). -/
def execIdent (l : LinkId) (i : Carried IdentRec) (s : State) : Res := withRec l i.ack (.ident i.body) s
/-- RESUME (R258). -/
def execResume (l : LinkId) (r : Carried ResumeRec) (s : State) : Res := withRec l r.ack (.resume r.body) s
/-- LANE_REQ (R261). -/
def execLaneReq (l : LinkId) (ack : FlitAck) (r : LaneRec) (s : State) : Res := withRec l ack (.lane 1 r) s
/-- LANE_ACCEPT (R262). -/
def execLaneAccept (l : LinkId) (cmd : Carried (BitVec 8)) (s : State) : Res := withRec l cmd.ack (.lane 2 ⟨cmd.body, 0, 0⟩) s
/-- LANE_REFUSE (R261). -/
def execLaneRefuse (l : LinkId) (cmd : Carried (BitVec 8)) (s : State) : Res := withRec l cmd.ack (.lane 3 ⟨cmd.body, 0, 0⟩) s
/-- LANE_SWITCH (R262). -/
def execLaneSwitch (l : LinkId) (cmd : Carried (BitVec 8)) (s : State) : Res := withRec l cmd.ack (.lane 4 ⟨cmd.body, 0, 0⟩) s

/-! ## Own packets (R246, R265, R267) -/

/-- The descriptor in a queue message's body. -/
def packetDesc (p : Packet) : Descriptor := descOfBits (BitVec.ofNat 512 (leNat p.data))
/-- A queue answer's body (R246). -/
def packetAnswer (p : Packet) : Answer :=
  ⟨BitVec.ofNat 32 (leNat (p.data.take 4)), BitVec.ofNat 32 (leNat ((p.data.drop 4).take 4)), BitVec.ofNat 16 (leNat ((p.data.drop 8).take 2)),
    p.data.getD 10 0⟩
/-- The 16 bytes of that body. -/
def answerBytes (a : Answer) : List Byte := padTo 16 (leBytes 4 a.dst.toNat ++ leBytes 4 a.src.toNat ++ leBytes 2 a.seq.toNat ++ [a.code])

/-- A packet of this package (Tables 10.4, 10.5); its hops are LNK_ROUTE_CFG.hop_limit (R267). -/
def State.newPacket (s : State) (kind : BitVec 8) (dst : BitVec 16) (flow : BitVec 32) (ext : Nat) (data : List Byte) : Packet :=
  ⟨BitVec.ofNat 32 ext, flow, kind, s.hopLimit, BitVec.ofNat 12 data.length, s.deviceId, dst, data⟩
/-- The largest data of a packet (R244). -/
def packetMax : Nat := 3824
/-- Data cut into packets, with the offset of each; `fuel` bounds the cuts. -/
def cutData : Nat → Nat → List Byte → List (Nat × List Byte)
  | 0, _, _ => []
  | fuel + 1, off, bs => if bs.isEmpty then [] else (off, bs.take packetMax) :: cutData fuel (off + packetMax) (bs.drop packetMax)
/-- Blocks of a piece cut into packets of seven: the block's place, their elements, then their scales (DESIGN CHOICE, log 125). `fuel` bounds the cuts. -/
def cutPiece : Nat → Nat → List (BitVec 16) → List Byte → List (Nat × List Byte)
  | 0, _, _, _ => []
  | fuel + 1, at_, es, ss =>
    if ss.isEmpty then []
    else (at_, (es.take 1792).flatMap (fun e => leBytes 2 e.toNat) ++ ss.take 7) :: cutPiece fuel (at_ + 7) (es.drop 1792) (ss.drop 7)
/-- The plan of a plan_id. -/
def State.planOfId (s : State) (planId : BitVec 16) : Option PlanEntry := (s.plans.find? fun e => e.2.valid && e.2.planId == planId).map (·.2)
/-- The members of a group on other packages. -/
def State.otherDevs (s : State) (g : BitVec 6) : List (BitVec 16) :=
  ((List.range (s.group g).count.toNat).map fun k => s.memberDev g k).filter (· ≠ s.deviceId)
/-- The packets that an entry on its way becomes, none where it stays on the package. The spec lays out no body of kinds 0x03 and 0x06: `body` gives it. A scalar value names its group where a plan_id stands (log 44). -/
def State.packetsOf (s : State) (i : InFlight) (body : List Byte) : List Packet :=
  let toQ (q : QAddr) (f : BitVec 16 → List Packet) : List Packet := if QAddr.device q = s.deviceId then [] else f (QAddr.device q)
  let relayCtl (dev : BitVec 16) (num : BitVec 32) : List Packet := if dev = s.deviceId then [] else [s.newPacket 0x03 dev num 0 ((padTo 32 body).take 32)]
  let control : List Byte := if body.isEmpty then [0] else body.take 64
  let ofPlan (planId : BitVec 16) (f : PlanEntry → List Packet) : List Packet := match s.planOfId planId with | some p => f p | none => []
  match i with
  | .message d => toQ d.dst fun dev => [s.newPacket 0x01 dev d.dst 0 (descBytes d)]
  | .answer a => toQ a.src fun dev => [s.newPacket 0x02 dev a.src 0 (answerBytes a)]
  | .relayOpen o => relayCtl (QAddr.device o.desc.dst) o.num
  | .credit num dev => relayCtl dev num
  | .cancel id dst => relayCtl (QAddr.device dst) id.num
  | .segment q id off data => toQ q fun dev => (cutData (ceilDiv data.length packetMax) off data).map fun c => s.newPacket 0x04 dev id.num c.1 c.2
  | .piece planId step rank p => ofPlan planId fun e =>
      let start := (chunkRange (e.elements.toNat / 256) (s.planN e) p.chunk).1
      (cutPiece (p.scales.length + 1) (p.firstBlock - start) p.elems p.scales).map fun c =>
        s.newPacket 0x05 (s.memberDev e.group rank) (planId ++ step.setWidth 16) (p.t.toNat * 2 ^ 24 + 256 * c.1) c.2
  | .pieceCredit planId _ rank => ofPlan planId fun e => [s.newPacket 0x06 (s.memberDev e.group rank) (planId.setWidth 32) 0 control]
  | .abortNotice planId _ => ofPlan planId fun e => (s.otherDevs e.group).map fun dev => s.newPacket 0x06 dev (planId.setWidth 32) 0 control
  | .scalar g _ _ _ rank => [s.newPacket 0x06 (s.memberDev g rank) (g.setWidth 32) 0 control]
  | .vacate cycle _ dev => [s.newPacket 0x06 dev cycle 0 control]
  | .move cycle _ dev data => (cutData (ceilDiv data.length packetMax) 0 data).map fun c => s.newPacket 0x07 dev cycle c.1 c.2
  | _ => []

/-- The partition of an own packet, if one owns it. -/
def State.entryPart (s : State) (i : InFlight) : Option PartId :=
  let relay (num : BitVec 32) : Option PartId := ((s.relays.find? fun r => r.num == num).map fun r => s.owner r.block).getD none
  let plan (k : BitVec 16) : Option PartId := (s.planOfId k).map (·.partition)
  let cycle (c : BitVec 32) : Option PartId := (s.permutes.find? fun x => x.entries.any fun e => e.1.cycle == c).map (·.partition)
  match i with
  | .message d => s.owner (QAddr.blockId d.src)
  | .answer a => s.owner (QAddr.blockId a.dst)
  | .relayOpen o => relay o.num
  | .segment _ id _ _ => relay id.num
  | .cancel id _ => relay id.num
  | .piece k _ _ _ => plan k
  | .pieceCredit k _ _ => plan k
  | .abortNotice k _ => plan k
  | .vacate c _ _ => cycle c
  | .move c _ _ _ => cycle c
  | _ => none

/-! ## Routing (R265) -/

/-- A port takes packets (R265): up, training after a fresh start, or held. -/
def State.usable (s : State) (l : LinkId) : Bool := let x := s.link l; x.isUp || x.mode == .training || x.mode == .held
/-- Usable ports of a mask, ascending. -/
def State.usablePorts (s : State) (m : BitVec 24) : List Nat := (maskBits m).filter fun l => s.usable l
/-- The candidate ports of a destination. -/
def State.candidates (s : State) (dst : BitVec 16) : List Nat :=
  let e := tGet RouteEntry.reset s.routes dst.toNat
  if !e.valid then [] else if (s.usablePorts e.primary).isEmpty then s.usablePorts e.alternate else s.usablePorts e.primary
/-- h of R265. -/
def routeHash (p : Packet) : Nat := (crc32c (leBytes 2 p.srcDev.toNat ++ leBytes 2 p.dstDev.toNat ++ leBytes 4 p.flow.toNat)).toNat
/-- A packet on its way out of a port, or held behind a Hitch or a training (R257). -/
def State.toPort (s : State) (l : LinkId) (p : TxPacket) : State :=
  let x := s.link l
  s.setLink l (if x.isUp then x.enqueue p else { x with heldPackets := x.heldPackets ++ [p] })
/-- No route: dropped, counted, raised; a queue message or Relay of this package is answered NACK gone (R125, R265). -/
def State.noRoute (s : State) (p : TxPacket) (part : Option PartId) : State :=
  let s1 := (s.count fun h => { h with noRoute := inc h.noRoute }).raise (part.getD 0) evNoRoute 3 (unitHub 0x0B 0) (det 168 p.packet.dstDev.toNat)
  match p.entry with
  | some (.message d) => s1.answer d anGone
  | some (.relayOpen o) => s1.answer o.desc anGone
  | _ => s1
/-- The routing unit's choice (R265), and the port chosen. -/
def State.route (s : State) (p : TxPacket) (part : Option PartId) : State × Option LinkId :=
  let cs := s.candidates p.packet.dstDev
  match cs.drop (routeHash p.packet % cs.length) with
  | l :: _ => (s.toPort l p, some l)
  | [] => (s.noRoute p part, none)
/-- The bytes that a partition's own packet takes on the fabric (R361). -/
def State.countLink (s : State) (p : Packet) (part : Option PartId) : State :=
  let n := 16 + p.data.length
  let s1 := s.count fun h => { h with linkAll := satAdd h.linkAll n }
  match part with
  | some q => s1.setPart q { s1.part q with linkBytes := satAdd (s1.part q).linkBytes n }
  | none => s1
/-- A packet of this package sent. -/
def State.sendPacket (s : State) (i : InFlight) (p : Packet) : State :=
  let part := s.entryPart i
  ((s.countLink p part).route ⟨p, p.data.length, none, some i⟩ part).1
/-- PACKET_ROUTE (R265, R267): an entry that has come to the routing unit, by its place among what is on its way, leaves as packets; packets are sent only when the device ID is set (Table 10.12). -/
def execPacketRoute (p : Outgoing) (s : State) : Res :=
  match s.inflight.drop p.index with
  | t :: rest =>
    let seen := s.inflight.take p.index
    let ps := s.packetsOf t.item p.body
    when_ (s.idValid && !ps.isEmpty && !seen.any fun u => u.ahead t) s
      (ps.foldl (fun u p => u.sendPacket t.item p) { s with inflight := seen ++ rest })
  | [] => .next s

/-! ## Forwarding and delivery (R266, R267) -/

/-- The buffer of a channel. -/
def LinkState.buffer (x : LinkState) : Channel → List Flit
  | .bypass => x.rxBypass
  | .request => x.rxRequest
  | .response => x.rxResponse
/-- Flits have left a channel's buffer: their credits are freed (R253). -/
def LinkState.free (x : LinkState) (vc : Channel) (fs : List Flit) (n : Nat) : LinkState :=
  let y := { x with creditDue := x.creditDue || decide (0 < n) }
  match vc with
  | .bypass => { y with rxBypass := fs, freedByp := x.freedByp + BitVec.ofNat 16 n }
  | .request => { y with rxRequest := fs, freedReq := x.freedReq + BitVec.ofNat 16 n }
  | .response => { y with rxResponse := fs, freedRsp := x.freedRsp + BitVec.ofNat 16 n }
/-- The packet of a channel that is passing on. -/
def LinkState.cut (x : LinkState) : Channel → Option CutThrough
  | .response => x.cutRsp
  | .request => x.cutReq
  | .bypass => none
/-- That packet replaced. -/
def LinkState.setCut (x : LinkState) (vc : Channel) (c : Option CutThrough) : LinkState :=
  match vc with
  | .response => { x with cutRsp := c }
  | .request => { x with cutReq := c }
  | .bypass => x
/-- Sceolink's own packet at the head of a channel, taken by the command that it makes (R297). -/
def State.fromScl (s : State) (vc : Channel) (kind : BitVec 8) : State :=
  let x := s.link sclLink
  match headPacket true vc (x.buffer vc) with
  | .whole p rest n => if sclKind p = kind then s.setLink sclLink (x.free vc rest n) else s
  | _ => s

/-- A packet for this package goes to its engine; any other is forwarded. -/
def State.isMine (s : State) (p : Packet) : Bool := s.idValid && p.dstDev == s.deviceId
/-- A forwarded packet as its first flit or its whole brings it: dropped at its last hop or with bad parity (R267, R384), else routed with one hop fewer. -/
def State.forward (s : State) (p : TxPacket) (parityOk : Bool) : State × Option LinkId :=
  let h := p.packet
  if h.hops = 0#8 then
    ((s.count fun c => { c with hopDrop := inc c.hopDrop }).raise 0 evHopLimit 3 (unitHub 0x0B 0) (det 168 h.srcDev.toNat ||| det 184 h.dstDev.toNat), none)
  else if !parityOk then (s.count fun c => { c with pathPerr := inc c.pathPerr }, none)
  else s.route { p with packet := { h with hops := h.hops - 1 } } none
/-- The first flit of a Request or Response packet enters its output (R266). -/
def State.forwardFirst (s : State) (l : LinkId) (vc : Channel) (f : Flit) (rest : List Flit) (parityOk : Bool) : State :=
  let h := packetOf f.payload []
  let n := h.length.toNat
  let more := flitsOf n - 1
  let p : TxPacket := ⟨{ h with data := (f.payload.drop 16).take (min 224 n) }, n, if more = 0 then none else some (inputOf l vc), none⟩
  let r := (s.setLink l ((s.link l).free vc rest 1)).forward p parityOk
  r.1.setLink l ((r.1.link l).setCut vc (if more = 0 then none else some ⟨r.2, more⟩))
/-- A later flit follows it, or is dropped with it: where the output has flushed, it counts among that port's flushed flits. -/
def State.forwardNext (s : State) (l : LinkId) (vc : Channel) (c : CutThrough) (f : Flit) (rest : List Flit) (parityOk : Bool) : State :=
  let v := inputOf l vc
  let last := decide (c.left ≤ 1)
  let put (t : State) (out : Option Nat) : State :=
    t.setLink l (((t.link l).free vc rest 1).setCut vc (if last then none else some ⟨out, c.left - 1⟩))
  match c.out with
  | none => put s none
  | some o =>
    let y := s.link o
    if !y.hasVia v then put (s.setLink o (y.tally fun k => { k with flushFlits := inc k.flushFlits })) (some o)
    else if !parityOk then put ((s.setLink o (y.endVia v)).count fun k => { k with pathPerr := inc k.pathPerr }) none
    else
      let add (p : TxPacket) : TxPacket :=
        { p with packet := { p.packet with data := (p.packet.data ++ f.payload).take p.total }, via := if last then none else some v }
      put (s.setLink o (y.onVia v add)) (some o)
/-- A packet was cut short at the input: its output ends it, and a flit that no first flit precedes leaves the buffer. -/
def State.forwardShort (s : State) (l : LinkId) (vc : Channel) (rest : List Flit) (n : Nat) : State :=
  let s1 := s.endForward ((s.link l).cut vc) (inputOf l vc)
  s1.setLink l (((s1.link l).free vc rest n).setCut vc none)
/-- PACKET_FORWARD (R266, R267, R384): the flit, on Bypass the packet, at the head of a port's buffer passes on. -/
def execPacketForward (l : LinkId) (vc : Channel) (parityOk : Bool) (s : State) : Res :=
  whenHere (decide (l < 24)) s <|
    let x := s.link l
    match vc, x.buffer vc with
    | _, [] => .next s
    | .bypass, f :: rest =>
      match bypassHead false f rest with
      | .whole p r n => when_ (!s.isMine p) s ((s.setLink l (x.free .bypass r n)).forward ⟨p, p.data.length, none, none⟩ parityOk).1
      | _ => .next s
    | _, f :: rest =>
      match x.cut vc with
      | some c => .next (if f.first then s.forwardShort l vc (f :: rest) 0 else s.forwardNext l vc c f rest parityOk)
      | none =>
        if !f.first then .next (s.forwardShort l vc rest 1)
        else when_ (!s.isMine (packetOf f.payload [])) s (s.forwardFirst l vc f rest parityOk)

/-- The queue whose ring holds a Relay. -/
def State.ringOf (s : State) (id : RelayId) : Option QAddr :=
  (s.rings.find? fun e => (e.2.relay id).isSome).map fun e => s.deviceId ++ (BitVec.ofNat 15 e.1 ++ 0#1)
/-- A packet handed to the engine for its kind (R246, R266); those of kinds 0x03, 0x05 and 0x06 wait for the command that reads their body. -/
def State.deliverPacket (s : State) (p : Packet) : State :=
  match p.kind with
  | 0x01#8 => s.shipFrom hubUnit (.message (packetDesc p))
  | 0x02#8 => s.shipFrom hubUnit (.answer (packetAnswer p))
  | 0x03#8 => s.ship (.control p)
  | 0x04#8 =>
    match s.ringOf ⟨p.srcDev, p.flow⟩ with
    | some q => s.ship (.segment q ⟨p.srcDev, p.flow⟩ p.ext.toNat p.data)
    | none => s
  | 0x05#8 => s.ship (.control p)
  | 0x06#8 => s.ship (.control p)
  | 0x07#8 => s.moveData p.flow p.srcDev p.ext.toNat p.data
  | _ => s.count fun h => { h with kindDrop := inc h.kindDrop }
/-- PACKET_DELIVER (R266): a whole packet for this package at the head of a port's buffer. -/
def execPacketDeliver (l : LinkId) (vc : Channel) (s : State) : Res :=
  whenHere (decide (l < 24)) s <|
    let x := s.link l
    if (x.cut vc).isSome then .next s
    else match headPacket false vc (x.buffer vc) with
      | .whole p rest n => when_ (s.isMine p) s ((s.setLink l (x.free vc rest n)).deliverPacket p)
      | .short rest n => .next (s.setLink l (x.free vc rest n))
      | .none => .next s

/-! ## Commands (R271) -/

/-- LNK_CFG (Table 10.10). -/
def linkCfgWord (c : LinkCfg) : Word :=
  0#16 ++ c.graceMs ++ 0#6 ++ c.laneMask ++ c.laneErrLimit ++ 0#7 ++ c.ackTimeoutUs ++ BitVec.ofBool c.autoExclude ++ BitVec.ofBool c.enable
/-- LNK_STATUS.state (Table 10.11). -/
def linkCode : LinkMode → BitVec 4
  | .disabled => 0x0
  | .training => 0x1
  | .up => 0x2
  | .held => 0x3
  | .flushed => 0x4
  | .widthChange => 0x5
/-- LNK_STATUS (Table 10.11). -/
def linkStatusWord (x : LinkState) : Word :=
  x.partnerDev ++ x.partnerPort ++ 0#3 ++ x.lanesActive ++ x.txNext ++ x.rxExpected ++ 0#4 ++ linkCode x.mode
/-- The port counters of Table 10.13, in its order. -/
def linkCounterWords (c : LinkCounters) : List Word :=
  [c.txFlits, c.rxFlits, c.crcDrop, c.fecCorr, c.fecUncorr, c.dupDrop, c.seqGap, c.replay, c.retrain, c.hitch, c.hitchResume, c.flushFlits,
    c.widthChange, c.widthFail]
/-- LINK_QUERY (R271). -/
def execLinkQuery (mask : BitVec 24) (s : State) : Res :=
  s.cmd 0x0404 .all fun s r =>
    s.okData r ((maskBits mask).flatMap fun l => linkStatusWord (s.link l) :: linkCounterWords (s.link l).counters)
/-- LINK_RETRAIN (R257, R271). -/
def execLinkRetrain (port : Nat) (s : State) : Res :=
  s.cmd 0x0405 .package fun s r =>
    s.unless r (firstReason [(decide (23 < port), rsField), ((s.link port).mode == .disabled, rsState)]) ((s.hitch port).ok r)
/-- LINK_FLUSH (R259, R271). -/
def execLinkFlush (port : Nat) (s : State) : Res :=
  s.cmd 0x0406 .package fun s r =>
    s.unless r (firstReason [(decide (23 < port), rsField), ((s.link port).mode != .held, rsState)]) ((s.flushLink port).ok r)

/-! ## LINK_CONFIG and SCL_CONFIG taking effect (R269, R316) -/

/-- LINK_CONFIG's settings at a port's switch (R263, R269): an excluded lane returns; enable off discards what the port holds and idles the lanes (log 43); a changed mask on a running port is asked for. -/
def State.portSet (s : State) (c : LinkConfigP) (l : LinkId) : State :=
  if !c.portMask.getLsbD l then s
  else
    let cfg : LinkCfg := ⟨c.graceMs, c.laneMask, c.laneErrLimit, c.ackTimeoutUs, c.autoExclude, c.enable⟩
    let s1 := if !c.enable && ((s.link l).isUp || (s.link l).mode == .held || !(s.link l).heldPackets.isEmpty) then s.flushLink l else s
    let y := { s1.link l with cfg := cfg, excluded := 0, laneOver := [] }
    if !c.enable then s1.setLink l { y.abandonWidth with
        mode := .disabled, trained := false, resuming := false, lanesActive := 0, fresh := true }
    else (s1.setLink l y).wantWidth l
/-- SCL_CONFIG's link settings at the Sceolink island's switch (Table 12.9). -/
def State.sclSet (s : State) (c : SclConfigP) : State :=
  let x := s.link sclLink
  (s.setLink sclLink { x with cfg := { x.cfg with
    graceMs := c.graceMs, laneErrLimit := c.laneErrLimit, ackTimeoutUs := c.ackTimeoutUs, autoExclude := c.autoRemount } }).setScl
      fun t => { t with heartbeatMs := c.heartbeatMs }

end Sys2Proof.Machine
end

