-- ==== Sys2Proof/Machine/Sceolink.lean ====
section
/-! DEFINITION. Sceolink above its link layer: the companion's accesses, the shared window, companion data, Remount, sessions and attaching (R294 to R318, R319, R320, R423). -/

namespace Sys2Proof.Machine

/-! ## The device window (R319, R320, Tables 13.1 to 13.6) -/

/-- First address of the device window; partition windows follow, one per 4 KiB (R319). -/
def windowBase : Nat := 0x7F8000000000

/-- FMP_DEV_IDENT (Table 13.2). -/
def devIdent : Word := 0x6B1A#16 ++ 0x0D48#16 ++ Config.identFuses ++ 0#8
/-- Every stack has been wiped or kept (R237). -/
def State.wipeDone (s : State) : Bool := (List.range 12).all fun i => (s.stack i).wipeDone
/-- Flapino reads rings (Table 13.3). -/
def State.fwReady (s : State) : Bool := !s.reset_.active && s.flapinoUp
/-- FMP_DEV_STATUS (Table 13.3). -/
def State.devStatus (s : State) : Word :=
  0#32 ++ s.reset_.bootStage ++ 0#15 ++ BitVec.ofBool s.fl.activePair ++ 0#3 ++ BitVec.ofBool (decide (s.fl.fw ≠ .idle))
    ++ BitVec.ofBool (match s.fl.cut with | some c => c.cutSent | none => false) ++ BitVec.ofBool s.reset_.faultN ++ BitVec.ofBool s.wipeDone ++ BitVec.ofBool s.fwReady
/-- FMP_STRAP (Table 13.4). -/
def State.strapWord (s : State) : Word := 0#59 ++ BitVec.ofBool s.reset_.strapValid ++ s.reset_.strap
/-- FMP_FW_VERSION (Table 13.6); an update shows its version at its order 6 (Table 13.17). -/
def State.fwVersion (s : State) : Word :=
  0x0002#16 ++ 0#16 ++ (match s.fl.fw with | .health _ _ old => old | _ => s.fl.imageVersion)
/-- FMP_COMPAT_PROFILE (Table 17.11). -/
def LifeCycle.compatWord (x : LifeCycle) : Word := 0#40 ++ x.native ++ x.ceiling ++ x.presented
/-- FMP_LC_STATE (Table 17.7). -/
def LifeCycle.stateWord (x : LifeCycle) : Word :=
  0#32 ++ x.returns ++ x.ownerKeys ++ x.ownerRevoked ++ x.fwRevoked ++ 0#7 ++ BitVec.ofBool x.armed ++ x.state
/-- PWR_RESET_CAUSE (Table 16.2). -/
def ResetState.causeWord (x : ResetState) : Word := x.bootCount ++ 0#16 ++ resetCode x.kind ++ 0#2 ++ x.sources
/-- Session states as Table 12.6 codes them. -/
def sessionCode : SessionMode → BitVec 4
  | .none => 0
  | .attached => 1
  | .held => 2
  | .detached => 3
/-- SCL_SESSION (Table 12.13). -/
def SclState.sessionWord (x : SclState) : Word := x.number ++ 0#23 ++ BitVec.ofBool x.attachErr ++ 0#4 ++ sessionCode x.mode

/-- A register of the device window read (Table 13.1). -/
def State.deviceRead (s : State) (off : Nat) : Word :=
  match off with
  | 0x0000 => devIdent
  | 0x0008 => Config.serial
  | 0x0010 => s.lc.compatWord
  | 0x0018 => s.lc.stateWord
  | 0x0020 => s.devStatus
  | 0x0028 => s.strapWord
  | 0x0030 => s.epoch.setWidth 64
  | 0x0038 => s.fwVersion
  | 0x0040 => s.faults.status
  | 0x0048 => s.faults.last
  | 0x0050 => s.reset_.causeWord
  | 0x0200 => s.scl.sessionWord
  | _ => 0

/-! ## Boot image (R423) -/

/-- FAULT_N asserted, until a reset restarts the hub (R379, R398). -/
def State.assertFault (s : State) : State :=
  { s with reset_ := { s.reset_ with faultN := true }, faults := { s.faults with status := putBit s.faults.status 8 true } }
/-- The boot stops at a code of R398: FAULT_N is asserted, RSTOUT_N stays low. -/
def State.bootStop (s : State) (code : BitVec 8) : State :=
  ({ s with reset_ := { s.reset_ with bootStage := code } } : State).assertFault
/-- FMP_BOOT_IMAGE written: with boot source companion, order 5 reads the image by UC_RD on stream 269 (R423, Table 17.3). -/
def State.writeBootImage (s : State) (v : Word) : State :=
  if v.getLsbD 63 && s.reset_.active && s.reset_.bootStage == 0x04#8 && !s.reset_.strap.getLsbD 3 then
    let a := (v.extractLsb' 12 36).toNat * 4096
    let n := (v.extractLsb' 48 10).toNat * 4096
    (pieces a n).foldl (fun t p =>
      ({ t with scl := { t.scl with nextTag := t.scl.nextTag + 1 } } : State).sendReq
        ⟨t.scl.nextTag, 269, BitVec.ofNat 48 p.1, p.2, .bootImage, []⟩) { s with reset_ := { s.reset_ with bootImage := v } }
  else s
/-- FMP_BOOT_IMAGE_WRITE (R423). -/
def execFmpBootImageWrite (value : Word) (s : State) : Res := .next (s.writeBootImage value)

/-! ## Attaching (R309 to R315) -/

/-- A refused attach (R314). -/
def State.attachFails (s : State) : State := s.setScl fun t => { t with attachErr := true }
/-- What a new session does to a partition: its ring is unparked, its draft discarded, and ATTACHED posted (R314, R337). -/
def State.newSession (s : State) (p : PartId) : State :=
  (s.setPart p { s.part p with park := 0, rereads := 0, draft := [] }).raise p evAttached 5 (unitLink sclLink) (det 168 s.scl.number.toNat)
/-- A new-session attach (R314). -/
def State.attachNew (s : State) (n : BitVec 32) : State :=
  if (s.scl.mode = .none ∨ s.scl.mode = .detached) ∧ n = s.scl.number + 1 then
    let s1 := s.setScl fun t => { t with number := n }
    let s2 := s1.parts_.foldl (fun t p => t.newSession p) s1
    s2.attach.requeueTasks fun _ slow => slow
  else s.attachFails
/-- An attach in resume mode (R311, R314). -/
def State.attachResume (s : State) (n : BitVec 32) : State :=
  if s.scl.mode = .held ∧ s.scl.heldByHeartbeat ∧ (s.link sclLink).isUp ∧ n = s.scl.number then s.attach else s.attachFails
/-- DETACH: at once when nothing in the island is unsent or unacknowledged (R310). -/
def State.detach (s : State) : State :=
  if s.scl.mode = .attached then (s.setScl fun t => { t with detaching := true }).settleDetach else s
/-- SCL_ATTACH written (Table 12.14). -/
def State.writeAttach (s : State) (v : Word) : State :=
  match (v.extractLsb' 0 2).toNat with
  | 1 => s.attachNew (v.extractLsb' 32 32)
  | 2 => s.attachResume (v.extractLsb' 32 32)
  | 3 => s.detach
  | _ => s
/-- SCL_ATTACH_NEW (R314). -/
def execSclAttachNew (number : BitVec 32) (s : State) : Res := .next (s.attachNew number)
/-- SCL_ATTACH_RESUME (R311, R314). -/
def execSclAttachResume (number : BitVec 32) (s : State) : Res := .next (s.attachResume number)
/-- SCL_ATTACH_DETACH (R310). -/
def execSclAttachDetach (s : State) : Res := .next s.detach
/-- SCL_HEARTBEAT_WRITE (R310): the interval restarts; its length is timed outside the model (log 1). -/
def execSclHeartbeatWrite (_value : Word) (s : State) : Res := .next s
/-- HEARTBEAT_EXPIRY (R310). -/
def execHeartbeatExpiry (s : State) : Res :=
  when_ (s.scl.heartbeatMs != 0#16 && decide (s.scl.mode = .attached)) s (s.holdSession true)
/-- SESSION_FLUSH (R311): the session that is held ends. With no IDENT its grace has expired, and the link drops what the island holds; a link that is up keeps its sequence numbers (log 127). With the partner's IDENT the trained link makes a fresh start (R260), which flushes the session first. -/
def execSessionFlush (fresh : Option IdentRec) (s : State) : Res :=
  let x := s.link sclLink
  match fresh with
  | none => when_ (decide (s.scl.mode = .held)) s
      ((if x.mode = .held then s.flushLink sclLink else s.setLink sclLink x.emptied).sessionFlush x.discardedFlits)
  | some i => when_ (decide (s.scl.mode = .held) && x.trains && x.trained && !x.resuming && (x.mode != .held || x.asksFresh i)) s (s.startFresh sclLink i)

/-! ## The coherent shared window (R305, R306) -/

/-- Bytes of the shared window (R305). -/
def sharedBytes : Nat := 0x4000000
/-- An address in the shared window. -/
def State.inShared (s : State) (a n : Nat) : Bool := s.scl.sharedEnable && inRange a n s.scl.sharedBase.toNat sharedBytes
/-- The state of a line in the directory. -/
def State.lineState (s : State) (a : Nat) : Option LineState := tFind s.scl.directory (a / 64)
/-- The state of a line set; none is I. -/
def State.setLine (s : State) (a : Nat) (v : Option LineState) : State :=
  s.setScl fun t => { t with directory := match v with | some x => tSet t.directory (a / 64) x | none => tDel t.directory (a / 64) }
/-- A device access to a byte range in one line of the window: it waits for a snoop, or proceeds (R306). -/
def State.sharedAccess (s : State) (a : Nat) (write : Option (List Byte)) : State :=
  let line : Addr := BitVec.ofNat 48 (a / 64 * 64)
  let snoop := s.inShared a 1 && match s.lineState a, write with
    | some .m, _ => true
    | some .s, some _ => true
    | _, _ => false
  if snoop then
    let again := s.scl.snoops.any fun w => w.line.toNat / 64 == a / 64
    let s1 := s.setScl fun t => { t with snoops := t.snoops ++ [⟨BitVec.ofNat 48 a, write⟩] }
    if again then s1 else (s1.setScl fun t => { t with snoopCount := inc t.snoopCount }).toScl (.snpInv line)
  else match write with
    | some bs => s.put a bs
    | none => s
/-- SHARED_WINDOW_ACCESS (R306). -/
def execSharedWindowAccess (line : Addr) (write : Option (List Byte)) (s : State) : Res :=
  when_ (s.inShared line.toNat (max 1 ((write.getD []).length))) s (s.sharedAccess line.toNat write)
/-- SNP_ACK (R306): a returned line is written first, the line becomes I, and the accesses that waited proceed, a write over the line. -/
def execSnpAck (line : Addr) (data : Option (List Byte)) (s0 : State) : Res :=
  let s := s0.fromScl .bypass 0x31
  let here (w : SnoopWait) : Bool := w.line.toNat / 64 == line.toNat / 64
  when_ (s.scl.snoops.any here) s <|
    let s1 : State := match data with
      | some bs => s.put (line.toNat / 64 * 64) (bs.take 64)
      | none => s
    let ws := s1.scl.snoops.filter here
    let s2 := (s1.setLine line.toNat none).setScl fun t => { t with snoops := t.snoops.filter fun w => !here w }
    ws.foldl (fun t w => t.endSnoop w) s2

/-! ## Companion requests (R297, R299) -/

/-- A request breaks the limits of Table 12.4. -/
def badLimits (a n : Nat) : Bool := decide (n < 8) || decide (64 < n) || decide (a % 2048 + n > 2048)
/-- A register access: 8 bytes aligned to 8, in the device window or a partition window (R319). -/
def windowReg (a n : Nat) : Option Nat :=
  if n = 8 ∧ a % 8 = 0 ∧ windowBase ≤ a ∧ a < windowBase + 33 * 0x1000 then some (a - windowBase) else none
/-- D_DATA for a C_RD. -/
def State.dData (s : State) (tag : BitVec 16) (st : RespStatus) (bs : List Byte) : State := s.toScl (.dData tag st bs)
/-- A refused companion request counted (R299). -/
def State.refuseC (s : State) : State := s.setScl fun t => { t with cRefused := inc t.cRefused }
/-- C_RD (R299, R306, R319). -/
def execCRd (addr : Addr) (len : BitVec 12) (tag : BitVec 16) (s0 : State) : Res :=
  let s := s0.fromScl .request 0x20
  let a := addr.toNat
  if badLimits a len.toNat then .next ((s.setScl fun t => { t with kindDrop := inc t.kindDrop }).dData tag .refused [])
  else match windowReg a len.toNat with
    | some off =>
      let v := if off < 0x1000 then s.deviceRead off else s.windowRead (BitVec.ofNat 5 (off / 0x1000 - 1)) (off % 0x1000)
      .next (s.dData tag .ok (leBytes 8 v.toNat))
    | none =>
      if s.inShared a 64 && len == 64#12 && a % 64 == 0 then .next ((s.setLine a (some .s)).dData tag .ok (memRead s.mem a 64))
      else .next (s.refuseC.dData tag .refused [])

/-- A register of the device window written (Table 13.1): SCL_ATTACH, SCL_HEARTBEAT and FMP_BOOT_IMAGE take writes. -/
def State.deviceWrite (s : State) (off : Nat) (v : Word) : State :=
  match off with
  | 0x0060 => s.writeBootImage v
  | 0x0208 => s.writeAttach v
  | _ => s
/-- C_WR (R299, R306, R319). -/
def execCWr (addr : Addr) (data : List Byte) (s0 : State) : Res :=
  let s := s0.fromScl .request 0x21
  let a := addr.toNat
  let n := data.length
  if badLimits a n then .next (s.setScl fun t => { t with kindDrop := inc t.kindDrop })
  else match windowReg a n with
    | some off =>
      let v : Word := BitVec.ofNat 64 (leNat data)
      .next (if off < 0x1000 then s.deviceWrite off v else s.windowWrite (BitVec.ofNat 5 (off / 0x1000 - 1)) (off % 0x1000) v)
    | none =>
      if s.inShared a 64 && n == 64 && a % 64 == 0 then .next ((s.put a data).setLine a (some .m))
      else .next s.refuseC
/-- CSNP_INV (R307): the line is dropped and the answer goes at once. -/
def execCsnpInv (line : BitVec 47) (s : State) : Res :=
  .next (((s.fromScl .bypass 0x32).setScl fun t => { t with lineCache := t.lineCache.filter (· != line) }).toScl (.csnpAck line))
/-- SCEOLINK_PACKET_DROP (R297): a C_RD expects an answer. -/
def execSceolinkPacketDrop (kind : BitVec 8) (tag : BitVec 16) (s : State) : Res :=
  let s1 := (s.fromScl .request kind).setScl fun t => { t with kindDrop := inc t.kindDrop }
  .next (if kind = 0x20#8 then s1.dData tag .refused [] else s1)

/-! ## Answers from the companion (R301 to R307) -/

/-- Bytes laid into a buffer at an offset. -/
def placeAt (buf : List Byte) (off : Nat) (bs : List Byte) : List Byte :=
  padTo off (buf.take off) ++ bs ++ buf.drop (off + bs.length)
/-- n bytes that the spec leaves open: a read answered without data (log 45). -/
def State.freeBytes (s : State) : Nat → List Byte × State
  | 0 => ([], s)
  | n + 1 =>
    let r := s.freeBytes n
    let v := r.2.free
    (r.1 ++ [v.1.setWidth 8], v.2)
/-- A companion read that the answer names. -/
def isRead (stream : Nat) (tag : BitVec 16) (r : CompanionReq) : Bool := r.stream == stream && r.tag == tag && r.data.isEmpty
/-- A read answered leaves the list; an answer shows every earlier UC_WR of its stream to be visible (R298). -/
def answered (stream : Nat) (tag : BitVec 16) : List CompanionReq → List CompanionReq
  | [] => []
  | r :: rest =>
    if isRead stream tag r then rest
    else if r.stream == stream && !r.data.isEmpty && stream != 269 && rest.any (isRead stream tag) then answered stream tag rest
    else r :: answered stream tag rest

/-- The oldest record of a host's export ring is confirmed: produced moves on, in the index block too (R213). -/
def State.confirmExport (s : State) (p : PartId) : State :=
  let x := s.part p
  match x.exportRing with
  | some g =>
    match g.spanRecs with
    | r :: rest =>
      let g1 := { g with produced := g.produced + r.bytes, spanRecs := rest }
      (s.setPart p { x with exportRing := some g1 }).sharedAccess g.cfg.indexBlock.toNat (some (leBytes 8 g1.produced))
    | [] => s
  | none => s

/-- Companion data for an update unit: the read-back of the slow tier, or a group's moments; a failed read interrupts the update (R211, R212, R304). -/
def State.updateData (s : State) (q : RegionId) (a : Addr) (st : RespStatus) (bs : List Byte) : State :=
  let u := (s.region q).upd
  match u.run with
  | some k =>
    if st ≠ .ok then s.interruptUpdate q .slowTier
    else s.setUpd q { u with run := some (if k.readback = 1 then { k with readback := 2 } else { k with slow := k.slow ++ [(a, bs)] }) }
  | none => s

/-- Companion data for a guest READ: with the last of it the READ is answered (R285). -/
def State.guestData (s : State) (tag : BitVec 16) (a : Nat) (ok : Bool) (bs : List Byte) : State :=
  match s.guest.reads.find? fun r => r.tag == tag && decide (r.addr ≤ a) && decide (a < r.addr + r.want) with
  | none => s
  | some r =>
    let r1 := { r with got := r.got ++ [(a, bs)], bad := r.bad || !ok }
    let rest (l : List GuestRead) : State := { s with guest := { s.guest with reads := l } }
    if (r1.got.map fun g => g.2.length).sum < r.want then rest (updFirst (fun q => decide (q = r)) (fun _ => r1) s.guest.reads)
    else
      let data := r1.got.foldl (fun m g => placeAt m (g.1 - r.addr) g.2) []
      (rest (delFirst (fun q => decide (q = r)) s.guest.reads)).toGuest (if r1.bad then ⟨0x11, tag, 2, []⟩ else ⟨0x11, tag, 0, data⟩)

/-- A read of the slow tier fails a shard export: its series is void, and the command completes FAILED (R216, log 118). -/
def State.shardFails (s : State) (q : RegionId) (k : Nat) : State :=
  match s.fl.exports.find? fun x => decide (x.region = q) && decide (x.task = k) with
  | none => s
  | some x =>
    let t := s.task q k
    let e : ExportRec := { taskRec s t exAbandon x.step x.version 0 0 0 [] with ofShard := true }
    let s1 := ({ s with fl := { s.fl with exports := s.fl.exports.filter fun y => decide (y ≠ x) } } : State).dropReqs fun u => u == .shard q k
    (s1.export_ t.partition e).endBg x.run.part opExportShard fun u r => u.failed r rsState
/-- Companion data handed to what asked for it. -/
def State.deliverData (s : State) (r : CompanionReq) (st : RespStatus) (bs : List Byte) : State :=
  let at_ := r.addr.toNat + companionBase
  match r.use with
  | .fetch b =>
    let x := s.block b
    let base := match x.fetchQ with
      | c :: _ => match c.reads with | g :: _ => g.base | [] => at_
      | [] => at_
    s.setBlock b { x with fetchData := placeAt x.fetchData (at_ - base) bs }
  | .vec b => s.setBlock b { s.block b with vecData := (s.block b).vecData ++ [(at_, bs)] }
  | .ld b => s.setBlock b { s.block b with ldData := bs }
  | .update q => s.updateData q r.addr st bs
  | .exportBlock p => if st = .ok then s.confirmExport p else s.exportLost p
  | .shard q k => if st ≠ .ok then s.shardFails q k else { s with fl := { s.fl with exports := s.fl.exports.map fun e =>
      if e.region = q ∧ e.task = k then { e with got := e.got ++ [(r.addr, bs)] } else e } }
  | .guest tag => s.guestData tag at_ (decide (st = .ok)) bs
  | .bootImage => if st = .ok then s else s.bootStop 0xE0
  | _ => s

/-- An answer taken in: with a status other than OK its data is open. -/
def State.takeData (s : State) (q : CompanionReq) (r : RdDataMsg) : State :=
  let s1 := s.setScl fun t => { t with reqs := answered r.stream r.tag t.reqs }
  if r.status = .ok then s1.deliverData q r.status r.data
  else
    let v := s1.freeBytes q.len
    v.2.deliverData q r.status v.1

/-- WR_ACK (R307, R315, R328): the CO_WR counts as written; with the last line of a record its ring's tail moves. -/
def execWrAck (tag : BitVec 16) (s0 : State) : Res :=
  let s := s0.fromScl .response 0x19
  let isIt (r : CompanionReq) : Bool := r.stream == 269 && r.tag == tag && !r.data.isEmpty
  match s.scl.reqs.find? isIt with
  | none => .next s
  | some q =>
    let s1 := s.setScl fun t => { t with reqs := delFirst isIt t.reqs }
    match q.use with
    | .record p e => .next (if s1.hasReq (recordOf p e) then s1 else s1.ackRecord p e)
    | _ => .next s1

/-! ## Remount and narrowing (R294 to R296) -/

/-- A REMOUNT record that comes alone, with its flit's ack fields (R250, R295). -/
def remountRec (ack : FlitAck) (s : State) (k : State → State) : Res := .next (k (s.takeFlitAck sclLink ack))
/-- REMOUNT_REQ (R295): the transmitting end's answer. -/
def execRemountReq (ack : FlitAck) (r : RemountRec) (s : State) : Res := remountRec ack s fun t => t.remountReq r
/-- REMOUNT_ACCEPT (R295). -/
def execRemountAccept (dir : SclDir) (cmd : Carried (BitVec 8)) (s : State) : Res := remountRec cmd.ack s fun t => t.remountAccept dir cmd.body
/-- REMOUNT_REFUSE (R295). -/
def execRemountRefuse (dir : SclDir) (cmd : Carried (BitVec 8)) (s : State) : Res := remountRec cmd.ack s fun t => t.remountRefuse dir cmd.body
/-- REMOUNT_SWITCH (R295): the receiver applies the new map. -/
def execRemountSwitch (dir : SclDir) (cmd : Carried (BitVec 8)) (s : State) : Res := remountRec cmd.ack s fun t => t.remountSwitch dir cmd.body
/-- REMOUNT_TIMEOUT (R295): the REQ again, abandoned after 8 attempts. -/
def execRemountTimeout (dir : SclDir) (s : State) : Res :=
  match s.scl.remount dir with
  | some m => when_ (!m.accepted) s <|
      if m.attempts < 8 then (s.setScl fun t => t.setRemount dir (some { m with attempts := m.attempts + 1 })).sendRecs sclLink [.remount 1 m.msg]
      else s.setScl fun t => t.setRemount dir none
  | none => .next s

/-- Logical lanes of a direction in use. -/
def SclState.width (x : SclState) : SclDir → Nat
  | .tx => x.widthTx.toNat
  | .rx => x.widthRx.toNat
/-- The map of a direction. -/
def SclState.map (x : SclState) : SclDir → BitVec 80
  | .tx => x.mapTx
  | .rx => x.mapRx
/-- SCL_REMOUNT (R295, R318). -/
def execSclRemount (dir : SclDir) (logical : BitVec 4) (s : State) : Res :=
  s.cmd 0x0411 .package fun s r =>
    s.unless r (firstReason [(decide (s.scl.width dir ≤ logical.toNat), rsField)]) <|
      match (s.spareLanesOf dir).head? with
      | some i =>
        (if (s.scl.remount dir).isNone && (s.link sclLink).isUp then
          s.openRemount dir logical.toNat (laneAt (s.scl.map dir) logical.toNat) i 0 else s).ok r
      | none => s.rejected r rsState

/-- SCEOLINK_LANE_WINDOW (R295, R296): symbols corrected on each physical receive lane in 1 ms; every lane over its limit for the third time has failed. The transmit direction is watched by the companion. -/
def execSceolinkLaneWindow (dir : SclDir) (counts : List Nat) (s : State) : Res :=
  let x := s.link sclLink
  when_ (decide (dir = .rx) && x.isUp) s <|
    let hot := overLanes x counts
    let bad := ((List.range s.scl.widthRx.toNat).map (laneAt s.scl.mapRx)).filter fun p => decide (3 ≤ tGet 0 hot p)
    let y := { x with laneOver := hot }.tally fun c => { c with fecCorr := satAdd c.fecCorr counts.sum }
    if x.cfg.autoExclude then
      (s.setLink sclLink { y with excluded := bad.foldl (fun m p => putBit m p true) y.excluded, laneOver := bad.foldl tDel hot }).fixLanes
    else s.setLink sclLink y

/-! ## SCL_QUERY (R318) -/

/-- SCL_CFG (Table 12.9). -/
def State.sclCfgWord (s : State) : Word :=
  let c := (s.link sclLink).cfg
  s.scl.heartbeatMs ++ c.graceMs ++ 0#6 ++ c.laneErrLimit ++ 0#7 ++ c.ackTimeoutUs ++ 0#8 ++ BitVec.ofBool c.autoExclude ++ 0#1
/-- SCL_STATUS (Table 12.10). -/
def State.sclStatusWord (s : State) : Word :=
  0#22 ++ s.scl.sparesTx ++ s.scl.sparesRx ++ s.scl.widthTx ++ s.scl.widthRx ++ 0#12 ++ linkCode (s.link sclLink).mode
/-- SCL_SHARED (Table 12.12). -/
def State.sclSharedWord (s : State) : Word := 0#16 ++ s.scl.sharedBase.extractLsb' 26 22 ++ 0#25 ++ BitVec.ofBool s.scl.sharedEnable
/-- A lane map's two words (Table 12.11). -/
def mapWords (m : BitVec 80) : List Word := [m.setWidth 64, (m.extractLsb' 64 16).setWidth 64]
/-- SCL_QUERY (R318): Tables 12.9 to 12.13, the counters of R317 and the link counters. -/
def execSclQuery (s : State) : Res :=
  s.cmd 0x0412 .all fun s r =>
    let c := s.scl
    s.okData r ([s.sclCfgWord, s.sclStatusWord] ++ mapWords c.mapTx ++ mapWords c.mapRx ++ [s.sclSharedWord, c.sessionWord]
      ++ [c.remounts, c.kindDrop, c.cRefused, c.fenceErr, c.snoopCount, c.ringReread, c.ringStale, c.flushFlits, c.wrDrop, c.lineInval]
      ++ linkCounterWords (s.link sclLink).counters)

end Sys2Proof.Machine
end

