-- ==== Sys2Proof/Machine/Export.lean ====
section
/-! DEFINITION. The export engine: records laid out in a partition's ring, PAD and LOSS, spans for another package, shard exports (R213 to R218, R221). -/

namespace Sys2Proof.Machine

/-! ## The ring (R213 to R215) -/

/-- Bytes of a ring. -/
def ExportRing.size (g : ExportRing) : Nat := g.cfg.size.toNat
/-- The ring position behind the last record laid out: those of a host's ring count in produced only once they are confirmed (R213). -/
def ExportRing.tail (g : ExportRing) : Nat :=
  g.produced + if g.cfg.kind = .host then (g.spanRecs.map (·.bytes)).sum else 0
/-- Bytes of a record: its header and its payload padded to 64 (R214). -/
def exportBytes (e : ExportRec) : Nat := 64 + align64 e.payload.length
/-- Bytes of the PAD that a record of n bytes needs before it (R215). -/
def ExportRing.padFor (g : ExportRing) (n : Nat) : Nat :=
  let off := g.tail % g.size
  if g.size < off + n then g.size - off else 0
/-- A record of n bytes fits. -/
def ExportRing.fits (g : ExportRing) (n : Nat) : Bool := decide (g.tail + g.padFor n + n ≤ g.consumed + g.size)

/-- A record header (Table 8.7): its crc covers bytes 0 to 59 and the payload. -/
def exportHeader (dev : BitVec 16) (e : ExportRec) (seq : BitVec 32) (len : Nat) : List Byte :=
  let w : BitVec 480 := seq ++ e.aux ++ e.count ++ e.offset ++ e.version ++ e.step ++ BitVec.ofNat 32 len ++ e.job ++ dev ++ e.shard ++ 0#168 ++ e.type
  let bs := leBytes 60 w.toNat
  bs ++ leBytes 4 (crc32c (bs ++ e.payload)).toNat
/-- The record that a PAD is: no task's, nothing in its payload (R215). -/
def padRec : ExportRec := ⟨exPad, 0, 0, 0, 0, 0, 0, 0, [], false⟩

/-- The export engine's stream (R302). -/
def exportStream : Nat := 268
/-- Bytes put into the ring at its tail: to stacked memory, or to the companion with a read-back on the same stream (R213, R304). -/
def State.putRing (s : State) (p : PartId) (g : ExportRing) (bs : List Byte) (n : Nat) (seq : BitVec 32) (pad : Bool) : State :=
  let a := g.cfg.base.toNat + g.tail % g.size
  let r : SpanRec := ⟨seq, n, pad⟩
  if g.cfg.kind = .host then
    let s1 := s.setPart p { s.part p with exportRing := some { g with spanRecs := g.spanRecs ++ [r] } }
    let s2 := (pieces a bs.length).foldl
      (fun t c => t.companionReq exportStream c.1 c.2 (.exportBlock p) ((bs.drop (c.1 - a)).take c.2)) s1
    s2.companionReq exportStream (a + bs.length - 8) 8 (.exportBlock p) []
  else
    (s.put a bs).setPart p { (s.put a bs).part p with
      exportRing := some { g with produced := g.produced + n, spanRecs := g.spanRecs ++ [r] } }
/-- The partition's ring. -/
def State.exRing (s : State) (p : PartId) : ExportRing :=
  (s.part p).exportRing.getD ⟨⟨p, .none, 0, 0, 0, 0, 0, false⟩, 0, 0, [], 0, [], [], 0, false⟩
/-- A record laid out, with the PAD before it where it would pass the ring's end (R214, R215). -/
def State.layRecord (s : State) (p : PartId) (e : ExportRec) : State :=
  let g := s.exRing p
  let pad := g.padFor (exportBytes e)
  let s1 := if pad = 0 then s else s.putRing p g (exportHeader s.deviceId padRec g.seq (pad - 64)) pad g.seq true
  let h := s1.exRing p
  let bs := exportHeader s.deviceId e h.seq e.payload.length ++ padTo (align64 e.payload.length) e.payload
  (s1.putRing p { h with seq := h.seq + 1 } bs bs.length h.seq false).count fun c => { c with exportRecords := inc c.exportRecords }

/-- The LOSS record of a run of dropped records (Table 8.8). -/
def lossRec (r : BitVec 32 × Nat) : ExportRec := ⟨exLoss, 0, 0, 0, 0, r.1, 0, BitVec.ofNat 32 r.2, [], false⟩
/-- The ring changed. -/
def State.setRing_ (s : State) (p : PartId) (f : ExportRing → ExportRing) : State :=
  s.setPart p { s.part p with exportRing := (s.part p).exportRing.map f }
/-- The first run of dropped records covered by a LOSS record, when it fits (R217). -/
def State.layLoss (s : State) (p : PartId) : State :=
  let g := s.exRing p
  match g.runs with
  | r :: rest => if g.fits 64 then (s.setRing_ p fun h => { h with runs := rest }).layRecord p (lossRec r) else s
  | [] => s

/-- A shard export ends with its END record (R218). -/
def State.endShard (s : State) (e : ExportRec) : State :=
  if e.ofShard && e.type == exEnd then
    match s.fl.exports.find? fun x => (s.task x.region x.task).ventry == e.shard with
    | some x =>
      (({ s with fl := { s.fl with exports := s.fl.exports.filter fun y => decide (y ≠ x) } } : State).endBg x.run.part opExportShard
        fun t r => t.ok r)
    | none => s
  else s

/-- EXPORT_RECORD_APPEND (R214 to R217): the oldest record that waits, after a LOSS record that is due; one without room waits or is dropped. -/
def execExportRecordAppend (p : PartId) (s : State) : Res :=
  let g := s.exRing p
  when_ (decide (g.cfg.kind ≠ .none) && (g.cfg.kind != .host || s.attached)) s <|
    if !g.runs.isEmpty && g.fits 64 then s.layLoss p
    else match g.pending with
      | [] => s
      | e :: rest =>
        let s1 := s.setRing_ p fun h => { h with pending := rest }
        if g.runs.isEmpty && g.fits (exportBytes e) then (s1.layRecord p e).endShard e
        else if g.cfg.dropPolicy then
          ((s1.setRing_ p fun h => { h.lose h.seq 1 with seq := h.seq + 1 }).count fun c => { c with exportDrop := inc c.exportDrop }).endShard e
        else s.setRing_ p fun h => { h with waiting := true }

/-- Memory-side cycles for which update units waited for room: the spec times them and no command tells them (R217, log 4). -/
def State.countExportWait (s : State) (p : PartId) : State :=
  allRegions.foldl (fun t r =>
    let u := (t.region r).upd
    match u.run with
    | some k =>
      if k.entry.exportEn ∧ k.entry.partition = p then
        let v := t.free
        v.2.setUpd r { u with exportWait := satAdd u.exportWait (v.1.toNat % 2 ^ 32) }
      else t
    | none => t) s
/-- EXPORT_ROOM (R217): the host's consumed is read in the shared window; streaming resumes, or a LOSS record is written. -/
def execExportRoom (p : PartId) (s : State) : Res :=
  let g := s.exRing p
  let at_ := g.cfg.indexBlock.toNat + 8
  when_ (decide (g.cfg.kind ≠ .none)) s <|
    if g.cfg.kind = .host ∧ s.inShared at_ 8 ∧ s.lineState at_ = some .m then s.sharedAccess at_ none
    else
      let s1 := if g.cfg.kind = .host then s.setRing_ p fun h => { h with consumed := max h.consumed (min h.produced (memNat s.mem at_ 8)) } else s
      let h := s1.exRing p
      let room := match h.pending with | e :: _ => h.fits (exportBytes e) | [] => true
      let s2 := if h.waiting && room then (s1.countExportWait p).setRing_ p fun k => { k with waiting := false } else s1
      if g.cfg.kind = .host ∧ !s.attached then s2 else s2.layLoss p

/-! ## Spans for another package (R213) -/

/-- Whole records at the head of the unsent ones, up to span_max bytes and not past a PAD. -/
def takeSpan : Nat → List SpanRec → List SpanRec
  | _, [] => []
  | room, r :: rest => if r.pad || decide (room < r.bytes) then [] else r :: takeSpan (room - r.bytes) rest
/-- PADs at the head: their space is freed with the span before them (R215). -/
def takePads (rs : List SpanRec) : List SpanRec := rs.takeWhile (·.pad)
/-- A span of the partition is on its way. -/
def State.spanOut (s : State) (p : PartId) : Bool := s.hubSends.any fun h => match h.use with | .span q _ _ _ => q == p | _ => false

/-- A span's Relay descriptor: class 0, no Rider, the first record's seq and the record count in its body (R213); the spec names no source queue (log 50). -/
def spanDesc (s : State) (g : ExportRing) (start bytes : Nat) (first : BitVec 32) (n : Nat) : Descriptor :=
  descSeal { crc := 0, body := 0#96 ++ BitVec.ofNat 32 n ++ first, len1 := 0, ptr1 := 0, len0 := BitVec.ofNat 32 bytes
             ptr0 := BitVec.ofNat 48 (g.cfg.base.toNat + start % g.size), stream := false, relay := true, rider := false, epoch := s.epoch
             sendSeq := s.hubSeq, tag := 0, src := QAddr.mk s.deviceId ⟨0, 0⟩ 0 false, dst := g.cfg.queue &&& ~~~1#32 }

/-- EXPORT_SPAN_SEND (R213): one span at a time, by RELAY from the hub. -/
def execExportSpanSend (p : PartId) (s : State) : Res :=
  let g := s.exRing p
  when_ (decide (g.cfg.kind = .package) && !s.spanOut p) s <|
    let lead := takePads g.spanRecs
    let rest := g.spanRecs.drop lead.length
    let rs := takeSpan g.cfg.spanMax.toNat rest
    match rs with
    | [] => s
    | r :: _ =>
      let tailPads := takePads (rest.drop rs.length)
      let bytes := (rs.map (·.bytes)).sum
      let free := ((lead ++ tailPads).map (·.bytes)).sum + bytes
      let start := g.produced - ((g.spanRecs.drop lead.length).map (·.bytes)).sum
      let d := spanDesc s g start bytes r.seq rs.length
      let h : HubSend := ⟨d, some s.nextRelay, false, 0, .span p free r.seq rs.length⟩
      let s1 := s.setRing_ p fun k => { k with spanRecs := rest.drop (rs.length + tailPads.length) }
      let s2 : State := { s1 with
        hubSends := s1.hubSends ++ [h], hubSeq := s1.hubSeq + 1, nextRelay := s1.nextRelay + 1
        relays := s1.relays ++ [⟨s1.nextRelay, ⟨0, 0⟩, d, 0⟩] }
      s2.shipHub h

/-! ## Shard exports (R218) -/

/-- A series record of a shard export. -/
def shardRec (s : State) (x : ShardExport) (type : BitVec 8) (off count aux : Nat) (payload : List Byte) : ExportRec :=
  let t := s.task x.region x.task
  ⟨type, t.ventry, (s.stage t.stage).job, x.step, x.version, BitVec.ofNat 32 off, BitVec.ofNat 32 count, BitVec.ofNat 32 aux, payload, true⟩
/-- Records of at most 1 MiB over a byte string of `per` bytes a group of 16. -/
def seriesRecs (s : State) (x : ShardExport) (type : BitVec 8) (aux per : Nat) (bs : List Byte) : List ExportRec :=
  let groups := max 1 (mib / per)
  (enum (chunks (groups * per) bs)).map fun c => shardRec s x type (c.1 * groups) (c.2.length / per) aux c.2
/-- Bytes that a companion read covers, from what has come. -/
def gotBytes (got : List (Addr × List Byte)) (a n : Nat) : List Byte :=
  (got.filter fun g => inRange (g.1.toNat + companionBase) g.2.length a n).foldl (fun buf g => placeAt buf (g.1.toNat + companionBase - a) g.2) []
/-- The moments of a shard's current version, array by array. -/
def State.shardMoments (s : State) (t : Sys2Proof.TaskEntry) (v : VEntry) (got : List (Addr × List Byte)) : List (List Byte) :=
  (List.range (momArrays t)).map fun j =>
    let a := momAddr t v (momCur t v) j 0
    let n := momSize t * v.words
    if slowTier t then gotBytes got a n else memRead s.mem a n
/-- The STATE records and END of a shard export (Table 8.8). -/
def State.shardTail (s : State) (x : ShardExport) (moments : Bool) : State :=
  let t := s.task x.region x.task
  let v := ventryAt s.mem t.ventry.toNat
  let ms := if moments then s.shardMoments t v x.got else []
  let recs := (enum ms).flatMap fun m => seriesRecs s x exState m.1 (16 * momSize t) m.2
  let all := x.words ++ recs.flatMap (·.payload)
  (recs ++ [shardRec s x exEnd 0 x.groups (crc32c all).toNat []]).foldl (fun u e => u.export_ t.partition e) s

/-- What a shard export reads from stacked memory: the entry, the whole area of its current version, and its moments. -/
def shardReads (t : Sys2Proof.TaskEntry) (v : VEntry) (moments : Bool) : List Range :=
  [⟨t.ventry.toNat, ventryBytes⟩, ⟨(v.slot v.curSlot).base, v.shardBytes⟩]
    ++ if moments && !slowTier t then (List.range (momArrays t)).map fun j => ⟨momAddr t v (momCur t v) j 0, momSize t * v.words⟩ else []
/-- EXPORT_SHARD (R218, R221): BEGIN and FULL at once; STATE and END with them, or once the slow tier's moments have come. An error status of a read ends it FAILED before any record (log 118). -/
def execExportShard (region : RegionId) (index : BitVec 8) (moments : Bool) (s : State) : Res :=
  s.cmd opExportShard (s.taskScope region index.toNat) fun s r =>
    let t := s.task region index.toNat
    let v := ventryAt s.mem t.ventry.toNat
    s.unless r (firstReason [(!t.valid || !t.exportEn || (s.part t.partition).exportRing.isNone, rsState)]) <|
      let want := if moments && slowTier t then momArrays t * momSize t * v.words else 0
      let w := memRead s.mem (v.slot v.curSlot).base v.shardBytes
      let x : ShardExport := ⟨r, region, index.toNat, v.curVersion - 1, v.curVersion, v.groups, w, want, []⟩
      let recs := shardRec s x exBegin 0 0 v.shardBytes [] :: seriesRecs s x exFull 0 64 w
      let rd := s.readRanges (shardReads t v moments)
      let s1 := recs.foldl (fun u e => u.export_ t.partition e) (rd.1.startBg r)
      let s2 : State := { s1 with fl := { s1.fl with exports := s1.fl.exports ++ [x] } }
      if rd.2.isSome then rd.1.failed r rsState
      else if want = 0 then s2.shardTail x moments
      else (List.range (momArrays t)).foldl
        (fun u j => u.ucRead exportStream (momAddr t v (momCur t v) j 0) (momSize t * v.words) (.shard region index.toNat)) s2

/-- A shard export whose slow-tier moments have all come goes on to STATE and END (R218). -/
def State.settleShards (s : State) : State :=
  s.fl.exports.foldl (fun t x =>
    if 0 < x.want ∧ x.want ≤ (x.got.map fun g => g.2.length).sum then
      let y := { x with want := 0 }
      ({ t with fl := { t.fl with exports := updFirst (fun z => decide (z = x)) (fun _ => y) t.fl.exports } } : State).shardTail y true
    else t) s

/-- RD_DATA (R297, R298, R301 to R304). A read-back's end is READBACK_RETURN's. -/
def execRdData (r : RdDataMsg) (s0 : State) : Res :=
  let s := s0.fromScl .response 0x18
  match s.scl.reqs.find? (isRead r.stream r.tag) with
  | none => .next s
  | some q =>
    when_ (decide (r.status ≠ .ok) || r.data.length == q.len) s (s.takeData q r).settleShards

/-- EXPORT_QUERY (R221). -/
def execExportQuery (partition : PartId) (s : State) : Res :=
  s.cmd 0x0804 (.names partition) fun s r =>
    let g := s.exRing partition
    s.okData r [BitVec.ofNat 64 g.produced, BitVec.ofNat 64 g.consumed, g.seq.setWidth 64, g.drops]

end Sys2Proof.Machine
end

