-- ==== Sys2Proof/Machine/Fences.lean ====
section
/-! DEFINITION. Fences of blocks, quads, regions and partitions, spares and start-up tests, QUAD_REPAIR and margin tests (R22, R24, R359, R376, R377, R383, R387 to R389). -/

namespace Sys2Proof.Machine

/-! ## A block reset (R389, R406) -/

/-- The settings that a block loads when it starts, with nothing else of it kept (R344, R406). -/
def BlockState.fresh (x : BlockState) : BlockState :=
  { BlockState.reset with
    phys := x.phys, inReset := false, checkMode := x.checkMode, pairRole := x.pairRole, epoch := x.epoch, pEpoch := x.pEpoch
    estimates := x.estimates, cpls := x.cpls, fenced := x.fenced }
/-- A block that starts loads the committed settings of the current epoch (R344); queue depths stay at their reset (R359, R406). -/
def State.loadBlock (s : State) (b : BlockId) : State :=
  let o := s.owner b
  let m := match o with | some p => (s.part p).checkMode | none => 0
  s.setBlock b { s.block b with
    checkMode := m, pairRole := m == 0b10#2 && b.block.getLsbD 0, epoch := s.epoch
    pEpoch := match o with | some p => (s.part p).epoch | none => s.epoch
    jobVersion := s.blockJob b
    landed := (s.ringsOf b).map fun e => (e.1 % 128, e.2.landedPtr)
    estimates := match o with | some p => enum (s.part p).report.estimates | none => [] }
/-- A block reset: the island's state and its scratchpad (R406). -/
def State.resetBlock (s : State) (b : BlockId) : State :=
  let s1 := s.dropReqs (fun u => isReadOf b u || u == .fence b || u == .commitReadback b)
  (({ s1 with mem := memClear s1.mem (spadBase b) slotBytes } : State).setBlock b (s1.block b).fresh).loadBlock b

/-! ## Fencing a block (R22, R376) -/

/-- The Riders of a block's queues as void copies, oldest first in each queue. -/
def voidRiders (x : BlockState) : List (Nat × Descriptor) :=
  x.queues.flatMap fun e => (e.2.entries.filter (·.rider)).map fun d => (e.1, voidRider d)
/-- Descriptors of a block's queues that are not Riders. -/
def otherDescs (x : BlockState) : Nat := (x.queues.map fun e => (e.2.entries.filter fun d => !d.rider).length).sum

/-- Steps 1 to 3 of R376: a KILLED completion for an open group, the released messages left to drain, Riders kept void, the scratchpad lost. -/
def State.fenceCore (s : State) (b : BlockId) (swap : Bool) : State :=
  let x0 := s.block b
  if x0.fenced then s
  else
    let s1 := if x0.group.isSome then s.complete b (s.isChecker b) x0.groupTag stKilled 0 else s
    let s2 := s1.dropGroup b
    let x := s2.block b
    let n := otherDescs x
    let r := s2.region b.region
    let s3 := (s2.setRegion b.region { r with fenceDesc := satAdd r.fenceDesc n }).setBlock b { x with
      fenced := true, swapping := swap, running := false, report := false, core := .stopped, stall := .none, fetchQ := []
      voidCopies := voidRiders x, fenceDropped := n, queues := x.queues.map fun e => (e.1, { e.2 with entries := [], reserved := 0 }) }
    { s3 with mem := memClear s3.mem (spadBase b) slotBytes }

/-- The Stage Table entry of a partition that names a quad (R377). -/
def State.stageNaming (s : State) (p : PartId) (quadBit : Nat) : Option Nat :=
  (s.stages.find? fun e => e.2.valid && e.2.partition == p && e.2.quadMask.getLsbD quadBit).map (·.1)
/-- CRIMSON BLOCK_STATE_LOST when a stage of the block's partition depends on its quad (R377). -/
def State.stateLost (s : State) (b : BlockId) : State :=
  match s.owner b with
  | some p =>
    match s.stageNaming p b.quadBit with
    | some e => s.raiseBlock b evBlockStateLost (det 168 e)
    | none => s
  | none => s

/-- The four blocks of a logical quad. -/
def quadBlocks (r : RegionId) (q : Nat) : List BlockId := (List.range 4).map fun i => ⟨r, BitVec.ofNat 6 (4 * q + i)⟩
/-- A whole logical quad fenced (R22 step 4), with its events (R377). -/
def State.fenceQuad (s : State) (r : RegionId) (q : Nat) : State :=
  if (s.region r).fencedQuads.getLsbD q then s
  else
    let s1 := (quadBlocks r q).foldl (fun t b =>
      let t1 := t.fenceCore b false
      t1.setBlock b { t1.block b with swapping := false }) s
    let b : BlockId := ⟨r, BitVec.ofNat 6 (4 * q)⟩
    let x := s1.region r
    ((s1.setRegion r { x with fencedQuads := putBit x.fencedQuads q true }).raise (s.ownerOr0 b) evQuadFenced 2 (unitRegion r 4 0)
      (det 168 q)).stateLost b

/-! ## Spares (R22 step 3, R376 step 4, R389) -/

/-- Positions 64 to 67 that are free and usable. -/
def freeSpares (x : RegionState) : List Nat := (List.range 4).filter fun i => !x.spareUsed.getLsbD i && !x.spareBad.getLsbD i

/-- The waiting command of a repair or of a margin test told how a swap ended: the spare taken, or 0xFF. -/
def State.swapEnded (s : State) (b : BlockId) (spare : Nat) : State :=
  let s1 : State :=
    if s.fl.repair = some b then
      { s with fl := { s.fl with repair := none } }.endBg 0 opQuadRepair fun t r =>
        if spare = 0xFF then t.failed r rsState else t.okData r [BitVec.ofNat 64 spare]
    else s
  match s1.fl.margin with
  | none => s1
  | some m =>
    match m.swaps.find? fun w => w.1 == b with
    | none => s1
    | some w =>
      let rs := match m.results[w.2]? with
        | some e => setNth m.results w.2 (e.1, spare)
        | none => m.results
      { s1 with fl := { s1.fl with margin := some { m with results := rs, swaps := m.swaps.filter fun v => v.1 != b } } }

/-- The next fenced block of a region that waits for a spare: a free position goes under the start-up test for it, or its quad is fenced. `fuel` bounds the blocks. -/
def State.nextSpare (r : RegionId) : Nat → State → State
  | 0, s => s
  | fuel + 1, s =>
    let x := s.region r
    if x.testing.isSome then s
    else
      match (allBlocks.filter fun b => b.region == r).find? fun b => (s.block b).fenced && (s.block b).swapping with
      | none => s
      | some b =>
        match freeSpares x with
        | i :: _ => s.setRegion r { x with testing := some (64 + i, b) }
        | [] => State.nextSpare r fuel ((s.fenceQuad r (b.block.toNat / 4)).swapEnded b 0xFF)

/-- A block fenced and a spare sought for it (R22). -/
def State.fenceBlock (s : State) (b : BlockId) : State :=
  if (s.block b).fenced then s else State.nextSpare b.region 64 (s.fenceCore b true)

/-- A spare takes a fenced block's logical number: void copies in its queues, parked until BLOCK_RESUME (R376 step 4). -/
def State.takeSpare (s : State) (b : BlockId) (phys : Nat) : State :=
  let x := s.block b
  let s1 := (s.raiseBlock b evBlockFenced (det 168 phys ||| det 176 x.voidCopies.length ||| det 192 x.fenceDropped)).stateLost b
  let r := s1.region b.region
  let base : BlockState := { x.fresh with
    phys := some phys, fenced := false, core := .parked, parkCode := pkSpare }
  let y := x.voidCopies.foldl (fun z d => z.setQueue (BitVec.ofNat 7 d.1)
    { z.queue (BitVec.ofNat 7 d.1) with entries := (z.queue (BitVec.ofNat 7 d.1)).entries ++ [d.2] }) base
  (((s1.setRegion b.region { r with testing := none, spareUsed := putBit r.spareUsed (phys - 64) true }).setBlock b y).loadBlock b).swapEnded b phys

/-- A failing position: counted and marked unusable until the next start of its region (R389). -/
def RegionState.failSpare (x : RegionState) (phys : Nat) : RegionState :=
  { x with startupFail := inc x.startupFail, spareBad := if 64 ≤ phys then putBit x.spareBad (phys - 64) true else x.spareBad }

/-! ## Results of margin tests (R388) -/

/-- The eight bytes of one block's result. -/
def marginWord (e : MarginResult × Nat) : Word :=
  0#16 ++ BitVec.ofNat 8 e.2 ++ e.1.temp ++ e.1.rep ++ e.1.pattern ++ BitVec.ofNat 8 (if e.1.fail then 1 else 0) ++ BitVec.ofNat 8 e.1.phys
/-- The logical block at a physical position of a region, if any. -/
def State.blockAt (s : State) (r : RegionId) (phys : Nat) : Option BlockId :=
  (allBlocks.filter fun b => b.region == r).find? fun b => (s.block b).phys.getD b.block.toNat == phys
/-- The MARGIN_FAIL of a failing position. -/
def State.marginFail (s : State) (r : RegionId) (e : MarginResult × Nat) : State :=
  let d := det 168 e.1.pattern.toNat ||| det 176 e.1.rep.toNat ||| det 184 e.2
  match s.blockAt r e.1.phys with
  | some b => s.raise (s.ownerOr0 b) evMarginFail 1 (r ++ b.block ++ BitVec.ofNat 8 e.1.phys ++ 0#8) d
  | none => s.raise 0 evMarginFail 1 (r ++ 0#6 ++ BitVec.ofNat 8 e.1.phys ++ 0#8) d
/-- A margin test whose swaps are all resolved completes (Table 15.11, order 7). -/
def State.settleMargin (s : State) : State :=
  match s.fl.margin with
  | none => s
  | some m =>
    if m.results.isEmpty || !m.swaps.isEmpty then s
    else
      let s1 : State := { s with fl := { s.fl with margin := none } }
      let s2 := (m.results.filter fun e => e.1.fail).foldl (fun t e => t.marginFail (m.payload.region.setWidth 2) e) s1
      s2.endBg 0 opMarginTest fun t r => t.okData r (m.results.map marginWord)

/-! ## Start-up tests (R359, R383, R389) -/

/-- QUAD_REPAIR's return with every outcome known: the fence lifted, or the failing blocks' numbers returned (R359). -/
def State.endReturn (s : State) (r : RegionId) (q : Nat) (os : List (Nat × Bool)) : State :=
  let pos (b : BlockId) : Nat := (s.block b).phys.getD b.block.toNat
  let bad := (quadBlocks r q).filter fun b => os.any fun o => o.1 == pos b && !o.2
  let x := s.region r
  if bad.isEmpty then
    let s1 := (quadBlocks r q).foldl (fun t b =>
      let u := t.resetBlock b
      u.setBlock b { u.block b with fenced := false }) s
    (s1.setRegion r { x with returning := none, fencedQuads := putBit x.fencedQuads q false }).endBg 0 opQuadRepair fun t c => t.okData c []
  else
    (s.setRegion r { x with returning := none }).endBg 0 opQuadRepair fun t c =>
      t.okData c (bad.map fun b => BitVec.ofNat 64 (b.block.toNat % 4))

/-- A pair's two outcomes known (R383): a failing block is fenced and replaced; when both pass, both are fenced and PAIR_MISMATCH is raised. -/
def State.endPairTest (s : State) (b : BlockId) (os : List (Nat × Bool)) : State :=
  let c := pairOf b
  let failed (d : BlockId) : Bool := os.any fun o => o.1 == (s.block d).phys.getD d.block.toNat && !o.2
  let tag := (s.block b).groupTag
  let x := s.region b.region
  let s1 := s.setRegion b.region { x with pairTest := none }
  if !failed b && !failed c then
    ((s1.fenceBlock b).fenceBlock c).raiseBlock b evPairMismatch (det 168 c.block.toNat ||| det 200 tag.toNat)
  else
    let f (t : State) (d : BlockId) : State := if failed d then t.fenceBlock d else t.resetBlock d
    f (f s1 b) c

/-- STARTUP_TEST_COMPLETE (R389): the test of a spare for a fenced block, of a returning quad, of a mismatching pair, or of the spares when their region starts. -/
def execStartupTestComplete (region : RegionId) (phys : Nat) (pass : Bool) (s : State) : Res :=
  whenHere (decide (phys < 68)) s <|
    let x := s.region region
    let y := if pass then x else x.failSpare phys
    match x.testing, x.returning, x.pairTest with
    | some (p, b), _, _ =>
      when_ (decide (p = phys) && (s.block b).sendBuf.isEmpty) s <|
        let t := if pass then s.takeSpare b phys else s.setRegion region { y with testing := none }
        (State.nextSpare region 64 t).settleMargin
    | none, some (q, os), _ =>
      match s.blockAt region phys with
      | none => .next s
      | some b =>
        when_ (decide (b.block.toNat / 4 = q) && !os.any (fun o => o.1 == phys)) s <|
          let os' := os ++ [(phys, pass)]
          let t := s.setRegion region { y with returning := some (q, os') }
          if os'.length = 4 then t.endReturn region q os' else t
    | none, none, some (b, os) =>
      match s.blockAt region phys with
      | none => .next s
      | some d =>
        when_ ((d == b || d == pairOf b) && !os.any (fun o => o.1 == phys)) s <|
          let os' := os ++ [(phys, pass)]
          let t := s.setRegion region { y with pairTest := some (b, os') }
          if os'.length = 2 then t.endPairTest b os' else t
    | none, none, none => when_ (decide (64 ≤ phys) && (s.reset_.active || tGet false s.reset_.regionBooting region.toNat)) s (s.setRegion region y)

/-- BLOCK_REPORT (R22, R383): the sequencer fences the reporting block, or puts a mismatching pair under the start-up test. -/
def execBlockReport (b : BlockId) (s : State) : Res :=
  let x := s.block b
  when_ (x.report && !x.fenced) s <|
    let pair := s.isChecker b || s.isChecker (pairOf b)
    if pair && x.reran == some 4 then
      let m := if s.isChecker b then pairOf b else b
      let r := s.region b.region
      let quiet (t : State) (c : BlockId) : State := t.setBlock c { t.block c with report := false, running := false }
      (quiet (quiet s b) (pairOf b)).setRegion b.region { r with pairTest := some (m, []) }
    else s.fenceBlock b

/-- FENCE_DRAIN_TIMEOUT (R376 step 2): the remaining messages are dropped; a Rider among them is lost (R146). -/
def execFenceDrainTimeout (b : BlockId) (s : State) : Res :=
  let x := s.block b
  when_ (x.fenced && !x.sendBuf.isEmpty) s <|
    let n := x.sendBuf.length
    let r := s.region b.region
    let s1 := s.setRegion b.region { r with fenceDesc := satAdd r.fenceDesc n }
    let s2 := s1.setBlock b { x with sendBuf := [], fenceDropped := x.fenceDropped + n }
    let s3 := (s2.relays.filter fun t => t.block == b && !s2.hubSends.any fun h => h.relay == some t.num).foldl (fun t l => t.endRelay l) s2
    x.sendBuf.foldl (fun t e => if e.desc.rider then t.riderLost b e.desc else t) s3

/-! ## Regions and partitions (R24) -/

/-- A region fenced with every quad of it; partitions elsewhere lose only bandwidth and receive UMBER (R24). -/
def State.fenceRegion (s : State) (r : RegionId) : State :=
  if (s.region r).fenced then s
  else
    let others := s.parts_.filter fun p => !(s.partsOfRegion r).contains p
    let s1 := (s.interruptUpdate r .fence).setRegion r { (s.interruptUpdate r .fence).region r with fenced := true }
    let s2 := (List.range 16).foldl (fun t q => t.fenceQuad r q) s1
    others.foldl (fun t p => t.raise p evQuadFenced 2 (unitRegion r 3 0) 0) s2

/-- The quads of a partition fenced, and CRIMSON for it alone (R24). -/
def State.fencePart (s : State) (p : PartId) : State :=
  let quads := (List.range 64).filter fun i => (s.part p).quads.getLsbD i
  let s1 := quads.foldl (fun t i => t.fenceQuad (BitVec.ofNat 2 (i / 16)) (i % 16)) s
  if quads.any fun i => (s.stageNaming p i).isSome then s1
  else
    let i := quads.headD 0
    s1.raise p evBlockStateLost 1 (unitBlock s1 ⟨BitVec.ofNat 2 (i / 16), BitVec.ofNat 6 (i % 16 * 4)⟩) 0

/-! ## QUAD_REPAIR (R359) -/

/-- A logical quad free to be repaired or tested: of a DRAINED or FAILED partition, or of none (R359, R387). -/
def State.quadIdle (s : State) (r : RegionId) (q : Nat) : Bool :=
  match s.owner ⟨r, BitVec.ofNat 6 (4 * q)⟩ with
  | some p => (s.part p).mode == pDrained || (s.part p).mode == pFailed
  | none => true

/-- QUAD_REPAIR (R359): a background command. -/
def execQuadRepair (region : RegionId) (quad : BitVec 4) (action : BitVec 8) (block : BitVec 2) (s : State) : Res :=
  s.cmd opQuadRepair .package fun s r =>
    let q := quad.toNat
    let x := s.region region
    let b : BlockId := ⟨region, BitVec.ofNat 6 (4 * q + block.toNat)⟩
    s.unless r (firstReason [(decide (1 < action.toNat), rsField), (!s.quadIdle region q, rsState),
        (decide (action.toNat = 0) && (s.block b).fenced, rsState),
        (decide (action.toNat = 1) && (!x.fencedQuads.getLsbD q || x.returning.isSome), rsState)]) <|
      let s1 := s.startBg r
      if action = 0#8 then ({ s1 with fl := { s1.fl with repair := some b } }).fenceBlock b
      else s1.setRegion region { x with returning := some (q, []) }

/-! ## Margin tests (R387, R388) -/

/-- The positions that a margin test stresses. -/
def State.marginTargets (s : State) (x : MarginP) : List Nat :=
  let r : RegionId := x.region.setWidth 2
  if x.quad.toNat = 16 then (freeSpares (s.region r)).map (64 + ·)
  else (quadBlocks r x.quad.toNat).map fun b => (s.block b).phys.getD b.block.toNat
/-- Fields in range (Table 15.10). -/
def marginOk (x : MarginP) : Bool :=
  decide (x.region.toNat < 4) && decide (x.quad.toNat ≤ 16) && [0, 10, 20, 30, 40].contains x.offsetMv.toNat
    && decide (x.clockPct.toNat ≤ 10) && decide (x.action.toNat ≤ 1) && decide (x.patterns.toNat < 64)

/-- MARGIN_TEST (R387): the tested blocks stop and their scratchpads and queues are discarded (Table 15.11, orders 1 and 6). -/
def execMarginTest (x : MarginP) (s : State) : Res :=
  s.cmd opMarginTest .package fun s r =>
    let reg : RegionId := x.region.setWidth 2
    s.unless r (firstReason [(!marginOk x, rsField), (decide (x.quad.toNat ≠ 16) && !s.quadIdle reg x.quad.toNat, rsState)]) <|
      let s1 : State := { s.startBg r with fl := { (s.startBg r).fl with margin := some ⟨r, x, [], []⟩ } }
      if x.quad.toNat = 16 then s1 else (quadBlocks reg x.quad.toNat).foldl (fun t b => t.resetBlock b) s1

/-- MARGIN_TEST_COMPLETE (R388): the results of every tested position; with action 1 failing blocks are swapped, and failing spares are marked unusable. -/
def execMarginTestComplete (results : List MarginResult) (s : State) : Res :=
  match s.fl.margin with
  | none => .next s
  | some m =>
    let reg : RegionId := m.payload.region.setWidth 2
    when_ (m.results.isEmpty && decide (results.map (·.phys) = s.marginTargets m.payload) && !results.isEmpty) s <|
      let spares := decide (m.payload.quad.toNat = 16)
      let swaps : List (BlockId × Nat) :=
        if m.payload.action = 1#8 ∧ spares = false then
          (enum results).filterMap fun e => if e.2.fail then (s.blockAt reg e.2.phys).map fun b => (b, e.1) else none
        else []
      let s1 : State := { s with fl := { s.fl with margin := some { m with results := results.map fun e => (e, 0xFF), swaps := swaps } } }
      let s2 := if spares then
          (results.filter (·.fail)).foldl (fun t e =>
            t.setRegion reg { t.region reg with spareBad := putBit (t.region reg).spareBad (e.phys - 64) true }) s1
        else s1
      (swaps.foldl (fun t w => t.fenceBlock w.1) s2).settleMargin

end Sys2Proof.Machine
end

