-- ==== Sys2Proof/Machine/HubFaults.lean ====
section
/-! DEFINITION. Reports to the chip level, hub faults and control failover, the watchdog's consequences, and ERR_QUERY (R24, R378, R379, R391 to R393, R418; Tables 15.6, 15.12, 15.14). -/

namespace Sys2Proof.Machine

/-! ## Power domains (R409, Table 16.6) -/

/-- The physical quad of a block: four positions each, the spares' last. -/
def State.physQuad (s : State) (b : BlockId) : Nat := (s.block b).phys.getD b.block.toNat / 4
/-- A physical quad of a region is in service in a partition, or under test. -/
def State.quadUsed (s : State) (r : RegionId) (q : Nat) : Bool :=
  let x := s.region r
  let at_ (b : BlockId) : Bool := b.region == r && s.physQuad b == q
  (allBlocks.any fun b => at_ b && (s.owner b).isSome)
    || (match x.testing with | some (p, _) => p / 4 == q | none => false)
    || (match x.returning with | some (k, _) => (quadBlocks r k).any at_ | none => false)
    || (match x.pairTest with | some (b, _) => at_ b || at_ (pairOf b) | none => false)
    || (match s.fl.margin with
        | some m => m.payload.region.setWidth 2 == r && (if m.payload.quad.toNat = 16 then q == 16 else
            (quadBlocks r m.payload.quad.toNat).any at_)
        | none => false)
    || tGet false s.reset_.regionBooting r.toNat
/-- A domain is needed: it is off when Table 16.6 says so. -/
def State.domainUsed (s : State) (d : Nat) : Bool :=
  if d < 68 then s.quadUsed (BitVec.ofNat 2 (d / 17)) (d % 17)
  else if d < 72 then !(s.region (BitVec.ofNat 2 (d - 68))).fenced
  else if d < 75 then true
  else if d < 79 then (List.range 6).any fun i => (s.link (6 * (d - 75) + i)).cfg.enable
  else true
/-- The blocks of a physical quad. -/
def State.domainBlocks (s : State) (d : Nat) : List BlockId :=
  if d < 68 then allBlocks.filter fun b => b.region.toNat == d / 17 && s.physQuad b == d % 17 else []
/-- A block whose domain is off: in reset, its settings and its fence kept. -/
def State.blockOff (s : State) (b : BlockId) : State :=
  let x := s.block b
  let y : BlockState := { BlockState.reset with phys := x.phys, fenced := x.fenced, swapping := x.swapping, voidCopies := x.voidCopies, fenceDropped := x.fenceDropped }
  { s with blocks := if y = BlockState.reset then tDel s.blocks b.idx else tSet s.blocks b.idx y, mem := memClear s.mem (spadBase b) slotBytes }
/-- One domain switched off when nothing needs it. -/
def State.settleDomain (s : State) (d : Nat) : State :=
  if s.domainUsed d || s.power.domainsOff.getLsbD d then s
  else
    let s1 : State := { s with power := { s.power with domainsOff := putBit s.power.domainsOff d true } }
    (s.domainBlocks d).foldl (fun t b => t.blockOff b) s1
/-- Every domain that nothing needs switched off. -/
def State.settleDomains (s : State) : State := (List.range 80).foldl (fun t d => t.settleDomain d) s

/-! ## The release of regions (R398, R404, Table 16.3) -/

/-- Order 6 is over for a region: its fabric and its memory-side islands run and its bundles have trained, or it is fenced. A bundle to a neighbour that does not run stays closed (R279). -/
def State.regionStarted (s : State) (r : RegionId) : Bool :=
  let x := s.region r
  let near := [r + 1, r - 1].filter fun q => s.islandUp (.regionFabric q)
  x.fenced || (!x.inReset && ((List.range 3).all fun i => s.reset_.released.contains (.memSide (3 * r.toNat + i)))
    && (hubBundles ++ near.flatMap fun q => nearBundles q r).all fun b => let m := (s.bundle r b).mode; m == bdInService || m == bdOut)
/-- Every block island of a region is out of reset, fenced, or in a domain that is off. -/
def State.blocksOut (s : State) (r : RegionId) : Bool :=
  (s.region r).fenced || (allBlocks.filter fun b => b.region == r).all fun b =>
    !(s.block b).inReset || (s.block b).fenced || s.power.domainsOff.getLsbD (17 * r.toNat + s.physQuad b)
/-- Every stack of a region that runs has been wiped, or kept. -/
def State.stacksDone (s : State) (r : RegionId) : Bool :=
  (s.region r).fenced || (List.range 3).all fun i => (s.stack (3 * r.toNat + i)).wipeDone
/-- The boot stage that follows once what it waits for is done; orders 6 to 9. -/
def State.nextStage (s : State) : Option (BitVec 8) :=
  match s.reset_.bootStage.toNat with
  | 0x06 => if allRegions.all fun r => s.regionStarted r then some 0x07 else none
  | 0x07 => if allRegions.all fun r => s.stacksDone r then some 0x08 else none
  | 0x08 => if allRegions.all fun r => s.blocksOut r then some 0x09 else none
  | 0x09 => if (List.range 24).all fun p => s.reset_.released.contains (.port p) then some 0x0A else none
  | _ => none
/-- The boot goes on as far as it can; `fuel` bounds the stages. -/
def State.advance : Nat → State → State
  | 0, s => s
  | n + 1, s =>
    match s.nextStage with
    | some k =>
      State.advance n { s with
        reset_ := { s.reset_ with bootStage := k }, preserved := s.preserved || (k == 0x08#8 && s.reset_.kind == .warmPreserve) }
    | none => s
/-- A region that REGION_RESET restarts is back: the command completes. -/
def State.regionBack (s : State) (r : RegionId) : State :=
  if !s.reset_.active && tGet false s.reset_.regionBooting r.toNat && s.regionStarted r && s.stacksDone r && s.blocksOut r then
    ({ s with reset_ := { s.reset_ with regionBooting := tDel s.reset_.regionBooting r.toNat } } : State).endBg 0 opRegionReset fun t c => t.ok c
  else s
/-- What a step of a start completes: the next boot stages, or a region's restart. -/
def State.settleBoot (s : State) : State :=
  if s.reset_.active then State.advance 4 s else allRegions.foldl (fun t r => t.regionBack r) s

/-! ## Hub faults (R379, Table 15.6) -/

/-- A bit of HUB_FAULT_STATUS set. -/
def State.setFault (s : State) (bit : Nat) : State := { s with faults := { s.faults with status := putBit s.faults.status bit true } }
/-- A fatal fault of a hub unit: FAULT_N is asserted, and the first one's unit kept (Table 15.12). -/
def State.fatalFault (s : State) (bit unit : Nat) : State :=
  let w := s.faults.status
  let first := if w.extractLsb' 0 4 = 0#4 then w ||| BitVec.ofNat 64 (unit <<< 24) else w
  (({ s with faults := { s.faults with status := first } } : State).setFault bit).assertFault
/-- UMBER UNIT_DEGRADED to every partition. -/
def State.unitDegraded (s : State) (bit unit : Nat) : State :=
  (s.setFault bit).raiseAll s.parts_ evUnitDegraded 3 (unitHub unit 0) (det 168 unit)
/-- CRIMSON HUB_FAULT to every partition, with the unit's crossings closed. -/
def State.unitFails (s : State) (bit unit : Nat) : State :=
  let s1 : State := { s with closed := if s.closed.contains .hub then s.closed else s.closed ++ [.hub] }
  (s1.fatalFault bit unit).raiseAll s.parts_ evHubFault 3 (unitHub unit 0) (det 168 unit)
/-- The security engine degrades: commands of subject 0x07 complete REJECTED with reason 0x08. -/
def State.securityDegraded (s : State) : State :=
  ({ s with lc := { s.lc with securityFault := true } } : State).unitDegraded 5 0x03
/-- The telemetry island fails: every block island is limited to 0.88 GHz until reset. -/
def State.telemetryDegraded (s : State) : State :=
  let p := s.power
  let mhz : BitVec 12 := if 880 < p.blockMhz.toNat then 880 else p.blockMhz
  ({ s with power := { p with telemetryFault := true, blockMhz := mhz, slewMhz := mhz } } : State).unitDegraded 4 0x04
/-- An operation of the export engine fails: the record is dropped (R217). -/
def State.exportFails (s : State) (p : PartId) : State :=
  match (s.part p).exportRing with
  | some g =>
    match g.pending with
    | _ :: rest =>
      (s.setRing_ p fun h => ({ h with pending := rest, seq := h.seq + 1 } : ExportRing).lose g.seq 1).count fun h => { h with exportDrop := inc h.exportDrop }
    | [] => s
  | none => s
/-- A hub fault handled by Table 15.6. -/
def State.hubFault (s : State) : HubFaultKind → State
  | .security => s.securityDegraded
  | .telemetry => s.telemetryDegraded
  | .crossbar => s.unitFails 1 0x00
  | .collector => s.unitFails 2 0x01
  | .alwaysOn => s.unitFails 3 0x05
  | .collectiveOp k =>
    match s.instances.find? fun i => i.plan == k with
    | some i => s.failInstance i causeMemory true
    | none => s
  | .exportOp p => s.exportFails p
  | .linkOp num =>
    match s.relays.find? fun r => r.num == num with
    | some r => s.cancelRelay r
    | none => s
  | .versionOp e => s.raise (s.stage e).partition evHubFault 3 (unitHub 0x07 e.toNat) (det 168 0x07)
  | .routing dst =>
    (s.count fun h => { h with noRoute := inc h.noRoute }).raise 0 evNoRoute 3 (unitHub 0x0B 0) (det 168 dst.toNat)
  | .workList p => s.raise p evCheckRerun 3 (unitHub 0x0D p.toNat) (det 168 1)

/-- HUB_FAULT (R379). -/
def execHubFault (k : HubFaultKind) (s : State) : Res := .next (s.hubFault k)

/-- REGION_REPORT (R24): a quad, a partition's resources, a region's shared resources, or the hub itself. -/
def execRegionReport (rep : ChipReport) (s : State) : Res :=
  .next <| match rep with
    | .quadFault r q => s.fenceQuad r q.toNat
    | .partitionFault p => if s.partExists p then s.fencePart p else s
    | .regionFault r => ((s.fenceRegion r).settleDomain (68 + r.toNat)).settleBoot
    | .hubFault k => s.hubFault k

/-! ## The control pairs (R379, R347, R418) -/

/-- The command in progress completes FAILED with reason 0x02 and has no effect. -/
def State.dropCurrent (s : State) : State :=
  match s.fl.current with
  | some r => ({ s with fl := { s.fl with current := none } } : State).failed r rsState
  | none => s
/-- The health window has failed: the old pair takes control back with the old image (R347). -/
def State.takeBack (s : State) (r : Running) (old : BitVec 32) : State :=
  let f := s.fl
  let s1 : State := { s with
    fl := { f with fw := .idle, activePair := !f.activePair, imageVersion := old, standbyVersion := f.imageVersion, lastUpdate := cdFailed }
    lc := { s.lc with measurements := tDel (match tFind s.lc.measurements 6 with
      | some m => tSet s.lc.measurements 2 m
      | none => s.lc.measurements) 6 } }
  (s1.dropBg 0 opFwUpdate).failed r rsStart
/-- The standby pair takes over; the pair that failed is no standby (log 61). -/
def State.takeOver (s : State) : State :=
  let f := s.fl
  let s1 : State := { s with fl := { f with activePair := !f.activePair, standbyHealthy := false } }
  ((s1.dropCurrent.setFault 6).setFault 7).raiseAll s.parts_ evControlFailover 3 (unitHub 0x02 0)
    (det 168 (if f.activePair then 0 else 1))
/-- No healthy standby: rings are no longer read, and FAULT_N is asserted. -/
def State.controlStops (s : State) : State := (s.fatalFault 0 0x02).setFault 7
/-- The active control pair fails by a lockstep mismatch or the watchdog; a self-update that has not handed over fails with it (log 69). -/
def State.controlFails (s : State) : State :=
  match s.fl.fw with
  | .health r _ old => if s.fl.standbyHealthy then s.dropCurrent.takeBack r old else s.controlStops
  | .started r _ =>
    let s1 : State := { s with fl := { s.fl with fw := .idle, standbyVersion := s.fl.imageVersion, lastUpdate := cdFailed } }
    let s2 := (s1.dropBg 0 opFwUpdate).failed r rsStart
    if s.fl.standbyHealthy then s2.takeOver else s2.controlStops
  | _ => if s.fl.standbyHealthy then s.takeOver else s.controlStops

/-- CONTROL_FAILOVER (R379). -/
def execControlFailover (s : State) : Res := when_ (!s.reset_.active && s.flapinoUp) s s.controlFails

/-! ## ERR_QUERY (R393) -/

/-- An error record as words (Table 15.2). -/
def errorWords (e : ErrorRecord) : List Word := byteWords (errorBytes e)
/-- A partition's error counters (Table 15.13), then those of the regions and of the hub. -/
def State.errCounters (s : State) (p : PartId) : List Word :=
  let x := s.part p
  [x.grey, x.amber, x.umber, x.crimson, x.masked, x.merged] ++ (allRegions.flatMap fun r => [(s.region r).fenceDesc, (s.region r).startupFail])
    ++ [s.hub.pathPerr]
/-- Entries in the order of their creation; `fuel` bounds them. -/
def entriesInOrder : Nat → List ErrEntry → List ErrEntry
  | 0, _ => []
  | n + 1, es =>
    match firstEntry es with
    | some e => e :: entriesInOrder n (delFirst (fun f => f.no == e.no) es)
    | none => []
/-- ERR_QUERY (R393): the counters, HUB_FAULT_STATUS, HUB_FAULT_LAST and the unwritten entries with their follow-ons (log 24). -/
def execErrQuery (partition : BitVec 8) (s : State) : Res :=
  s.cmd 0x0601 .all fun s r =>
    let p : PartId := if partition = 0xFF#8 then r.part else partition.setWidth 5
    s.unless r (firstReason [(partition != 0xFF#8 && decide (31 < partition.toNat), rsField), (p != r.part && r.part != 0#5, rsScope)]) <|
      let es := (s.part p).errs
      let unwritten := (entriesInOrder es.length es).flatMap fun e =>
        (if e.writing then [] else [e.record]) ++ (match e.follow with | some f => [f] | none => [])
      s.okData r (s.errCounters p ++ [s.faults.status, s.faults.last] ++ unwritten.flatMap errorWords)

end Sys2Proof.Machine
end

