-- ==== Sys2Proof/Machine/Cinch.lean ====
section
/-! DEFINITION. Cinch: the order of CINCHes, prepare, the cut island by island, its end and its timeout (R340 to R345, Tables 13.15 and 13.16). -/

namespace Sys2Proof.Machine

/-! ## Islands (R341, R344) -/

/-- The 319 islands of Table 1.3. -/
def allIslands : List Island :=
  allBlocks.map Island.block ++ allRegions.map Island.regionFabric ++ (List.range 12).map Island.memSide ++ (List.range 24).map Island.port
    ++ (allRegions.flatMap fun r => (List.range 4).map fun k => Island.spare r (BitVec.ofNat 2 k))
    ++ [.sceolink, .hubCrossbar, .collector, .security, .telemetry, .control, .alwaysOn]
/-- The running islands. -/
def State.runningIslands (s : State) : List Island := allIslands.filter fun i => s.islandUp i

/-- An island holds a setting that a command changes (Table 11.1). -/
def State.holds (s : State) (c : DraftCmd) (i : Island) : Bool :=
  let own (p : PartId) (b : BlockId) : Bool := s.partHas p b
  match c.setting, i with
  | .partCreate x, .block b => x.quadMask.getLsbD b.quadBit
  | .partDestroy p, .block b => own (p.setWidth 5) b
  | .partQuads p m, .block b => ((s.part (p.setWidth 5)).quads ||| m).getLsbD b.quadBit
  | .partCheckMode _, .block b => own c.target b
  | .partCheckMode _, .hubCrossbar => true
  | .reportSet _, .block b => own c.target b
  | .reportSet _, .telemetry => true
  | .reportSet _, .hubCrossbar => false
  | .queueConfig x, .block b => own x.partition b
  | .updTaskSet r _ _, i => decide (i = .memSide (3 * r.toNat))
  | .updTaskClear r _, i => decide (i = .memSide (3 * r.toNat))
  | .updParamSet r _ _, i => decide (i = .memSide (3 * r.toNat))
  | .updSchedSet r _ _, i => decide (i = .memSide (3 * r.toNat))
  | .memClassSet _ _ _ _, .memSide _ => true
  | .linkConfig x, .port p => x.portMask.getLsbD p
  | .linkConfig _, .hubCrossbar => false
  | .sclConfig _, .sceolink => true
  | .powerLimitSet _, .telemetry => true
  | .powerLimitSet _, .hubCrossbar => false
  | _, .hubCrossbar => true
  | _, _ => false
/-- The running islands that hold an affected setting, the banks of partition epochs among them (Table 13.15, order 1). -/
def State.preparing (s : State) (cs : List DraftCmd) : List Island :=
  let ps := draftParts cs
  s.runningIslands.filter fun i => cs.any (fun c => s.holds c i) || (match i with | .block b => ps.any fun p => s.partHas p b | _ => false)

/-! ## What an island switches to -/

/-- The depths that QUEUE_CONFIG gives a block, by its lane in the partition as the draft leaves it (R140, R91). -/
def queueSet (t : State) (b : BlockId) (x : BlockState) (c : DraftCmd) : BlockState :=
  match c.setting with
  | .queueConfig q =>
    let p := t.part q.partition
    let lane := (enum (laneBlocks p.quads (p.checkMode == 0b10#2))).any fun e =>
      (e.2 == b || (p.checkMode == 0b10#2 && e.2 == pairOf b)) && q.blockMask.getLsbD e.1
    if lane then
      let area := 64 * q.depths.sum
      let y := (enum q.depths).foldl (fun z d => z.setQueue (BitVec.ofNat 7 d.1) { z.queue (BitVec.ofNat 7 d.1) with depth := d.2 }) x
      { y with
        stallPolicy := q.stallPolicy.setWidth 2, stallLimit := q.stallLimitLog2.setWidth 5, queueBytes := BitVec.ofNat 22 area
        userBase := BitVec.ofNat 22 ((if x.workSize then 0x100000 else 0x80000) + area) }
    else x
  | _ => x
/-- A block switches banks and takes the epochs; an open group whose snapshot trails by 2³⁰ is marked (R106, R345). `t` has the draft's settings. -/
def blockSwitch (t : State) (cs : List DraftCmd) (e : Epoch) (b : BlockId) (x : BlockState) : BlockState :=
  let o := t.owner b
  let m := match o with | some p => (t.part p).checkMode | none => 0
  let y := cs.foldl (fun z c => queueSet t b z c) x
  { y with
    checkMode := m, pairRole := m == 0b10#2 && b.block.getLsbD 0
    estimates := match o with | some p => enum (t.part p).report.estimates | none => []
    epoch := e
    pEpoch := match o with | some p => (if (draftParts cs).contains p then e else (t.part p).epoch) | none => e
    group := y.group.map fun g => { g with stale := g.stale || epochTrails g.snap.epoch e } }

/-- The hub crossbar switches: the hub's settings, the device epoch, and the epochs of the partitions that the draft changes (R339); BLK_JOB_VERSION follows the Stage Table (R151, R166). -/
def State.hubSwitch (s : State) (cs : List DraftCmd) (e : Epoch) : State :=
  let s1 := cs.foldl (fun t c => hubSet c t) s
  let s2 := (draftParts cs).foldl (fun t p => if t.partExists p then t.setPart p { t.part p with epoch := e } else t) s1
  ({ s2 with epoch := e } : State).syncJobs

/-- The SHA-256 measurement of the committed firewall settings (Table 17.4, M5). -/
def fwMeasure (g : GuestState) : BitVec 256 :=
  let win (w : FwWindow) : List Byte :=
    leBytes 4 w.base64k.toNat ++ leBytes 4 w.end64k.toNat ++ [BitVec.ofNat 8 ((w.memop.toNat * 2 + w.write.toNat) * 4 + w.read.toNat * 2 + w.valid.toNat)]
  let que (q : FwQueue) : List Byte := leBytes 4 q.required.toNat ++ leBytes 4 q.mask.toNat ++ leBytes 4 q.replyTo.toNat ++ [BitVec.ofNat 8 q.valid.toNat]
  Config.sha256 ([BitVec.ofNat 8 g.enable.toNat, BitVec.ofNat 8 g.partition.toNat] ++ g.windows.flatMap win ++ g.queues.flatMap que
    ++ leBytes 2 g.rate.descRate.toNat ++ leBytes 2 g.rate.burstKib.toNat ++ leBytes 2 g.rate.byteRate.toNat)
/-- M5 recomputed at a Cinch that changes the firewall. -/
def State.measureFw (s : State) (cs : List DraftCmd) : State :=
  if cs.any fun c => match c.setting with | .guestFwSet _ => true | _ => false then
    { s with lc := { s.lc with measurements := tSet s.lc.measurements 5 (fwMeasure s.guest) } }
  else s

/-- One island's bank switched (Table 13.15, order 4); what another island holds does not change. -/
def State.switchBank (s : State) (cs : List DraftCmd) (e : Epoch) : Island → State
  | .block b => s.setBlock b (blockSwitch (draftState s cs) cs e b (s.block b))
  | .memSide k => if k % 3 = 0 then cs.foldl (fun t c => updSet (BitVec.ofNat 2 (k / 3)) c t) s else s
  | .port p => cs.foldl (fun t c => match c.setting with | .linkConfig x => t.portSet x p | _ => t) s
  | .sceolink => cs.foldl (fun t c => match c.setting with | .sclConfig x => t.sclSet x | _ => t) s
  | .hubCrossbar => (s.hubSwitch cs e).measureFw cs
  | .telemetry => cs.foldl (fun t c => telemetrySet c t) s
  | _ => s
/-- Settings of islands that take no part, as they will load them when they start (R344): a block loads its own then. -/
def State.switchIdle (s : State) (cs : List DraftCmd) (e : Epoch) : State :=
  (allIslands.filter fun i => !s.islandUp i && (match i with | .block _ => false | _ => true)).foldl (fun t i => t.switchBank cs e i) s

/-! ## The cut -/

/-- The draft of a cut. -/
def State.cutDraft (s : State) (c : Cut) : List DraftCmd := (s.part c.part).draft
/-- The cut's own record changed. -/
def State.putCut (s : State) (c : Cut) : State := { s with fl := { s.fl with cut := some c } }
/-- Every island has answered PREPARED: the new epoch is fixed and CUT is sent (Table 13.15, order 2). -/
def State.sendCut (s : State) (c : Cut) : State :=
  if c.prepared.isEmpty && !c.cutSent then
    let up := s.runningIslands
    let e := s.epoch + 1
    ({ s with fl := { s.fl with cut := some { c with newEpoch := e, cutSent := true, unswitched := up, unacked := up } } } : State).switchIdle
      (s.cutDraft c) e
  else s.putCut c
/-- Prepare: the settings go to the spare banks (Table 13.15, order 1). -/
def State.startCut (s : State) (r : Running) : State :=
  s.sendCut ⟨r.part, r.hdr, r.seq, 0, s.preparing (s.part r.part).draft, false, [], [], []⟩

/-- Steps 2 to 4 of R340: the epoch, the draft checked again, an empty draft; `go` is what follows them. -/
def State.tryCinch (s : State) (r : Running) (go : State) : State :=
  let cs := (s.part r.part).draft
  if staleHdr r.hdr.epoch (s.part r.part).epoch then s.cmdDone r cdStale 0 0 []
  else
    match s.conflicts cs with
    | [] => if cs.isEmpty then s.ok r else go
    | ks => s.cmdDone r cdRejected rsDraftCheck 0 (byteWords (ks.flatMap conflictBytes))

/-- A Cinch, or a self-update, is in progress (R340 step 1, R346). -/
def State.cinchWaits (s : State) : Bool := s.fl.cut.isSome || !s.fl.waitingCinch.isEmpty || s.fl.fw != .idle

/-- CINCH (R340): steps 1 to 4; its cut starts with CUT_START. -/
def execCinch (s : State) : Res :=
  match s.fl.current with
  | none => .next s
  | some r =>
    when_ (r.hdr.opcode == 0x0502#16) s <|
      let s1 : State := { s with fl := { s.fl with current := none } }
      let wait : State := { s1 with fl := { s1.fl with waitingCinch := s1.fl.waitingCinch ++ [⟨r.part, r.hdr, r.seq⟩] } }
      if s.cinchWaits then wait else s1.tryCinch r wait

/-- CUT_START (R340 step 5): a millisecond has passed since the previous cut's start. -/
def execCutStart (s : State) : Res :=
  match s.fl.waitingCinch with
  | [] => .next s
  | w :: rest =>
    when_ (s.fl.cut.isNone && decide (s.fl.fw = .idle) && s.flapinoUp) s <|
      let r : Running := ⟨w.part, w.hdr, w.seq⟩
      let s1 : State := { s with fl := { s.fl with waitingCinch := rest } }
      s1.tryCinch r (s1.startCut r)

/-- PREPARED (R341). -/
def execPrepared (i : Island) (s : State) : Res :=
  match s.fl.cut with
  | none => .next s
  | some c => when_ (c.prepared.contains i) s (s.sendCut { c with prepared := c.prepared.filter fun j => j != i })

/-- An island reaches its safe point: it switches, takes the epoch, marks its outbound crossings and acknowledges. -/
def State.switchIsland (s : State) (c : Cut) (i : Island) : State :=
  if c.unswitched.contains i then
    (s.switchBank (s.cutDraft c) c.newEpoch i).putCut { c with unswitched := c.unswitched.filter fun j => j != i }
  else s.putCut c

/-- CUT_RECEIVED (R341). -/
def execCutReceived (i : Island) (s : State) : Res :=
  match s.fl.cut with
  | none => .next s
  | some c => when_ (c.cutSent && c.unswitched.contains i) s (s.switchIsland c i)

/-- MARKER_RECEIVED (R341): a marker of an island that has switched; the old bank is released once every inbound crossing is marked. -/
def execMarkerReceived (i source : Island) (s : State) : Res :=
  match s.fl.cut with
  | none => .next s
  | some c =>
    when_ (c.cutSent && c.unacked.contains i && !c.unswitched.contains source && !c.markers.contains (i, source)) s <|
      s.switchIsland { c with markers := c.markers ++ [(i, source)] } i

/-- The cut is over: the draft is emptied and the CINCH completes (R340 step 6). -/
def State.endCut (s : State) (c : Cut) (flags : BitVec 8) : State :=
  let s1 : State := { s with fl := { s.fl with cut := none } }
  let s2 := s1.setPart c.part { s1.part c.part with draft := [] }
  (s2.cmdDone ⟨c.part, c.hdr, c.seq⟩ cdOk 0 flags []).settleDomains

/-- CUT_ACK (R341): the acknowledgement of an island that has switched is collected. -/
def execCutAck (i : Island) (s : State) : Res :=
  match s.fl.cut with
  | none => .next s
  | some c =>
    when_ (c.cutSent && c.unacked.contains i && !c.unswitched.contains i) s <|
      let c1 := { c with unacked := c.unacked.filter fun j => j != i }
      if c1.unacked.isEmpty then s.endCut c1 0 else s.putCut c1

/-! ## An island that does not acknowledge (R343) -/

/-- Unit, level and hub unit number of an island, for CINCH_FENCE. -/
def State.islandUnit (s : State) : Island → BitVec 24 × BitVec 3
  | .block b => (unitBlock s b, 1)
  | .regionFabric r => (unitRegion r 3 0, 2)
  | .memSide k => (unitRegion (BitVec.ofNat 2 (k / 3)) (k % 3) 0, 2)
  | .port p => (unitLink p, 4)
  | .sceolink => (unitLink sclLink, 5)
  | .hubCrossbar => (unitHub 0x00 0, 3)
  | .collector => (unitHub 0x01 0, 3)
  | .security => (unitHub 0x03 0, 3)
  | .telemetry => (unitHub 0x04 0, 3)
  | .control => (unitHub 0x02 0, 3)
  | .alwaysOn => (unitHub 0x05 0, 3)
  | .spare r k => (r ++ 0#6 ++ BitVec.ofNat 8 (64 + k.toNat) ++ 0#8, 1)
/-- The partitions that a fence of an island affects (R372). -/
def State.islandParts (s : State) : Island → List PartId
  | .block b => [s.ownerOr0 b]
  | _ => s.parts_
/-- An island fenced at its level; a link's crossing closes, so the link is flushed and disabled (log 62). -/
def State.fenceIsland (s : State) : Island → State
  | .block b => s.fenceBlock b
  | .regionFabric r => s.fenceRegion r
  | .memSide k => s.fenceRegion (BitVec.ofNat 2 (k / 3))
  | .port p => (s.flushLink p).setLink p { (s.flushLink p).link p with mode := .disabled }
  | .sceolink => (s.flushLink sclLink).setLink sclLink { (s.flushLink sclLink).link sclLink with mode := .disabled }
  | .hubCrossbar => s.unitFails 1 0x00
  | .collector => s.unitFails 2 0x01
  | .security => s.securityDegraded
  | .telemetry => s.telemetryDegraded
  | .control => s.controlFails
  | .alwaysOn => s.unitFails 3 0x05
  | .spare _ _ => s
/-- CINCH_FENCE and the fence of one island. -/
def State.cinchFence (s : State) (e : Epoch) (i : Island) : State :=
  let u := s.islandUnit i
  (s.raiseAll (s.islandParts i) evCinchFence u.2 u.1 (det 168 e.toNat)).fenceIsland i

/-- CUT_TIMEOUT (R343): every island that has not acknowledged is fenced; the cut stands. -/
def execCutTimeout (s : State) : Res :=
  match s.fl.cut with
  | none => .next s
  | some c =>
    when_ (c.cutSent && !c.unacked.isEmpty) s <|
      let cs := s.cutDraft c
      let s1 := (c.unswitched.filter fun i => match i with | .block _ => false | _ => true).foldl (fun t i => t.switchBank cs c.newEpoch i) s
      (c.unacked.foldl (fun t i => t.cinchFence c.newEpoch i) s1).endCut c flFenced

end Sys2Proof.Machine
end

