-- ==== Sys2Proof/Machine/Partitions.lean ====
section
/-! DEFINITION. Partition commands, the serving commands, and the resets of a partition and of a region (R353 to R358, R365 to R367, R404, R405; Tables 14.2, 14.6). -/

namespace Sys2Proof.Machine

/-! ## Programs (R354, R355) -/

/-- The registers that PROGRAM_START leaves: s1 as it was, s2 to s9 from the payload, the others cleared. -/
def startRegs (old : Tab Word) (vals : List Word) : Tab Word :=
  (match tFind old 1 with | some v => [(1, v)] | none => []) ++ (enum (vals.take 8)).map fun e => (e.1 + 2, e.2)
/-- One block started; Flapino writes the reset value of BLK_SR_SEED (R45). -/
def State.startBlock (s : State) (pc : Addr) (vals : List Word) (b : BlockId) : State :=
  let x := s.block b
  if x.fenced then s
  else s.setBlock b { x.seedLanes defaultSeed with
    regs := startRegs x.regs vals, core := .openState, pc := pc, stall := .none, running := true, stopAtGhdr := false }
/-- The blocks of a partition that a mask names, lane by lane; a pair's checker starts with its primary (R381). -/
def State.maskBlocks (s : State) (p : PartId) (mask : BitVec 64) : List BlockId :=
  let x := s.part p
  let full := x.checkMode == 0b10#2
  ((enum (laneBlocks x.quads full)).filter fun e => mask.getLsbD e.1).flatMap fun e => if full then [e.2, pairOf e.2] else [e.2]

/-- PROGRAM_START (R354). -/
def execProgramStart (mask : BitVec 64) (pc : Addr) (vals : List Word) (s : State) : Res :=
  s.cmd 0x010B .own fun s r =>
    let p := r.part
    let x := s.part p
    s.unless r (firstReason [(!(x.mode == pCreated || x.mode == pDrained), rsState), (decide (pc.toNat % 32 ≠ 0), rsField),
        (!s.allowed p pc.toNat 32 || inCompanion pc.toNat 32, rsAddress)]) <|
      (((s.maskBlocks p mask).foldl (fun t b => t.startBlock pc vals b) s).setPartMode p pRunning).ok r

/-- BLOCK_RESUME (Table 14.2): at an address, or at its GHDR. -/
def execBlockResume (b : BlockId) (pc : Addr) (s : State) : Res :=
  s.cmd 0x010C .own fun s r =>
    let x := s.block b
    s.unless r (firstReason [(!s.partHas r.part b, rsScope), (x.core != .parked, rsState)]) <|
      (s.resumeAt b (if pc = 0#48 then x.ghdrPc else pc)).ok r

/-- STALE_BLOCK_RESUME (R355): a block of a RUNNING partition that parked at its GHDR with STALE_CONFIG. -/
def execStaleBlockResume (b : BlockId) (s : State) : Res :=
  let x := s.block b
  let runs := match s.owner b with | some p => (s.part p).mode == pRunning | none => false
  when_ (runs && s.flapinoUp && x.core == .parked && x.lastStatus == stStaleConfig && x.pc == x.ghdrPc) s (s.resumeAt b x.pc)

/-! ## Drain, abort, resume (R356 to R358) -/

/-- A drain reaches a block: it stops before its next GHDR, or at once in a blocking RECV of the open state. -/
def State.drainBlock (s : State) (b : BlockId) : State :=
  let x := s.block b
  match x.core, x.stall with
  | .openState, .recv _ _ _ => s.setBlock b { x with core := .stopped, stall := .none }
  | .openState, _ => if x.running then s.setBlock b { x with stopAtGhdr := true } else s
  | .inGroup, _ => s.setBlock b { x with stopAtGhdr := true }
  | .inCommit, _ => s.setBlock b { x with stopAtGhdr := true }
  | _, _ => s

/-- PART_DRAIN (R356). -/
def execPartDrain (timeoutMs : BitVec 32) (s : State) : Res :=
  s.cmd opPartDrain .own fun s r =>
    let p := r.part
    s.unless r (firstReason [(decide (60000 < timeoutMs.toNat), rsField), ((s.part p).mode != pRunning, rsState)]) <|
      let s1 := (s.partBlocks p).foldl (fun t b => t.drainBlock b) (s.startBg r)
      (s1.setPart p { s1.part p with drainTimeout := timeoutMs != 0#32 }).setPartMode p pDraining

/-- DRAIN_TIMEOUT (R356): open groups are aborted as PART_ABORT does. -/
def execDrainTimeout (p : PartId) (s : State) : Res :=
  let x := s.part p
  when_ (x.mode == pDraining && x.drainTimeout) s <|
    let s1 := s.setPart p { x with drainTimeout := false }
    ((s.partBlocks p).filter fun b => (s.block b).group.isSome).foldl (fun t b => t.abortBlock b) s1

/-- A block is at rest: stopped, parked, at a GHDR after a kill, never started, fenced, or in reset. -/
def BlockState.atRest (x : BlockState) : Bool :=
  x.core == .stopped || x.core == .parked || x.fenced || x.inReset || (!x.running && x.group.isNone)
/-- A region FIFO holds a completion of a block. -/
def State.inFifo (s : State) (b : BlockId) : Bool := (s.region b.region).fifo.any fun e => e.block == b
/-- A collective instance holds a write lock in a block's scratchpad. -/
def BlockState.collLocked (x : BlockState) : Bool := x.locks.any fun l => match l.owner with | .collective .. => true | _ => false
/-- A region runs an update task of a partition. -/
def State.updating (s : State) (p : PartId) : Bool :=
  allRegions.any fun r => match (s.region r).upd.run with | some t => t.entry.partition == p | none => false
/-- The five conditions of R357. -/
def State.isDrained (s : State) (p : PartId) : Bool :=
  (s.partBlocks p).all (fun b => let x := s.block b
    x.atRest && x.sendBuf.isEmpty && !x.collLocked && x.cpls.isEmpty && !s.inFifo b) && !s.updating p

/-- PARTITION_DRAINED (R357). -/
def execPartitionDrained (p : PartId) (s : State) : Res :=
  when_ ((s.part p).mode == pDraining && s.isDrained p) s <|
    let s1 := s.setPart p { s.part p with drainTimeout := false }
    (s1.setPartMode p pDrained).endBg p opPartDrain fun t r => t.ok r

/-- PART_RESUME (R358): blocks continue where they stopped; interrupted update tasks go back in their queue. -/
def execPartResume (s : State) : Res :=
  s.cmd 0x0107 .own fun s r =>
    let p := r.part
    s.unless r (firstReason [((s.part p).mode != pDrained, rsState)]) <|
      let s1 := ((s.partBlocks p).filter fun b => let x := s.block b
        x.running && x.core == .stopped && !x.fenced && !x.inReset).foldl (fun t b => t.resumeAt b (t.block b).pc) s
      (((s1.requeueTasks fun e slow => e.partition == p && !slow).setPartMode p pRunning).settlePages p).ok r

/-- PART_ABORT (R356). -/
def execPartAbort (s : State) : Res :=
  s.cmd 0x0108 .own fun s r =>
    let p := r.part
    let m := (s.part p).mode
    s.unless r (firstReason [(!(m == pRunning || m == pDraining), rsState)]) <|
      let s1 := s.abortPart p
      (if m = pRunning then s1.setPartMode p pDraining else s1).ok r

/-- Base and length of some ranges as words. -/
def rangeWords (rs : List Range) : List Word := rs.flatMap fun r => [BitVec.ofNat 64 r.base, BitVec.ofNat 64 r.len]
/-- PART_QUERY (Table 14.2): state, quad mask, ranges, check mode, collector counts, the last report (log 24). -/
def execPartQuery (s : State) : Res :=
  s.cmd 0x0109 .own fun s r =>
    let x := s.part r.part
    s.okData r ([x.mode.setWidth 64, x.quads] ++ rangeWords x.stacked ++ rangeWords x.companion
      ++ [x.checkMode.setWidth 64, BitVec.ofNat 64 x.pendingCpl.length, BitVec.ofNat 64 x.stored, x.cplHold] ++ byteWords x.lastReport)

/-! ## Resets of a partition and of a region (R404, R405) -/

/-- A block island put in reset; a fenced one stays fenced. -/
def State.holdBlock (s : State) (b : BlockId) : State :=
  if (s.block b).fenced then s
  else
    let s1 := (s.relays.filter fun t => t.block == b && !s.hubSends.any fun h => h.relay == some t.num).foldl (fun t l => t.endRelay l) s
    let s2 := s1.resetBlock b
    s2.setBlock b { s2.block b with inReset := true }
/-- A partition's block islands are out of reset: it becomes CREATED, and PART_RESET completes (R405). -/
def State.settleReset (s : State) (p : PartId) : State :=
  if (s.part p).mode = pResetting ∧ ((s.partBlocks p).all fun b => !(s.block b).inReset || (s.block b).fenced) then
    (s.setPartMode p pCreated).endBg p opPartReset fun t r => t.ok r
  else s
/-- The tasks of a partition taken from a region's update unit. -/
def State.dropTasks (s : State) (p : PartId) (r : RegionId) : State :=
  let u := (s.region r).upd
  let own (k : Nat) : Bool := (s.task r k).partition == p
  s.setUpd r { u with
    queue := u.queue.filter fun e => !own e.1, held := u.held.filter fun e => !own e.1, doneTasks := u.doneTasks.filter fun e => !own e.1
    slotWaited := u.slotWaited.filter fun k => !own k, lost := u.lost.filter fun l => (s.plan l.1).partition != p
    started := u.started.filter fun e => e.1 != p
    slotReady := match u.slotReady with | some k => (if own k then none else some k) | none => none }
/-- The partition's collective instances: those that run fail, those that wait are removed. -/
def State.dropInstances (s : State) (p : PartId) : State :=
  let own (i : Instance) : Bool := (s.plan i.plan).partition == p
  let s1 : State := { s with instances := s.instances.filter fun i => i.running || !own i }
  (s1.instances.filter own).foldl (fun t i => t.failInstance i causeAbort true) s1

/-- PART_RESET (R405). -/
def execPartReset (wipeMem : Bool) (s : State) : Res :=
  s.cmd opPartReset .own fun s r =>
    let p := r.part
    let x := s.part p
    s.unless r (firstReason [(!(x.mode == pDrained || x.mode == pFailed), rsState)]) <|
      let s1 := ((s.startBg r).setPartMode p pResetting).dropInstances p
      let s2 := allRegions.foldl (fun t q => t.dropTasks p q) s1
      let s3 : State := { s2 with
        seqs := s2.seqs.filter fun e => !(decide (x.seqBase ≤ e.1) && decide (e.1 < x.seqBase + x.seqCount))
        stages := s2.stages.map fun e => if e.2.partition == p then (e.1, { e.2 with admitEn := false, inflight := 0, jobVersion := 0 }) else e
        mem := if wipeMem then x.stacked.foldl (fun m g => memClear m g.base g.len) s2.mem else s2.mem
        bursts := if wipeMem then s2.bursts.filter fun e => !x.stacked.any fun g => inRange (32 * e.1) 32 g.base g.len else s2.bursts }
      let s4 := s3.syncJobs.setPart p { s3.syncJobs.part p with lists := [], wlDeadline := false }
      ((s4.partBlocks p).foldl (fun t b => t.holdBlock b) s4).settleReset p

/-- The update unit of a region that restarts: the committed settings are loaded again (R344). -/
def UpdateUnit.restart (u : UpdateUnit) : UpdateUnit :=
  { UpdateUnit.reset with tasks := u.tasks, params := u.params, scheds := u.scheds, doneTasks := u.doneTasks }
/-- Six neighbour bundles of a running region closed, until they train again (R279, Table 11.4). -/
def State.closeBundles (s : State) (r : RegionId) (first : Nat) : State :=
  let x := s.region r
  s.setRegion r { x with bundles := x.bundles.map fun e =>
    if first ≤ e.1 ∧ e.1 < first + 6 then (e.1, { BundleState.reset with perr := e.2.perr }) else e }
/-- A region's islands put in reset: fences stay, spares in service stay, spares are tested again (R404). -/
def State.holdRegion (s : State) (r : RegionId) : State :=
  let x := s.region r
  let mine := (List.range 3).map (3 * r.toNat + ·)
  let s1 := s.setRegion r { RegionState.reset with
    spareUsed := x.spareUsed, fencedQuads := x.fencedQuads, fenced := x.fenced, upd := x.upd.restart, fifo := x.fifo }
  let s2 := mine.foldl (fun t k => t.setStack k { StackState.reset with selfRefresh := true }) s1
  let s3 : State := { s2 with reset_ := { s2.reset_ with
    regionBooting := tSet s2.reset_.regionBooting r.toNat true
    released := s2.reset_.released.filter fun i => match i with | .memSide k => !mine.contains k | _ => true } }
  let s4 := (s3.closeBundles (r - 1) 12).closeBundles (r + 1) 18
  (allBlocks.filter fun b => b.region == r).foldl (fun t b => t.holdBlock b) s4

/-- REGION_RESET (R404): a background command. -/
def execRegionReset (region : RegionId) (s : State) : Res :=
  s.cmd opRegionReset .package fun s r =>
    let u := (s.region region).upd
    let busy := (s.partsOfRegion region).any fun p => (s.part p).mode == pRunning || (s.part p).mode == pDraining
    s.unless r (firstReason [(busy || u.run.isSome || !u.queue.isEmpty, rsState)]) ((s.startBg r).holdRegion region)

/-! ## Serving commands (Table 14.6) -/

/-- An entry's 32 bytes as words (Table 14.5). -/
def seqWords (e : SeqEntry) : List Word :=
  natWords 4 (e.kvList ++ e.kvPages ++ e.position ++ e.remaining ++ e.arrival ++ e.user ++ e.ready ++ 0#8 ++ e.priority ++ 0#28 ++ e.mode
    : BitVec 256).toNat
/-- An entry of the partition's range is in use. -/
def State.seqUsed (s : State) (p : PartId) (i : Nat) : Bool :=
  decide (i < (s.part p).seqCount) && ((s.seq p i).mode != sqFree || (s.seq p i).removed)

/-- SEQ_ADD: the lowest free entry. -/
def execSeqAdd (x : SeqAddP) (s : State) : Res :=
  s.cmd 0x0901 .own fun s r =>
    let p := r.part
    let y := s.part p
    if !y.hasStacked x.kvList.toNat (8 * x.kvPages.toNat) then s.rejected r rsAddress
    else
      match (List.range y.seqCount).find? fun i => !s.seqUsed p i with
      | none => s.rejected r rsDraftFull
      | some i =>
        let e : SeqEntry := ⟨x.kvList, x.kvPages, x.position, x.remaining, y.arrivals, x.user, x.ready, x.priority, sqWaiting, false⟩
        let s1 := s.setSeq p i e
        ((s1.setPart p { s1.part p with arrivals := y.arrivals + 1 }).settlePages p).okData r [y.arrivals ++ BitVec.ofNat 32 i]

/-- SEQ_UPDATE: an entry short of pages waits again when it is given pages (R366). -/
def execSeqUpdate (x : SeqUpdateP) (s : State) : Res :=
  s.cmd 0x0902 .own fun s r =>
    let p := r.part
    let i := x.index.toNat
    if !s.seqUsed p i then s.rejected r rsState
    else
      let e := s.seq p i
      let e1 := { e with
        kvList := if x.kvList = 0#48 then e.kvList else x.kvList, kvPages := if x.kvPages = 0#16 then e.kvPages else x.kvPages
        ready := e.ready + x.readyAdd, priority := x.priority
        remaining := if x.remaining = 0xFFFFFFFF#32 then e.remaining else x.remaining
        mode := if e.mode = sqShort ∧ x.kvPages ≠ 0#16 then sqWaiting else e.mode }
      ((s.setSeq p i e1).settlePages p).ok r

/-- SEQ_REMOVE: at once, or at the return of the list that holds the sequence. -/
def execSeqRemove (index : BitVec 32) (s : State) : Res :=
  s.cmd 0x0903 .own fun s r =>
    let p := r.part
    let i := index.toNat
    if !s.seqUsed p i then s.rejected r rsState
    else
      let e := s.seq p i
      if e.mode = sqListed then (s.setSeq p i { e with removed := true }).ok r
      else (({ s with seqs := tDel s.seqs ((s.part p).seqBase + i) } : State).settlePages p).ok r

/-- SEQ_QUERY: the entries of the range from an index on. -/
def execSeqQuery (first count : BitVec 32) (s : State) : Res :=
  s.cmd 0x0904 .own fun s r =>
    let n := (s.part r.part).seqCount
    s.okData r ((List.range (min count.toNat (n - first.toNat))).flatMap fun i => seqWords (s.seq r.part (first.toNat + i)))

/-- WORKLIST_START. -/
def execWorklistStart (s : State) : Res :=
  s.cmd 0x0906 .own fun s r =>
    let x := s.part r.part
    s.unless r (firstReason [(x.batch.isNone, rsState)]) ((s.setPart r.part { x with wlStarted := true }).ok r)
/-- WORKLIST_STOP: lists that are out finish normally. -/
def execWorklistStop (s : State) : Res :=
  s.cmd 0x0907 .own fun s r => (s.setPart r.part { s.part r.part with wlStarted := false }).ok r

end Sys2Proof.Machine
end

