-- ==== Sys2Proof/Machine/Bundles.lean ====
section
/-! DEFINITION. Bundles, crossing FIFOs and the guest site with its firewall (R275 to R291, Tables 11.2 to 11.11). Bundles 0 to 23 of a region are those of Table 11.4; 24 to 27 stand for guest bundles 0 to 3 (log 63). -/

namespace Sys2Proof.Machine

/-! ## Bundle ends (Table 11.4) -/

/-- RGN_BUNDLE_STATUS_b. -/
def BundleState.word (x : BundleState) : Word := x.repl ++ 0#4 ++ BitVec.ofBool x.moved ++ x.mode ++ 0#1
/-- An event of a bundle: a region's goes to its partitions, a guest bundle's to the guest's partition (R372, Table 15.3). -/
def State.raiseBundle (s : State) (r : RegionId) (b : Nat) (code : BitVec 16) (detail : BitVec 88) : State :=
  if b < 24 then s.raiseAll (s.partsOfRegion r) code 2 (unitRegion r 6 b) (det 168 b ||| detail)
  else s.raise s.guest.partition code 3 (unitHub 0x0C b) (det 168 b ||| detail)
/-- A region's bundle counter changed; the hub has none for the guest bundles (R290). -/
def State.countBundle (s : State) (r : RegionId) (b : Nat) (f : RegionState → RegionState) : State :=
  if b < 24 then s.setRegion r (f (s.region r)) else s

/-! ## Training (R279, R280) -/

/-- The fused choice of a group. -/
def fusedChoice (r : RegionId) (b g : Nat) : BitVec 7 := Config.fusedSpare (if b < 24 then r.toNat * 24 + b else 72 + b) g
/-- The spare choice that a group's results leave, none for two failures or more; the spare itself is wire 66. -/
def spareChoice (fuse : BitVec 7) (failed : List Nat) : Option (BitVec 7) :=
  match failed with
  | [] => some fuse
  | [w] => some (if w < 66 then BitVec.ofNat 7 w else 0x7F)
  | _ => none
/-- The choices of the eight groups. -/
def choices (r : RegionId) (b : Nat) (t : TrainResult) : List (Nat × Option (BitVec 7)) :=
  (List.range 8).map fun g => (g, spareChoice (fusedChoice r b g) (t.failedWires.getD g []))
/-- The repl field of eight choices. -/
def replOf (cs : List (Nat × Option (BitVec 7))) : BitVec 56 :=
  BitVec.ofNat 56 (cs.foldl (fun a c => a + ((c.2.getD 0x7F).toNat <<< (7 * c.1))) 0)
/-- A moved spare counted and reported (R280). -/
def State.spareMoves (s : State) (r : RegionId) (b : Nat) (c : Nat × BitVec 7) : State :=
  (s.countBundle r b fun x => { x with spareMoved := inc x.spareMoved }).raiseBundle r b evSpareMoved (det 176 c.1 ||| det 184 c.2.toNat)
/-- The groups whose spare differs from the fuse. -/
def movedSpares (r : RegionId) (b : Nat) (cs : List (Nat × Option (BitVec 7))) : List (Nat × BitVec 7) :=
  cs.filterMap fun c => c.2.bind fun w => if w = fusedChoice r b c.1 then none else some (c.1, w)
/-- The group for which a bundle does not enter service, if there is one: two wires of it failed, or its verification did. -/
def trainFailure (cs : List (Nat × Option (BitVec 7))) (t : TrainResult) : Option Nat :=
  match cs.find? fun c => c.2.isNone with
  | some c => some c.1
  | none => t.verifyFails
/-- What a training leaves: every group is settled by its own results, and the bundle enters service or stays out for this start (R280). -/
def State.trained (s : State) (r : RegionId) (b : Nat) (t : TrainResult) : State :=
  let cs := choices r b t
  let moved := movedSpares r b cs
  let bad := trainFailure cs t
  let s1 := s.setBundle r b { s.bundle r b with
    repl := replOf cs, moved := !moved.isEmpty, mode := if bad.isSome then bdOut else bdInService, ctlFails := [], degraded := false }
  let s2 := moved.foldl (fun u c => u.spareMoves r b c) s1
  match bad with
  | some g => s2.raiseBundle r b evBundleDown (det 176 g)
  | none => s2
/-- The guest site after a training: both sides' credits are granted anew, the guest's at the least that it must grant (log 128), and the firewall opens when the site is enabled (R284, R289). -/
def State.guestTrained (s : State) : State :=
  let s1 : State := { s with guest := { s.guest with hdrCredits := 32, beatCredits := 512, mode := if s.guest.enable then 0b10 else 0b01 } }
  (s1.emit (.guestCredit 32 512)).pumpGuest

/-- BUNDLE_TRAINING (R279, R280): a bundle in training reaches order 7. -/
def execBundleTraining (region : RegionId) (bundle : Nat) (r : TrainResult) (s : State) : Res :=
  whenHere (decide (bundle < 28)) s <|
    when_ ((s.bundle region bundle).mode == bdTraining) s <|
      (if bundle < 24 then s.trained region bundle r else (s.trained region bundle r).guestTrained).settleBoot
/-- A closed bundle end starts its training. -/
def State.startBundle (s : State) (r : RegionId) (b : Nat) : State :=
  if (s.bundle r b).mode = bdClosed then s.setBundle r b { s.bundle r b with mode := bdTraining } else s
/-- A start of a region: its hub bundles train, and with a neighbour whose fabric runs, the bundles between them at both ends (R279). -/
def State.startBundles (s : State) (r : RegionId) : State :=
  let ends (q p : RegionId) : List (RegionId × Nat) := (nearBundles p q).map fun b => (q, b)
  let near := [r + 1, r - 1].filter fun q => s.islandUp (.regionFabric q)
  let all := hubBundles.map (fun b => (r, b)) ++ near.flatMap fun q => ends r q ++ ends q r
  all.foldl (fun t e => t.startBundle e.1 e.2) s
/-- The guest bundles train at a start of the hub and at GUEST_RESET, where a guest die is fitted (R279). -/
def State.startGuestBundles (s : State) : State :=
  if s.guest.present then [24, 25, 26, 27].foldl (fun t b => t.startBundle 0 b) s else s

/-! ## Parity on a bundle (R276) -/

/-- The parity of a byte. -/
def byteParity (x : Byte) : Bool := (List.range 8).foldl (fun p i => p != x.getLsbD i) false
/-- What the receiver finds for a parity wire: the XOR of the byte parities of its four bytes. -/
def wireParity (d : BitVec 512) (k : Nat) : Bool :=
  (List.range 4).foldl (fun p i => p != byteParity (d.extractLsb' (8 * (4 * k + i)) 8)) false
/-- The beat that a transmitter drives for some data. -/
def beatOf (d : BitVec 512) : Beat := ⟨d, BitVec.ofNat 16 ((List.range 16).map fun k => if wireParity d k then 2 ^ k else 0).sum⟩
/-- A parity wire does not agree with its four bytes. -/
def beatFails (x : Beat) : Bool := (List.range 16).any fun k => wireParity x.data k != x.parity.getLsbD k

/-! ## Failures in operation (R278, R281) -/

/-- Bundles of a path in service. -/
def State.inService (s : State) (r : RegionId) (bs : List Nat) : Nat := (s.openBundles r bs).length
/-- Control entries on their way over a bundle that has left service are sent again on another one of their path (R278). -/
def State.rerouteControl (s : State) (r : RegionId) (b : Nat) : State :=
  { s with inflight := s.inflight.map fun t => if t.cls = 2 ∧ (r, b) ∈ t.path then { t with path := s.path t.src t.dst none } else t }
/-- A bundle taken out of service, and what follows from those that remain. -/
def State.bundleOut (s : State) (r : RegionId) (b : Nat) : State :=
  let s1 := ((s.setBundle r b { s.bundle r b with mode := bdOut, ctlFails := [] }).rerouteControl r b).raiseBundle r b evBundleDown (det 179 1)
  if b < 12 then (if s1.inService r hubBundles < 6 then (s1.fenceRegion r).settleDomain (68 + r.toNat) else s1)
  else if b < 24 then s1
  else if s1.inService r [24, 25, 26, 27] = 0 then { s1 with guest := { s1.guest with mode := 0b11 } }
  else s1

/-- CONTROL_ENTRY_FAIL (R278, R281): an entry, by its number at its sender, whose beat fails is resent and counted; the eighth failure of one entry takes the bundle out of service. -/
def execControlEntryFail (at_ : BundleEnd) (e : OnBeat Nat) (s : State) : Res :=
  whenHere (decide (at_.bundle < 28)) s <|
    let x := s.bundle at_.region at_.bundle
    when_ (x.mode == bdInService && beatFails e.beat) s <|
      let s1 := s.countBundle at_.region at_.bundle fun y => { y with ctlResend := inc y.ctlResend }
      let n := tGet 0 x.ctlFails e.what + 1
      if n < 8 then s1.setBundle at_.region at_.bundle { x with ctlFails := tSet x.ctlFails e.what n } else s1.bundleOut at_.region at_.bundle

/-- The type of the response to a guest request; MBOX_UP has none (Table 11.6). -/
def guestResponse : Nat → Option (BitVec 8)
  | 0x01 => some 0x11
  | 0x02 => some 0x12
  | 0x03 => some 0x13
  | 0x04 => some 0x14
  | _ => none
/-- Data that travels on a bundle of this kind. -/
def onGuest : BundleData → Bool
  | .guestRequest _ _ => true
  | .guestData _ _ => true
  | _ => false
/-- The bundle lies on the path that the failing data takes (R277). -/
def State.onBundle (s : State) (r : RegionId) (b : Nat) : BundleData → Bool
  | .descriptor d =>
    let is (t : Transit) : Bool := decide (t.item = .message d)
    !s.inflight.any is || s.inflight.any fun t => is t && t.path.contains (r, b)
  | .blockData c a => (s.memPath c a.toNat).contains (r, b)
  | _ => true
/-- The open group names the address in its sets. -/
def BlockState.inSets (x : BlockState) (a : Nat) : Bool :=
  match x.group with
  | some g => (g.reads ++ g.writes).any fun r => inRange a 1 r.base r.len
  | none => false
/-- A read or a write of the collective engine for a plan fails (R195). -/
def State.planDataFails (s : State) (k : PlanId) : State :=
  match s.instances.find? fun i => i.plan == k && i.running with
  | some i => s.failInstance i causeMemory true
  | none => s
/-- A write of landing data fails: the receiver abandons the Relay (R137). -/
def State.landingFails (s : State) (q : QAddr) (id : RelayId) : State :=
  match s.ring q with
  | some g => match g.pending.find? fun x => x.id == id && !x.dead with
    | some x => s.abandon q g x
    | none => s
  | none => s
/-- A read of a Relay's source fails: the Relay is cancelled (R137, Table 9.6). -/
def State.relayReadFails (s : State) (num : BitVec 32) : State :=
  match s.relays.find? fun x => x.num == num with
  | some x => s.cancelRelay x
  | none => s
/-- What a failing beat's data goes through (Table 11.2). -/
def State.parityData (s : State) : BundleData → State
  | .descriptor d =>
    match s.arrive fun i => decide (i = .message d) with
    | some t => t.answer d anCrc
    | none => s
  | .blockData b a => if (s.block b).inSets a.toNat then s.killPair b (.check .parity) else s
  | .updateWrite r => s.interruptUpdate r .memory
  | .updateRead r second => if second then s.interruptUpdate r .memory else s
  | .instanceWrite k => s.planDataFails k
  | .instanceRead k second => if second then s.planDataFails k else s
  | .relayWrite q id => s.landingFails q id
  | .relayRead num second => if second then s.relayReadFails num else s
  | .guestRequest type tag =>
    match guestResponse type.toNat with
    | some k => s.toGuest ⟨k, tag, 2, []⟩
    | none => s
  | .guestData type tag => s.toGuest ⟨type, tag, 2, []⟩

/-- BUNDLE_PARITY_FAIL (R278, R281, Table 11.2): a beat that fails is counted; more than 16 in a window degrade the bundle once. -/
def execBundleParityFail (region : RegionId) (bundle : Nat) (d : OnBeat BundleData) (inWindow : Nat) (s : State) : Res :=
  whenHere (decide (bundle < 28) && onGuest d.what == decide (24 ≤ bundle)) s <|
    let x := s.bundle region bundle
    when_ (x.mode == bdInService && beatFails d.beat && s.onBundle region bundle d.what) s <|
      let worse := decide (16 < inWindow) && !x.degraded
      let s1 := s.setBundle region bundle { x with perr := inc x.perr, degraded := x.degraded || worse }
      (if worse then s1.raiseBundle region bundle evBundleDegraded 0 else s1).parityData d.what

/-! ## Crossing FIFOs (R275) -/

/-- Entries of a crossing FIFO. -/
def fifoEntries : Nat := 8
/-- Discarded entries counted in the region, or in the hub. -/
def State.countDiscard (s : State) (n : Nat) : Crossing → State
  | .block b => s.setRegion b.region { s.region b.region with xingDiscard := satAdd (s.region b.region).xingDiscard n }
  | .region r => s.setRegion r { s.region r with xingDiscard := satAdd (s.region r).xingDiscard n }
  | .memSide k =>
    let r : RegionId := BitVec.ofNat 2 (k / 3)
    s.setRegion r { s.region r with xingDiscard := satAdd (s.region r).xingDiscard n }
  | _ => s.count fun h => { h with xingDiscard := satAdd h.xingDiscard n }

/-- FIFO_CLOSE (R275): one of its islands does not run; its entries are discarded, but a control entry stays with its sender. -/
def execFifoClose (c : Crossing) (entries : Nat) (s : State) : Res :=
  let n := min entries fifoEntries
  whenHere (match c with | .memSide k => decide (k < 12) | .port p => decide (p < 24) | _ => true) s <| when_ (!s.closed.contains c && !s.crossingUp c) s
    (({ s with closed := s.closed ++ [c], inflight := discardFirst (·.crosses c) n s.inflight } : State).countDiscard n c)
/-- FIFO_REOPEN (R275): empty, once both islands run. -/
def execFifoReopen (c : Crossing) (s : State) : Res :=
  when_ (s.closed.contains c && s.crossingUp c) s { s with closed := s.closed.filter fun d => d != c }

/-! ## The firewall (R285 to R288) -/

/-- The guest firewall changed. -/
def State.setGuest (s : State) (f : GuestState → GuestState) : State := { s with guest := f s.guest }
/-- A request refused: answered where its type has a response, counted; the first in each millisecond is raised. -/
def State.guestRefuse (s : State) (type : BitVec 8) (name : Nat) (tag : BitVec 16) (resp : Option (BitVec 8)) : State :=
  let s1 := match resp with
    | some k => s.toGuest ⟨k, tag, 1, []⟩
    | none => s
  let s2 := s1.setGuest fun g => { g with fwRefused := inc g.fwRefused, refusedInWindow := true }
  if s.guest.refusedInWindow then s2
  else s2.raise s.guest.partition evGuestRefused 3 (unitHub 0x0C 0) (det 168 type.toNat ||| det 176 name ||| det 224 tag.toNat)

/-- One valid window holds every byte of a request and grants its permission. -/
def State.inWindow (s : State) (g : GuestReq) (perm : FwWindow → Bool) : Bool :=
  let a := g.address.toNat
  s.guest.windows.any fun w =>
    w.valid && perm w && decide (w.base64k.toNat * 65536 ≤ a) && decide (a + 64 * g.beats.toNat ≤ w.end64k.toNat * 65536)
/-- The site is enabled (check 1). -/
def GuestState.opened (g : GuestState) : Bool := g.mode == 0b10#2
/-- The queue-list entry that lets a SEND pass (check 3). -/
def State.sendEntry (s : State) (d : Descriptor) : Option FwQueue :=
  if s.guest.rate.descRate = 0#16 ∨ d.rider then none
  else s.guest.queues.find? fun q => q.valid && (d.dst ^^^ q.required) &&& q.mask == 0#32

/-! ## Requests that have passed -/

/-- The stream of the guest's companion accesses; R302 lists none (log 65). -/
def guestStream : Nat := 270
/-- An access refused under R224: the guest's own failure rule answers it REFUSED (R283). -/
def State.guestMemRefuse (s : State) (g : GuestReq) (resp : BitVec 8) : State :=
  (s.count fun h => { h with memRefused := inc h.memRefused }).toGuest ⟨resp, g.tag, 1, []⟩
/-- A READ performed: stacked memory at once, companion memory by UC_RD; an error status of the stack is the DATA_ERROR of the response (R231, R283). -/
def State.guestDoRead (s : State) (g : GuestReq) : State :=
  let a := g.address.toNat
  let n := 64 * g.beats.toNat
  if inCompanion a n then
    (s.setGuest fun x => { x with reads := x.reads ++ [⟨g.tag, a, n, [], false⟩] }).ucRead guestStream a n (.guest g.tag)
  else if !s.allowed s.guest.partition a n then s.guestMemRefuse g 0x11
  else
    let r := (s.served a n).readRanges [⟨a, n⟩]
    r.1.toGuest (if r.2.isSome then ⟨0x11, g.tag, 2, []⟩ else ⟨0x11, g.tag, 0, memRead s.mem a n⟩)
/-- A WRITE performed. -/
def State.guestDoWrite (s : State) (g : GuestReq) : State :=
  let a := g.address.toNat
  let bs := g.data.take (64 * g.beats.toNat)
  if inCompanion a bs.length then
    ((pieces a bs.length).foldl (fun t p => t.companionReq guestStream p.1 p.2 (.guest g.tag) ((bs.drop (p.1 - a)).take p.2)) s).toGuest
      ⟨0x12, g.tag, 0, []⟩
  else if !s.allowed s.guest.partition a bs.length then s.guestMemRefuse g 0x12
  else ((s.served a bs.length).put a bs).toGuest ⟨0x12, g.tag, 0, []⟩
/-- Target bytes of a memory-side operation: a G16 source carries one exponent byte for each 512 bytes (R228). -/
def guestOpLen (op : BitVec 8) (beats : Nat) : Nat := if msoG16 op then beats / 8 * 512 else 64 * beats
/-- A MEMOP handed to the stack controllers; an operation that Table 9.5 does not list, or a target outside stacked memory, is refused (log 66). -/
def State.guestDoMemop (s : State) (g : GuestReq) : State :=
  let op := g.opx.extractLsb' 0 8
  let n := guestOpLen op g.beats.toNat
  if (msoUnit op).isNone ∨ inCompanion g.address.toNat n ∨ n = 0 then s.guestRefuse 0x03 g.address.toNat g.tag (some 0x13)
  else { s with msos := s.msos ++ [⟨op, g.opx.extractLsb' 8 8, g.opx.extractLsb' 16 8, g.address.toNat, 0, none, n, 0, none, some g.tag, g.data,
           s.guest.partition⟩] }
/-- A SEND as the hub sends it: src, epoch, crc and the hub's send_seq rewritten (R117, R285); one whose crc fails is answered NACK crc (log 66). -/
def State.guestDoSend (s : State) (g : GuestReq) (d : Descriptor) : State :=
  if d.crc ≠ descCrc d then s.toGuest ⟨0x14, g.tag, anCrc, []⟩
  else match s.sendEntry d with
  | none => s.guestRefuse 0x04 d.dst.toNat g.tag (some 0x14)
  | some q =>
    let d1 := descSeal { d with src := q.replyTo, epoch := s.epoch, sendSeq := s.hubSeq }
    let h : HubSend := ⟨d1, if d.relay then some s.nextRelay else none, false, 0, .guest g.tag⟩
    let s1 : State := { s with
      hubSends := s.hubSends ++ [h], hubSeq := s.hubSeq + 1
      nextRelay := if d.relay then s.nextRelay + 1 else s.nextRelay
      relays := if d.relay then s.relays ++ [⟨s.nextRelay, ⟨0, 0⟩, d1, 0⟩] else s.relays }
    s1.shipHub h

/-- The credits of a request that has passed or was refused return to the guest (R284, R287). -/
def State.guestCreditBack (s : State) (beats : Nat) : State := s.emit (.guestCredit 1 beats)
/-- The oldest waiting request takes its tokens and is performed, when its bucket has them and the stacks that it reaches serve requests (R287, R237, R404). -/
def State.guestPass (s : State) : Option State :=
  let take (g : GuestReq) (rest : List GuestWaiting) (data : Nat) (k : State → State) : Option State :=
    let n := 64 * g.beats.toNat
    if n ≤ s.guest.byteBucket ∧ s.stacksUp g.address.toNat n then
      some (k ((s.setGuest fun x => { x with byteBucket := x.byteBucket - n, waiting := rest }).guestCreditBack data))
    else none
  match s.guest.waiting with
  | [] => none
  | .read g :: rest => take g rest 0 fun t => t.guestDoRead g
  | .write g :: rest => take g rest g.beats.toNat fun t => t.guestDoWrite g
  | .memop g :: rest => take g rest g.beats.toNat fun t => t.guestDoMemop g
  | .send g d :: rest =>
    if 0 < s.guest.descBucket then some (((s.setGuest fun x => { x with descBucket := x.descBucket - 1, waiting := rest }).guestCreditBack 1).guestDoSend g d) else none
/-- Waiting requests performed in arrival order while their buckets last; `fuel` bounds them. -/
def State.guestDrain : Nat → State → State
  | 0, s => s
  | n + 1, s => match s.guestPass with
    | some t => State.guestDrain n t
    | none => s
/-- A request that has passed the checks. -/
def State.guestQueue (s : State) (w : GuestWaiting) : State :=
  State.guestDrain (s.guest.waiting.length + 1) (s.setGuest fun x => { x with waiting := x.waiting ++ [w] })

/-- GUEST_READ (R285). -/
def execGuestRead (g : GuestReq) (s : State) : Res :=
  .next (if s.guest.opened && s.inWindow g (·.read) then s.guestQueue (.read g) else (s.guestCreditBack 0).guestRefuse 0x01 g.address.toNat g.tag (some 0x11))
/-- GUEST_WRITE (R285). -/
def execGuestWrite (g : GuestReq) (s : State) : Res :=
  .next (if s.guest.opened && s.inWindow g (·.write) then s.guestQueue (.write g) else (s.guestCreditBack g.beats.toNat).guestRefuse 0x02 g.address.toNat g.tag (some 0x12))
/-- GUEST_MEMOP (R285). -/
def execGuestMemop (g : GuestReq) (s : State) : Res :=
  .next (if s.guest.opened && s.inWindow g (·.memop) then s.guestQueue (.memop g) else (s.guestCreditBack g.beats.toNat).guestRefuse 0x03 g.address.toNat g.tag (some 0x13))
/-- GUEST_SEND (R285). -/
def execGuestSend (g : GuestReq) (d : Descriptor) (s : State) : Res :=
  .next (if s.guest.opened && (s.sendEntry d).isSome then s.guestQueue (.send g d) else (s.guestCreditBack 1).guestRefuse 0x04 d.dst.toNat g.tag (some 0x14))

/-- MBOX_UP (R286): to the event ring of the guest's partition; it has no response. -/
def execMboxUp (data : List Byte) (s : State) : Res :=
  let s := s.guestCreditBack 1
  .next <| if s.guest.opened then
      let p := s.guest.partition
      (s.setPart p { s.part p with mbox := (s.part p).mbox ++ [(padTo 64 (data.take 64), false)] }).pumpEvt p
    else s.guestRefuse 0x05 0 0 none
/-- GUEST_CREDIT (R284). -/
def execGuestCredit (hdrs beats : BitVec 16) (s : State) : Res :=
  .next (State.pumpGuest (s.setGuest fun x => { x with hdrCredits := x.hdrCredits + hdrs.toNat, beatCredits := x.beatCredits + beats.toNat }))
/-- GUEST_UNKNOWN_PACKET (R283): a type that Table 11.6 does not give to the guest. -/
def execGuestUnknownPacket (type : BitVec 8) (s : State) : Res :=
  when_ (decide (type.toNat = 0) || decide (6 < type.toNat)) s (s.setGuest fun x => { x with fwRefused := inc x.fwRefused })

/-- TOKEN_BUCKET_REFILL (R287): the buckets hold burst_kib KiB and 64; a request that waited adds its hub cycles, which no command gives, to HUB_FW_RATE_WAIT (log 4). `window` says that 1,400,000 hub cycles have passed since the firewall's last report window began (R285). -/
def execTokenBucketRefill (tokens : Tokens) (window : Bool) (s : State) : Res :=
  let waited := !s.guest.waiting.isEmpty
  let v := s.free
  let s1 := (if waited then v.2 else s).setGuest fun x => { x with
    byteBucket := min (x.byteBucket + tokens.bytes) (x.rate.burstKib.toNat * 1024), descBucket := min (x.descBucket + tokens.descs) 64
    rateWait := if waited then satAdd x.rateWait v.1.toNat else x.rateWait, refusedInWindow := x.refusedInWindow && !window }
  .next (State.guestDrain s1.guest.waiting.length s1)

/-! ## Commands (Table 11.11) -/

/-- GUEST_RESET (R289): the firewall closes, what has not passed and the responses in flight are discarded and counted, the guest die is reset, its bundles train again. `discarded` counts the items in the bundles' FIFOs, which the model does not hold. -/
def execGuestReset (discarded : Nat) (s : State) : Res :=
  s.cmd 0x0711 .package fun s r =>
    s.unless r (firstReason [(!s.guest.present, rsState)]) <|
      let s1 := s.dropReqs fun u => match u with | .guest _ => true | _ => false
      let s2 := s1.setGuest fun x => { x with
        mode := 0b01, waiting := [], reads := [], responses := [], hdrCredits := 0, beatCredits := 0
        bundles := x.bundles.map fun e => (e.1, { BundleState.reset with perr := e.2.perr }) }
      let s3 : State := { s2 with
        hubSends := s2.hubSends.map fun h => match h.use with | .guest _ => { h with use := .forgotten } | _ => h
        msos := s2.msos.map fun m => { m with guestTag := none } }
      (s3.count fun h => { h with xingDiscard := satAdd h.xingDiscard (s.guest.waiting.length + s.guest.responses.length + discarded) }).startGuestBundles.ok r
/-- GUEST_MSG (R291): the guest's partition only. -/
def execGuestMsg (data : List Byte) (s : State) : Res :=
  s.cmd 0x0712 .own fun s r =>
    s.unless r (firstReason [(r.part != s.guest.partition, rsScope), (!s.guest.opened, rsState)]) <|
      (s.toGuest ⟨0x15, 0, 0, padTo 64 (data.take 64)⟩).ok r
/-- HUB_FW_CTL (Table 11.7). -/
def GuestState.ctlWord (g : GuestState) : Word :=
  0#16 ++ (if g.present then Config.identFuses.extractLsb' 8 8 else 0#8) ++ 0#3 ++ g.partition ++ 0#28 ++ g.mode ++ BitVec.ofBool g.present
    ++ BitVec.ofBool g.enable
/-- HUB_FW_WIN_n (Table 11.8). -/
def fwWindowWords (w : FwWindow) : List Word :=
  [w.base64k ++ 0#28 ++ BitVec.ofBool w.memop ++ BitVec.ofBool w.write ++ BitVec.ofBool w.read ++ BitVec.ofBool w.valid, 0#32 ++ w.end64k]
/-- HUB_FW_QUEUE_n (Table 11.9). -/
def fwQueueWords (q : FwQueue) : List Word := [q.mask ++ q.required, q.replyTo ++ 0#31 ++ BitVec.ofBool q.valid]
/-- HUB_FW_RATE (Table 11.10). -/
def fwRateWord (x : FwRate) : Word := 0#16 ++ x.descRate ++ x.burstKib ++ 0#5 ++ x.byteRate
/-- GUEST_QUERY (R291): Tables 11.7 to 11.10 and the guest bundles (log 24). -/
def execGuestQuery (s : State) : Res :=
  s.cmd 0x0713 .all fun s r =>
    let g := s.guest
    let wins := (List.range 16).flatMap fun i => fwWindowWords (g.windows.getD i ⟨0, 0, false, false, false, false⟩)
    let ques := (List.range 32).flatMap fun i => fwQueueWords (g.queues.getD i ⟨0, false, 0, 0⟩)
    s.okData r ([g.ctlWord] ++ wins ++ ques ++ [fwRateWord g.rate] ++ (List.range 4).map fun k => (s.bundle 0 (24 + k)).word)
/-- BUNDLE_QUERY (R291): for each region of the mask Table 11.4 and the counters of R290, then the hub's. -/
def execBundleQuery (mask : BitVec 4) (s : State) : Res :=
  s.cmd 0x0611 .all fun s r =>
    let one (q : Nat) : List Word :=
      let x := s.region (BitVec.ofNat 2 q)
      ((List.range 24).map fun b => (s.bundle (BitVec.ofNat 2 q) b).word) ++ ((List.range 24).map fun b => (s.bundle (BitVec.ofNat 2 q) b).perr)
        ++ [x.ctlResend, x.spareMoved, x.xingDiscard]
    s.okData r ((maskBits mask).flatMap one ++ [s.hub.xingDiscard, s.guest.fwRefused, s.guest.rateWait])

end Sys2Proof.Machine
end

