-- ==== Sys2Proof/Machine/ResetPower.lean ====
section
/-! DEFINITION. Reset pins, the release order, power domains, clocks, power and heat, supply dips, the watchdog and telemetry (R236, R237, R394 to R419, R440). -/

namespace Sys2Proof.Machine

/-! ## Reset pins and trips (R394, R397, R414) -/

/-- PORST_N_ASSERT: PORST_N low, or the supply; only PORST_N clears the latch of a thermal trip (R394, R414). -/
def execPorstNAssert (supply : Bool) (s : State) : Res :=
  .next (({ s with reset_ := { s.reset_ with tripped := s.reset_.tripped && supply } } : State).assertReset .powerOn (if supply then 1 else 0))

/-- PORST_N_RELEASE: orders 1 and 2 of Table 16.3; the strap is measured and the fuses are loaded (R398, R401). -/
def execPorstNRelease (cfgsel : BitVec 4) (s : State) : Res :=
  let x := s.reset_
  when_ (x.active && x.bootStage == 0x00#8 && !x.tripped) s { s with reset_ := { x with bootStage := 0x02, strapValid := true, strap := cfgsel } }

/-- SYSRST_N_ASSERT: a warm reset; a Preserve reset in progress turns into a wiping one, and counts once (R397). -/
def execSysrstNAssert (s : State) : Res :=
  let x := s.reset_
  .next <|
    if x.busy && x.kind == .warmPreserve then s.restartHub .warm (putBit (putBit x.sources 5 true) 9 true) x.bootCount 0x02
    else s.assertReset .warm 5

/-- A thermal trip: THERMTRIP_N is latched and every island is in reset until PORST_N (R414). -/
def State.trip (s : State) : State :=
  let x := s.reset_
  let sources := if x.busy && x.kind == .powerOn then putBit x.sources 3 true else bitMask 10 3
  ({ s with reset_ := { x with tripped := true } } : State).restartHub .powerOn sources 1 0x00
/-- THERMAL_TRIP (R414). -/
def execThermalTrip (s : State) : Res := .next s.trip

/-! ## The release order (R395, R398, Table 16.3) -/

/-- The islands of order 4, in their order. -/
def hubOrder : List Island := [.security, .control, .hubCrossbar, .collector, .sceolink]
/-- An island that has left reset. -/
def State.markReleased (s : State) (i : Island) : State :=
  { s with reset_ := { s.reset_ with released := if s.reset_.released.contains i then s.reset_.released else s.reset_.released ++ [i] } }
/-- Order 6 is on for a region: the package boots, or the region restarts. -/
def State.regionOpen (s : State) (r : RegionId) : Bool :=
  !(s.region r).fenced && (if s.reset_.active then s.reset_.bootStage == 0x06#8 else tGet false s.reset_.regionBooting r.toNat)
/-- Order 8 is on for a block, or its partition or its domain starts. -/
def State.blockOpen (s : State) (b : BlockId) : Bool :=
  let r := b.region
  (s.block b).inReset && !(s.region r).fenced && !(s.region r).inReset && !s.power.domainsOff.getLsbD (17 * r.toNat + s.physQuad b)
    && (if s.reset_.active then s.reset_.bootStage == 0x08#8
        else !tGet false s.reset_.regionBooting r.toNat || (s.regionStarted r && s.stacksDone r))
/-- It is an island's turn to leave reset. The always-on island leaves it with PORST_N (order 1), a spare position only for its start-up test (R389). -/
def State.mayRelease (s : State) (i : Island) : Bool :=
  let x := s.reset_
  let held := !x.released.contains i
  match i with
  | .telemetry => x.active && x.bootStage == 0x02#8 && held
  | .regionFabric r => s.regionOpen r && (s.region r).inReset
  | .memSide k => s.regionOpen (BitVec.ofNat 2 (k / 3)) && held
  | .block b => s.blockOpen b
  | .port _ => x.active && x.bootStage == 0x09#8 && held
  | .spare _ _ => false
  | .alwaysOn => false
  | _ => x.active && x.bootStage == 0x03#8 && (hubOrder.find? fun j => !x.released.contains j) == some i

/-- A block island out of reset with its settings (R344); the last of a partition's ends its PART_RESET. -/
def State.releaseBlock (s : State) (b : BlockId) : State :=
  let s1 := (s.setBlock b { s.block b with inReset := false }).loadBlock b
  match s.owner b with
  | some p => s1.settleReset p
  | none => s1
/-- What an island's release does. -/
def State.release (s : State) : Island → State
  | .telemetry => (s.markReleased .telemetry).sendSetpoint
  | .regionFabric r => ((s.setRegion r { s.region r with inReset := false }).startBundles r).settleBoot
  | .memSide k =>
    let y := s.stack k
    let keep := !s.reset_.active
    let t := (s.setStack k { y with classMap := s.classMap, wipeDone := y.wipeDone || keep, selfRefresh := y.selfRefresh && !keep }).markReleased (.memSide k)
    (if keep then t.serveHeld k else t).settleBoot
  | .block b => (s.releaseBlock b).settleBoot
  | .port p =>
    let x := s.link p
    let on := s.reset_.strap.getLsbD 0
    ((s.setLink p { x with cfg := { x.cfg with enable := on }, mode := if on then .training else .disabled }).markReleased (.port p)).settleBoot
  | .sceolink =>
    let wide := s.reset_.strap.getLsbD 2
    let w : BitVec 8 := if wide then 16 else 8
    let n : BitVec 5 := if wide then 2 else 10
    let s1 := s.setScl fun t => { t with widthTx := w, widthRx := w, sparesTx := n, sparesRx := n }
    let s2 := (s1.setLink sclLink { s1.link sclLink with mode := .training }).markReleased .sceolink
    { s2 with reset_ := { s2.reset_ with bootStage := 0x04 } }
  | .hubCrossbar => (s.markReleased .hubCrossbar).startGuestBundles
  | i => s.markReleased i

/-- RESET_RELEASE (R395, R398). -/
def execResetRelease (i : Island) (s : State) : Res :=
  whenHere (match i with | .memSide k => decide (k < 12) | .port p => decide (p < 24) | _ => true) s (when_ (s.mayRelease i) s (s.release i))

/-- REGULATOR_ACK (order 3): without it the boot stops with 0xE3. -/
def execRegulatorAck (ack : Bool) (s : State) : Res :=
  let x := s.reset_
  when_ (x.active && x.bootStage == 0x02#8 && x.released.contains .telemetry) s
    (if ack then { s with reset_ := { x with bootStage := 0x03 } } else s.bootStop 0xE3)

/-- WIPE_COMPLETE (order 7): a stack has been wiped, or has left self refresh after a Preserve reset; its requests are served (R237, R403). -/
def execWipeComplete (stack : Nat) (s : State) : Res :=
  whenHere (decide (stack < 12)) s <|
    let y := s.stack stack
    when_ (s.reset_.active && s.reset_.bootStage == 0x07#8 && s.reset_.released.contains (.memSide stack) && !y.wipeDone) s
      ((s.setStack stack { y with wipeDone := true, selfRefresh := false }).serveHeld stack).settleBoot

/-- sec_version fused into the rollback counter, a thermometer of 64 fuses, and the slots below revoke_below revoked but for the running image's (R422). -/
def LifeCycle.fuse (x : LifeCycle) (i : Image) : LifeCycle :=
  let below : BitVec 4 := BitVec.ofNat 4 (2 ^ min i.revokeBelow.toNat 4 - 1)
  let keep : BitVec 4 := bitMask 4 x.runningKey.toNat
  { x with rollback := max x.rollback (min i.secVersion.toNat 64), fwRevoked := x.fwRevoked ||| (below &&& ~~~keep) }
/-- The fuses after the boot: a recovery boot raises nothing (R422). -/
def LifeCycle.bootFuse (x : LifeCycle) : LifeCycle :=
  match x.image with
  | some i => if x.recoveryBoot then x else x.fuse i
  | none => x

/-- BOOT_COMPLETE (order 10): partition 0 exists, Flapino reads rings, RSTOUT_N is released (R398, R333); domains that nothing needs are switched off (R409). -/
def execBootComplete (s : State) : Res :=
  let x := s.reset_
  when_ (x.active && x.bootStage == 0x0A#8) s <|
    let s1 : State := { s with reset_ := { x with active := false, rstoutN := true, bootStage := 0x0B }, lc := s.lc.bootFuse }
    (s1.putPart 0 { s1.part 0 with mode := pCreated }).settleDomains

/-! ## Power domains (R409) -/

/-- DOMAIN_POWER_ON: a domain that is needed ramps, and its islands leave reset. -/
def execDomainPowerOn (domain : Nat) (s : State) : Res :=
  whenHere (decide (domain < 80)) s <|
    when_ (s.power.domainsOff.getLsbD domain && s.domainUsed domain) s <|
      let s1 : State := { s with power := { s.power with domainsOff := putBit s.power.domainsOff domain false } }
      (s1.domainBlocks domain).foldl (fun t b => if t.blockOpen b then t.releaseBlock b else t) s1

/-! ## Clocks, power and heat (R407, R410 to R413) -/

/-- The block clock in MHz, k steps of 1/32 of nominal below it (R412); 16 steps give 0.55 GHz. -/
def clockStep (k : Nat) : Nat := 1100 * (32 - k) / 32
/-- How many steps a clock lies below nominal. -/
def stepOf (mhz : Nat) : Nat := ((List.range 17).find? fun k => decide (clockStep k ≤ mhz)).getD 16
/-- One step down the ladder: the block clocks, then the stack rate to its floor. -/
def PowerState.lower (p : PowerState) : PowerState :=
  if p.slewMhz.toNat ≤ 550 then (if p.stackRate.toNat < p.limit.memFloor.toNat then { p with stackRate := p.stackRate + 1 } else p)
  else { p with slewMhz := BitVec.ofNat 12 (clockStep (stepOf p.slewMhz.toNat + 1)) }
/-- One step up: the stack rate first. -/
def PowerState.higher (p : PowerState) : PowerState :=
  if p.stackRate ≠ 0#2 then { p with stackRate := p.stackRate - 1 }
  else { p with slewMhz := BitVec.ofNat 12 (clockStep (stepOf p.slewMhz.toNat - 1)) }
/-- 100 times the limit of the 1 s average, in W (R412). -/
def PowerState.limit1s (p : PowerState) : Nat := p.limit.sustainedW.toNat * (if p.dipLimit then 90 else 100)
/-- Dips in the last second, in intervals of 10 µs (log 64). -/
def PowerState.recent (p : PowerState) : List Nat := p.dipTimes.filter fun t => decide (p.ticks < t + 100000)
/-- The controller's action in one interval of 10 µs (R412, R413). -/
def PowerState.control (p : PowerState) (x : PowerSample) : PowerState :=
  let hot := if 103 < x.dieTemp.toInt then true else if x.dieTemp.toInt ≤ 101 then false else p.thermal
  let excess := x.rising1ms || x.rising1s || decide (3400 < x.power1ms.toNat) || decide (p.limit1s < 100 * x.power1s.toNat)
  let under := decide (100 * x.power1ms.toNat < 97 * 3400) && decide (10000 * x.power1s.toNat < 97 * p.limit1s)
  let q := if excess || hot then p.lower else if under then p.higher else p
  { q with
    dieTemp := x.dieTemp, power1ms := x.power1ms, power1s := x.power1s, thermal := hot
    power := excess || (p.power && (q.slewMhz != 1100#12 || q.stackRate != 0#2)) }

/-- POWER_CONTROL_INTERVAL (R412, R413): one interval of 10 µs, by which the model also counts the second of R417 (log 64). -/
def execPowerControlInterval (x : PowerSample) (s : State) : Res :=
  when_ (s.reset_.released.contains .telemetry && !s.power.telemetryFault) s <|
    if 110 ≤ x.dieTemp.toInt then s.trip
    else
      let p := s.power.control x
      let q := { p with ticks := p.ticks + 1 }
      { s with power := { q with dipTimes := q.recent } }

/-- CLOCK_SLEW (R407, R408): the generators reach the frequency called for, with the setpoint of the fused voltage table; not during a stretch. -/
def execClockSlew (mhz : BitVec 12) (s : State) : Res :=
  let p := s.power
  when_ (mhz == p.slewMhz && mhz != p.blockMhz && !p.stretched && !p.telemetryFault) s <|
    let mv := setpointOf mhz.toNat
    ({ s with power := { p with blockMhz := mhz, setpointMv := mv } } : State).emit (.avs mv)

/-- PMBUS_POLL (R410). -/
def execPmbusPoll (x : PmbusReading) (s : State) : Res :=
  when_ (s.reset_.released.contains .telemetry && !s.power.telemetryFault) s { s with power := { s.power with reading := x } }

/-- STACK_TEMPERATURE_READ (R236): the cycles of a throttled millisecond are a free value (log 4). -/
def execStackTemperatureRead (stack : Nat) (temp : BitVec 8) (s : State) : Res :=
  whenHere (decide (stack < 12)) s <|
    if 105 ≤ temp.toInt then .next s.trip
    else
      let y := s.stack stack
      let hot := if 95 < temp.toInt then true else if temp.toInt < 92 then false else y.throttled
      let v := s.free
      let z := { y with
        temp := temp, doubleRefresh := decide (85 < temp.toInt), throttled := hot
        hotThrottle := if y.throttled then satAdd y.hotThrottle v.1.toNat else y.hotThrottle }
      let s1 := v.2.setStack stack z
      .next (if hot && !y.throttled then
          s1.raiseAll s1.parts_ evMemHot 2 (unitRegion (BitVec.ofNat 2 (stack / 3)) (stack % 3) 0) (det 168 temp.toNat)
        else s1)

/-! ## Supply dips (R408, R415 to R417) -/

/-- A group that a dip kills: open, before its commit, in a range-check partition; a group keeps the mode that it opened with (R342, R416). -/
def State.dipKills (s : State) (b : BlockId) : Bool :=
  let x := s.block b
  x.inGroup && x.group.isSome && !x.fenced && !x.inReset && !x.report
    && (s.owner b).isSome && x.mode == 0b00#2
/-- CORE_DROOP_START (R408, R416). -/
def execCoreDroopStart (s : State) : Res :=
  when_ (!s.power.stretched) s <|
    let s1 : State := { s with power := { s.power with stretched := true, dipKilled := [] } }
    (allBlocks.filter fun b => s.dipKills b).foldl (fun t b => t.killGroup b .dip) s1

/-- SUPPLY_DIP for one partition (R417). -/
def State.raiseDip (s : State) (low dur : Nat) (set : Bool) (p : PartId) : State :=
  s.raise p evSupplyDip 3 (unitHub 0x04 0)
    (det 168 low ||| det 184 dur ||| det 200 (min (tGet 0 s.power.dipKilled p.toNat) 0xFFFF) ||| det 216 (if set then 1 else 0))
/-- CORE_DROOP_END (R416, R417): reruns start, the dip is posted, and a ninth dip in a second sets dip_limit. -/
def execCoreDroopEnd (lowMv duration : BitVec 16) (s : State) : Res :=
  when_ s.power.stretched s <|
    let p := s.power
    let ds := p.recent ++ [p.ticks]
    let set := decide (9 ≤ ds.length) && !p.dipLimit
    let s1 : State := { s with
      power := { p with stretched := false, dipTimes := ds, dipLimit := p.dipLimit || set }
      blocks := s.blocks.map fun e => (e.1, { e.2 with rerunHeld := false }) }
    (if s1.parts_.isEmpty then [0#5] else s1.parts_).foldl (fun t q => t.raiseDip lowMv.toNat duration.toNat set q) s1

/-- DIP_LIMIT_EXPIRY (R417): 60 s after the last ninth dip. -/
def execDipLimitExpiry (s : State) : Res := .next { s with power := { s.power with dipLimit := false } }

/-! ## The watchdog (R418) -/

/-- WATCHDOG_WRITE (R418): the interval restarts; its length is timed outside the model (log 1). -/
def execWatchdogWrite (s : State) : Res := .next s
/-- WATCHDOG_EXPIRY (R418): failover; or FAULT_N, and with wdt_reset a warm reset. -/
def execWatchdogExpiry (s : State) : Res :=
  when_ (!s.reset_.active && s.flapinoUp) s <|
    let s1 := s.controlFails
    if !s.fl.standbyHealthy && s.power.limit.wdtReset then s1.assertReset .warm 7 else s1

/-! ## Queries (R239, R419, R440) -/

/-- The hottest stack, °C, signed. -/
def State.stackTemp (s : State) : BitVec 8 :=
  (List.range 12).foldl (fun m i => let t := (s.stack i).temp; if m.slt t then t else m) (s.stack 0).temp
/-- PWR_STATUS (Table 16.8). -/
def State.pwrStatus (s : State) : Word :=
  let p := s.power
  p.dieTemp ++ s.stackTemp ++ p.blockMhz ++ p.power1ms ++ p.power1s ++ BitVec.ofNat 8 (min p.recent.length 255) ++ BitVec.ofBool p.dipLimit
    ++ BitVec.ofBool p.thermal ++ BitVec.ofBool p.power ++ BitVec.ofBool p.stretched
/-- PWR_LIMIT (Table 16.9). -/
def powerLimitWord (x : PowerLimitP) : Word :=
  x.wdtMs ++ 0#15 ++ BitVec.ofBool x.wdtReset ++ 0#18 ++ x.memFloor ++ x.sustainedW
/-- A rail's readings as one word (log 24). -/
def railWord (x : RailReading) : Word := x.temp ++ 0#8 ++ x.watts ++ x.amps ++ x.mv
/-- TELEMETRY_QUERY (R419; log 24). -/
def execTelemetryQuery (s : State) : Res :=
  s.cmd 0x0605 .all fun s r =>
    s.okData r ([s.pwrStatus, powerLimitWord s.power.limit, s.reset_.causeWord] ++ s.power.reading.flatMap (fun x => [railWord x, x.faults.setWidth 64])
      ++ [s.power.dieTemp.setWidth 64] ++ (List.range 12).map fun i => (s.stack i).temp.setWidth 64)

/-- MEM_SCRUB_SET (R233, R239). -/
def execMemScrubSet (hours : BitVec 16) (s : State) : Res :=
  s.cmd 0x0302 .package fun s r =>
    s.unless r (firstReason [(decide (hours.toNat = 0) || decide (168 < hours.toNat), rsField)]) <|
      ({ s with fl := { s.fl with scrubHours := hours } } : State).ok r
/-- MEM_WIPE_STATUS (Table 9.10). -/
def State.wipeStatus (s : State) : Word :=
  BitVec.ofNat 64 ((if s.preserved then 0x1000 else 0) + ((List.range 12).map fun i => if (s.stack i).wipeDone then 2 ^ i else 0).sum)
/-- One stack's counters (Table 9.11), last temperature and refresh state (log 24). -/
def StackState.words (x : StackState) : List Word :=
  [x.retryOk, x.wCorr, x.wUncorr, x.aDrop, x.atomicDrop, x.scrubFix, x.odecc, x.caRetry, x.hotThrottle, x.temp.setWidth 64,
    BitVec.ofNat 64 (x.doubleRefresh.toNat + 2 * x.throttled.toNat + 4 * x.selfRefresh.toNat)]
/-- MEM_QUERY (R239; log 24). -/
def execMemQuery (mask : BitVec 12) (s : State) : Res :=
  s.cmd 0x0303 .all fun s r =>
    s.okData r ((maskBits mask).flatMap (fun i => (s.stack i).words) ++ [s.wipeStatus] ++ (allRegions.map fun q => (s.region q).memRefused) ++ [s.hub.memRefused])

/-- The island that holds a device register, if it is not the always-on island (Tables 11.1, 13.1; log 67). -/
def registerIsland : Nat → Option Island
  | 0x10 => some .security
  | 0x18 => some .security
  | 0x30 => some .hubCrossbar
  | 0x38 => some .control
  | _ => none
/-- What the management port returns for a command code: nothing for one that it NACKs; a register whose island is in reset reads zero (R440). -/
def State.mgtRead (s : State) (c : Nat) : Option Word :=
  if 0x0F < c then none
  else
    match registerIsland (8 * c) with
    | some i => some (if s.reset_.released.contains i then s.deviceRead (8 * c) else 0)
    | none => some (s.deviceRead (8 * c))
/-- MGT_BLOCK_READ (R440): the port answers from order 1 on. -/
def execMgtBlockRead (cmd : BitVec 8) (s : State) : Res :=
  when_ (s.reset_.bootStage != 0x00#8) s (s.emit (.mgt (s.mgtRead cmd.toNat)))

end Sys2Proof.Machine
end

