-- ==== Sys2Proof/Machine/Security.lean ====
section
/-! DEFINITION. The security engine: boot images, measurements and attestation, life-cycle transitions, preserve tokens, DEVICE_RESET and Flapino's self-update (R346, R347, R402, R419 to R431). -/

namespace Sys2Proof.Machine

/-! ## Images (R420, R421) -/

/-- The 256 header bytes (Table 17.1). -/
def imageHeader (i : Image) : List Byte :=
  padTo 256 (leBytes 24 (i.bodyLen ++ i.minStep ++ i.flags ++ i.revokeBelow ++ i.key ++ i.secVersion ++ i.imageVersion ++ i.part ++ i.hdrVersion ++ i.magic
    : BitVec 192).toNat ++ leBytes 40 0 ++ leBytes 32 i.bodyHash.toNat)
/-- Header, body and signature. -/
def imageBytes (i : Image) : List Byte := imageHeader i ++ i.body ++ i.signature
/-- The 4 KiB of board data (Table 17.2). -/
def boardData (i : Image) : List Byte := padTo 4096 (i.pmbusAddr :: leBytes 7 0 ++ [i.profileCeiling])
/-- The package's stepping as FMP_DEV_IDENT codes it: letter, then digit (Table 13.2). -/
def stepping : BitVec 8 := Config.identFuses.extractLsb' 16 8
/-- A Glabibry key slot that is not revoked. -/
def LifeCycle.keyOk (x : LifeCycle) (k : Nat) : Bool := decide (k < 4) && !x.fwRevoked.getLsbD k
/-- The eight checks of R421. -/
def LifeCycle.imageOk (x : LifeCycle) (recoverySlot : Bool) (i : Image) : Bool :=
  (i.magic == 0x5A484C46#32 && i.hdrVersion == 0x0002#16 && i.part == 0x0D48#16 && decide (256 + i.bodyLen.toNat + 7856 ≤ 0x200000))
    && decide (i.minStep.toNat ≤ stepping.toNat)
    && x.keyOk i.key.toNat
    && (!i.flags.getLsbD 1 || x.state == 0#4 || x.state == 1#4)
    && (!recoverySlot || i.flags.getLsbD 0)
    && Config.sha256 i.body == i.bodyHash
    && Config.slhVerify (Config.glabibryKey i.key.toNat) (imageHeader i) i.signature
    && decide (x.rollback ≤ i.secVersion.toNat)

/-! ## Measurements (R424, Table 17.4; the order of the bytes within M3 to M5 is log 21) -/

/-- M3: the fuse configuration. -/
def LifeCycle.fuseBytes (x : LifeCycle) : List Byte :=
  leBytes 8 devIdent.toNat ++ leBytes 8 x.stateWord.toNat ++ leBytes 4 x.rollback
    ++ (List.range 4).flatMap fun k => leBytes 32 (tGet 0 x.ownerKey k).toNat
/-- M0 to M5 as the boot computes them. -/
def State.bootMeasurements (s : State) (i : Image) : Tab (BitVec 256) :=
  let m := Config.sha256 (imageBytes i)
  [(0, m), (1, Config.sha256 (boardData i)), (2, m), (3, Config.sha256 s.lc.fuseBytes),
    (4, Config.sha256 (leBytes 8 s.strapWord.toNat ++ [(resetCode s.reset_.kind).setWidth 8])), (5, fwMeasure s.guest)]

/-- The presented profile: the lower of native and ceiling, 0 being no ceiling (R431). -/
def presentedOf (native ceiling : BitVec 8) : BitVec 8 := if ceiling ≠ 0#8 ∧ ceiling.toNat < native.toNat then ceiling else native
/-- A verified image starts Flapino on pair 0, with a standby copy on pair 1 (Table 16.3, order 5). -/
def State.bootImage (s : State) (i : Image) (recovery : Bool) : State :=
  { s with
    fl := { s.fl with activePair := false, standbyHealthy := true, imageVersion := i.imageVersion, standbyVersion := i.imageVersion }
    lc := { s.lc with
      image := some i, runningKey := i.key, recoveryBoot := recovery, ceiling := i.profileCeiling
      presented := presentedOf s.lc.native i.profileCeiling, measurements := s.bootMeasurements i }
    reset_ := { s.reset_ with bootStage := 0x06 } }
/-- Order 5 has its image: flash, or the companion's, read to its end (R401, R423). -/
def State.imageReady (s : State) : Bool :=
  s.reset_.active && s.reset_.bootStage == 0x04#8
    && (s.reset_.strap.getLsbD 3 || (s.reset_.bootImage.getLsbD 63 && !s.scl.reqs.any (fun r => r.use == .bootImage)))
/-- BOOT_IMAGE_VERIFY (R421, R398): codes 0xE0 to 0xE2 stop the boot; only flash has a recovery slot. -/
def execBootImageVerify (found : Bool) (image : Image) (recoverySlot selfTestOk : Bool) (s : State) : Res :=
  let recovery := !s.reset_.strap.getLsbD 1
  when_ (s.imageReady && recoverySlot == (s.reset_.strap.getLsbD 3 && recovery)) s <|
    if !found then s.bootStop 0xE0
    else if !s.lc.imageOk recoverySlot image then s.bootStop 0xE1
    else if !selfTestOk then s.bootStop 0xE2
    else s.bootImage image recovery

/-! ## ATTEST (R425, R426) -/

/-- The device secret. -/
def LifeCycle.secretOf (x : LifeCycle) : BitVec 256 := x.secret.getD Config.deviceSecret
/-- The device certificate, 17,216 bytes (R425). -/
def LifeCycle.certificateOf (x : LifeCycle) : List Byte :=
  if x.secret.isNone then (List.range 17216).map Config.certificateByte else x.certificate
/-- The 320 bytes of the report body (Table 17.6). -/
def State.reportBody (s : State) (nonce : BitVec 256) : List Byte :=
  leBytes 64 (0#64 ++ s.fl.imageVersion ++ s.scl.number ++ s.epoch ++ s.reset_.bootCount ++ BitVec.ofNat 32 s.lc.rollback ++ s.lc.stateWord
      ++ s.lc.compatWord ++ devIdent ++ Config.serial ++ 0x0140#16 ++ 0x0001#16 : BitVec 512).toNat
    ++ leBytes 32 nonce.toNat ++ ((List.range 6).flatMap fun k => leBytes 32 (tGet 0 s.lc.measurements k).toNat)
    ++ leBytes 32 (Config.identityKey s.lc.secretOf).toNat
/-- The 17,088 bytes of the report's signature. -/
def State.reportSignature (s : State) (nonce : BitVec 256) : List Byte :=
  padTo 17088 ((Config.slhSign s.lc.secretOf (s.reportBody nonce)).take 17088)
/-- ATTEST (R426): not in BLANK or RETIRED. -/
def execAttest (nonce : BitVec 256) (flags : BitVec 8) (s : State) : Res :=
  s.cmd 0x0701 .all fun s r =>
    s.unless r (firstReason [(s.lc.state == 0#4 || s.lc.state == 3#4, rsState)]) <|
      s.okData r (byteWords (s.reportBody nonce ++ s.reportSignature nonce ++ if flags.getLsbD 0 then s.lc.certificateOf else []))

/-! ## Life-cycle transitions (R427 to R430) -/

/-- n bytes of a token's body as a number. -/
def tokenField (t : Token) (off n : Nat) : Nat := leNat ((t.body.drop off).take n)
/-- A return token (R429): bound to the serial and the boot, signed with a key slot that is not revoked. -/
def State.returnOk (s : State) (t : Token) : Bool :=
  decide (t.body.length = 64) && tokenField t 0 8 == Config.serial.toNat && tokenField t 8 4 == s.reset_.bootCount.toNat && tokenField t 12 1 == 1
    && s.lc.keyOk (tokenField t 13 1) && tokenField t 14 50 == 0
    && Config.slhVerify (Config.glabibryKey (tokenField t 13 1)) t.body t.signature
/-- What a transition writes into the fuses (Table 17.9); none for a transition that is not allowed. -/
def LifeCycle.transitionTo (x : LifeCycle) (p : LcP) : Option LifeCycle :=
  let k := p.slot.toNat
  match x.state.toNat, p.target.toNat with
  | 1, 2 => if x.certificateOf.isEmpty then none else some { x with state := 2 }
  | 2, 2 =>
    if p.action = 1#8 then (if x.ownerKeys.getLsbD k then none else some { x with ownerKeys := putBit x.ownerKeys k true, ownerKey := tSet x.ownerKey k p.ownerKey })
    else if p.action = 2#8 then
      (if x.ownerKeys.getLsbD k && !x.ownerRevoked.getLsbD k then some { x with ownerRevoked := putBit x.ownerRevoked k true } else none)
    else none
  | 2, 1 => if x.returns.toNat < 8 then some { x with state := 1, returns := x.returns + 1, ownerRevoked := x.ownerRevoked ||| x.ownerKeys } else none
  | 1, 3 => some { x with state := 3 }
  | 2, 3 => some { x with state := 3 }
  | _, _ => none
/-- The transition enrols an owner key. -/
def LifeCycle.enrols (x : LifeCycle) (p : LcP) : Bool := x.state == 2#4 && p.target == 2#8 && p.action == 1#8
/-- The transition needs a return token. -/
def LifeCycle.returns_ (x : LifeCycle) (p : LcP) : Bool := x.state == 2#4 && p.target == 1#8
/-- A read-back of R430 fails: an owner key slot that is partly written is revoked; nothing else has been written (log 68). -/
def LifeCycle.partWritten (x : LifeCycle) (p : LcP) : LifeCycle :=
  if x.enrols p then { x with ownerRevoked := putBit x.ownerRevoked p.slot.toNat true } else x
/-- A partition other than 0 is RUNNING or DRAINING. -/
def State.othersRun (s : State) : Bool :=
  s.parts_.any fun p => p != 0#5 && ((s.part p).mode == pRunning || (s.part p).mode == pDraining)
/-- Why LC_TRANSITION is refused (R428 to R430). -/
def State.lcRefusal (s : State) (p : LcP) : Option (BitVec 8) :=
  let x := s.lc
  firstReason [(s.othersRun || s.fl.fw != .idle || x.transition, rsState),
    ((x.state == 2#4 && p.target == 2#8 && decide (3 < p.slot.toNat)) || p.serial != Config.serial, rsField),
    ((x.transitionTo p).isNone, rsState), (x.returns_ p && !s.returnOk p.token, rsImage)]

/-- LC_TRANSITION (R430): the life-cycle reset follows its WR_ACK. -/
def execLcTransition (p : LcP) (readBackOk : Bool) (s : State) : Res :=
  s.cmd opLcTransition .package fun s r =>
    s.unless r (s.lcRefusal p) <|
      match s.lc.transitionTo p with
      | some y =>
        if readBackOk then ({ s with lc := { y with transition := true }, reset_ := { s.reset_ with pendingReset := some .lifeCycle } } : State).ok r
        else ({ s with lc := s.lc.partWritten p } : State).failed r rsState
      | none => s

/-- JTAG_TEST_TRANSITION (R425, R428): BLANK to TEST by Glabibry's test equipment, then a life-cycle reset. -/
def execJtagTestTransition (secret : BitVec 256) (certificate : List Byte) (s : State) : Res :=
  when_ (s.lc.state == 0#4) s <|
    ({ s with lc := { s.lc with state := 1, secret := some secret, certificate := certificate } } : State).assertReset .lifeCycle 2

/-! ## Preserve tokens and DEVICE_RESET (R402, R419) -/

/-- A preserve token bound to this part, session and boot, and signed by an enrolled owner key (R402). -/
def State.preserveOk (s : State) (t : Token) : Bool :=
  let k := tokenField t 16 1
  decide (t.body.length = 64) && tokenField t 0 8 == Config.serial.toNat && tokenField t 8 4 == s.scl.number.toNat
    && tokenField t 12 4 == s.reset_.bootCount.toNat && tokenField t 17 47 == 0
    && decide (k < 4) && s.lc.ownerKeys.getLsbD k && !s.lc.ownerRevoked.getLsbD k
    && Config.slhVerify (tGet 0 s.lc.ownerKey k) t.body t.signature
/-- PRESERVE_ARM (R402). -/
def execPreserveArm (token : Option Token) (s : State) : Res :=
  s.cmd 0x0703 .package fun s r =>
    match token with
    | none => ({ s with lc := { s.lc with armed := false } } : State).ok r
    | some t => s.unless r (firstReason [(!s.preserveOk t, rsImage)]) (({ s with lc := { s.lc with armed := true } } : State).ok r)

/-- DEVICE_RESET of kind Preserve is accepted (R402). -/
def State.preserveAllowed (s : State) : Bool := s.lc.state == 1#4 || (s.lc.state == 2#4 && (!s.reset_.strap.getLsbD 1 || s.lc.armed))
/-- The reset that DEVICE_RESET asks for. -/
def deviceResetKind (kind : BitVec 8) : ResetKind := if kind = 0#8 then .warm else if kind = 1#8 then .cold else .warmPreserve
/-- DEVICE_RESET (R419, R430): the reset follows its WR_ACK. -/
def execDeviceReset (kind : BitVec 8) (s : State) : Res :=
  s.cmd 0x0704 .package fun s r =>
    s.unless r (firstReason [(decide (2 < kind.toNat), rsField), (s.lc.transition, rsState), (kind == 2#8 && !s.preserveAllowed, rsState)]) <|
      ({ s with reset_ := { s.reset_ with pendingReset := some (s.reset_.pendingReset.getD (deviceResetKind kind)) } } : State).ok r

/-! ## Self-update (R346, R347, Table 13.17) -/

/-- The image lies in companion memory or in partition 0's stacked memory. -/
def State.updateRange (s : State) (a n : Nat) : Bool := inCompanion a n || (s.part 0).hasStacked a n
/-- FW_UPDATE, orders 1 and 2 (R346): it waits until no Cinch is in progress. -/
def execFwUpdate (addr : Addr) (length : BitVec 32) (image : Image) (selfTestOk : Bool) (s : State) : Res :=
  if s.fl.cut.isSome || !s.fl.waitingCinch.isEmpty then .next s
  else
    s.cmd opFwUpdate .package fun s r =>
      s.unless r (firstReason [(decide (length.toNat = 0) || decide (0x200000 < length.toNat), rsField), (!s.updateRange addr.toNat length.toNat, rsAddress),
          (s.lc.transition || s.fl.fw != .idle, rsState), (!s.lc.imageOk false image, rsImage), (!selfTestOk || !s.fl.standbyHealthy, rsStart)]) <|
        let s1 := s.startBg r
        { s1 with fl := { s1.fl with fw := .started r image, standbyVersion := image.imageVersion } }

/-- FW_HANDOVER, orders 3 and 4: the standby pair becomes active; M2 follows (R424), the old one kept for a handback. -/
def execFwHandover (s : State) : Res :=
  let f := s.fl
  match f.fw with
  | .started r i =>
    when_ (f.current.isNone && s.flapinoUp) s
      { s with
        fl := { f with fw := .health r i f.imageVersion, activePair := !f.activePair, imageVersion := i.imageVersion, standbyVersion := f.imageVersion }
        lc := { s.lc with measurements := tSet (tSet s.lc.measurements 6 (tGet 0 s.lc.measurements 2)) 2 (Config.sha256 (imageBytes i)) } }
  | _ => .next s

/-- HEALTH_WINDOW_END, order 6 (R347, R422); a failure hands control back. -/
def execHealthWindowEnd (ok : Bool) (s : State) : Res :=
  match s.fl.fw with
  | .health r i old =>
    .next <|
      if ok then
        let s1 : State := { s with
          fl := { s.fl with fw := .idle, standbyVersion := i.imageVersion, lastUpdate := cdOk }
          lc := ({ s.lc with runningKey := i.key, measurements := tDel s.lc.measurements 6 } : LifeCycle).fuse i }
        (s1.dropBg 0 opFwUpdate).ok r
      else if s.fl.standbyHealthy then s.takeBack r old
      else s.controlStops
  | _ => .next s

/-- FW_QUERY (R336; log 24). -/
def execFwQuery (s : State) : Res :=
  s.cmd 0x0706 .all fun s r =>
    let f := s.fl
    s.okData r [f.imageVersion.setWidth 64, f.standbyVersion.setWidth 64, BitVec.ofNat 64 f.activePair.toNat, BitVec.ofNat 64 s.lc.rollback, f.lastUpdate.setWidth 64]

end Sys2Proof.Machine
end

