-- ==== Sys2Proof/Machine/Dispatch.lean ====
section
/-! DEFINITION. One arm per command: a direct call of its meaning. -/

namespace Sys2Proof.Machine

/-- The effect of a command on everything but the queue. -/
def exec (i : Instr) (s : State) : Host.Outcome State Fault Refusal :=
  match i with
  | .nop b => Sys2Proof.Machine.execNop b s
  | .li b sd imm => Sys2Proof.Machine.execLi b sd imm s
  | .alu b op sd sa sb => Sys2Proof.Machine.execAlu b op sd sa sb s
  | .alui b op sd sa imm => Sys2Proof.Machine.execAlui b op sd sa imm s
  | .ld b sd sa imm => Sys2Proof.Machine.execLd b sd sa imm s
  | .ldDataReturn b hit => Sys2Proof.Machine.execLdDataReturn b hit s
  | .st b sa sb imm => Sys2Proof.Machine.execSt b sa sb imm s
  | .br b cond sa sb offset => Sys2Proof.Machine.execBr b cond sa sb offset s
  | .jmp b call indirect sa offset => Sys2Proof.Machine.execJmp b call indirect sa offset s
  | .loop b sd offset => Sys2Proof.Machine.execLoop b sd offset s
  | .rdreg b sd reg => Sys2Proof.Machine.execRdreg b sd reg s
  | .wrreg b sa reg => Sys2Proof.Machine.execWrreg b sa reg s
  | .blkSrSeedWrite b sa => Sys2Proof.Machine.execBlkSrSeedWrite b sa s
  | .blkLrReleaseWrite b sa => Sys2Proof.Machine.execBlkLrReleaseWrite b sa s
  | .blkCollPostWrite b sa => Sys2Proof.Machine.execBlkCollPostWrite b sa s
  | .blkWlDoneWrite b sa => Sys2Proof.Machine.execBlkWlDoneWrite b sa s
  | .park b code => Sys2Proof.Machine.execPark b code s
  | .unlistedCommand b => Sys2Proof.Machine.execUnlistedCommand b s
  | .ghdr b sa n tag riderEn sb => Sys2Proof.Machine.execGhdr b sa n tag riderEn sb s
  | .commit b quiet => Sys2Proof.Machine.execCommit b quiet s
  | .groupCommit b cycles => Sys2Proof.Machine.execGroupCommit b cycles s
  | .groupCompletionPost b => Sys2Proof.Machine.execGroupCompletionPost b s
  | .wait b mask => Sys2Proof.Machine.execWait b mask s
  | .engineCommandFinish b e hit => Sys2Proof.Machine.execEngineCommandFinish b e hit s
  | .matmul b f => Sys2Proof.Machine.execMatmul b f s
  | .vec b f => Sys2Proof.Machine.execVec b f s
  | .convert b f => Sys2Proof.Machine.execConvert b f s
  | .fetch b f => Sys2Proof.Machine.execFetch b f s
  | .versionEntryRead b hit => Sys2Proof.Machine.execVersionEntryRead b hit s
  | .copy b f => Sys2Proof.Machine.execCopy b f s
  | .send b sa byAddr => Sys2Proof.Machine.execSend b sa byAddr s
  | .recv b q sd sb nonblock byAddr => Sys2Proof.Machine.execRecv b q sd sb nonblock byAddr s
  | .recvWake b => Sys2Proof.Machine.execRecvWake b s
  | .relay b sa byAddr => Sys2Proof.Machine.execRelay b sa byAddr s
  | .atomic b sd sa sb op => Sys2Proof.Machine.execAtomic b sd sa sb op s
  | .fenceReadback b => Sys2Proof.Machine.execFenceReadback b s
  | .readbackReturn b st => Sys2Proof.Machine.execReadbackReturn b st s
  | .groupKill b cause => Sys2Proof.Machine.execGroupKill b cause s
  | .blockAbort b => Sys2Proof.Machine.execBlockAbort b s
  | .commandFetchReturn b hit => Sys2Proof.Machine.execCommandFetchReturn b hit s
  | .shadowLoadComplete b => Sys2Proof.Machine.execShadowLoadComplete b s
  | .arrayPass b fault => Sys2Proof.Machine.execArrayPass b fault s
  | .blockReport b => Sys2Proof.Machine.execBlockReport b s
  | .fenceDrainTimeout b => Sys2Proof.Machine.execFenceDrainTimeout b s
  | .startupTestComplete region phys pass => Sys2Proof.Machine.execStartupTestComplete region phys pass s
  | .regionReport rep => Sys2Proof.Machine.execRegionReport rep s
  | .descriptorArrival d parityOk => Sys2Proof.Machine.execDescriptorArrival d parityOk s
  | .answerAccept m => Sys2Proof.Machine.execAnswerAccept m s
  | .answerNackFull m => Sys2Proof.Machine.execAnswerNackFull m s
  | .answerNackCrc m => Sys2Proof.Machine.execAnswerNackCrc m s
  | .answerNackStale m => Sys2Proof.Machine.execAnswerNackStale m s
  | .answerNackGone m => Sys2Proof.Machine.execAnswerNackGone m s
  | .answerNackBusy m => Sys2Proof.Machine.execAnswerNackBusy m s
  | .backoffExpiry m => Sys2Proof.Machine.execBackoffExpiry m s
  | .lossLimitExpiry m => Sys2Proof.Machine.execLossLimitExpiry m s
  | .sendStallLimit m => Sys2Proof.Machine.execSendStallLimit m s
  | .relayOpen o => Sys2Proof.Machine.execRelayOpen o s
  | .landingCredit num hit => Sys2Proof.Machine.execLandingCredit num hit s
  | .relaySegmentData q id off data => Sys2Proof.Machine.execRelaySegmentData q id off data s
  | .relayDescriptorDelivery q id => Sys2Proof.Machine.execRelayDescriptorDelivery q id s
  | .landedUpdate q => Sys2Proof.Machine.execLandedUpdate q s
  | .relayCancel q id => Sys2Proof.Machine.execRelayCancel q id s
  | .relaySegmentTimeout q id => Sys2Proof.Machine.execRelaySegmentTimeout q id s
  | .admissionPost e mismatch => Sys2Proof.Machine.execAdmissionPost e mismatch s
  | .holdNotice mismatch hit => Sys2Proof.Machine.execHoldNotice mismatch hit s
  | .releaseNotice mismatch hit => Sys2Proof.Machine.execReleaseNotice mismatch hit s
  | .slotAllocation region task => Sys2Proof.Machine.execSlotAllocation region task s
  | .publication region task => Sys2Proof.Machine.execPublication region task s
  | .drainMarkAnswer b ventry => Sys2Proof.Machine.execDrainMarkAnswer b ventry s
  | .versionDrainComplete ventry => Sys2Proof.Machine.execVersionDrainComplete ventry s
  | .jobVersionCheck job => Sys2Proof.Machine.execJobVersionCheck job s
  | .jobVersionAgreed job version => Sys2Proof.Machine.execJobVersionAgreed job version s
  | .instanceStart plan => Sys2Proof.Machine.execInstanceStart plan s
  | .collectivePiece inst rank p => Sys2Proof.Machine.execCollectivePiece inst rank p s
  | .collectiveCredit inst rank => Sys2Proof.Machine.execCollectiveCredit inst rank s
  | .collectiveAbortNotice planId step => Sys2Proof.Machine.execCollectiveAbortNotice planId step s
  | .scalarValue group use value down => Sys2Proof.Machine.execScalarValue group use value down s
  | .instanceComplete plan => Sys2Proof.Machine.execInstanceComplete plan s
  | .normComplete job step => Sys2Proof.Machine.execNormComplete job step s
  | .colTimeoutExpiry w => Sys2Proof.Machine.execColTimeoutExpiry w s
  | .permuteMoveLanded cycle pos => Sys2Proof.Machine.execPermuteMoveLanded cycle pos s
  | .vacateNotice cycle pos => Sys2Proof.Machine.execVacateNotice cycle pos s
  | .updateTaskStart region => Sys2Proof.Machine.execUpdateTaskStart region s
  | .updateGroup region firstMatch secondMatch hit => Sys2Proof.Machine.execUpdateGroup region firstMatch secondMatch hit s
  | .updateTaskComplete region coderOk => Sys2Proof.Machine.execUpdateTaskComplete region coderOk s
  | .updateInterrupt region cause => Sys2Proof.Machine.execUpdateInterrupt region cause s
  | .exportRecordAppend p => Sys2Proof.Machine.execExportRecordAppend p s
  | .exportRoom p => Sys2Proof.Machine.execExportRoom p s
  | .exportSpanSend p => Sys2Proof.Machine.execExportSpanSend p s
  | .memoryRead addr req fault => Sys2Proof.Machine.execMemoryRead addr req fault s
  | .memoryWrite addr data req => Sys2Proof.Machine.execMemoryWrite addr data req s
  | .memorySideOperation srcHit dstHit => Sys2Proof.Machine.execMemorySideOperation srcHit dstHit s
  | .stackTemperatureRead stack temp => Sys2Proof.Machine.execStackTemperatureRead stack temp s
  | .classSwitch stack => Sys2Proof.Machine.execClassSwitch stack s
  | .wipeComplete stack => Sys2Proof.Machine.execWipeComplete stack s
  | .dataFlitReceived l head reserved payload crc => Sys2Proof.Machine.execDataFlitReceived l head reserved payload crc s
  | .replayRequest l ack => Sys2Proof.Machine.execReplayRequest l ack s
  | .ackTimeoutExpiry timer => Sys2Proof.Machine.execAckTimeoutExpiry timer s
  | .ackFlitDue l => Sys2Proof.Machine.execAckFlitDue l s
  | .flitSend l => Sys2Proof.Machine.execFlitSend l s
  | .credit l c => Sys2Proof.Machine.execCredit l c s
  | .ident l i0 => Sys2Proof.Machine.execIdent l i0 s
  | .resume l r => Sys2Proof.Machine.execResume l r s
  | .laneReq l ack r => Sys2Proof.Machine.execLaneReq l ack r s
  | .laneAccept l cmd => Sys2Proof.Machine.execLaneAccept l cmd s
  | .laneRefuse l cmd => Sys2Proof.Machine.execLaneRefuse l cmd s
  | .laneSwitch l cmd => Sys2Proof.Machine.execLaneSwitch l cmd s
  | .laneReqTimeout l => Sys2Proof.Machine.execLaneReqTimeout l s
  | .laneErrorWindow l counts => Sys2Proof.Machine.execLaneErrorWindow l counts s
  | .fecLockLost l => Sys2Proof.Machine.execFecLockLost l s
  | .uncorrectableCodeword l flits windowCount => Sys2Proof.Machine.execUncorrectableCodeword l flits windowCount s
  | .signalLost l => Sys2Proof.Machine.execSignalLost l s
  | .trainingComplete l lanes => Sys2Proof.Machine.execTrainingComplete l lanes s
  | .quickRetrainFail l => Sys2Proof.Machine.execQuickRetrainFail l s
  | .graceExpiry l => Sys2Proof.Machine.execGraceExpiry l s
  | .packetRoute p => Sys2Proof.Machine.execPacketRoute p s
  | .packetForward l vc parityOk => Sys2Proof.Machine.execPacketForward l vc parityOk s
  | .packetDeliver l vc => Sys2Proof.Machine.execPacketDeliver l vc s
  | .bundleTraining region bundle r => Sys2Proof.Machine.execBundleTraining region bundle r s
  | .controlEntryFail at_ x => Sys2Proof.Machine.execControlEntryFail at_ x s
  | .bundleParityFail region bundle x inWindow => Sys2Proof.Machine.execBundleParityFail region bundle x inWindow s
  | .fifoClose c entries => Sys2Proof.Machine.execFifoClose c entries s
  | .fifoReopen c => Sys2Proof.Machine.execFifoReopen c s
  | .guestRead g => Sys2Proof.Machine.execGuestRead g s
  | .guestWrite g => Sys2Proof.Machine.execGuestWrite g s
  | .guestMemop g => Sys2Proof.Machine.execGuestMemop g s
  | .guestSend g d => Sys2Proof.Machine.execGuestSend g d s
  | .mboxUp data => Sys2Proof.Machine.execMboxUp data s
  | .guestCredit hdrs beats => Sys2Proof.Machine.execGuestCredit hdrs beats s
  | .cRd addr len tag => Sys2Proof.Machine.execCRd addr len tag s
  | .cWr addr data => Sys2Proof.Machine.execCWr addr data s
  | .csnpInv line => Sys2Proof.Machine.execCsnpInv line s
  | .snpAck line data => Sys2Proof.Machine.execSnpAck line data s
  | .sharedWindowAccess line write => Sys2Proof.Machine.execSharedWindowAccess line write s
  | .rdData r => Sys2Proof.Machine.execRdData r s
  | .wrAck tag => Sys2Proof.Machine.execWrAck tag s
  | .sceolinkPacketDrop kind tag => Sys2Proof.Machine.execSceolinkPacketDrop kind tag s
  | .remountReq ack r => Sys2Proof.Machine.execRemountReq ack r s
  | .remountAccept dir cmd => Sys2Proof.Machine.execRemountAccept dir cmd s
  | .remountRefuse dir cmd => Sys2Proof.Machine.execRemountRefuse dir cmd s
  | .remountSwitch dir cmd => Sys2Proof.Machine.execRemountSwitch dir cmd s
  | .remountTimeout dir => Sys2Proof.Machine.execRemountTimeout dir s
  | .sceolinkLaneWindow dir counts => Sys2Proof.Machine.execSceolinkLaneWindow dir counts s
  | .sessionFlush fresh => Sys2Proof.Machine.execSessionFlush fresh s
  | .sclAttachNew number => Sys2Proof.Machine.execSclAttachNew number s
  | .sclAttachResume number => Sys2Proof.Machine.execSclAttachResume number s
  | .fmpPCmdTailWrite p value => Sys2Proof.Machine.execFmpPCmdTailWrite p value s
  | .fmpPCplHeadWrite p value => Sys2Proof.Machine.execFmpPCplHeadWrite p value s
  | .fmpPEvtHeadWrite p value => Sys2Proof.Machine.execFmpPEvtHeadWrite p value s
  | .fmpBootImageWrite value => Sys2Proof.Machine.execFmpBootImageWrite value s
  | .ringReread p h => Sys2Proof.Machine.execRingReread p h s
  | .commandRecordRead p h => Sys2Proof.Machine.execCommandRecordRead p h s
  | .partCreate x => Sys2Proof.Machine.execPartCreate x s
  | .partDestroy index => Sys2Proof.Machine.execPartDestroy index s
  | .partQuads index mask => Sys2Proof.Machine.execPartQuads index mask s
  | .partMem x => Sys2Proof.Machine.execPartMem x s
  | .partCheckMode mode => Sys2Proof.Machine.execPartCheckMode mode s
  | .partDrain timeoutMs => Sys2Proof.Machine.execPartDrain timeoutMs s
  | .drainTimeout p => Sys2Proof.Machine.execDrainTimeout p s
  | .partitionDrained p => Sys2Proof.Machine.execPartitionDrained p s
  | .partReset wipeMem => Sys2Proof.Machine.execPartReset wipeMem s
  | .programStart mask pc vals => Sys2Proof.Machine.execProgramStart mask pc vals s
  | .blockResume b pc => Sys2Proof.Machine.execBlockResume b pc s
  | .staleBlockResume b => Sys2Proof.Machine.execStaleBlockResume b s
  | .quadRepair region quad action block => Sys2Proof.Machine.execQuadRepair region quad action block s
  | .reportSet x => Sys2Proof.Machine.execReportSet x s
  | .regionReset region => Sys2Proof.Machine.execRegionReset region s
  | .stageSet x => Sys2Proof.Machine.execStageSet x s
  | .stageClear index => Sys2Proof.Machine.execStageClear index s
  | .stageQuery index => Sys2Proof.Machine.execStageQuery index s
  | .admitStart index step mb => Sys2Proof.Machine.execAdmitStart index step mb s
  | .admitStop index => Sys2Proof.Machine.execAdmitStop index s
  | .vtableInit x => Sys2Proof.Machine.execVtableInit x s
  | .vtableQuery addr => Sys2Proof.Machine.execVtableQuery addr s
  | .versionPin index => Sys2Proof.Machine.execVersionPin index s
  | .versionUnpin index => Sys2Proof.Machine.execVersionUnpin index s
  | .queueConfig x => Sys2Proof.Machine.execQueueConfig x s
  | .lringBind q base segments => Sys2Proof.Machine.execLringBind q base segments s
  | .lringUnbind q => Sys2Proof.Machine.execLringUnbind q s
  | .collGroupSet index list count => Sys2Proof.Machine.execCollGroupSet index list count s
  | .collPlanSet index x => Sys2Proof.Machine.execCollPlanSet index x s
  | .collPlanClear index => Sys2Proof.Machine.execCollPlanClear index s
  | .collJobSet job group norm timeoutMs => Sys2Proof.Machine.execCollJobSet job group norm timeoutMs s
  | .collScalar group op value result => Sys2Proof.Machine.execCollScalar group op value result s
  | .permuteStart group table count staging size => Sys2Proof.Machine.execPermuteStart group table count staging size s
  | .collQuery index => Sys2Proof.Machine.execCollQuery index s
  | .updTaskSet region index x => Sys2Proof.Machine.execUpdTaskSet region index x s
  | .updTaskClear region index => Sys2Proof.Machine.execUpdTaskClear region index s
  | .updParamSet region index words => Sys2Proof.Machine.execUpdParamSet region index words s
  | .updSchedSet region first segs => Sys2Proof.Machine.execUpdSchedSet region first segs s
  | .updQuery region index => Sys2Proof.Machine.execUpdQuery region index s
  | .memClassSet partition first count classA => Sys2Proof.Machine.execMemClassSet partition first count classA s
  | .memScrubSet hours => Sys2Proof.Machine.execMemScrubSet hours s
  | .linkConfig x => Sys2Proof.Machine.execLinkConfig x s
  | .linkRouteSet first count addr => Sys2Proof.Machine.execLinkRouteSet first count addr s
  | .linkIdSet device hopLimit => Sys2Proof.Machine.execLinkIdSet device hopLimit s
  | .linkQuery mask => Sys2Proof.Machine.execLinkQuery mask s
  | .linkRetrain port => Sys2Proof.Machine.execLinkRetrain port s
  | .linkFlush port => Sys2Proof.Machine.execLinkFlush port s
  | .sclConfig x => Sys2Proof.Machine.execSclConfig x s
  | .sclRemount dir logical => Sys2Proof.Machine.execSclRemount dir logical s
  | .prepared i0 => Sys2Proof.Machine.execPrepared i0 s
  | .cutReceived i0 => Sys2Proof.Machine.execCutReceived i0 s
  | .markerReceived i0 source => Sys2Proof.Machine.execMarkerReceived i0 source s
  | .cutAck i0 => Sys2Proof.Machine.execCutAck i0 s
  | .errQuery partition => Sys2Proof.Machine.execErrQuery partition s
  | .eventMaskSet codes => Sys2Proof.Machine.execEventMaskSet codes s
  | .marginTest x => Sys2Proof.Machine.execMarginTest x s
  | .marginTestComplete results => Sys2Proof.Machine.execMarginTestComplete results s
  | .powerLimitSet x => Sys2Proof.Machine.execPowerLimitSet x s
  | .attest nonce flags => Sys2Proof.Machine.execAttest nonce flags s
  | .lcTransition x readBackOk => Sys2Proof.Machine.execLcTransition x readBackOk s
  | .preserveArm token => Sys2Proof.Machine.execPreserveArm token s
  | .deviceReset kind => Sys2Proof.Machine.execDeviceReset kind s
  | .fwUpdate addr length image selfTestOk => Sys2Proof.Machine.execFwUpdate addr length image selfTestOk s
  | .healthWindowEnd ok => Sys2Proof.Machine.execHealthWindowEnd ok s
  | .guestFwSet x => Sys2Proof.Machine.execGuestFwSet x s
  | .guestReset discarded => Sys2Proof.Machine.execGuestReset discarded s
  | .guestMsg data => Sys2Proof.Machine.execGuestMsg data s
  | .exportSet x => Sys2Proof.Machine.execExportSet x s
  | .exportShard region index moments => Sys2Proof.Machine.execExportShard region index moments s
  | .checkpointMark partition step => Sys2Proof.Machine.execCheckpointMark partition step s
  | .exportQuery partition => Sys2Proof.Machine.execExportQuery partition s
  | .seqAdd x => Sys2Proof.Machine.execSeqAdd x s
  | .seqUpdate x => Sys2Proof.Machine.execSeqUpdate x s
  | .seqRemove index => Sys2Proof.Machine.execSeqRemove index s
  | .seqQuery first count => Sys2Proof.Machine.execSeqQuery first count s
  | .batchSet x => Sys2Proof.Machine.execBatchSet x s
  | .worklistBuild p => Sys2Proof.Machine.execWorklistBuild p s
  | .batchDeadlineExpiry p => Sys2Proof.Machine.execBatchDeadlineExpiry p s
  | .groupDoneWrite p => Sys2Proof.Machine.execGroupDoneWrite p s
  | .coalescingWaitExpiry p => Sys2Proof.Machine.execCoalescingWaitExpiry p s
  | .completionHold p cycles => Sys2Proof.Machine.execCompletionHold p cycles s
  | .deviceRecordAck p event => Sys2Proof.Machine.execDeviceRecordAck p event s
  | .reportIntervalEnd p => Sys2Proof.Machine.execReportIntervalEnd p s
  | .coreDroopEnd lowMv duration => Sys2Proof.Machine.execCoreDroopEnd lowMv duration s
  | .powerControlInterval x => Sys2Proof.Machine.execPowerControlInterval x s
  | .hubFault k => Sys2Proof.Machine.execHubFault k s
  | .porstNAssert supply => Sys2Proof.Machine.execPorstNAssert supply s
  | .porstNRelease cfgsel => Sys2Proof.Machine.execPorstNRelease cfgsel s
  | .resetRelease i0 => Sys2Proof.Machine.execResetRelease i0 s
  | .bootImageVerify found image recoverySlot selfTestOk => Sys2Proof.Machine.execBootImageVerify found image recoverySlot selfTestOk s
  | .regulatorAck ack => Sys2Proof.Machine.execRegulatorAck ack s
  | .domainPowerOn domain => Sys2Proof.Machine.execDomainPowerOn domain s
  | .signalDetect l => Sys2Proof.Machine.execSignalDetect l s
  | .keeperFillExpiry b => Sys2Proof.Machine.execKeeperFillExpiry b s
  | .keeperRampStep b => Sys2Proof.Machine.execKeeperRampStep b s
  | .patrolScrubBurst addr fault => Sys2Proof.Machine.execPatrolScrubBurst addr fault s
  | .selfRefreshEntry stack => Sys2Proof.Machine.execSelfRefreshEntry stack s
  | .refreshManagementRequest stack => Sys2Proof.Machine.execRefreshManagementRequest stack s
  | .guestUnknownPacket type => Sys2Proof.Machine.execGuestUnknownPacket type s
  | .tokenBucketRefill tokens window => Sys2Proof.Machine.execTokenBucketRefill tokens window s
  | .sclHeartbeatWrite value => Sys2Proof.Machine.execSclHeartbeatWrite value s
  | .headErrClear p value => Sys2Proof.Machine.execHeadErrClear p value s
  | .memQuery mask => Sys2Proof.Machine.execMemQuery mask s
  | .bundleQuery mask => Sys2Proof.Machine.execBundleQuery mask s
  | .jtagTestTransition secret certificate => Sys2Proof.Machine.execJtagTestTransition secret certificate s
  | .pmbusPoll x => Sys2Proof.Machine.execPmbusPoll x s
  | .clockSlew mhz => Sys2Proof.Machine.execClockSlew mhz s
  | .mgtBlockRead cmd => Sys2Proof.Machine.execMgtBlockRead cmd s
  | .perBankRefresh stack => Sys2Proof.Machine.execPerBankRefresh stack s
  | .stallPolicy => Sys2Proof.Machine.execStallPolicy s
  | .collectivePost => Sys2Proof.Machine.execCollectivePost s
  | .heartbeatExpiry => Sys2Proof.Machine.execHeartbeatExpiry s
  | .sclAttachDetach => Sys2Proof.Machine.execSclAttachDetach s
  | .unknown => Sys2Proof.Machine.execUnknown s
  | .partResume => Sys2Proof.Machine.execPartResume s
  | .partAbort => Sys2Proof.Machine.execPartAbort s
  | .partQuery => Sys2Proof.Machine.execPartQuery s
  | .sclQuery => Sys2Proof.Machine.execSclQuery s
  | .check => Sys2Proof.Machine.execCheck s
  | .cinch => Sys2Proof.Machine.execCinch s
  | .draftDiscard => Sys2Proof.Machine.execDraftDiscard s
  | .draftQuery => Sys2Proof.Machine.execDraftQuery s
  | .cutTimeout => Sys2Proof.Machine.execCutTimeout s
  | .telemetryQuery => Sys2Proof.Machine.execTelemetryQuery s
  | .fwHandover => Sys2Proof.Machine.execFwHandover s
  | .fwQuery => Sys2Proof.Machine.execFwQuery s
  | .guestQuery => Sys2Proof.Machine.execGuestQuery s
  | .worklistStart => Sys2Proof.Machine.execWorklistStart s
  | .worklistStop => Sys2Proof.Machine.execWorklistStop s
  | .completionCollect => Sys2Proof.Machine.execCompletionCollect s
  | .eventRaise => Sys2Proof.Machine.execEventRaise s
  | .coreDroopStart => Sys2Proof.Machine.execCoreDroopStart s
  | .dipLimitExpiry => Sys2Proof.Machine.execDipLimitExpiry s
  | .thermalTrip => Sys2Proof.Machine.execThermalTrip s
  | .watchdogWrite => Sys2Proof.Machine.execWatchdogWrite s
  | .watchdogExpiry => Sys2Proof.Machine.execWatchdogExpiry s
  | .controlFailover => Sys2Proof.Machine.execControlFailover s
  | .sysrstNAssert => Sys2Proof.Machine.execSysrstNAssert s
  | .bootComplete => Sys2Proof.Machine.execBootComplete s
  | .cutStart => Sys2Proof.Machine.execCutStart s

end Sys2Proof.Machine
end

