-- ==== Sys2Proof/WellFormed.lean ====
section
/-! DEFINITION. Which commands are well formed: the units they name exist (Table 0.2, Tables 1.3, 1.4, 16.6), and a register write stands under the row that the opcode table gives it. -/

namespace Sys2Proof

/-- A fabric port (0 to 23) or Sceolink (24). -/
def wfLink (l : LinkId) : Bool := decide (l ≤ 24)
/-- A stack of the package (R222). -/
def wfStack (i : Nat) : Bool := decide (i < 12)
/-- A fabric port (R240). -/
def wfPort (p : Nat) : Bool := decide (p < 24)
/-- A bundle end of a region, or of the guest site (Table 11.4, R282; log 63). -/
def wfBundle (b : Nat) : Bool := decide (b < 28)
/-- An address of stacked memory, which ends at 0x6C_0000_0000 (Table 9.2). -/
def wfStacked (a : Addr) : Bool := decide (a.toNat < 0x6C00000000)
/-- A physical block position of a region (R7). -/
def wfPhys (p : Nat) : Bool := decide (p < 68)
/-- A power domain (Table 16.6). -/
def wfDomain (d : Nat) : Bool := decide (d < 80)
/-- A crossing whose units exist (R275). -/
def wfCrossing : Crossing → Bool
  | .memSide i => wfStack i
  | .port p => wfPort p
  | _ => true
/-- An island that exists. -/
def wfIsland : Island → Bool
  | .memSide i => wfStack i
  | .port p => wfPort p
  | _ => true

/-- The numbers a command carries name units that the package has. -/
def Instr.unitsExist : Instr → Bool
  | .startupTestComplete _ p _ => wfPhys p
  | .stackTemperatureRead i _ => wfStack i
  | .selfRefreshEntry i => wfStack i
  | .refreshManagementRequest i => wfStack i
  | .classSwitch i => wfStack i
  | .wipeComplete i => wfStack i
  | .perBankRefresh i => wfStack i
  | .dataFlitReceived l _ _ _ _ => wfLink l
  | .replayRequest l _ => wfLink l
  | .ackTimeoutExpiry t => wfLink t.link
  | .ackFlitDue l => wfLink l
  | .flitSend l => wfLink l
  | .credit l _ => wfLink l
  | .ident l _ => wfLink l
  | .resume l _ => wfLink l
  | .laneReq l _ _ => wfLink l
  | .laneAccept l _ => wfLink l
  | .laneRefuse l _ => wfLink l
  | .laneSwitch l _ => wfLink l
  | .laneReqTimeout l => wfLink l
  | .laneErrorWindow l _ => wfPort l
  | .fecLockLost l => wfLink l
  | .uncorrectableCodeword l _ _ => wfLink l
  | .signalLost l => wfLink l
  | .signalDetect l => wfLink l
  | .trainingComplete l _ => wfLink l
  | .quickRetrainFail l => wfLink l
  | .graceExpiry l => wfLink l
  | .packetForward l _ _ => wfPort l
  | .packetDeliver l _ => wfPort l
  | .bundleTraining _ b _ => wfBundle b
  | .controlEntryFail b _ => wfBundle b.bundle
  | .bundleParityFail _ b _ _ => wfBundle b
  | .fifoClose c _ => wfCrossing c
  | .fifoReopen c => wfCrossing c
  | .resetRelease i => wfIsland i
  | .domainPowerOn d => wfDomain d
  | .patrolScrubBurst a _ => wfStacked a
  | _ => true

/-- A WRREG names no register whose write is a row of its own: BLK_SR_SEED, BLK_COLL_POST, BLK_WL_DONE, BLK_LR_RELEASE. -/
def Instr.ownRow : Instr → Bool
  | .wrreg _ _ off => off != 0x0018#16 && off != 0x0048#16 && off != 0x0050#16 && off != 0x0208#16
  | _ => true

/-- A well-formed command. -/
def Instr.wellFormed (i : Instr) : Bool := i.unitsExist && i.ownRow

end Sys2Proof
end

