-- ==== Sys2Proof/Safety.lean ====
section
/-! DEFINITION. What a safe run is, and the conditions under which a command takes its own effect, in the terms that statements use. -/

namespace Sys2Proof.Machine

/-- A state in which memory has its canonical form. -/
def State.Safe (s : State) : Prop := Memory.wf s.mem = true

/-- The block core of a block decodes a command now, from a word it may fetch (R76). -/
def State.decodes (s : State) (b : BlockId) : Bool := (s.block b).endCommit.canDecode && s.pcOk b

/-- It does so in the open state (R79). -/
def State.decodesOpen (s : State) (b : BlockId) : Bool := s.decodes b && !(s.block b).inGroup

/-- It does so inside the open group g (R79). -/
def State.decodesIn (s : State) (b : BlockId) (g : Group) : Bool :=
  s.decodes b && (s.block b).inGroup && (s.block b).group == some g

/-- A heavy command of block b in group g passes its issue: it is decoded, its checks hold, its ranges lie in the sets and are allowed, and its engine has room (R84, R85, R224). -/
def State.issues (s : State) (b : BlockId) (g : Group) (e : EngineId) (ok : Bool) (reads writes : List Range) : Bool :=
  s.decodesIn b g && ok && (nonEmpty reads).all (fun r => readOk b (s.block b) r.base r.len)
    && (nonEmpty writes).all (fun r => writeOk b (s.block b) r.base r.len)
    && (nonEmpty (reads ++ writes)).all (fun r => s.blockAllowed b r.base r.len) && decide (((s.block b).engineQ e).length < 8)

/-- A block that runs, is neither fenced nor in reset, and reports nothing (R19, R376). -/
def BlockState.live (x : BlockState) : Bool := !x.fenced && !x.inReset && !x.report

/-- Flapino has read a command with this opcode whose scope and epoch pass (R332 to R334), for a sound security engine where it needs one (R379). -/
def State.carries (s : State) (r : Running) (op : BitVec 16) (sc : Scope) : Bool :=
  s.fl.current == some r && r.hdr.opcode == op && scopeOk r sc && !staleHdr r.hdr.epoch (s.scopeEpoch r sc)
    && !(s.lc.securityFault && op.extractLsb' 8 8 == 0x07#8)

/-- The state once Flapino has taken the command that it read. -/
def State.taken (s : State) : State := { s with fl := { s.fl with current := none } }

/-- A command's record as its CMD_DONE carries it, when its data is at most 1,984 bytes (R335). -/
def doneRecord (r : Running) (status reason flags : BitVec 8) (data : List Word) : CplRecord :=
  .cmdDone ⟨r.hdr.opcode, r.hdr.tag, r.seq, status, reason, flags, r.hdr.resultAddr, data⟩

/-- A D command as the draft of its issuer holds it (R337). -/
def draftedAs (r : Running) (op : BitVec 16) (sc : Scope) (d : DraftSetting) : DraftCmd := ⟨op, r.hdr.tag, r.hdr.payloadBytes, scopeTarget r sc, d⟩

/-- The settings that a D command meets: those of the draft's commands for other objects, applied (R337). -/
def State.draftMet (s : State) (r : Running) (d : DraftSetting) : State :=
  draftState s.taken ((s.part r.part).draft.filter fun e => draftKey e.setting != draftKey d)

/-- Flapino carries a D command that no condition refuses and that the draft has room for (R337). -/
def State.acceptsDraft (s : State) (r : Running) (op : BitVec 16) (sc : Scope) (d : DraftSetting) : Bool :=
  s.carries r op sc && settingReject (s.draftMet r d) (draftedAs r op sc d) == none
    && !draftBig (putDraft (s.part r.part).draft (draftedAs r op sc d))

/-- A D command staged: it stands in the draft of its issuer, and its CMD_DONE carries the flag staged (R337). -/
def State.drafted (s : State) (r : Running) (op : BitVec 16) (sc : Scope) (d : DraftSetting) : State :=
  (s.taken.setPart r.part { s.part r.part with draft := putDraft (s.part r.part).draft (draftedAs r op sc d) }).cmdDone r cdOk 0 flStaged []

/-- The opcode and the scope of a command of Table 13.13, from the settings as they are; none for any other command, and for CINCH, whose epoch is compared when its turn comes (R340). -/
def State.commandOf (s : State) : Instr → Option (BitVec 16 × Scope)
  | .partCreate _ => some (0x0101, .package)
  | .partDestroy _ => some (0x0102, .package)
  | .partQuads _ _ => some (0x0103, .package)
  | .partMem _ => some (0x0104, .package)
  | .partCheckMode _ => some (0x0105, .own)
  | .partDrain _ => some (0x0106, .own)
  | .partResume => some (0x0107, .own)
  | .partAbort => some (0x0108, .own)
  | .partQuery => some (0x0109, .own)
  | .partReset _ => some (0x010A, .own)
  | .programStart _ _ _ => some (0x010B, .own)
  | .blockResume _ _ => some (0x010C, .own)
  | .quadRepair _ _ _ _ => some (0x010D, .package)
  | .reportSet _ => some (0x010E, .own)
  | .regionReset _ => some (0x010F, .package)
  | .stageSet x => some (0x0201, .names x.partition)
  | .stageClear i => some (0x0202, s.stageScope i)
  | .stageQuery i => some (0x0203, s.stageScope i)
  | .admitStart i _ _ => some (0x0208, s.stageScope i)
  | .admitStop i => some (0x0209, s.stageScope i)
  | .vtableInit _ => some (0x0210, .own)
  | .vtableQuery _ => some (0x0211, .own)
  | .versionPin i => some (0x0212, s.stageScope i)
  | .versionUnpin i => some (0x0213, s.stageScope i)
  | .queueConfig x => some (0x0230, .names x.partition)
  | .lringBind _ _ _ => some (0x0231, .own)
  | .lringUnbind _ => some (0x0232, .own)
  | .collGroupSet _ _ _ => some (0x0240, .own)
  | .collPlanSet _ x => some (0x0241, .names x.partition)
  | .collPlanClear i => some (0x0242, s.planScope i)
  | .collJobSet _ _ _ _ => some (0x0243, .own)
  | .collScalar _ _ _ _ => some (0x0244, .own)
  | .permuteStart _ _ _ _ _ => some (0x0245, .own)
  | .collQuery i => some (0x0246, s.planScope i)
  | .updTaskSet _ _ x => some (0x0250, .names x.partition)
  | .updTaskClear q i => some (0x0251, s.taskScope q i.toNat)
  | .updParamSet _ _ _ => some (0x0252, .own)
  | .updSchedSet _ _ _ => some (0x0253, .own)
  | .updQuery q i => some (0x0254, s.taskScope q i.toNat)
  | .memClassSet p _ _ _ => some (0x0301, .names p)
  | .memScrubSet _ => some (0x0302, .package)
  | .memQuery _ => some (0x0303, .all)
  | .linkConfig _ => some (0x0401, .package)
  | .linkRouteSet _ _ _ => some (0x0402, .package)
  | .linkIdSet _ _ => some (0x0403, .package)
  | .linkQuery _ => some (0x0404, .all)
  | .linkRetrain _ => some (0x0405, .package)
  | .linkFlush _ => some (0x0406, .package)
  | .sclConfig _ => some (0x0410, .package)
  | .sclRemount _ _ => some (0x0411, .package)
  | .sclQuery => some (0x0412, .all)
  | .check => some (0x0501, .own)
  | .draftDiscard => some (0x0503, .own)
  | .draftQuery => some (0x0504, .own)
  | .errQuery _ => some (0x0601, .all)
  | .eventMaskSet _ => some (0x0602, .own)
  | .marginTest _ => some (0x0603, .package)
  | .powerLimitSet _ => some (0x0604, .package)
  | .telemetryQuery => some (0x0605, .all)
  | .bundleQuery _ => some (0x0611, .all)
  | .attest _ _ => some (0x0701, .all)
  | .lcTransition _ _ => some (0x0702, .package)
  | .preserveArm _ => some (0x0703, .package)
  | .deviceReset _ => some (0x0704, .package)
  | .fwUpdate _ _ _ _ => some (0x0705, .package)
  | .fwQuery => some (0x0706, .all)
  | .guestFwSet _ => some (0x0710, .package)
  | .guestReset _ => some (0x0711, .package)
  | .guestMsg _ => some (0x0712, .own)
  | .guestQuery => some (0x0713, .all)
  | .exportSet x => some (0x0801, .names x.partition)
  | .exportShard q i _ => some (0x0802, s.taskScope q i.toNat)
  | .checkpointMark p _ => some (0x0803, .names p)
  | .exportQuery p => some (0x0804, .names p)
  | .seqAdd _ => some (0x0901, .own)
  | .seqUpdate _ => some (0x0902, .own)
  | .seqRemove _ => some (0x0903, .own)
  | .seqQuery _ _ => some (0x0904, .own)
  | .batchSet _ => some (0x0905, .own)
  | .worklistStart => some (0x0906, .own)
  | .worklistStop => some (0x0907, .own)
  | _ => none

end Sys2Proof.Machine
end

