-- ==== Sys2Proof/Certificates/Slice0/Obligations.lean ====
section
/-! DEFINITION. The statements for the provers. -/

open Sys2Proof Sys2Proof.Machine


/-- For every command c, list of commands rest and state s: where s holds c and then rest in its queue, step of s is exec of c on s with only rest waiting. Where the queue is empty, step answers the same state (the model's choice, log 1). -/
def Obligations.StepRunsTheCommand : Prop :=
  (∀ (c : Instr) (rest : List Instr) (s : State), s.pending = c :: rest → step s = exec c { s with pending := rest }) ∧
  (∀ s : State, s.pending = [] → step s = .next s)

/-- Where block b decodes a command, in the open state or in a group, NOP goes to the next word and changes nothing else. LI writes its immediate to sd. ALU writes, for each of the op codes 0x0 to 0xC, the value of Table 4.4 of sa and sb: sum, difference, and, or, exclusive or, the three shifts by the low six bits of sb, the low 64 bits of the product, signed minimum and maximum, and the two comparisons as 1 or 0. ALUI does the same with its immediate in the place of sb. The state left is the state before with only that block's registers and program counter changed (and a commit that had ended). -/
def Obligations.ScalarResults : Prop :=
  ∀ (s : State) (b : BlockId), s.decodes b = true →
    let x := (s.block b).endCommit
    let put (sd : Reg) (v : Word) : Res := .next (s.setBlock b (x.setReg sd v).next)
    exec (.nop b) s = .next (s.setBlock b x.next) ∧
    (∀ (sd : Reg) (imm : Word), exec (.li b sd imm) s = put sd imm) ∧
    (∀ (sd sa sb : Reg) (u v : Word), x.reg sa = u → x.reg sb = v →
      exec (.alu b 0x0 sd sa sb) s = put sd (u + v) ∧
      exec (.alu b 0x1 sd sa sb) s = put sd (u - v) ∧
      exec (.alu b 0x2 sd sa sb) s = put sd (u &&& v) ∧
      exec (.alu b 0x3 sd sa sb) s = put sd (u ||| v) ∧
      exec (.alu b 0x4 sd sa sb) s = put sd (u ^^^ v) ∧
      exec (.alu b 0x5 sd sa sb) s = put sd (u <<< (v.toNat % 64)) ∧
      exec (.alu b 0x6 sd sa sb) s = put sd (u >>> (v.toNat % 64)) ∧
      exec (.alu b 0x7 sd sa sb) s = put sd (u.sshiftRight (v.toNat % 64)) ∧
      exec (.alu b 0x8 sd sa sb) s = put sd (u * v) ∧
      exec (.alu b 0x9 sd sa sb) s = put sd (if u.toInt < v.toInt then u else v) ∧
      exec (.alu b 0xA sd sa sb) s = put sd (if u.toInt < v.toInt then v else u) ∧
      exec (.alu b 0xB sd sa sb) s = put sd (if u.toInt < v.toInt then 1 else 0) ∧
      exec (.alu b 0xC sd sa sb) s = put sd (if u.toNat < v.toNat then 1 else 0)) ∧
    (∀ (op : BitVec 4) (sd sa sb : Reg) (imm : Word), op.toNat ≤ 0xC → x.reg sb = imm →
      exec (.alui b op sd sa imm) s = exec (.alu b op sd sa sb) s)

/-- In every block state, s0 reads zero. A write to s0 leaves the block as it was. After a write of v to a register other than s0, that register reads v, and every other register reads as before. -/
def Obligations.ScalarRegisterZero : Prop :=
  ∀ (x : BlockState) (r : Reg) (v : Word),
    x.reg 0 = 0 ∧ x.setReg 0 v = x ∧ (r ≠ 0 → (x.setReg r v).reg r = v) ∧ (∀ q : Reg, q ≠ r → (x.setReg r v).reg q = x.reg q)

/-- Where block b decodes a command at program counter pc: BR under each of the six conditions of R81 goes to pc + 32 × offset (offset signed) when the condition holds between sa and sb and to pc + 32 when it does not, and changes no register. LOOP writes sd − 1 to sd and goes to pc + 32 × offset when sd then reads other than zero, else to pc + 32 (a LOOP on s0, which reads zero, goes to pc + 32). A JMP that is not indirect goes to pc + 32 × offset, and an indirect one whose sa is aligned to 32 bytes goes to sa; with call set, s1 receives pc + 32 (sa is read first). Nothing else of the state changes, but that a commit that had ended is over. -/
def Obligations.ControlFlow : Prop :=
  ∀ (s : State) (b : BlockId), s.decodes b = true →
    let x := (s.block b).endCommit
    let target (off : BitVec 32) : Addr := x.pc + off.signExtend 48 * 32
    (∀ (sa sb : Reg) (off : BitVec 32) (u v : Word), x.reg sa = u → x.reg sb = v →
      let goes (c : Bool) : Res := .next (s.setBlock b { x with pc := if c then target off else x.pc + 32 })
      exec (.br b 0 sa sb off) s = goes (u == v) ∧
      exec (.br b 1 sa sb off) s = goes (u != v) ∧
      exec (.br b 2 sa sb off) s = goes (decide (u.toInt < v.toInt)) ∧
      exec (.br b 3 sa sb off) s = goes (decide (v.toInt ≤ u.toInt)) ∧
      exec (.br b 4 sa sb off) s = goes (decide (u.toNat < v.toNat)) ∧
      exec (.br b 5 sa sb off) s = goes (decide (v.toNat ≤ u.toNat))) ∧
    (∀ (sd : Reg) (off : BitVec 32),
      let y := x.setReg sd (x.reg sd - 1)
      exec (.loop b sd off) s = .next (s.setBlock b { y with pc := if y.reg sd = 0 then x.pc + 32 else target off })) ∧
    (∀ (call : Bool) (sa : Reg) (off : BitVec 32),
      let y := if call then x.setReg 1 ((x.pc + 32).setWidth 64) else x
      exec (.jmp b call false sa off) s = .next (s.setBlock b { y with pc := target off }) ∧
      ((x.reg sa).toNat % 32 = 0 → exec (.jmp b call true sa off) s = .next (s.setBlock b { y with pc := (x.reg sa).setWidth 48 })))

/-- Where block b decodes a command: an opcode that Table 4.3 does not list, ALU and ALUI op codes 0xD to 0xF, BR conditions 0b110 and 0b111, and PARK in a group or COMMIT in the open state all end by R80; an LD or ST whose address is not aligned to 8 bytes and an indirect JMP whose target is not aligned to 32 bytes end the same way. In the open state the core is parked with code 0xFFFF (0xFFFE for an unaligned address), its program counter unchanged, and BLOCK_PARKED is raised. In a group the core is parked with code 0xFFFD, the group is closed, its last status is REJECTED (0x06) and BLK_GROUP_REJECTS has counted it. -/
def Obligations.ScalarRefusals : Prop :=
  ∀ (s : State) (b : BlockId),
    let parks (r : Res) (code : BitVec 16) : Prop :=
      ∃ t, r = .next t ∧ (t.block b).core = .parked ∧ (t.block b).parkCode = code ∧ (t.block b).pc = (s.block b).pc ∧
        t.events.length = s.events.length + 1
    let rejects (r : Res) (g : Group) : Prop :=
      ∃ t, r = .next t ∧ (t.block b).core = .parked ∧ (t.block b).parkCode = 0xFFFD ∧ (t.block b).group = none ∧
        (t.block b).lastStatus = 0x06 ∧ (t.block b).groupTag = g.tag ∧ (t.block b).rejects = inc (s.block b).rejects
    (s.decodesOpen b = true →
      parks (exec (.unlistedCommand b) s) 0xFFFF ∧
      (∀ op sd sa sb, 0xD ≤ op.toNat → parks (exec (.alu b op sd sa sb) s) 0xFFFF) ∧
      (∀ op sd sa imm, 0xD ≤ op.toNat → parks (exec (.alui b op sd sa imm) s) 0xFFFF) ∧
      (∀ c sa sb off, 6 ≤ c.toNat → parks (exec (.br b c sa sb off) s) 0xFFFF) ∧
      (∀ quiet, parks (exec (.commit b quiet) s) 0xFFFF) ∧
      (∀ sd sa imm, ((s.block b).reg sa + imm).toNat % 8 ≠ 0 → parks (exec (.ld b sd sa imm) s) 0xFFFE) ∧
      (∀ sa sb imm, ((s.block b).reg sa + imm).toNat % 8 ≠ 0 → parks (exec (.st b sa sb imm) s) 0xFFFE) ∧
      (∀ call sa off, ((s.block b).reg sa).toNat % 32 ≠ 0 → parks (exec (.jmp b call true sa off) s) 0xFFFE)) ∧
    (∀ g, s.decodesIn b g = true →
      rejects (exec (.unlistedCommand b) s) g ∧
      (∀ op sd sa sb, 0xD ≤ op.toNat → rejects (exec (.alu b op sd sa sb) s) g) ∧
      (∀ c sa sb off, 6 ≤ c.toNat → rejects (exec (.br b c sa sb off) s) g) ∧
      (∀ code, rejects (exec (.park b code) s) g) ∧
      (∀ sd sa imm, ((s.block b).reg sa + imm).toNat % 8 ≠ 0 → rejects (exec (.ld b sd sa imm) s) g) ∧
      (∀ sa sb imm, ((s.block b).reg sa + imm).toNat % 8 ≠ 0 → rejects (exec (.st b sa sb imm) s) g) ∧
      (∀ call sa off, ((s.block b).reg sa).toNat % 32 ≠ 0 → rejects (exec (.jmp b call true sa off) s) g))

/-- Where block b decodes a command and sa + imm64 = a is aligned to 8 bytes, lies in the open group's sets where a group is open, and is allowed to the block: LD from the block's own scratchpad writes to sd the 8 bytes at a, the first least significant, and goes to the next word, changing no memory (no landing ring there being behind or abandoned). LD from stacked memory stalls decode; LD_DATA_RETURN, where the check of the burst finds no error that stops the data, then writes the 8 bytes to sd, goes to the next word and ends the stall. ST to the own scratchpad or to stacked memory (a not write-locked, no burst that the store touches holding an error, and the block no checker writing outside its own scratchpad) writes the 8 bytes of sb from a up, signs them in a group of a pair (R382), and goes to the next word. The bits that a command's `hit` names have turned over first in the first burst that it reads (State.struck). -/
def Obligations.LoadAndStore : Prop :=
  (∀ (s : State) (b : BlockId) (sd sa : Reg) (imm : Word) (a : Nat),
    let x := (s.block b).endCommit
    s.decodes b = true → a = (x.reg sa + imm).toNat → a % 8 = 0 → readOk b x a 8 = true → s.blockAllowed b a 8 = true →
    (s.setBlock b x).ringAbandoned b a 8 = none → (s.setBlock b x).ringWaits b a 8 = false →
    (inOwn b a 8 = true →
      exec (.ld b sd sa imm) s = .next (s.setBlock b (x.setReg sd (BitVec.ofNat 64 (leNat (memRead s.mem a 8)))).next)) ∧
    (inOwn b a 8 = false → inCompanion a 8 = false →
      exec (.ld b sd sa imm) s = .next (s.setBlock b { x with stall := .load sd (BitVec.ofNat 48 a) false, ldData := [] }))) ∧
  (∀ (s : State) (b : BlockId) (sd : Reg) (a : Addr) (hit : BurstErr), (s.block b).stall = .load sd a false →
    let u := s.struck [⟨a.toNat, 8⟩] hit
    (u.readRanges [⟨a.toNat, 8⟩]).2 = none →
    exec (.ldDataReturn b hit) s =
      .next ((u.readRanges [⟨a.toNat, 8⟩]).1.setBlock b
        ({ (s.block b).setReg sd (BitVec.ofNat 64 (leNat (memRead u.mem a.toNat 8))) with stall := .none } : BlockState).next)) ∧
  (∀ (s : State) (b : BlockId) (sa sb : Reg) (imm : Word) (a : Nat),
    let x := (s.block b).endCommit
    s.decodes b = true → a = (x.reg sa + imm).toNat → a % 8 = 0 → writeOk b x a 8 = true → s.blockAllowed b a 8 = true →
    x.lockedBy a 8 = false → inCompanion a 8 = false → (s.isChecker b = true → inOwn b a 8 = true) → s.errorsIn [⟨a, 8⟩] = [] →
    let data := leBytes 8 (x.reg sb).toNat
    exec (.st b sa sb imm) s = .next { (s.setBlock b x.next).signBlock b sigCore (sigWrite b a data) with mem := memWrite s.mem a data })

/-- Whatever state it meets, a next state of ST keeps every byte of memory outside the 8 bytes from sa + imm64 up; every byte of memory where the address is not aligned, is not in the write set, is not allowed, is write-locked or lies in the companion window; every scalar register; every other block; every partition, stage, plan, landing ring and epoch; and the queue of waiting commands. -/
def Obligations.StoreFrame : Prop :=
  ∀ (s t : State) (b : BlockId) (sa sb : Reg) (imm : Word), exec (.st b sa sb imm) s = .next t →
    let a := ((s.block b).reg sa + imm).toNat
    (∀ c : Nat, (c < a ∨ a + 8 ≤ c) → memByte t.mem c = memByte s.mem c) ∧
    ((a % 8 ≠ 0 ∨ writeOk b (s.block b).endCommit a 8 = false ∨ s.blockAllowed b a 8 = false ∨
        (s.block b).endCommit.lockedBy a 8 = true ∨ inCompanion a 8 = true) → ∀ c : Nat, memByte t.mem c = memByte s.mem c) ∧
    (∀ r : Reg, (t.block b).reg r = (s.block b).reg r) ∧
    (∀ c : BlockId, c ≠ b → t.block c = s.block c) ∧
    t.parts = s.parts ∧ t.stages = s.stages ∧ t.plans = s.plans ∧ t.rings = s.rings ∧ t.epoch = s.epoch ∧ t.pending = s.pending

/-- Where block b decodes a command: WAIT goes to the next word when every command issued to the engines of its mask (all four for a mask of 0) has finished, and stalls decode otherwise. PARK in the open state leaves the core parked with its event code in BLK_CORE_STATUS, the program counter unchanged, and one BLOCK_PARKED event of the block, and posts no completion. COMMAND_FETCH_RETURN, where the check of the bursts finds no error that stops the data, puts the 32 bytes at the program counter into the command cache, whatever it holds, and changes no other register of the block. The bits that a command's `hit` names have turned over first in the first burst that it reads (State.struck). -/
def Obligations.WaitParkAndFetch : Prop :=
  (∀ (s : State) (b : BlockId) (mask : BitVec 4), s.decodes b = true →
    let x := (s.block b).endCommit
    let busy := (mask.getLsbD 0 || mask == 0) && !x.arrayQ.isEmpty || (mask.getLsbD 1 || mask == 0) && !x.vectorQ.isEmpty ||
      (mask.getLsbD 2 || mask == 0) && !x.fetchQ.isEmpty || (mask.getLsbD 3 || mask == 0) && !x.queueQ.isEmpty
    exec (.wait b mask) s = .next (s.setBlock b (if busy then { x with stall := .wait mask } else x.next))) ∧
  (∀ (s : State) (b : BlockId) (code : BitVec 16), s.decodesOpen b = true →
    ∃ t, exec (.park b code) s = .next t ∧ t.block b = { (s.block b).endCommit with core := .parked, parkCode := code, stall := .none } ∧
      t.events.map EventReq.code = s.events.map EventReq.code ++ [evBlockParked] ∧ t.mem = s.mem ∧ t.regions = s.regions) ∧
  (∀ (s : State) (b : BlockId) (hit : BurstErr), s.decodes b = true →
    let a := (s.block b).pc.toNat
    let u := (s.setBlock b (s.block b).endCommit).struck [⟨a, 32⟩] hit
    (u.readRanges [⟨a, 32⟩]).2 = none →
    ∃ t, exec (.commandFetchReturn b hit) s = .next t ∧
      tFind (t.block b).cache a = some (BitVec.ofNat 256 (leNat (memRead u.mem a 32))) ∧
      t.block b = { (s.block b).endCommit with cache := (t.block b).cache })

/-- Where block b decodes a command: RDREG writes to sd (not s0) the value of the register at its offset: BLK_PP_SEL at 0x0010, BLK_SR_SEED at 0x0018, the counters BLK_GROUP_COMMITS, BLK_GROUP_KILLS and BLK_GROUP_REJECTS at 0x0120 to 0x0130, BLK_Q_ACCEPTED at 0x0210, and zero at an offset that no table lists (0x0500 is BLK_Q_STATUS's range, 0x0900 is beyond every range). In the open state WRREG of BLK_PP_SEL takes the low 16 bits of sa, a write of BLK_SR_SEED seeds every lane from sa, a write of BLK_COLL_POST by a block that is no checker posts the plan and step of sa, and a write of an unlisted offset changes nothing but the program counter. In a group each of the five write commands is held with its offset and value, and signed where the group is a pair's (R382). -/
def Obligations.BlockRegisters : Prop :=
  (∀ (s : State) (b : BlockId) (sd : Reg), s.decodes b = true → sd ≠ 0 →
    let reads (off : BitVec 16) (v : Word) : Prop := ∃ t, exec (.rdreg b sd off) s = .next t ∧ (t.block b).reg sd = v ∧ (t.block b).pc = (s.block b).pc + 32
    reads 0x0010 ((s.block b).ppSel.setWidth 64) ∧ reads 0x0018 (s.block b).srSeed ∧ reads 0x0120 (s.block b).commits ∧
    reads 0x0128 (s.block b).kills ∧ reads 0x0130 (s.block b).rejects ∧ reads 0x0210 (s.block b).qAccepted ∧ reads 0x0900 0) ∧
  (∀ (s : State) (b : BlockId) (sa : Reg), s.decodesOpen b = true →
    let x := (s.block b).endCommit
    let v := x.reg sa
    exec (.wrreg b sa 0x0010) s = .next (s.setBlock b { x.next with ppSel := v.extractLsb' 0 16 }) ∧
    exec (.wrreg b sa 0x0900) s = .next (s.setBlock b x.next) ∧
    exec (.blkSrSeedWrite b sa) s = .next (s.setBlock b { x.next with srSeed := v, laneSeed := v, lanes := [] }) ∧
    (s.isChecker b = false → ∃ t, exec (.blkCollPostWrite b sa) s = .next t ∧
      t.posts.map (fun q => (q.block, q.plan, q.step)) = s.posts.map (fun q => (q.block, q.plan, q.step)) ++ [(b, v.extractLsb' 0 10, v.extractLsb' 32 32)] ∧
      t.block b = x.next) ∧
    (s.isChecker b = false → exec (.blkWlDoneWrite b sa) s = .next ((s.setBlock b x.next).returnList b (v.extractLsb' 0 2).toNat)) ∧
    (s.isChecker b = false →
      exec (.blkLrReleaseWrite b sa) s = .next ((s.setBlock b x.next).releaseSegs b (v.extractLsb' 32 7) (v.extractLsb' 0 13).toNat))) ∧
  (∀ (s : State) (b : BlockId) (sa : Reg) (g : Group), s.decodesIn b g = true →
    let x := (s.block b)
    let holds (r : Res) (off : BitVec 16) : Prop :=
      r = .next (s.setBlock b { x.next with
        group := some (({ g with held := g.held ++ [(off, x.reg sa)] } : Group).sign sigCore (leBytes 2 off.toNat ++ leBytes 8 (x.reg sa).toNat)) })
    (∀ off, holds (exec (.wrreg b sa off) s) off) ∧ holds (exec (.blkSrSeedWrite b sa) s) 0x0018 ∧
    holds (exec (.blkLrReleaseWrite b sa) s) 0x0208 ∧ holds (exec (.blkCollPostWrite b sa) s) 0x0048 ∧
    holds (exec (.blkWlDoneWrite b sa) s) 0x0050)

/-- Where block b decodes GHDR in the open state, is not told to stop, holds no rerun back, the checks of R97 pass, and no clock stretch kills a range-check group at once (R416): the group is open with its tag, with the read and write ranges of the set table's entries under BLK_PP_SEL, and with a snapshot of the GHDR's program counter, s1 to s31, BLK_PP_SEL, the generator lanes and the block's epoch; BLK_CORE_STATUS shows the tag; decode goes to the next word. A block told to stop stops there instead, and leaves the group unopened. COMMIT in a group stalls decode until the drain is over and notes whether it is quiet. -/
def Obligations.GroupOpensAndDrains : Prop :=
  (∀ (s : State) (b : BlockId) (sa : Reg) (n : BitVec 6) (tag : BitVec 32) (en : Bool) (sb : Reg), s.decodesOpen b = true →
    let x := (s.block b).endCommit
    (x.stopAtGhdr = false → x.rerunHeld = false → s.ghdrOk b x (x.reg sa).toNat n.toNat en sb = true →
      (s.power.stretched && x.checkMode == 0 && (s.owner b).isSome) = false →
      ∃ (t : State) (g : Group), exec (.ghdr b sa n tag en sb) s = .next t ∧ (t.block b).group = some g ∧ (t.block b).core = .inGroup ∧
        (t.block b).pc = x.pc + 32 ∧ (t.block b).groupTag = tag ∧ (t.block b).ghdrPc = x.pc ∧ g.tag = tag ∧
        g.reads = tableReads x.ppSel (setTable s.mem (x.reg sa).toNat n.toNat) ∧
        g.writes = tableWrites x.ppSel (setTable s.mem (x.reg sa).toNat n.toNat) ∧
        g.snap.pc = x.pc ∧ g.snap.regs = x.regs ∧ g.snap.ppSel = x.ppSel ∧ g.snap.laneSeed = x.laneSeed ∧ g.snap.lanes = x.lanes ∧
        g.snap.epoch = x.epoch ∧ t.mem = s.mem) ∧
    (x.stopAtGhdr = true → exec (.ghdr b sa n tag en sb) s = .next (s.setBlock b { x with core := .stopped, stopAtGhdr := false }))) ∧
  (∀ (s : State) (b : BlockId) (g : Group) (quiet : Bool), s.decodesIn b g = true →
    exec (.commit b quiet) s =
      .next (s.setBlock b { s.block b with group := some { g with quiet := quiet, draining := true }, stall := .drain }))

/-- Where the group of a block that is no checker and has none has drained, its partition does not hold commits and it holds no completion: with a snapshot epoch at least its partition epoch GROUP_COMMIT closes the group, leaves the core in commit with no stall, and the newest completion it holds carries the group's tag, status OK, VOID_INPUT for a void group or FAILED_COMPANION for one whose writes were dropped, and the quiet mark; with an older epoch the group is not committed, its completion carries STALE_CONFIG (0x05), the core is parked, and the program counter and registers are the snapshot's. An ATOMIC of an open group that is not void, whose checks pass and which has recorded fewer than 16, adds target, source, length and operation to the commit list, and signs them in a pair's group (R382); the 17th rejects the group. -/
def Obligations.GroupCommits : Prop :=
  (∀ (s : State) (b : BlockId) (g : Group) (cycles : Word), (s.block b).group = some g → (s.block b).drained = true → s.mayCommit b = true →
    s.isChecker b = false → s.isChecker (pairOf b) = false →
    (s.epochPasses b g = true → ∃ t, exec (.groupCommit b cycles) s = .next t ∧ (t.block b).group = none ∧ (t.block b).core = .inCommit ∧
      (t.block b).stall = .none ∧ (t.block b).reran = none ∧
      ∃ c, (t.block b).cpls.getLast? = some c ∧ c.tag = g.tag ∧ c.quiet = g.quiet ∧
        c.status = (if g.dropMark then 0x04 else if g.void then 0x03 else 0x00)) ∧
    (s.epochPasses b g = false → ∃ t, exec (.groupCommit b cycles) s = .next t ∧ (t.block b).core = .parked ∧
      (t.block b).pc = g.snap.pc ∧ (t.block b).regs = g.snap.regs ∧ (t.block b).group = none ∧ (t.block b).lastStatus = 0x05 ∧
      (t.block b).cpls = [⟨g.tag, 0x05, 0, 0, false, false⟩] ∧ (t.block b).kills = inc (s.block b).kills ∧ t.mem = s.mem)) ∧
  (∀ (s : State) (b : BlockId) (g : Group) (sd sa sb : Reg) (op : BitVec 24), s.decodesIn b g = true →
    let x := s.block b
    let a : AtomicRec := ⟨(x.reg sd).toNat, (x.reg sa).toNat, (x.reg sb).toNat, op⟩
    atomicOk b x g a = true → s.blockAllowed b a.source (atomicSource a) = true → s.blockAllowed b a.target (atomicSource a) = true →
    g.void = false →
    (g.atomics.length < 16 →
      exec (.atomic b sd sa sb op) s = .next (s.setBlock b { x.next with group := some (({ g with atomics := g.atomics ++ [a] } : Group).sign sigCore
        (leBytes 8 (sigAddr b a.target) ++ leBytes 8 (sigAddr b a.source) ++ leBytes 8 a.len ++ leBytes 3 op.toNat)) })) ∧
    (16 ≤ g.atomics.length → ∃ t, exec (.atomic b sd sa sb op) s = .next t ∧ (t.block b).core = .parked ∧ (t.block b).group = none ∧
      (t.block b).lastStatus = 0x06))

/-- Where the oldest completion that a block holds waits for no ATOMIC and no read-back: GROUP_COMPLETION_POST removes it from the block, and puts at the end of the region completion FIFO one entry with the block's logical number, the group tag, the status and the flags byte. For a quiet group with status OK nothing is put in any FIFO. -/
def Obligations.CompletionsReachTheRegion : Prop :=
  ∀ (s : State) (b : BlockId) (c : PendingCpl) (rest : List PendingCpl), (s.block b).cpls = c :: rest → c.acks = 0 → c.readback = false →
    ((c.quiet = false ∨ c.status ≠ 0x00) → ∃ t, exec (.groupCompletionPost b) s = .next t ∧ (t.block b).cpls = rest ∧
      (t.region b.region).fifo.map (fun e => (e.block, e.tag, e.status, e.flags)) =
        (s.region b.region).fifo.map (fun e => (e.block, e.tag, e.status, e.flags)) ++ [(b, c.tag, c.status, c.flags)] ∧
      (∀ r : RegionId, r ≠ b.region → t.region r = s.region r)) ∧
    (c.quiet = true → c.status = 0x00 → ∃ t, exec (.groupCompletionPost b) s = .next t ∧ (t.block b).cpls = rest ∧ t.regions = s.regions)

/-- Where the group of a block outside every pair is open: GROUP_KILL for a check that has not failed before and that the group's mode runs (parity in every mode, a residue in the residue modes 0b01 and 0b10, a range in range-check mode), and for a dip outside a stretch, restores the program counter, registers, BLK_PP_SEL and lanes of the snapshot, closes the group with no completion posted, and leaves the core in the open state to rerun it; for an abort it restores the same, the core stops, and the completion KILLED (0x01) with the group's tag is held. Every such kill counts in BLK_GROUP_KILLS, leaves the block's epoch and memory as they were, and discards the held messages. A residue failure in range-check mode and a range failure in a residue mode change nothing. BLOCK_ABORT of a running block in the open state stops it before the next GHDR, or at once when it waits in RECV; in a group it kills it like the abort above; once commit has begun, and while its completion has not been posted, the core stops and the completion carries LATE_ABORT (0x02); after that post the block is in the open state again and stops before the next GHDR. -/
def Obligations.KillsAndAborts : Prop :=
  (∀ (s : State) (b : BlockId) (g : Group) (cause : KillCause), (s.block b).group = some g → (s.block b).inGroup = true →
    (s.block b).fenced = false → (s.block b).inReset = false → (s.block b).report = false →
    s.isChecker b = false → s.isChecker (pairOf b) = false →
    let back (t : State) : Prop := (t.block b).pc = g.snap.pc ∧ (t.block b).regs = g.snap.regs ∧ (t.block b).ppSel = g.snap.ppSel ∧
      (t.block b).laneSeed = g.snap.laneSeed ∧ (t.block b).lanes = g.snap.lanes ∧ (t.block b).group = none ∧
      (t.block b).kills = inc (s.block b).kills ∧ (t.block b).epoch = (s.block b).epoch ∧ t.mem = s.mem ∧
      (t.block b).sendBuf = (s.block b).sendBuf.filter (fun e => e.released)
    ((cause = .check .parity ∨ cause = .check .residue ∧ (g.mode = 0b01 ∨ g.mode = 0b10) ∨ cause = .check .range ∧ g.mode = 0b00) → (s.block b).reran = none →
      ∃ t, exec (.groupKill b cause) s = .next t ∧ back t ∧ (t.block b).core = .openState ∧ (t.block b).cpls = (s.block b).cpls) ∧
    ((cause = .check .residue ∧ g.mode = 0b00 ∨ cause = .check .range ∧ g.mode ≠ 0b00) → exec (.groupKill b cause) s = .next s) ∧
    (cause = .dip → s.power.stretched = false → ∃ t, exec (.groupKill b cause) s = .next t ∧ back t ∧ (t.block b).core = .openState ∧
      (t.block b).dipRerun = true ∧ (t.block b).rerunHeld = false ∧ (t.block b).cpls = (s.block b).cpls) ∧
    (cause = .abort → ∃ t, exec (.groupKill b cause) s = .next t ∧ back t ∧ (t.block b).core = .stopped ∧
      (t.block b).lastStatus = 0x01 ∧ (t.block b).cpls = (s.block b).cpls ++ [⟨g.tag, 0x01, 0, 0, false, false⟩])) ∧
  (∀ (s : State) (b : BlockId), (s.block b).running = true → (s.block b).fenced = false → (s.block b).inReset = false →
    let x := s.block b
    (x.core = .openState → x.stall = .none → exec (.blockAbort b) s = .next (s.setBlock b { x with stopAtGhdr := true })) ∧
    (∀ q sd byAddr, x.core = .openState → x.stall = .recv q sd byAddr →
      exec (.blockAbort b) s = .next (s.setBlock b { x with core := .stopped, stall := .none })) ∧
    (x.core = .inCommit → x.cpls ≠ [] → ∃ t c, exec (.blockAbort b) s = .next t ∧ (t.block b).core = .stopped ∧ (t.block b).lastStatus = 0x02 ∧
      (t.block b).cpls.getLast? = some c ∧ c.status = 0x02) ∧
    (x.core = .inCommit → x.cpls = [] → exec (.blockAbort b) s = .next (s.setBlock b { x with stopAtGhdr := true })) ∧
    (∀ g, x.core = .inGroup → x.group = some g → ∃ t, exec (.blockAbort b) s = .next t ∧ (t.block b).core = .stopped ∧
      (t.block b).pc = g.snap.pc ∧ (t.block b).lastStatus = 0x01))

/-- Where block b decodes FENCE_READBACK with an idle fetch engine: if it has issued no UC_WR since its last read-back the fence is over and decode goes to the next word; if it has, the fence waits at the fetch engine with its read-back issued, 8 bytes on the block's stream at the address of its last UC_WR, and no write counts as new. READBACK_RETURN, once no read-back of the fence is outstanding and the block holds no completion that waits for one, finishes the fence; a status other than OK also counts SCL_FENCE_ERR and gives the open group the drop mark. -/
def Obligations.ReadbackFences : Prop :=
  (∀ (s : State) (b : BlockId), s.decodes b = true → (s.block b).fetchQ = [] →
    let x := (s.block b).endCommit
    (x.ucWrNew = false → exec (.fenceReadback b) s = .next (s.setBlock b x.next)) ∧
    (x.ucWrNew = true → s.attached = true → ∃ t, exec (.fenceReadback b) s = .next t ∧ (t.block b).fetchQ = [.fence x.inGroup true] ∧
      (t.block b).ucWrNew = false ∧ (t.block b).pc = x.pc + 32 ∧
      t.scl.reqs.map (fun r => (r.stream, r.addr, r.len)) =
        s.scl.reqs.map (fun r => (r.stream, r.addr, r.len)) ++ [(b.idx, x.lastUcWr.getD 0, 8)])) ∧
  (∀ (s : State) (b : BlockId) (og : Bool), (s.block b).fetchQ = [.fence og true] → (s.block b).stall = .none →
    (∀ c ∈ (s.block b).cpls, c.readback = false) → s.hasReq (fun u => u == .fence b) = false →
    exec (.readbackReturn b .ok) s = .next (s.setBlock b { s.block b with fetchQ := [] }) ∧
    (∃ t, exec (.readbackReturn b .dataError) s = .next t ∧ (t.block b).fetchQ = [] ∧ t.scl.fenceErr = inc s.scl.fenceErr ∧
      (t.block b).group = (s.block b).group.map (fun g => { g with dropMark := true })))

/-- Where block b decodes a heavy command in group g, its checks of R85 to R88 pass, its ranges lie in the group's sets and are allowed to the block, and its engine holds fewer than 8 commands: in a group that is not void, MATMUL is put at the end of the array's queue with its operand addresses and strides and takes an untaken shadow load, VEC and CONVERT at the end of the vector unit's, FETCH and COPY at the end of the fetch engine's (both shown for an engine that is at work), and decode goes to the next word; no memory changes. In a void group each of them only goes to the next word. Where the engine's queue holds 8 commands, decode stalls on that engine. -/
def Obligations.HeavyCommandsIssue : Prop :=
  (∀ (s : State) (b : BlockId) (g : Group) (f : MatmulFields),
    let x := s.block b
    let st := x.reg f.st
    let sA := (st.extractLsb' 0 32).toNat
    let sC := (st.extractLsb' 32 32).toNat
    let sB := ((x.reg (f.st + 1)).extractLsb' 0 32).toNat
    let reads := mmReads f (x.addr f.sa) (x.addr f.sb) (x.addr f.sz) (x.addr f.ss) (x.addr (f.ss + 1)) sA sC sB
    let writes := cRanges f f.fmtC (x.addr f.sd) sC
    let ok := mmOk g f (x.addr f.sa) (x.addr f.sb) (x.addr f.sd) (x.addr f.sz) (x.addr f.ss) (x.addr (f.ss + 1)) sA sC sB && (reads ++ writes).all (ownOrStacked b)
    s.issues b g .array ok reads writes = true →
    (g.void = false → ∃ t, exec (.matmul b f) s = .next t ∧ (t.block b).pc = x.pc + 32 ∧ t.mem = s.mem ∧ (t.block b).untaken = none ∧
      (t.block b).arrayQ = x.arrayQ ++ [.matmul f (x.addr f.sa) (x.addr f.sb) (x.addr f.sd) (x.addr f.sz) (x.addr f.ss) (x.addr (f.ss + 1)) sA sC sB x.untaken]) ∧
    (g.void = true → exec (.matmul b f) s = .next (s.setBlock b x.next))) ∧
  (∀ (s : State) (b : BlockId) (g : Group) (f : VecFields) (cv : Bool),
    let x := s.block b
    let i : Instr := if cv then .convert b f else .vec b f
    let c : EngineCmd := .vec f cv (x.addr f.sa) (x.addr f.sb) (x.addr f.sc) (x.addr f.sd) ((x.reg f.sb).extractLsb' 0 32)
    let ok := vecOk g f (if cv then some .copy else vopOf f.vop) (x.addr f.sa) (x.addr f.sb) (x.addr f.sc) (x.addr f.sd)
    s.issues b g .vector ok c.reads c.writes = true → x.vectorQ ≠ [] →
    (g.void = false → exec i s = .next (s.setBlock b { x.next with vectorQ := x.vectorQ ++ [c] })) ∧
    (g.void = true → exec i s = .next (s.setBlock b x.next))) ∧
  (∀ (s : State) (b : BlockId) (g : Group) (f : FetchFields),
    let x := s.block b
    let c : EngineCmd := .copy (x.addr f.sa) (x.addr f.sd) (x.reg f.sb).toNat
    s.issues b g .fetch (c.reads.all (fetchFrom b) && c.writes.all (fetchTo b)) c.reads c.writes = true → x.fetchQ ≠ [] →
    (g.void = false → exec (.copy b f) s = .next (s.setBlock b { x.next with fetchQ := x.fetchQ ++ [c] })) ∧
    (g.void = true → exec (.copy b f) s = .next (s.setBlock b x.next))) ∧
  (∀ (s : State) (b : BlockId) (g : Group) (f : FetchFields),
    let x := s.block b
    let len := (x.reg f.sb).toNat
    let c : EngineCmd := .fetch f (x.addr f.sa) (x.addr f.sd) len (x.addr f.sv) ((x.reg (f.sv + 1)).extractLsb' 0 32) x.shadowNo
    f.versionEn = false →
    s.issues b g .fetch (fetchFormats f && tValid f.t && amaxOk g f.amaxEn f.amaxIdx && fetchWhole f len && c.reads.all (fetchFrom b) &&
      c.writes.all (fetchTo b)) c.reads c.writes = true → x.fetchQ ≠ [] → g.void = false →
    ∃ t, exec (.fetch b f) s = .next t ∧ (t.block b).fetchQ = x.fetchQ ++ [c] ∧ (t.block b).pc = x.pc + 32 ∧ t.mem = s.mem ∧
      (t.block b).untaken = (if f.toShadow then some ⟨x.shadowNo, f.fmtDst, [], true, false, false⟩ else x.untaken)) ∧
  (∀ (s : State) (b : BlockId) (g : Group), s.decodesIn b g = true →
    let x := s.block b
    (8 ≤ x.arrayQ.length → ∀ f, exec (.matmul b f) s = .next (s.setBlock b { x with stall := .engine .array })) ∧
    (8 ≤ x.vectorQ.length → ∀ f, exec (.vec b f) s = .next (s.setBlock b { x with stall := .engine .vector }) ∧
      exec (.convert b f) s = .next (s.setBlock b { x with stall := .engine .vector })) ∧
    (8 ≤ x.fetchQ.length → ∀ f, exec (.copy b f) s = .next (s.setBlock b { x with stall := .engine .fetch })))

/-- For a live block: a pass of a running MATMUL without a fault, whose weights the shadow registers hold and which no check of the group's mode fails, makes those weights the active ones and leaves the shadow registers empty; on a pass that is not the last of its tile's K passes it also writes the tile's partial sums to the working area and nothing else to memory, advances the run to the next pass, and adds its streamed rows (twice in sixteen-bit mode: the model's choice, log 108) to BLK_ARRAY_BUSY. ENGINE_COMMAND_FINISH, where no check of a burst stops the data that the command reads, removes the head of the named engine's queue: a MATMUL that has made every pass changes no memory; a VEC or CONVERT writes to its destination, which is no companion memory, the bytes that R40 and R93 compute; a COPY between places that are not companion memory leaves at its destination the bytes of its source. The reads wait for nothing, no ring segment they name is abandoned, and no burst of the destination holds an error. VERSION_ENTRY_READ for the FETCH at the head, whose entry names the version and whose range passes, leaves the reconstructed bytes with the engine. The bits that a command's `hit` names have turned over first in the first burst that it reads (State.struck). -/
def Obligations.EnginesFinish : Prop :=
  (∀ (s : State) (b : BlockId) (f : MatmulFields) (a rb c z ssA ssB sA sC sB : Nat) (take : Option ShadowLoad) (q : List EngineCmd) (r : ArrayRun),
    let x := s.block b
    let m : EngineCmd := .matmul f a rb c z ssA ssB sA sC sB take
    let w := s.swapSet x f ssB r take
    let p := mmPass s.mem b x w f .none a ssA sA r
    let e := s.passEffect b f .none a c z ssA ssB sA sC take r
    x.arrayQ = m :: q → x.run = some r → x.inGroup = true → x.fenced = false → x.inReset = false → s.cmdAbandoned b m = none →
    (r.over f = false → r.ready take = true → s.cmdWaits b m = false → e.2.check x.mode = .pass →
      ∃ t, exec (.arrayPass b .none) s = .next t ∧ (t.block b).arrayQ = x.arrayQ ∧ (t.block b).shadow = WeightSet.empty ∧
        (r.kp + 1 < passes f → t.mem = putSums s.mem b x f r p.cells ∧ (t.block b).active = w ∧
          (∃ u, (t.block b).run = some u ∧ u.kp = r.kp + 1 ∧ u.mt = r.mt ∧ u.nt = r.nt ∧ u.loaded = false) ∧
          (t.block b).arrayBusy = satAdd x.arrayBusy
            ((tileRows f r.mt).length * (if fmtBits f.fmtA = 16 ∨ fmtBits f.fmtB = 16 then 2 else 1)))) ∧
    (∀ hit : BurstErr, let u := s.struck m.reads hit
      r.over f = true → x.report = false → (u.readRanges m.reads).2 = none →
      ∃ t, exec (.engineCommandFinish b .array hit) s = .next t ∧ (t.block b).arrayQ = q ∧ t.mem = u.mem)) ∧
  (∀ (s : State) (b : BlockId) (f : VecFields) (cv : Bool) (a rb c d : Nat) (sc : BitVec 32) (q : List EngineCmd) (o : Vop) (hit : BurstErr),
    let x := s.block b
    let m : EngineCmd := .vec f cv a rb c d sc
    let u := s.struck m.reads hit
    let n := tensorBytes f.fmtD (vecOut f o)
    x.vectorQ = m :: q → x.live = true → s.hasReq (fun u => u == .vec b) = false → s.cmdWaits b m = false → s.cmdAbandoned b m = none →
    s.isChecker b = false → s.sessionFor m = true → (u.readRanges m.reads).2 = none → u.errorsIn [⟨d, n⟩] = [] → inCompanion d n = false →
    (if cv then some .copy else vopOf f.vop) = some o →
    ∃ t, exec (.engineCommandFinish b .vector hit) s = .next t ∧ (t.block b).vectorQ = q ∧
      t.mem = memWrite u.mem d (memRead (vecOutput (u.vecMem x) f cv o a rb c d sc x).mem d n)) ∧
  (∀ (s : State) (b : BlockId) (src dst len : Nat) (q : List EngineCmd) (hit : BurstErr),
    let x := s.block b
    let m : EngineCmd := .copy src dst len
    let u := s.struck m.reads hit
    x.fetchQ = m :: q → x.live = true → s.fetchReady b m = true → s.cmdWaits b m = false → s.cmdAbandoned b m = none →
    inCompanion src len = false → inCompanion dst len = false → s.isChecker b = false → s.sessionFor m = true →
    (u.readRanges m.reads).2 = none → u.errorsIn [⟨dst, len⟩] = [] →
    ∃ t, exec (.engineCommandFinish b .fetch hit) s = .next t ∧ t.mem = memWrite u.mem dst (memRead u.mem src len)) ∧
  (∀ (s : State) (b : BlockId) (f : FetchFields) (src dst len ea no : Nat) (v : BitVec 32) (q : List EngineCmd) (chain : List VSlot) (bs : List Byte) (hit : BurstErr),
    let x := s.block b
    let u := s.struck [⟨ea, ventryBytes⟩] hit
    let e := ventryAt u.mem ea
    x.fetchQ = .fetch f src dst len ea v no :: q → f.versionEn = true → x.fetchData = [] → x.fenced = false → x.inReset = false →
    versionChain e v = some chain → u.lateRange b x f dst (e.shardBytes / 4) = none →
    u.errorsIn [⟨ea, ventryBytes⟩] = [] → u.errorsIn (versionReads e chain) = [] →
    (nonEmpty (versionReads e chain)).all (fun r => s.blockAllowed b r.base r.len) = true →
    (versionReads e chain).any (fun r => s.ringWaits b r.base r.len) = false →
    ((versionReads e chain).filterMap fun r => s.ringAbandoned b r.base r.len) = [] →
    versionBytes u.mem e chain = some bs →
    exec (.versionEntryRead b hit) s = .next (u.setBlock b { x with fetchData := bs }))

/-- In a live block: SHADOW_LOAD_COMPLETE puts the fetched load that the running MATMUL takes for its first tile into the shadow registers, as its group's or an earlier group's; for any other tile it puts there the tile's elements of B with their residues and the column scales, as the open group's; either marks the load complete and adds to BLK_SHADOW_STALL the 128 load cycles less those that the loader had had. With an idle array it does so for the untaken load, with no stall counted. KEEPER_FILL_EXPIRY of an idle array with the keeper on starts the ramp down and adds the fill's 2,200 cycles to BLK_KEEPER_FILL. KEEPER_RAMP_STEP lowers the duty by one towards the gated state, or raises it by one towards full rate at 16; there a block with work is busy, and one without goes into the fill (the model's choice, log 109). A step of the ramp down, or of a ramp up without work, adds its dummy vectors to BLK_KEEPER_FILL, and one of a ramp up with work adds the cycles held back to BLK_RAMP_HOLD. -/
def Obligations.ShadowAndKeeper : Prop :=
  (∀ (s : State) (b : BlockId) (f : MatmulFields) (a rb c z ssA ssB sA sC sB : Nat) (take : Option ShadowLoad) (q : List EngineCmd) (r : ArrayRun),
    let x := s.block b
    x.live = true → x.arrayQ = .matmul f a rb c z ssA ssB sA sC sB take :: q → x.run = some r → r.over f = false →
    (∀ l, r.takes take = some l → l.fetched = true → l.complete = false →
      ∃ t, exec (.shadowLoadComplete b) s = .next t ∧ (t.block b).shadow = ⟨if l.ofGroup then .ofGroup else .earlier, fetchedRegs l, []⟩ ∧
        (t.block b).arrayQ = .matmul f a rb c z ssA ssB sA sC sB (take.map fun l => { l with complete := true }) :: q ∧
        (t.block b).shadowStall = satAdd x.shadowStall (128 - r.lead) ∧ t.mem = s.mem) ∧
    (r.takes take = none → r.loaded = false →
      ∃ t, exec (.shadowLoadComplete b) s = .next t ∧
        (t.block b).shadow = ⟨.ofGroup, tileRegs s.mem f rb sB (r.k0 f) r.n0, tileScales s.mem f ssB (r.k0 f) r.n0⟩ ∧
        (t.block b).run = some { r with loaded := true } ∧ (t.block b).arrayQ = x.arrayQ ∧
        (t.block b).shadowStall = satAdd x.shadowStall (128 - r.lead) ∧ t.mem = s.mem)) ∧
  (∀ (s : State) (b : BlockId) (l : ShadowLoad), let x := s.block b
    x.live = true → x.arrayQ = [] → x.untaken = some l → l.fetched = true → l.complete = false →
    exec (.shadowLoadComplete b) s =
      .next (s.setBlock b { x with
        untaken := some { l with complete := true }, shadow := ⟨if l.ofGroup then .ofGroup else .earlier, fetchedRegs l, []⟩ })) ∧
  (∀ (s : State) (b : BlockId), let x := s.block b
    let step := 1100 * x.keeperDuty / 16
    x.keeperEn = true → x.inReset = false →
    (x.arrayQ = [] → (x.keeperState = .busy ∨ x.keeperState = .fill) →
      exec (.keeperFillExpiry b) s = .next (s.setBlock b { x with keeperState := .rampDown, keeperFill := satAdd x.keeperFill 2200 })) ∧
    (x.keeperState = .rampDown → exec (.keeperRampStep b) s = .next (s.setBlock b { x with
      keeperDuty := x.keeperDuty - 1, keeperState := if x.keeperDuty - 1 = 0 then .gated else .rampDown, keeperFill := satAdd x.keeperFill step })) ∧
    (x.keeperState = .rampUp → x.arrayQ ≠ [] → exec (.keeperRampStep b) s = .next (s.setBlock b { x with
      keeperDuty := x.keeperDuty + 1, keeperState := if 16 ≤ x.keeperDuty + 1 then .busy else .rampUp
      rampHold := satAdd x.rampHold (1100 - step) })) ∧
    (x.keeperState = .rampUp → x.arrayQ = [] → exec (.keeperRampStep b) s = .next (s.setBlock b { x with
      keeperDuty := x.keeperDuty + 1, keeperState := if 16 ≤ x.keeperDuty + 1 then .fill else .rampUp
      keeperFill := satAdd x.keeperFill step })))

/-- BLOCK_REPORT of a block that is in no pair fences it (core stopped, its scratchpad reading zero) and, where no other block of the region waits and a spare is free, puts the first free spare under the start-up test for it. FENCE_DRAIN_TIMEOUT drops the messages still in a fenced block's send buffer, none of them a Rider, and counts each. STARTUP_TEST_COMPLETE with a pass puts the spare in service: the block has its physical position, is no longer fenced and is parked for BLOCK_RESUME; with a failure the spare is counted and the next free one is tested. -/
def Obligations.FencesAndSpares : Prop :=
  (∀ (s : State) (b : BlockId) (i : Nat) (rest : List Nat),
    (s.block b).report = true → (s.block b).fenced = false → (s.block b).group = none → s.isChecker b = false → s.isChecker (pairOf b) = false →
    (s.region b.region).testing = none → freeSpares (s.region b.region) = i :: rest →
    (∀ c : BlockId, c ≠ b → c.region = b.region → ((s.block c).fenced && (s.block c).swapping) = false) →
    ∃ t, exec (.blockReport b) s = .next t ∧ (t.block b).fenced = true ∧ (t.block b).core = .stopped ∧
      (∀ a : Nat, spadBase b ≤ a → a < spadBase b + slotBytes → memByte t.mem a = 0) ∧ (t.region b.region).testing = some (64 + i, b)) ∧
  (∀ (s : State) (b : BlockId), let x := s.block b
    x.fenced = true → x.sendBuf ≠ [] → (∀ e ∈ x.sendBuf, e.desc.rider = false) → (∀ r ∈ s.relays, r.block ≠ b) →
    ∃ t, exec (.fenceDrainTimeout b) s = .next t ∧ (t.block b).sendBuf = [] ∧ (t.block b).fenceDropped = x.fenceDropped + x.sendBuf.length ∧
      (t.region b.region).fenceDesc = satAdd (s.region b.region).fenceDesc x.sendBuf.length) ∧
  (∀ (s : State) (b : BlockId) (phys : Nat), phys < 68 → (s.region b.region).testing = some (phys, b) → (s.block b).sendBuf = [] →
    s.fl.repair = none → s.fl.margin = none →
    (∀ c : BlockId, c ≠ b → c.region = b.region → ((s.block c).fenced && (s.block c).swapping) = false) →
    (∃ t, exec (.startupTestComplete b.region phys true) s = .next t ∧ (t.block b).phys = some phys ∧ (t.block b).fenced = false ∧
      (t.block b).core = .parked ∧ (t.region b.region).testing = none ∧
      (t.region b.region).spareUsed = putBit (s.region b.region).spareUsed (phys - 64) true) ∧
    (∀ (j : Nat) (rest : List Nat), (s.block b).fenced = true → (s.block b).swapping = true →
      freeSpares ((s.region b.region).failSpare phys) = j :: rest →
      exec (.startupTestComplete b.region phys false) s =
        .next (s.setRegion b.region { (s.region b.region).failSpare phys with testing := some (64 + j, b) })))

/-- Where Flapino carries the command and its checks pass: QUAD_REPAIR with action 1 puts the fenced quad under the start-up test as a background command; MARGIN_TEST is recorded with its payload as a background command. MARGIN_TEST_COMPLETE with a result for every tested position, none failing and action 0, completes MARGIN_TEST with OK and one eight-byte result for each position, no spare taken (0xFF). -/
def Obligations.RepairAndMargin : Prop :=
  (∀ (s : State) (r : Running) (rg : RegionId) (q : BitVec 4) (k : BitVec 2), s.carries r opQuadRepair .package = true →
    s.quadIdle rg q.toNat = true → (s.region rg).fencedQuads.getLsbD q.toNat = true → (s.region rg).returning = none →
    exec (.quadRepair rg q 1 k) s = .next ((s.taken.startBg r).setRegion rg { s.region rg with returning := some (q.toNat, []) })) ∧
  (∀ (s : State) (r : Running) (x : MarginP), s.carries r opMarginTest .package = true → marginOk x = true →
    (x.quad.toNat = 16 ∨ s.quadIdle (x.region.setWidth 2) x.quad.toNat = true) →
    ∃ t, exec (.marginTest x) s = .next t ∧ t.fl.margin = some ⟨r, x, [], []⟩ ∧ t.fl.bg = s.fl.bg ++ [r] ∧ t.fl.current = none) ∧
  (∀ (s : State) (m : MarginRun) (res : List MarginResult) (r : Running), s.fl.margin = some m → m.results = [] → m.payload.action = 0 →
    res.map (·.phys) = s.marginTargets m.payload → res ≠ [] → (∀ e ∈ res, e.fail = false) → s.bgOf 0 opMarginTest = some r →
    ∃ u, u = ({ s with fl := { s.fl with margin := none } } : State) ∧
      exec (.marginTestComplete res) s = .next ((u.dropBg 0 opMarginTest).okData r (res.map fun e => marginWord (e, 0xFF))))

/-- HUB_FAULT of the security engine marks it failed, sets HUB_FAULT_STATUS bit 5 and raises UNIT_DEGRADED to every partition that exists (to partition 0 where none does); one of the crossbar sets bit 1 and asserts FAULT_N. REGION_REPORT of a quad not yet fenced fences that quad. CONTROL_FAILOVER with a healthy standby and no command or update in progress makes the other pair active, with no healthy standby left, and sets bits 6 and 7. ERR_QUERY for a partition in its scope answers OK with the partition's counters, HUB_FAULT_STATUS and HUB_FAULT_LAST and then the entries that are not written. -/
def Obligations.HubFaultsAndFailover : Prop :=
  (∀ s : State, ∃ t, exec (.hubFault .security) s = .next t ∧ t.lc.securityFault = true ∧ t.faults.status = putBit s.faults.status 5 true ∧
    t.events.map EventReq.code = s.events.map EventReq.code ++ (if s.parts_ = [] then [evUnitDegraded] else s.parts_.map fun _ => evUnitDegraded)) ∧
  (∀ s : State, ∃ t, exec (.hubFault .crossbar) s = .next t ∧ t.faults.status.getLsbD 1 = true ∧ t.reset_.faultN = true ∧
    t.closed.contains .hub = true ∧ t.mem = s.mem) ∧
  (∀ (s : State) (r : RegionId) (q : BitVec 4), (s.region r).fencedQuads.getLsbD q.toNat = false →
    ∃ t, exec (.regionReport (.quadFault r q)) s = .next t ∧ (t.region r).fencedQuads = putBit (s.region r).fencedQuads q.toNat true ∧
      ∀ b ∈ quadBlocks r q.toNat, (t.block b).fenced = true ∧ (t.block b).swapping = false) ∧
  (∀ s : State, s.reset_.active = false → s.flapinoUp = true → s.fl.standbyHealthy = true → s.fl.fw = .idle → s.fl.current = none →
    ∃ t, exec .controlFailover s = .next t ∧ t.fl = { s.fl with activePair := !s.fl.activePair, standbyHealthy := false } ∧
      t.faults.status = putBit (putBit s.faults.status 6 true) 7 true) ∧
  (∀ (s : State) (r : Running) (p : BitVec 8), s.carries r 0x0601 .all = true → p.toNat < 32 → (p.setWidth 5 = r.part ∨ r.part = 0) →
    ∃ tail : List Word, exec (.errQuery p) s =
      .next (s.taken.okData r (s.errCounters (p.setWidth 5) ++ [s.faults.status, s.faults.last] ++ tail)) ∧
      ((s.part (p.setWidth 5)).errs = [] → tail = []))

/-- What arrives is the first in its crossing FIFOs (R26). DESCRIPTOR_ARRIVAL for this package: a sound descriptor for a block that accepts it goes to the tail of its queue, its 64 bytes into the queue's storage, and is answered ACCEPT; one that meets a queue with too little room (one entry for class 1, three for class 0) is answered NACK full, and only BLK_Q_NACKED changes at the block. For the message m, outstanding in its sender's buffer: ANSWER_ACCEPT removes it; NACK full and NACK busy start a back-off wait of 64 cycles, doubled at each further one to at most 4,096; a first or second NACK crc resends it at once; NACK stale resends a Rider void with the block's epoch; NACK gone drops a message that is no Rider, with DESC_DROPPED. BACKOFF_EXPIRY sends a waiting descriptor again. LOSS_LIMIT_EXPIRY drops a message to another package that no answer has reached. -/
def Obligations.DeliveryAndAnswers : Prop :=
  (∀ (s u : State) (d : Descriptor),
    let b := QAddr.blockId d.dst
    let q := QAddr.queue d.dst
    let x := s.block b
    s.arrive (fun i => decide (i = .message d)) = some u →
    QAddr.device d.dst = s.deviceId → d.crc = descCrc d → x.swapping = false → x.fenced = false →
    s.isChecker b = false → s.isChecker (pairOf b) = false → s.fifoClosed d.src b = false → (s.owner b).isSome = true →
    (QAddr.device d.src ≠ s.deviceId ∨ epochGe d.epoch x.pEpoch = true ∧ epochTrails d.epoch x.epoch = false) →
    (((if QAddr.cls d.dst then 1 else 3) ≤ (x.queue q).room →
      ∃ t : State, exec (.descriptorArrival d true) s = .next (t.answer d anAccept) ∧
        t = { u.setBlock b (x.enqueue q d) with mem := memWrite s.mem (queueStorage b x q + 64 * (x.queue q).next) (descBytes d) } ∧
        ((x.enqueue q d).queue q).entries = (x.queue q).entries ++ [d]) ∧
    ((x.queue q).room < (if QAddr.cls d.dst then 1 else 3) →
      exec (.descriptorArrival d true) s = .next ((u.setBlock b { x with qNacked := inc x.qNacked }).answer d anFull)))) ∧
  (∀ (s u : State) (m : MsgRef) (e : SendEntry), (s.block m.block).msg m = some e →
    let x := s.block m.block
    let comes (c : BitVec 8) : Prop := s.arrive (isAnswer m c) = some u
    let changed (v : State) (f : SendEntry → SendEntry) : State := v.setBlock m.block { x with sendBuf := updFirst (isMsg m) f x.sendBuf }
    (comes anAccept → x.queueQ = [] → ∃ t, exec (.answerAccept m) s = .next t ∧ t.mem = s.mem ∧
      (t.block m.block).sendBuf.map SendEntry.desc = (delFirst (isMsg m) x.sendBuf).map SendEntry.desc) ∧
    (comes anFull → exec (.answerNackFull m) s = .next (changed u fun e => { e with
      waiting := true, busy := false, backoff := if e.backoff = 0 then 64 else min (2 * e.backoff) 4096 })) ∧
    (comes anBusy → exec (.answerNackBusy m) s = .next (changed u fun e => { e with
      waiting := true, busy := true, backoff := if e.backoff = 0 then 64 else min (2 * e.backoff) 4096 })) ∧
    (comes anCrc → e.crcNacks < 2 → e.isRelay = false → exec (.answerNackCrc m) s =
      .next ((changed u fun _ => { e with crcNacks := e.crcNacks + 1 }).ship (.message e.desc))) ∧
    (comes anStale → e.desc.rider = true → e.voidResend = false → ∃ t, exec (.answerNackStale m) s = .next t ∧
      (t.block m.block).qVoided = inc x.qVoided ∧
      t.inflight.map Transit.item = u.inflight.map Transit.item ++ [.message (voidRider { e.desc with epoch := x.epoch })]) ∧
    (comes anGone → e.desc.rider = false → x.queueQ = [] → ∃ t, exec (.answerNackGone m) s = .next t ∧ (t.block m.block).qDrop = inc x.qDrop ∧
      t.events.map EventReq.code = s.events.map EventReq.code ++ [evDescDropped] ∧
      (t.block m.block).sendBuf.map SendEntry.desc = (delFirst (isMsg m) x.sendBuf).map SendEntry.desc) ∧
    (e.waiting = true → e.isRelay = false → exec (.backoffExpiry m) s =
      .next ((changed s fun e => { e with waiting := false }).ship (.message e.desc))) ∧
    (e.waiting = false → e.desc.rider = false → QAddr.device e.desc.dst ≠ s.deviceId → ∃ t, exec (.lossLimitExpiry m) s = .next t ∧
      (t.block m.block).qDrop = inc x.qDrop ∧ t.events.map EventReq.code = s.events.map EventReq.code ++ [evDescDropped]))

/-- SEND_STALL_LIMIT for a message that has waited after a NACK full or busy and whose stall has not been raised: BLK_Q_STALL counts, SEND_STALL is raised, and the record stands last before the control complex; for the SEND or RELAY that waits first for a buffer entry it does the same. STALL_POLICY with exactly two records, neither used, of two blocks under kill younger, each naming the other's block on this package: both records are marked used and the block whose record came last is aborted; it is resumed at its stage's recovery entry, at once where the abort has stopped it and otherwise when it stops before its next GHDR. With no record there is nothing to do. -/
def Obligations.SendStalls : Prop :=
  (∀ (s : State) (m : MsgRef) (e : SendEntry), (s.block m.block).msg m = some e → 0 < e.backoff → e.stallRaised = false →
    ∃ t, exec (.sendStallLimit m) s = .next t ∧ (t.block m.block).qStall = inc (s.block m.block).qStall ∧
      t.fl.stalls = s.fl.stalls ++ [⟨m.block, e.desc.dst, e.desc.src, e.desc.sendSeq, false⟩] ∧
      t.events.map EventReq.code = s.events.map EventReq.code ++ [evSendStall]) ∧
  (∀ (s : State) (m : MsgRef) (d : Descriptor) (relay : Bool) (rest : List QueueCmd), (s.block m.block).msg m = none →
    (s.block m.block).queueQ = ⟨d, relay, false⟩ :: rest → QAddr.sameQueue d.dst m.dst = true →
    ∃ t, exec (.sendStallLimit m) s = .next t ∧ (t.block m.block).queueQ = ⟨d, relay, true⟩ :: rest ∧
      (t.block m.block).qStall = inc (s.block m.block).qStall ∧ t.fl.stalls = s.fl.stalls ++ [⟨m.block, d.dst, d.src, d.sendSeq, false⟩] ∧
      t.events.map EventReq.code = s.events.map EventReq.code ++ [evSendStall]) ∧
  (∀ (s : State) (i j : StallRec), s.fl.stalls = [i, j] → i.used = false → j.used = false → i.block ≠ j.block →
    (s.block i.block).stallPolicy = 1 → (s.block j.block).stallPolicy = 1 →
    QAddr.device i.dst = s.deviceId → QAddr.device j.dst = s.deviceId → QAddr.blockId i.dst = j.block → QAddr.blockId j.dst = i.block →
    ∃ t : State, t = ({ s with fl := { s.fl with stalls := [{ i with used := true }, { j with used := true }] } } : State).abortBlock j.block ∧
      ((t.block j.block).stopAtGhdr = false → exec .stallPolicy s = .next (t.resumeAt j.block (s.recoveryPc j.block))) ∧
      ((t.block j.block).stopAtGhdr = true →
        exec .stallPolicy s = .next (t.setBlock j.block { t.block j.block with recoverAt := some (s.recoveryPc j.block) }))) ∧
  (∀ s : State, s.fl.stalls = [] → exec .stallPolicy s = .next s)

/-- Where block b decodes SEND or RELAY in a group that is not void and has placed fewer than 32 messages: the descriptor of the register set (or, by address, the 64 bytes in the user space inside the read set) is put, held, at the end of the send buffer, and decode goes on; with 32 entries there already the command waits in the queue engine's queue, and with 8 waiting there decode stalls on that engine. RELAY asks as well that its size and its source pieces are allowed. RECV, its destination allowed and no SEND or RELAY waiting before it: in a group it reserves the queue's oldest descriptor that is not reserved, in the open state it removes it, and writes it to the register set, or, by address, its 64 bytes to memory there; where there is none it stalls decode, or, non-blocking, writes 0 to sb and goes on; non-blocking with a descriptor it leaves 1 in sb. RECV_WAKE makes the blocked RECV's step. -/
def Obligations.SendRelayAndReceive : Prop :=
  (∀ (s : State) (b : BlockId) (g : Group) (sa : Reg) (byAddr : Bool) (d : Descriptor), s.decodesIn b g = true → g.void = false → g.sends < 32 →
    let x := s.block b
    (byAddr = false ∧ isDescSet sa = true ∧ d = descOfSet x sa ∨
      byAddr = true ∧ x.addr sa % 64 = 0 ∧ inUser b x (x.addr sa) 64 = true ∧ readOk b x (x.addr sa) 64 = true ∧ d = descAt s.mem (x.addr sa)) →
    let placed (relay : Bool) (r : Res) : Prop :=
      (x.queueQ = [] → x.sendBuf.length < 32 → r = .next (s.setBlock b { x.next with
        group := some (({ g with sends := g.sends + 1 } : Group).sign sigQueue (sigDesc b d))
        sendBuf := x.sendBuf ++ [⟨d, relay, false, false, false, 0, 0, false, false, false⟩] })) ∧
      (32 ≤ x.sendBuf.length → x.queueQ.length < 8 → r = .next (s.setBlock b { x.next with
        group := some { g with sends := g.sends + 1 }, queueQ := x.queueQ ++ [⟨d, relay, false⟩] })) ∧
      (8 ≤ x.queueQ.length → r = .next (s.setBlock b { x with stall := .engine .queue }))
    placed false (exec (.send b sa byAddr) s) ∧
    (relayBad d = false → relaySourceOk b x d = true → (d.len0 = 0 ∨ s.blockAllowed b d.ptr0.toNat d.len0.toNat = true) →
      (d.len1 = 0 ∨ s.blockAllowed b d.ptr1.toNat d.len1.toNat = true) → placed true (exec (.relay b sa byAddr) s))) ∧
  (∀ (s : State) (b : BlockId) (q : BitVec 7) (sd sb : Reg) (d : Descriptor), s.decodes b = true → isDescSet sd = true →
    (s.block b).queueQ = [] →
    let x := (s.block b).endCommit
    let v := x.queue q
    (∀ g : Group, s.decodesIn b g = true → s.available b q = some d →
      exec (.recv b q sd sb false false) s =
        .next (s.setBlock b ({ putSet ((x.setQueue q { v with reserved := v.reserved + 1 }).mapGroup fun g => { g with reserved := g.reserved ++ [q] }) sd d with
          stall := .none } : BlockState).next)) ∧
    (s.decodesOpen b = true → x.group = none → (s.setBlock b x).available b q = some d →
      ∃ t, exec (.recv b q sd sb false false) s = .next t ∧ (t.block b).pc = x.pc + 32 ∧ (t.block b).regs = (putSet x sd d).regs ∧
        ((t.block b).queue q).entries = v.entries.drop 1 ∧ t.mem = s.mem) ∧
    ((s.setBlock b x).available b q = some d → sb ≠ 0 →
      ∃ t, exec (.recv b q sd sb true false) s = .next t ∧ (t.block b).reg sb = 1 ∧ (t.block b).pc = x.pc + 32) ∧
    ((s.setBlock b x).available b q = none →
      exec (.recv b q sd sb true false) s = .next (s.setBlock b (x.setReg sb 0).next) ∧
      exec (.recv b q sd sb false false) s = .next (s.setBlock b { x with stall := .recv q sd false }))) ∧
  (∀ (s : State) (b : BlockId) (q : BitVec 7) (sd sb : Reg) (d : Descriptor), s.decodes b = true → (s.block b).queueQ = [] →
    let x := (s.block b).endCommit
    recvBad b x sd true = none → x.lockedBy (x.addr sd) 64 = false → (s.setBlock b x).available b q = some d →
    ∃ t, exec (.recv b q sd sb false true) s = .next t ∧ t.mem = memWrite s.mem (x.addr sd) (descBytes d) ∧ (t.block b).pc = x.pc + 32 ∧
      (t.block b).regs = x.regs) ∧
  (∀ (s : State) (b : BlockId) (q : BitVec 7) (sd : Reg) (g : Group) (d : Descriptor),
    let x := s.block b
    let v := x.queue q
    x.stall = .recv q sd false → x.group = some g → s.available b q = some d →
    exec (.recvWake b) s = .next (s.setBlock b ({ putSet { x.setQueue q { v with reserved := v.reserved + 1 } with
      group := some { g with reserved := g.reserved ++ [q] } } sd d with stall := .none } : BlockState).next))

/-- What arrives is the first in its crossing FIFOs (R26). RELAY_OPEN for a queue without a ring counts and, for a sound descriptor that is no Rider, answers NACK gone; with 16 Relays pending it answers NACK busy; otherwise the Relay, named by its source device and its number there, joins the ring's pending list behind the others and the ring is brought up to date. RELAY_SEGMENT_DATA for a granted segment writes its bytes in the ring at the segment's place (no burst there holding an error) and, until the segment is whole, counts them. RELAY_DESCRIPTOR_DELIVERY of a due Relay puts the rewritten descriptor at the tail of a queue that accepts it. LANDED_UPDATE sets the block's landed pointer and ends a wait on it. RELAY_CANCEL and RELAY_SEGMENT_TIMEOUT (granted segments still missing) abandon a Relay: one whose descriptor has not been delivered is pending no more; a delivered one's awaited segments are marked abandoned, and those still to be allocated to it will be. LANDING_CREDIT sends the next segment's bytes where they may be read and no check of a burst stops them; a read that is answered with an error cancels the Relay. The bits that a command's `hit` names have turned over first in the first burst that it reads (State.struck). -/
def Obligations.RelaysLand : Prop :=
  (∀ (s u : State) (o : RelayOpenMsg), QAddr.device o.desc.dst = s.deviceId →
    s.arrive (fun i => decide (i = .relayOpen o) || isControl 0x03 o.num o.srcDev i) = some u →
    (s.ring o.desc.dst = none → o.desc.rider = false → o.desc.crc = descCrc o.desc →
      exec (.relayOpen o) s = .next ((u.count fun h => { h with relayNoring := inc h.relayNoring }).answer o.desc anGone)) ∧
    (∀ r : Ring, s.ring o.desc.dst = some r →
      (16 ≤ r.pending.length → exec (.relayOpen o) s = .next (u.answer o.desc anBusy)) ∧
      (r.pending.length < 16 → exec (.relayOpen o) s = .next (u.settleRing o.desc.dst
        { r with pending := r.pending ++ [⟨⟨o.srcDev, o.num⟩, o.desc, relaySegs o.desc, none, 0, 0, 0, false, false⟩] })))) ∧
  (∀ (s u : State) (q : QAddr) (r : Ring) (x : RelayRx) (id : RelayId), s.ring q = some r → r.pending.find? (fun y => y.id == id) = some x →
    (∀ (off : BitVec 32) (data : List Byte) (got : Nat),
      let idx := off.toNat / mib
      let pos := (x.start + idx) % r.segs
      let a := r.base + pos * mib + off.toNat % mib
      s.arrive (fun t => decide (t = .segment q id off.toNat data)) = some u → s.errorsIn [⟨a, data.length⟩] = [] →
      tGet .free r.seg pos = .granted id idx got → off.toNat + data.length ≤ (idx + 1) * mib →
      ∃ t, exec (.relaySegmentData q id off data) s = .next t ∧ t.mem = memWrite s.mem a data ∧
        (got + data.length < segBytes x.desc idx → t.ring q = some (r.setSegs pos 1 (.granted id idx (got + data.length))))) ∧
    (relayDue x = true → s.arrivalCode (relayDesc r x) (x.desc.crc == descCrc x.desc) = anAccept → s.isChecker (pairOf (QAddr.blockId x.desc.dst)) = false →
      ∃ t, exec (.relayDescriptorDelivery q id) s = .next t ∧
        t.block (QAddr.blockId x.desc.dst) = (s.block (QAddr.blockId x.desc.dst)).enqueue (QAddr.queue x.desc.dst) (relayDesc r x)) ∧
    (let dead : Ring := { r with
        seg := r.seg.map fun e => (e.1, match e.2 with | .granted n _ _ => if n = id then .abandoned n else e.2 | v => v)
        pending := updFirst (fun y => y.id == id) (fun y => { y with dead := true }) r.pending }
      let ends (c : Instr) (v : State) : Prop :=
        (x.delivered = false → ∃ t, exec c s = .next t ∧ t.hub.relayAbandon = inc s.hub.relayAbandon ∧ t.mem = s.mem ∧
          ∃ r', t.ring q = some r' ∧ ∀ y ∈ r'.pending, y.id ≠ id) ∧
        (x.delivered = true → exec c s = .next ((v.count fun h => { h with relayAbandon := inc h.relayAbandon }).settleRing q dead))
      (x.dead = false → s.arrive (fun t => decide (t = .cancel id x.desc.dst) || isControl 0x03 id.num id.dev t) = some u → ends (.relayCancel q id) u) ∧
      (x.dead = false → x.landed < x.granted → ends (.relaySegmentTimeout q id) s))) ∧
  (∀ (s : State) (q : QAddr) (r : Ring), let b := QAddr.blockId q
    s.ring q = some r → s.inflight = [] → s.isChecker (pairOf b) = false →
    exec (.landedUpdate q) s = .next (s.setBlock b { s.block b with
      landed := tSet (s.block b).landed (QAddr.queue q).toNat r.landedPtr
      stall := if (s.block b).stall = .landing then .none else (s.block b).stall })) ∧
  (∀ (s u : State) (num : BitVec 32) (r : RelayTx) (hit : BurstErr), s.relays.find? (fun x => x.num == num) = some r →
    s.arrive (fun i => decide (i = .credit num s.deviceId) || isControl 0x03 num (QAddr.device r.desc.dst) i) = some u →
    let runs := segRuns r.desc r.sent
    let w := u.struck (runs.map fun p => ⟨p.2.1, p.2.2⟩) hit
    let read := w.readRanges (runs.map fun p => ⟨p.2.1, p.2.2⟩)
    s.relayAllowed r runs = true →
    (read.2 = none → r.sent + 1 < relaySegs r.desc → ∃ t, exec (.landingCredit num hit) s = .next t ∧ t.mem = w.mem ∧
      t.inflight.map Transit.item = u.inflight.map Transit.item ++
        runs.map (fun p => .segment r.desc.dst ⟨s.deviceId, num⟩ p.1 (memRead w.mem p.2.1 p.2.2)) ∧
      t.relays = updFirst (fun x => x.num == num) (fun _ => { r with sent := r.sent + 1 }) s.relays) ∧
    (read.2.isSome = true → ∃ t, exec (.landingCredit num hit) s = .next t ∧ t.hub.relayCancel = inc s.hub.relayCancel ∧
      t.inflight.map Transit.item = u.inflight.map Transit.item ++ [.cancel ⟨s.deviceId, num⟩ r.desc.dst] ∧ ∀ x ∈ t.relays, x.num ≠ num))

/-- Where the partition's batch settings stand, a list slot is free and a list is due: WORKLIST_BUILD writes the list of Table 14.7 for the eligible sequences, taken in the builder's order, at the slot, marks each of them listed, records the slot as out with the next list number, clears the passed deadline, and puts one descriptor at the tail of the batch queue and into that queue's storage. BATCH_DEADLINE_EXPIRY with the builder started and an eligible sequence notes the deadline. -/
def Obligations.WorkListsAreBuilt : Prop :=
  (∀ (s : State) (p : PartId) (bt : BatchP) (slot : Nat),
    let x := s.part p
    let b := QAddr.blockId bt.queue
    let q := QAddr.queue bt.queue
    let es := takeSeqs bt (s.eligible p bt) bt.batchMax.toNat bt.maxEntries.toNat
    let bytes := listBytes x.listNo es
    x.batch = some bt → freeSlot x bt = some slot → s.listDue p bt = true → s.isChecker (pairOf b) = false →
    s.errorsIn [⟨listSlot bt slot, bytes.length⟩] = [] →
    ∃ t, exec (.worklistBuild p) s = .next t ∧
      t.mem = memWrite (memWrite s.mem (listSlot bt slot) bytes) (queueStorage b (s.block b) q + 64 * ((s.block b).queue q).next)
        (descBytes (listDesc s bt slot bytes.length x.listNo)) ∧
      (∀ e ∈ es, (t.seq p e.1).mode = sqListed) ∧ tFind (t.part p).lists slot = some ⟨x.listNo, es.map fun e => (e.1, BitVec.ofNat 32 e.2.2)⟩ ∧
      (t.part p).listNo = x.listNo + 1 ∧ (t.part p).wlDeadline = false ∧
      ((t.block b).queue q).entries.length = ((s.block b).queue q).entries.length + 1) ∧
  (∀ (s : State) (p : PartId) (bt : BatchP), (s.part p).batch = some bt → (s.part p).wlStarted = true → s.eligible p bt ≠ [] →
    exec (.batchDeadlineExpiry p) s = .next (s.setPart p { s.part p with wlDeadline := true }))

/-- HOLD_NOTICE and RELEASE_NOTICE complete on the oldest notice where its stage is valid with one shard, the notice's epoch is not older than the stage's, no mismatch stands, and the shard-list word and the entry that it names lie where the engine may read them without an error, the entry with a slot of that version that holds a reference to release: inflight goes up or, from above zero, down by one, that slot counts one up or down, and the entry is written back with gen one higher. ADMISSION_POST of an entry that admits completes: it moves next_mb (or next_step after the last micro-batch of a step) on, counts, and where no lane has a checker puts at the tail of every lane's forward queue the Rider of its lane. Held back by the staleness bound alone it only counts. The bits that a command's `hit` names have turned over first in the first burst that it reads (State.struck). -/
def Obligations.NoticesAndAdmission : Prop :=
  (∀ (s : State) (n : Notice) (rest : List Notice) (v : VEntry) (hit : BurstErr),
    let e := s.stage n.entry
    let word := e.shardList.toNat
    let u := ({ s with notices := rest } : State).struck [⟨word, 8⟩] hit
    let a := memNat u.mem word 6
    s.notices = n :: rest → e.valid = true → epochGe n.epoch e.keptEpoch = true → e.shardCount.toNat = 1 →
    s.engineMay e.partition word 8 = true → u.errorsIn [⟨word, 8⟩] = [] →
    s.engineMay e.partition a ventryBytes = true → a % 256 = 0 → u.errorsIn [⟨a, ventryBytes⟩] = [] →
    (ventryAt u.mem a).countRef n.version n.hold = some v →
    let entry := memWrite u.mem a (ventryEnc { v with gen := v.gen + 1 })
    (n.hold = true → exec (.holdNotice false hit) s =
      .next { u.setStage n.entry { e with inflight := e.inflight + 1 } with mem := entry }) ∧
    (n.hold = false → e.inflight ≠ 0 → exec (.releaseNotice false hit) s =
      .next { u.setStage n.entry { e with inflight := e.inflight - 1 } with mem := entry })) ∧
  (∀ (s : State) (e : StageId), let x := s.stage e
    (s.admits x = true →
      ∃ t, exec (.admissionPost e false) s = .next t ∧ t.hub.admitPosted = inc s.hub.admitPosted ∧
        t.stage e = (if x.nextMb + 1 = x.mbPerStep then { x with nextMb := 0, nextStep := x.nextStep + 1 } else { x with nextMb := x.nextMb + 1 }) ∧
        ((∀ b ∈ s.lanesOf x, s.isChecker (pairOf b) = false) → ∀ (i : Nat) (b : BlockId), (s.lanesOf x)[i]? = some b →
          ((t.block b).queue x.fwdQ).entries = ((s.block b).queue x.fwdQ).entries ++ [admitRider s x ((s.lanesOf x).headD ⟨0, 0⟩) b i])) ∧
    (s.admitOn x = true → s.lanesRoom x = true → x.staleOk = false →
      ∃ t, exec (.admissionPost e false) s = .next t ∧ t.stages = s.stages ∧ t.blocks = s.blocks ∧ t.mem = s.mem ∧
        t.hub = { s.hub with admitStale := satAdd s.hub.admitStale (s.free).1.toNat }))

/-- Where the entry lies in stacked memory that the engine may reach and no burst of it holds an error: SLOT_ALLOCATION for the task at the head of the region's queue, with nothing to retire and R157's conditions met, writes the entry with its lowest free slot building version c + 1 and marks the task ready. PUBLICATION of a completed task that exports nothing, while Flapino runs and a slot is building, writes the entry as R159 and R158 compute it, starts a drain, and takes the task off the list of completed ones. VERSION_DRAIN_COMPLETE of a drain that waits for no block makes its retiring slots free. DRAIN_MARK_ANSWER of a block that runs no version FETCH takes it off the drain's waiting blocks once its mark is the first in its crossing FIFO. Each write of an entry raises gen by one (R155). -/
def Obligations.VersionsArePublished : Prop :=
  (∀ (s : State) (rg : RegionId) (task : BitVec 8) (c : BitVec 32) (rest : List (Nat × BitVec 32)),
    let u := (s.region rg).upd
    let t := s.task rg task.toNat
    let a := t.ventry.toNat
    let v := ventryAt s.mem a
    let w := v.allocate c
    u.queue = (task.toNat, c) :: rest → u.slotReady = none → u.run = none → s.engineMay t.partition a ventryBytes = true →
    s.errorsIn [⟨a, ventryBytes⟩] = [] → retireSlots 8 v (s.stage t.stage).staleS.toNat c.toNat = (v, [], none) → s.slotOk t v c = true →
    exec (.slotAllocation rg task) s =
      .next (({ s with mem := memWrite s.mem a (ventryEnc { w with gen := w.gen + 1 }) } : State).setUpd rg
        { u with slotReady := some task.toNat, slotWaited := u.slotWaited.filter (· ≠ task.toNat) })) ∧
  (∀ (s : State) (rg : RegionId) (task : BitVec 8) (c : BitVec 32) (n : Nat),
    let u := (s.region rg).upd
    let t := s.task rg task.toNat
    let a := t.ventry.toNat
    let v := ventryAt s.mem a
    let stale := (s.stage t.stage).staleS.toNat
    let w := (retireSlots 8 (v.publish stale n) stale c.toNat).1
    u.doneTasks.find? (fun d => d.1 == task.toNat) = some (task.toNat, c, n) → s.flapinoUp = true → v.bldValid = true → t.exportEn = false →
    s.errorsIn [⟨a, ventryBytes⟩] = [] →
    ∃ t, exec (.publication rg task) s = .next t ∧ t.mem = memWrite s.mem a (ventryEnc { w with gen := w.gen + 1 }) ∧
      (t.region rg).upd.doneTasks = delFirst (fun d => d.1 == task.toNat) u.doneTasks ∧ t.drains.length = s.drains.length + 1) ∧
  (∀ (s u : State) (b : BlockId) (e : Addr),
    s.inflight.any (fun t => decide (t.item = .drainMark b e)) = true → s.arrive (fun i => decide (i = .drainMark b e)) = some u →
    (s.block b).fetchingVersion = false →
    exec (.drainMarkAnswer b e) s = .next { u with
      drains := updFirst (fun d => d.entry == e && d.waiting.contains b.idx) (fun d => { d with waiting := d.waiting.filter (· ≠ b.idx) }) s.drains }) ∧
  (∀ (s : State) (e : Addr) (d : VDrain) (ds : List VDrain), s.drains = d :: ds → d.entry = e → d.waiting = [] → d.slots ≠ [] →
    s.errorsIn [⟨e.toNat, ventryBytes⟩] = [] →
    let free (w : VEntry) (i : Nat) : VEntry := w.setSlot i fun t => if t.state = vsRetiring then { t with state := vsFree } else t
    let v := d.slots.foldl free (ventryAt s.mem e.toNat)
    exec (.versionDrainComplete e) s =
      .next { s with mem := memWrite s.mem e.toNat (ventryEnc { v with gen := v.gen + 1 }), drains := ds })

/-- Where Flapino carries the command for an entry below 64: STAGE_QUERY returns the entry's 512 bits; ADMIT_START of a valid first entry, its micro-batch below the step's, sets the position and enables admission, ADMIT_STOP disables it; VERSION_PIN and VERSION_UNPIN set and clear the pin. VTABLE_INIT, its address and areas aligned, disjoint and inside the partition's stacked memory and no burst of the entry holding an error, writes the entry with version v0 current; VTABLE_QUERY returns its bytes. LRING_BIND of an empty queue of the partition binds a ring of 8 to 4,096 segments, with fewer than 512 rings bound; LRING_UNBIND of one that holds nothing removes it. -/
def Obligations.StageCommands : Prop :=
  (∀ (s : State) (r : Running) (k : BitVec 8), k.toNat < 64 →
    let e := s.stage (k.setWidth 6)
    let sc := s.stageScope k
    let put (y : StageEntry) : Res := .next ((s.taken.setStage (k.setWidth 6) y).ok r)
    (s.carries r 0x0203 sc = true → exec (.stageQuery k) s = .next (s.taken.okData r (natWords 8 (stageBits e).toNat))) ∧
    (s.carries r 0x0208 sc = true → e.valid = true → e.first = true → ∀ (step : BitVec 32) (mb : BitVec 16), mb.toNat < e.mbPerStep.toNat →
      exec (.admitStart k step mb) s = put { e with nextStep := step, nextMb := mb, admitEn := true }) ∧
    (s.carries r 0x0209 sc = true → e.valid = true → e.first = true → exec (.admitStop k) s = put { e with admitEn := false }) ∧
    (s.carries r 0x0212 sc = true → e.valid = true → exec (.versionPin k) s = put { e with pinned := true }) ∧
    (s.carries r 0x0213 sc = true → e.pinned = true → exec (.versionUnpin k) s = put { e with pinned := false })) ∧
  (∀ (s : State) (r : Running) (x : VTableP), s.carries r 0x0210 .own = true → x.addr.toNat % 256 = 0 →
    (s.part r.part).hasStacked x.addr.toNat ventryBytes = true → x.shardBytes.toNat ≠ 0 → x.shardBytes.toNat % 64 = 0 →
    x.wholeA.toNat % 64 = 0 → x.wholeB.toNat % 64 = 0 → anyOverlap (vtableAreas x) = false →
    s.errorsIn [⟨x.addr.toNat, ventryBytes⟩] = [] →
    (∀ a ∈ vtableAreas x, a.len = 0 ∨ (s.part r.part).hasStacked a.base a.len = true) →
    exec (.vtableInit x) s = .next (({ s.taken with mem := memWrite s.mem x.addr.toNat (ventryEnc (initEntry x)) } : State).ok r)) ∧
  (∀ (s : State) (r : Running) (a : Addr), s.carries r 0x0211 .own = true → (s.part r.part).hasStacked a.toNat ventryBytes = true →
    exec (.vtableQuery a) s = .next (s.taken.okData r (byteWords (memRead s.mem a.toNat ventryBytes)))) ∧
  (∀ (s : State) (r : Running) (q : QAddr) (base : Addr) (n : BitVec 32), let b := QAddr.blockId q
    s.partHas r.part b = true →
    (s.carries r 0x0231 .own = true → s.ring q = none → ((s.block b).queue (QAddr.queue q)).entries = [] → base.toNat % mib = 0 →
      8 ≤ n.toNat → n.toNat ≤ 4096 → (s.part r.part).hasStacked base.toNat (n.toNat * mib) = true → s.rings.length < 512 →
      exec (.lringBind q base n) s = .next (((s.taken.setRing q ⟨base.toNat, n.toNat, 0, 0, 0, [], [], []⟩).setBlock b
        { s.block b with landed := tSet (s.block b).landed (QAddr.queue q).toNat 0 }).ok r)) ∧
    (∀ g : Ring, s.carries r 0x0232 .own = true → s.ring q = some g → g.pending = [] → g.alloc ≤ g.release →
      exec (.lringUnbind q) s = .next ((s.taken.delRing q).ok r)))

/-- COLLECTIVE_POST of the owner of a valid plan whose source has no header, its step above the plan's last, queues the instance; any other post counts and raises COLL_POST. Where no burst of stacked memory holds an error: INSTANCE_START of the only queued instance with an empty, allowed result and no credit of its own yet marks it running and grants its peers one credit for each piece expected; a piece that is expected counts as arrived or gathered; COLLECTIVE_CREDIT adds a credit, and each piece sent uses one; INSTANCE_COMPLETE once every piece has arrived and left, for a plan without a norm and without an amax word, removes the instance, counts, and writes the result header (and no other byte but for a reduce-scatter's undefined chunks). An own chunk that cannot be read, an abort notice or COL_TIMEOUT fails the instance: its result's state byte becomes 0x03 where the plan has no norm, and the failure counts. -/
def Obligations.CollectivesRun : Prop :=
  (∀ (s : State) (q : Post) (rest : List Post), s.posts = q :: rest →
    let p := s.plan q.plan
    (p.valid = true → p.owner = q.block → tGet 0 s.lastSteps q.plan.toNat ≤ q.step.toNat → p.rbSrc = false →
      exec .collectivePost s = .next { s with
        posts := rest, instances := s.instances ++ [⟨q.plan, q.step, q.half, false, false, Config.sourceContrib q.plan.toNat, [], 0, 0, 0, [], 0⟩]
        lastSteps := tSet s.lastSteps q.plan.toNat (q.step.toNat + 1) }) ∧
    ((p.valid = false ∨ p.owner ≠ q.block ∨ q.step.toNat < tGet 0 s.lastSteps q.plan.toNat) →
      ∃ t, exec .collectivePost s = .next t ∧ t.hub.colPostErr = inc s.hub.colPostErr ∧ t.instances = s.instances ∧
        t.events.map EventReq.code = s.events.map EventReq.code ++ [evCollPost])) ∧
  (∀ (s : State) (k : PlanId) (i : Instance), let p := s.plan k
    s.instances = [i] → i.plan = k → s.bursts = [] →
    (i.running = false → memByte s.mem (p.dst.toNat + 1) = 0 → s.planAllowed i p = true →
      (∀ c ∈ s.pieceCredits, ¬ (c.planId = p.planId ∧ c.step = i.step)) →
      ∃ t, exec (.instanceStart k) s = .next t ∧ t.instances = [{ i with running := true }] ∧
        t.inflight.map Transit.item = s.inflight.map Transit.item ++ (s.recvs p).map fun x => .pieceCredit p.planId i.step x.peer) ∧
    (∀ (rank : BitVec 12) (x : Piece), i.running = true → (s.expected i p rank.toNat x).isSome = true →
      ∃ (t : State) (j : Instance), exec (.collectivePiece ⟨p.planId, i.step⟩ rank x) s = .next t ∧ t.instances = [j] ∧ j.step = i.step ∧
        j.gathered = i.gathered + (if x.gatherPhase then 1 else 0) ∧ j.arrived = i.arrived + (if x.gatherPhase then 0 else 1) ∧
        j.sent + t.pieceCredits.length = i.sent + s.pieceCredits.length) ∧
    (∀ rank : BitVec 12, i.running = true →
      ∃ (t : State) (j : Instance), exec (.collectiveCredit ⟨p.planId, i.step⟩ rank) s = .next t ∧ t.instances = [j] ∧ t.mem = s.mem ∧
        j.arrived = i.arrived ∧ j.gathered = i.gathered ∧ j.sent + t.pieceCredits.length = i.sent + s.pieceCredits.length + 1) ∧
    (i.running = true → p.normEn = false → p.amax = 0 → i.arrived + i.gathered = (s.recvs p).length → i.sent = (s.sends p).length →
      ∃ t, exec (.instanceComplete k) s = .next t ∧ t.instances = [] ∧ t.hub.colInstDone = inc s.hub.colInstDone ∧
        (p.op ≠ opReduceScatter → t.mem = memWrite s.mem p.dst.toNat (resultHeader p i.step (s.resultContrib i p) 0
          (BitVec.ofNat 32 ((s.stage p.stage).mbPerStep.toNat * s.planN p)) (amaxMax i.amax (s.ownMax p)))))) ∧
  (∀ (s : State) (k : PlanId) (i : Instance), let p := s.plan k
    s.instance_ k = some i →
    (i.arrived + i.gathered = (s.recvs p).length → i.sent = (s.sends p).length →
      ∀ a, (s.readRanges (dstRanges p (s.ownChunk p).1 (s.ownChunk p).2)).2 = some a →
      exec (.instanceComplete k) s = .next ((s.readRanges (dstRanges p (s.ownChunk p).1 (s.ownChunk p).2)).1.failInstance i causeMemory true)) ∧
    (p.normEn = false → s.bursts = [] → s.mem.wf = true →
      ∃ t, exec (.colTimeoutExpiry (.instance_ k)) s = .next t ∧ memByte t.mem (p.dst.toNat + 1) = 3 ∧
        t.hub.colInstFail = inc s.hub.colInstFail ∧ t.events.map EventReq.code = s.events.map EventReq.code ++ [evCollectiveFailed])) ∧
  (∀ (s : State) (id : BitVec 16) (step : BitVec 32) (i : Instance),
    s.instances.find? (fun i => (s.plan i.plan).planId == id && i.step == step) = some i → (s.plan i.plan).normEn = false → s.bursts = [] →
    s.mem.wf = true →
    ∃ t, exec (.collectiveAbortNotice id step) s = .next t ∧ memByte t.mem ((s.plan i.plan).dst.toNat + 1) = 3 ∧
      t.inflight = (s.takeControl id).inflight ∧ t.instances = delFirst (fun j => decide (j = i)) s.instances)

/-- SCALAR_VALUE of a child, the only all-reduce in progress being its own, combines the value: while more children are awaited it waits on, and after the last one a member of rank above zero sends its value up. NORM_COMPLETE, every norm plan of the job done for the step, contributes the sum of the regions' sums, in region order, to the job's group. JOB_VERSION_CHECK, what it reads being free of errors, contributes the lowest current version of the job's shards, and JOB_VERSION_AGREED writes a version above the one held. COLL_QUERY returns the plan entry, its last step and its instance's state. COLL_SCALAR in a group of one writes the value at its result address and completes with it. -/
def Obligations.ScalarsAndNorms : Prop :=
  (∀ (s : State) (x : Scalar) (v : Word), s.scalars = [x] → x.result = none → x.sentUp = false →
    let n := treeChildren (s.group x.group).count.toNat (s.group x.group).rank.toNat
    let y : Scalar := { x with value := scalarOp x.op x.value v, children := x.children + 1 }
    let u := s.takeControl (x.group.setWidth 16)
    (x.children + 1 < n → exec (.scalarValue x.group x.use v false) s = .next { u with scalars := [y] }) ∧
    (x.children + 1 = n → (s.group x.group).rank.toNat ≠ 0 → exec (.scalarValue x.group x.use v false) s =
      .next (({ u with scalars := [{ y with sentUp := true }] } : State).ship
        (.scalar x.group x.use y.value false (((s.group x.group).rank.toNat - 1) / 2))))) ∧
  (∀ (s : State) (job : BitVec 16) (step : BitVec 32),
    let key := normStep job step
    let sums := allRegions.filterMap fun r => tFind (s.region r).normSums key
    let u := allRegions.foldl (fun t r => t.setRegion r { t.region r with normSums := tDel (t.region r).normSums key })
      { s with normDone := (s.normPlans job).foldl (fun t k => tDel t (normKey job k step)) s.normDone }
    s.normPlans job ≠ [] → sums ≠ [] → (∀ k ∈ s.normPlans job, (tFind s.normDone (normKey job k step)).isSome = true) →
    (s.group (s.job job).group).valid = true →
    exec (.normComplete job step) s = .next (u.startScalar (s.job job).group (.norm job step) .a32Sum
      ((sums.foldl (fun a v => (a32Plus a (a32Read v).1).1) (0 : BitVec 32)).setWidth 64) none)) ∧
  (∀ (s : State) (job : BitVec 16), s.flapinoUp = true → s.jobReady job = true → (∀ x ∈ s.scalars, x.use ≠ .jobVersion job) →
    (s.group (s.job job).group).valid = true → (s.readRanges (s.jobReads job)).2 = none →
    exec (.jobVersionCheck job) s = .next ((s.readRanges (s.jobReads job)).1.startScalar (s.job job).group (.jobVersion job) .u32Min (BitVec.ofNat 64 (s.jobCurrent job)) none)) ∧
  (∀ (s : State) (job : BitVec 16) (v : BitVec 32) (x : Scalar), s.scalars = [x] → x.use = .jobVersion job → x.result = some (v.setWidth 64) →
    s.jobHeld job < v.toNat →
    exec (.jobVersionAgreed job v) s = .next (({ s with scalars := [] } : State).setJobVersion job v)) ∧
  (∀ (s : State) (r : Running) (k : BitVec 16), s.carries r 0x0246 (s.planScope k) = true → k.toNat < 1024 →
    let j : PlanId := k.setWidth 10
    exec (.collQuery k) s = .next (s.taken.okData r (natWords 8 (planBits (s.plan j)).toNat ++
      [BitVec.ofNat 64 (tGet 0 s.lastSteps j.toNat - 1), BitVec.ofNat 64 (s.instanceCode j)]))) ∧
  (∀ (s : State) (r : Running) (g : BitVec 8) (op : ScalarOp) (v : Word) (a : Addr), s.carries r 0x0244 .own = true → g.toNat < 64 →
    (s.group (g.setWidth 6)).valid = true → (s.group (g.setWidth 6)).count = 1 → (s.group (g.setWidth 6)).rank = 0 →
    (s.part r.part).hasStacked a.toNat 8 = true → inStacked a.toNat 8 = true → s.errorsIn [⟨a.toNat, 8⟩] = [] →
    ∃ t : State, exec (.collScalar g op v a) s = .next (t.okData r [v]) ∧ t.mem = memWrite s.mem a.toNat (leBytes 8 v.toNat) ∧
      t.hub.colScalarDone = inc s.hub.colScalarDone)

/-- Where Flapino carries PERMUTE_START with a valid group, no stage of the partition busy, and table, sources and staging inside the partition's stacked memory, the entries that leave or reach this package start as a background command, fixed entries counting as landed. PERMUTE_MOVE_LANDED of a moving entry not at place 1 writes its data at its target when that is on this package, counts the move and tells the place vacated. VACATE_NOTICE starts the waiting entry below. (No burst read or written there holds an error.) COL_TIMEOUT of a cycle with a move outstanding fails that cycle; of a scalar all-reduce it fails that one. -/
def Obligations.PermutationsMove : Prop :=
  (∀ (s : State) (r : Running) (g : BitVec 8) (table : Addr) (n : BitVec 32) (staging : Addr) (size : BitVec 64),
    let p := s.part r.part
    let es := permTable s.mem table.toNat n.toNat
    s.carries r opPermute .own = true → g.toNat < 64 → (s.group (g.setWidth 6)).valid = true →
    (s.stages.any fun e => e.2.valid && e.2.partition == r.part && (e.2.inflight != 0#16 || e.2.admitEn || !e.2.pinned)) = false →
    p.hasStacked table.toNat (32 * n.toNat) = true →
    (∀ e ∈ es, e.srcDev = s.deviceId → p.hasStacked e.srcAddr.toNat e.length.toNat = true ∧
      (e.pos = 1 → e.last = false → e.length.toNat ≤ size.toNat)) →
    (size.toNat = 0 ∨ p.hasStacked staging.toNat size.toNat = true) →
    exec (.permuteStart g table n staging size) s = .next ((s.taken.startBg r).putPermute ⟨r.part, r.seq, false,
      (es.filter fun e => e.srcDev == s.deviceId || e.dstDev == s.deviceId).map fun e =>
        (e, if e.pos = 1#16 ∧ e.last = true then PermState.landed else PermState.waiting), false, staging.toNat, size.toNat, [], []⟩)) ∧
  (∀ (s : State) (c : BitVec 32) (pos : BitVec 16) (x : Permute) (e : PermEntry) (got : Nat),
    s.findMove c pos = some (x, e, .moving got) → e.pos ≠ 1 → e.dstDev = s.deviceId → s.errorsIn [⟨x.target e, e.length.toNat⟩] = [] →
    let u := ({ s with mem := memWrite s.mem (x.target e) (memRead s.mem e.srcAddr.toNat e.length.toNat) } : State).count fun h =>
      { h with colPermuteMoves := inc h.colPermuteMoves }
    exec (.permuteMoveLanded c pos) s =
      .next ((u.vacated (x.mark e .landed) c pos).1.putPermute (u.vacated (x.mark e .landed) c pos).2)) ∧
  (∀ (s : State) (c : BitVec 32) (pos : BitVec 16) (x : Permute) (e : PermEntry), s.findMove c (pos - 1) = some (x, e, .waiting) → e.last = false →
    s.errorsIn [⟨e.srcAddr.toNat, e.length.toNat⟩] = [] →
    let u := s.unship (isControl 0x06 c e.dstDev)
    exec (.vacateNotice c pos) s = .next ((if e.dstDev = s.deviceId then u
      else u.ship (.move e.cycle e.pos e.dstDev (memRead s.mem e.srcAddr.toNat e.length.toNat))).putPermute (x.mark e (.moving 0)))) ∧
  (∀ (s : State) (c : BitVec 32) (x : Permute),
    s.permutes.find? (fun x => x.entries.any fun e => e.1.cycle == c && e.1.srcDev == s.deviceId && decide (e.2 ≠ .landed)) = some x →
    exec (.colTimeoutExpiry (.permute c)) s = .next ((s.failCycle x c).1.putPermute (s.failCycle x c).2)) ∧
  (∀ (s : State) (x : Scalar), s.scalars = [x] → x.result = none →
    exec (.colTimeoutExpiry (.scalar x.use x.group)) s = .next (s.failScalar x))

/-- UPDATE_TASK_START of a task without clipping or export whose shard's current version is its step's, its slot ready, its ranges allowed and what it reads free of errors, its optimizer native: it runs from group 0 with gs, lr, c1 and c2 as R203 and R204 compute them. UPDATE_GROUP of a task of stacked memory, what the group reads free of errors: where its two computations agree at first it writes the group and advances by one; at the second attempt it counts and reports that first; where they differ again it is interrupted. UPDATE_TASK_COMPLETE after the last group, the difference verified, of a task without a scale list ends the run, counts it and posts it as completed; with a scale list it runs the scale step first and a second UPDATE_TASK_COMPLETE posts it (the model's choice, log 117). UPDATE_INTERRUPT ends the run, counts it, frees the building slot and, for an abort, keeps the task for a resume. UPD_QUERY and CHECKPOINT_MARK complete with OK. The bits that a command's `hit` names have turned over first in the first burst that it reads (State.struck). -/
def Obligations.UpdatesRun : Prop :=
  (∀ (s : State) (rg : RegionId) (k : Nat) (c : BitVec 32) (rest : List (Nat × BitVec 32)),
    let u := (s.region rg).upd
    let t := s.task rg k
    let v := ventryAt s.mem t.ventry.toNat
    let p := s.taskParam rg t
    let contrib := BitVec.ofNat 32 (memNat s.mem (s.taskHeader t + 12) 4)
    u.queue = (k, c) :: rest → u.run = none → (s.region rg).fenced = false → t.clipEn = false → t.exportEn = false → t.opt ≠ 3 →
    v.curVersion = c → u.slotReady = some k → s.taskAllowed t v = true → s.errorsIn (s.startReads t) = [] → t.countMode = false → contrib ≠ 0 →
    ∃ (w : State) (x : RunTask), exec (.updateTaskStart rg) s = .next w ∧ (w.region rg).upd.run = some x ∧ (w.region rg).upd.queue = rest ∧
      w.mem = s.mem ∧ x.task = k ∧ x.step = c ∧ x.entry = t ∧ x.group = 0 ∧ x.skip = false ∧ x.scaled = false ∧
      x.gs = (f32Mul (f32Div f32One (f32OfNat contrib.toNat)).1 f32One).1 ∧
      x.lr = (f32Mul (schedule (s.taskSegs rg p) c.toNat) (paramLrMult p)).1 ∧
      x.c1 = biasCorr (paramBias p) (paramBeta1 p) (c - t.step0 + 1).toNat ∧ x.c2 = biasCorr (paramBias p) (paramBeta2 p) (c - t.step0 + 1).toNat) ∧
  (∀ (s : State) (rg : RegionId) (x : RunTask),
    let u := (s.region rg).upd
    let t := x.entry
    let v := ventryAt s.mem t.ventry.toNat
    u.run = some x → t.exportEn = false → slowTier t = false →
    (∀ hit : BurstErr, let q := s.struck (s.groupReads t v x.group) hit
      x.group < v.groups → q.errorsIn (s.groupReads t v x.group) = [] →
      exec (.updateGroup rg true true hit) s = .next (q.writeGroup rg t v x) ∧
      exec (.updateGroup rg false true hit) s = .next (((q.setUpd rg { u with dupRetry := inc u.dupRetry }).raise t.partition evUpdateRetry 2
        (unitRegion rg 5 x.task) (det 168 x.step.toNat ||| det 200 x.group)).writeGroup rg t v x) ∧
      exec (.updateGroup rg false false hit) s = .next (q.interruptUpdate rg .mismatch) ∧
      (∃ w, exec (.updateGroup rg true true hit) s = .next w ∧ (w.region rg).upd.run.map RunTask.group = some (x.group + 1))) ∧
    (v.groups ≤ x.group → x.scaled = true ∨ t.scaleCount = 0 → ∃ w, exec (.updateTaskComplete rg true) s = .next w ∧ (w.region rg).upd.run = none ∧
      (w.region rg).upd.done = inc u.done ∧ (w.region rg).upd.doneTasks = u.doneTasks ++ [(x.task, x.step, x.coded.length)]) ∧
    (v.groups ≤ x.group → x.scaled = false → t.scaleCount ≠ 0 → ((s.closeSeries t v x).scaleStep rg t).2 = true →
      ∃ w, exec (.updateTaskComplete rg true) s = .next w ∧ (w.region rg).upd.run = some { x with scaled := true }) ∧
    (∃ w, exec (.updateInterrupt rg .abort) s = .next w ∧ (w.region rg).upd.run = none ∧ (w.region rg).upd.interrupted = inc u.interrupted ∧
      (w.region rg).upd.held = u.held ++ [(x.task, x.step, false)] ∧ w.mem = (s.freeBuilding t.partition t.ventry.toNat).mem)) ∧
  (∀ (s : State) (r : Running) (rg : RegionId) (k : BitVec 16), s.carries r 0x0254 (s.taskScope rg k.toNat) = true → k.toNat < 256 →
    exec (.updQuery rg k) s =
      .next (s.taken.okData r (natWords 8 (taskBits (s.task rg k.toNat)).toNat ++ [s.updStatusWord rg]))) ∧
  (∀ (s : State) (r : Running) (p : PartId) (c : BitVec 32), s.carries r 0x0803 (.names p) = true → s.stepStarted p c = false →
    exec (.checkpointMark p c) s = .next ((s.taken.setPart p { s.part p with marks := (s.part p).marks ++ [c] }).ok r))

/-- For a ring that belongs to this package's spans: EXPORT_RECORD_APPEND of the oldest waiting record that fits without a PAD (no burst there holding an error) writes its header and padded payload at the ring's tail with the next seq and counts it; one that does not fit is dropped and counted under the drop policy. EXPORT_ROOM with room for the oldest record ends the wait. EXPORT_SPAN_SEND of a ring with one unsent record of at most span_max bytes opens a Relay from the hub for it. EXPORT_SHARD of a valid task that exports, without moments and without an error in what it reads, is recorded as running in the background; with an error status of a read it fails (the model's choice, log 118). EXPORT_QUERY returns produced, consumed, seq and the drop count. -/
def Obligations.ExportsStream : Prop :=
  (∀ (s : State) (p : PartId) (g : ExportRing), (s.part p).exportRing = some g → g.cfg.kind = .package →
    (∀ (e : ExportRec) (rest : List ExportRec), g.runs = [] → g.pending = e :: rest → e.ofShard = false →
      let bs := exportHeader s.deviceId e g.seq e.payload.length ++ padTo (align64 e.payload.length) e.payload
      (g.fits (exportBytes e) = true → g.padFor (exportBytes e) = 0 → s.errorsIn [⟨g.cfg.base.toNat + g.tail % g.size, bs.length⟩] = [] → ∃ t, exec (.exportRecordAppend p) s = .next t ∧
        t.mem = memWrite s.mem (g.cfg.base.toNat + g.tail % g.size) bs ∧ t.hub.exportRecords = inc s.hub.exportRecords ∧
        (t.part p).exportRing = some { g with
          pending := rest, seq := g.seq + 1, produced := g.produced + bs.length, spanRecs := g.spanRecs ++ [⟨g.seq, bs.length, false⟩] }) ∧
      (g.fits (exportBytes e) = false → g.cfg.dropPolicy = true → ∃ t, exec (.exportRecordAppend p) s = .next t ∧ t.mem = s.mem ∧
        t.hub.exportDrop = inc s.hub.exportDrop ∧
        (t.part p).exportRing = some { ({ g with pending := rest } : ExportRing).lose g.seq 1 with seq := g.seq + 1 })) ∧
    (g.waiting = true → g.runs = [] → (∀ e ∈ g.pending.head?, g.fits (exportBytes e) = true) → (∀ r : RegionId, (s.region r).upd.run = none) →
      ∃ t, exec (.exportRoom p) s = .next t ∧ (t.part p).exportRing = some { g with waiting := false } ∧ t.mem = s.mem) ∧
    (∀ x : SpanRec, g.spanRecs = [x] → x.pad = false → x.bytes ≤ g.cfg.spanMax.toNat → s.spanOut p = false →
      let d := spanDesc s g (g.produced - x.bytes) x.bytes x.seq 1
      ∃ t, exec (.exportSpanSend p) s = .next t ∧ t.inflight.map Transit.item = s.inflight.map Transit.item ++ [.relayOpen ⟨s.nextRelay, s.deviceId, d⟩] ∧
        t.hubSends = s.hubSends ++ [⟨d, some s.nextRelay, false, 0, .span p x.bytes x.seq 1⟩] ∧ t.nextRelay = s.nextRelay + 1 ∧
        t.hubSeq = s.hubSeq + 1 ∧ (t.part p).exportRing = some { g with spanRecs := [] })) ∧
  (∀ (s : State) (r : Running) (rg : RegionId) (k : BitVec 8), s.carries r opExportShard (s.taskScope rg k.toNat) = true →
    let t := s.task rg k.toNat
    let v := ventryAt s.mem t.ventry.toNat
    let rd := s.taken.readRanges (shardReads t v false)
    t.valid = true → t.exportEn = true → (s.part t.partition).exportRing.isSome = true →
    (rd.2.isSome = true → exec (.exportShard rg k false) s = .next (rd.1.failed r rsState)) ∧
    (s.errorsIn (shardReads t v false) = [] → ∃ w, exec (.exportShard rg k false) s = .next w ∧ w.fl.bg = s.fl.bg ++ [r] ∧ w.fl.current = none ∧ w.mem = s.mem ∧
      w.fl.exports = s.fl.exports ++
        [⟨r, rg, k.toNat, v.curVersion - 1, v.curVersion, v.groups, memRead s.mem (v.slot v.curSlot).base v.shardBytes, 0, []⟩])) ∧
  (∀ (s : State) (r : Running) (p : PartId), s.carries r 0x0804 (.names p) = true →
    let g := s.exRing p
    exec (.exportQuery p) s =
      .next (s.taken.okData r [BitVec.ofNat 64 g.produced, BitVec.ofNat 64 g.consumed, g.seq.setWidth 64, g.drops]))

/-- For a requester with an operation in progress: an access that R224 does not allow it is refused; one to a stack not yet wiped is held. MEMORY_READ of a burst without an error only counts the bytes served; one whose check fails is answered with an error status, and in class W, read for the controller itself, counts and raises MEM_UNCORRECTABLE. MEMORY_WRITE puts its bytes and changes no byte outside them. MEMORY_SIDE_OPERATION with sound, allowed ranges puts the unit's result in memory and goes on to the next unit or, after the last, leaves the queue; a refused unit is dropped. PATROL_SCRUB_BURST of class W counts and rewrites what it corrects, counts SCRUB_UNCORR where the check fails, and does nothing in class A. CLASS_SWITCH takes MEM_CLASS_MAP and changes no byte of another stack. SELF_REFRESH_ENTRY of an idle stack, refresh management and per-bank refresh do what R235 says. The bits that a command's `hit` names have turned over first in the first burst that it reads (State.struck). -/
def Obligations.MemoryServes : Prop :=
  (∀ (s : State) (addr : Addr) (q : Requester) (f : BurstFault),
    let a := addr.toNat / 32 * 32
    let u := ((s.served a 32).countBus a f.bus f.onDie).upset a f.upset
    let r := u.readBurst a f.transient
    s.reqActs q = true →
    (s.reqAllowed a 32 q = false → exec (.memoryRead addr q f) s = .next (s.reqRefused q)) ∧
    (s.reqAllowed a 32 q = true → inStacked a 32 = true →
      (s.memUp a = false → exec (.memoryRead addr q f) s = .next (s.setStack (stackOf a)
        { s.stack (stackOf a) with held := (s.stack (stackOf a)).held ++ [.read addr q f] })) ∧
      (s.memUp a = true → s.bursts = [] → f = ⟨⟨0, 0⟩, ⟨0, 0⟩, .ok, false⟩ → exec (.memoryRead addr q f) s = .next (s.served a 32)) ∧
      (s.memUp a = true → f.bus ≠ .fails → exec (.memoryRead addr q f) s = .next (if r.2 then r.1 else r.1.reqFails a (s.classA a) q)) ∧
      (s.memUp a = true → f.bus ≠ .fails → r.2 = false → s.classA a = false → q = .scrub → ∃ t, exec (.memoryRead addr q f) s = .next t ∧
        (t.stack (stackOf a)).wUncorr = inc (s.stack (stackOf a)).wUncorr ∧
        t.events.map EventReq.code = s.events.map EventReq.code ++ [evMemUncorrectable]))) ∧
  (∀ (s : State) (addr : Addr) (data : List Byte) (q : Requester),
    let a := addr.toNat
    s.reqActs q = true → 0 < data.length → a % 256 + data.length ≤ 256 → s.reqLocked a data.length q = false →
    (s.reqAllowed a data.length q = false → exec (.memoryWrite addr ⟨data, .ok⟩ q) s = .next (s.reqRefused q)) ∧
    (s.reqAllowed a data.length q = true → inStacked a data.length = true → s.memUp a = true → s.mem.wf = true →
      ∃ t, exec (.memoryWrite addr ⟨data, .ok⟩ q) s = .next t ∧
        (s.errorsIn [⟨a, data.length⟩] = [] → t.mem = memWrite s.mem a data) ∧
        ∀ b : Nat, (b < a ∨ a + data.length ≤ b) → memByte t.mem b = memByte s.mem b)) ∧
  (∀ (s : State) (m : MemSideOp) (rest : List MemSideOp) (u : Nat) (h k : BurstErr),
    let w := (s.struck (msoSources m u) h).struck (msoTargets m u) k
    s.msos = m :: rest → msoUnit m.op = some u → s.msoWaits m u = false →
    ((msoTargets m u ++ msoSources m u).all (s.msoMay m) = false → exec (.memorySideOperation h k) s = .next ((w.msoRefuse m).msoNext m u)) ∧
    ((msoTargets m u ++ msoSources m u).all (s.msoMay m) = true → w.errorsIn (msoTargets m u ++ msoSources m u) = [] →
      ∃ t, exec (.memorySideOperation h k) s = .next t ∧ t.mem = (w.msoApply m).1 ∧
        t.msos = if m.done + u < m.len then { m with done := m.done + u } :: rest else rest)) ∧
  (∀ (s : State) (addr : Addr) (f : BurstFault),
    let a := addr.toNat / 32 * 32
    let u := (s.countBus a f.bus f.onDie).upset a f.upset
    let chk := burstCheck false (errXor (u.burst a) f.transient) (u.burst a)
    inStacked a 32 = true → s.memUp a = true → (s.stack (stackOf a)).selfRefresh = false →
    (s.classA a = true → exec (.patrolScrubBurst addr f) s = .next s) ∧
    (s.classA a = false → f.bus ≠ .fails →
      (chk = .fails → exec (.patrolScrubBurst addr f) s = .next (u.scrubFails a)) ∧
      (chk = .clean → exec (.patrolScrubBurst addr f) s = .next u) ∧
      (chk = .single → exec (.patrolScrubBurst addr f) s =
        .next (((u.burstOk a .single).cleanBurst a).countStack a fun x => { x with scrubFix := inc x.scrubFix })))) ∧
  (∀ (s : State) (k : Nat), k < 12 → let x := s.stack k
    (∃ t, exec (.classSwitch k) s = .next t ∧ t.stack k = { x with classMap := s.classMap } ∧
      ∀ a : Nat, stackOf a ≠ k → memByte t.mem a = memByte s.mem a) ∧
    (x.wipeDone = true → x.selfRefresh = false → x.held = [] → (∀ m ∈ s.msos, stackOf (m.target + m.done) ≠ k) →
      exec (.selfRefreshEntry k) s = .next ((s.setStack k { x with allBank := x.allBank + 1, selfRefresh := true }).emit (.refreshAll k))) ∧
    exec (.refreshManagementRequest k) s = .next ((s.setStack k { x with refreshManagement := x.refreshManagement + 1 }).emit (.refresh k)) ∧
    (x.selfRefresh = false → exec (.perBankRefresh k) s = .next ((s.setStack k { x with refreshes := x.refreshes + 1 }).emit (.refresh k))))

/-- On a fabric port that is up. DATA_FLIT_RECEIVED, by the fields of Table 10.2: a DATA flit without ack fields and with the expected sequence number goes to the end of its channel's buffer, rx_expected moves on, and the 64th not yet reported makes a LINK flit due; a crc that fails counts and asks for replay; a type or channel that is not used counts. REPLAY_REQUEST at the acknowledged point with none from that point going on, and ACK_TIMEOUT_EXPIRY of a timer that ran from it, start a replay from the oldest held entry (below the eighth in a row); a timer from an older point has no effect. ACK_FLIT_DUE with something unreported makes a LINK flit due; CREDIT records the partner's totals. FLIT_SEND sends a due LINK flit with its CREDIT record first, then the next entry of a replay, then up to three Bypass packets in a flit with the next sequence number, held for replay. -/
def Obligations.FlitsFlow : Prop :=
  ∀ (s : State) (l : LinkId), l < 24 → (s.link l).isUp = true →
    let x := s.link l
    let quiet : FlitAck := ⟨false, 0, false⟩
    (∀ (head : BitVec 42) (reserved : BitVec 54) (payload : List Byte) (crc : BitVec 32) (f : Flit),
      rxFlit false (flitBytes head reserved payload crc) = .data quiet f → f.seq = x.rxExpected →
      ∃ t, exec (.dataFlitReceived l head reserved payload crc) s = .next t ∧
      (t.link l).rxExpected = x.rxExpected + 1 ∧ (t.link l).accepted = true ∧ (t.link l).unacked = x.unacked + 1 ∧
      (t.link l).linkDue = (x.linkDue || decide (64 ≤ x.unacked + 1)) ∧
      ((t.link l).rxBypass = x.rxBypass ++ (if f.vc = .bypass then [f] else [])) ∧
      ((t.link l).rxRequest = x.rxRequest ++ (if f.vc = .request then [f] else [])) ∧
      ((t.link l).rxResponse = x.rxResponse ++ (if f.vc = .response then [f] else [])) ∧
      (t.link l).counters = { x.counters with rxFlits := inc x.counters.rxFlits }) ∧
    (∀ (head : BitVec 42) (reserved : BitVec 54) (payload : List Byte) (crc : BitVec 32), payload.length = 240 →
      crc ≠ crc32c ((flitBytes head reserved payload crc).take 252) → ∃ t, exec (.dataFlitReceived l head reserved payload crc) s = .next t ∧
      (t.link l).rxExpected = x.rxExpected ∧ (t.link l).counters = { x.counters with crcDrop := inc x.counters.crcDrop } ∧
      (t.link l).replayReqFor = some x.rxExpected ∧ (x.replayReqFor ≠ some x.rxExpected → (t.link l).replayReq = true)) ∧
    (∀ (head : BitVec 42) (reserved : BitVec 54) (payload : List Byte) (crc : BitVec 32),
      rxFlit false (flitBytes head reserved payload crc) = .unused → exec (.dataFlitReceived l head reserved payload crc) s =
      .next (s.setLink l { x with counters := { x.counters with crcDrop := inc x.counters.crcDrop } })) ∧
    (x.replayBuf ≠ [] → x.replaysInRow < 7 →
      let again : State := s.setLink l { x with
        replaying := x.replayBuf, replayFrom := x.acked, replaysInRow := x.replaysInRow + 1
        counters := { x.counters with replay := inc x.counters.replay } }
      (x.replaying = [] ∨ x.replayFrom ≠ x.acked → exec (.replayRequest l ⟨false, x.acked, true⟩) s = .next again) ∧
      (∀ point, exec (.ackTimeoutExpiry ⟨l, point⟩) s = .next (if point = x.acked then again else s))) ∧
    exec (.ackFlitDue l) s = .next (if 0 < x.unacked ∨ x.creditDue = true then s.setLink l { x with linkDue := true } else s) ∧
    (∀ c : CreditRec, c.consValid = false → exec (.credit l ⟨quiet, c⟩) s =
      .next (s.setLink l { x with gotByp := c.bypTotal, gotReq := c.reqTotal, gotRsp := c.rspTotal })) ∧
    (x.txSwitch = none →
      (x.linkDue = true → ∃ t, exec (.flitSend l) s = .next t ∧ t.out = s.out ++ [.flit l (linkFlit [.credit x.creditRec] x.ackFields)] ∧
        t.link l = { x with replayReq := false, unacked := 0, linkDue := false, creditDue := false }) ∧
      (∀ (f : Flit) (rest : List Flit), x.linkDue = false → x.replaying = f :: rest → ∃ t, exec (.flitSend l) s = .next t ∧
        t.out = s.out ++ [.flit l (dataFlit f x.ackFields)] ∧ (t.link l).replaying = rest ∧ (t.link l).replayReq = false) ∧
      (x.linkDue = false → x.replaying = [] → x.replayBuf.length < 2048 → x.ready .bypass = true →
        let ps := (x.txBypass.take 3).map TxPacket.packet
        let f : Flit := ⟨.bypass, false, BitVec.ofNat 2 ps.length, x.txNext, bypassPayload ps⟩
        ∃ t, exec (.flitSend l) s = .next t ∧ t.out = s.out ++ [.flit l (dataFlit f x.ackFields)] ∧ (t.link l).txBypass = x.txBypass.drop 3 ∧
          (t.link l).txNext = x.txNext + 1 ∧ (t.link l).replayBuf = x.replayBuf ++ [f] ∧ (t.link l).sentByp = x.sentByp + 1))

/-- On a fabric port, its flits without ack fields: SIGNAL_DETECT of a disabled, enabled and released one starts training; TRAINING_COMPLETE records the lanes and sends IDENT in a LINK flit; a first QUICK_RETRAIN_FAIL tries again, a second ends quick retraining. IDENT brings a port that trains up with sequence numbers from zero, and a held one whose partner is the recorded one and neither end fresh sends RESUME; RESUME brings it up again with the entries the partner lacks to be replayed (below the eighth replay in a row). SIGNAL_LOST, FEC_LOCK_LOST and more than 64 uncorrectable codewords in 1 ms hold a port that is up and count a Hitch; a switch already agreed is tried first. GRACE_EXPIRY of a held port that holds nothing of this package flushes it, but one whose training is complete waits for its partner's IDENT. -/
def Obligations.LinksTrain : Prop :=
  ∀ (s : State) (l : LinkId), l < 24 →
    let x := s.link l
    let quiet : FlitAck := ⟨false, 0, false⟩
    (x.cfg.enable = true → x.mode = .disabled → s.linkReleased l = true →
      ∃ t, exec (.signalDetect l) s = .next t ∧ (t.link l).mode = .training ∧ (t.link l).trained = false) ∧
    (x.trains = true → x.trained = false →
      (∀ lanes : BitVec 18, x.wide = none → ∃ t, exec (.trainingComplete l lanes) s = .next t ∧ (t.link l).trained = true ∧
        (t.link l).lanesActive = lanes.setWidth 8 ∧ (t.link l).trainedLanes = lanes ∧
        t.out = s.out ++ [.flit l (linkFlit [.ident ⟨s.deviceId, BitVec.ofNat 5 l, s.idValid, x.fresh, lanes.setWidth 8, 2⟩] x.ackFields)]) ∧
      (x.quick = true → exec (.quickRetrainFail l) s =
        .next (s.setLink l (if x.quickRetrains < 2 then { x with quickRetrains := x.quickRetrains + 1 } else { x with quick := false })))) ∧
    (∀ i : IdentRec, x.trained = true → x.resuming = false →
      (x.mode = .training → ∃ t, exec (.ident l ⟨quiet, i⟩) s = .next t ∧ (t.link l).mode = .up ∧ (t.link l).partnerDev = i.device ∧
        (t.link l).partnerPort = i.port ∧ (t.link l).txNext = 0 ∧ (t.link l).rxExpected = 0 ∧ (t.link l).fresh = false ∧ t.mem = s.mem) ∧
      (x.mode = .held → x.fresh = false → i.fresh = false → i.device = x.partnerDev → i.port = x.partnerPort →
        exec (.ident l ⟨quiet, i⟩) s =
          .next ((s.setLink l { x with resuming := true }).sendRecs l [.resume ⟨x.rxExpected, x.freedByp, x.freedReq, x.freedRsp⟩]))) ∧
    (∀ r : ResumeRec, let y := x.ackTo (r.rxExpected - 1)
      x.mode = .held → x.resuming = true → y.replaysInRow < 7 →
      ∃ t, exec (.resume l ⟨quiet, r⟩) s = .next t ∧ (t.link l).mode = .up ∧ (y.replayBuf ≠ [] → (t.link l).replaying = y.replayBuf) ∧
        (t.link l).heldPackets = [] ∧ (t.link l).gotByp = r.bypTotal ∧ (t.link l).counters.hitchResume = inc x.counters.hitchResume) ∧
    (x.isUp = true →
      let held (r : Res) : Prop := ∃ t, r = .next t ∧ (t.link l).mode = .held ∧ (t.link l).counters.hitch = inc x.counters.hitch ∧
        t.events.map EventReq.code = s.events.map EventReq.code ++ (if s.parts_ = [] then [evHitch] else s.parts_.map fun _ => evHitch)
      held (exec (.signalLost l) s) ∧
      (x.rxSwitch = none → held (exec (.fecLockLost l) s)) ∧
      (∀ r, x.rxSwitch = some r → exec (.fecLockLost l) s = .next (s.takeSwitch l r)) ∧
      (∀ n k : Nat, 64 < k → held (exec (.uncorrectableCodeword l n k) s)) ∧
      (∀ k : Nat, k ≤ 64 → exec (.uncorrectableCodeword l 0 k) s =
        .next (s.setLink l { x with counters := { x.counters with fecUncorr := inc x.counters.fecUncorr, crcDrop := satAdd x.counters.crcDrop 0 } }))) ∧
    (x.mode = .held →
      (x.trained = false → (∀ p ∈ x.discarded, p.entry = none) →
        ∃ t, exec (.graceExpiry l) s = .next t ∧ (t.link l).mode = .flushed ∧ (t.link l).fresh = true ∧ (t.link l).replayBuf = [] ∧
          (t.link l).txRequest = [] ∧ (t.link l).counters.flushFlits = satAdd x.counters.flushFlits x.discardedFlits) ∧
      (x.trained = true → exec (.graceExpiry l) s = .next (s.setLink l { x with graceOver := true })))

/-- On a fabric port that is up, its flits without ack fields: LANE_REQ of good lanes is accepted and the port changes width (a widening trains its added lanes first); one that names an excluded or untrained lane is refused. LANE_ACCEPT of this end's REQ starts its own change, LANE_REFUSE ends the exchange, LANE_SWITCH of an agreed change whose other direction has moved completes it, and LANE_REQ_TIMEOUT sends the REQ again up to eight times and then gives it up. LANE_ERROR_WINDOW adds the corrected symbols; a lane over the limit in its third window in a row is excluded where auto-exclusion is on. -/
def Obligations.LaneWidths : Prop :=
  ∀ (s : State) (l : LinkId), l < 24 → (s.link l).isUp = true →
    let x := s.link l
    let quiet : FlitAck := ⟨false, 0, false⟩
    (∀ r : LaneRec, x.acceptedReq r = false →
      (x.mode = .up → badMask l x r.mask = false → s.reqStands x = false → exec (.laneReq l quiet r) s =
        .next ((s.setLink l (if (r.mask &&& ~~~x.lanesActive) = 0#8 then { x with mode := .widthChange, txSwitch := some r, rxSwitch := some r }
          else { x with mode := .widthChange, wide := some r })).sendRecs l [.lane 2 r])) ∧
      (badMask l x r.mask = true → exec (.laneReq l quiet r) s = .next (s.sendRecs l [.lane 3 r]))) ∧
    (∀ e : LaneExchange, x.exchange = some e → e.accepted = false →
      exec (.laneAccept l ⟨quiet, e.lane.cmd⟩) s =
        .next (s.setLink l ({ x with exchange := some { e with accepted := true } }.agree l e.lane true)) ∧
      exec (.laneRefuse l ⟨quiet, e.lane.cmd⟩) s = .next (s.setLink l { x with exchange := none }) ∧
      (e.attempts < 8 → exec (.laneReqTimeout l) s =
        .next ((s.setLink l { x with exchange := some { e with attempts := e.attempts + 1 } }).sendRecs l [.lane 1 e.lane])) ∧
      (8 ≤ e.attempts → exec (.laneReqTimeout l) s =
        .next (s.setLink l { x with exchange := none, counters := { x.counters with widthFail := inc x.counters.widthFail } }))) ∧
    (∀ r : LaneRec, x.mode = .widthChange → x.rxSwitch = some r → x.txSwitch = none → x.wide = none →
      ∃ t, exec (.laneSwitch l ⟨quiet, r.cmd⟩) s = .next t ∧ (t.link l).mode = .up ∧ (t.link l).rxSwitch = none ∧ (t.link l).rxLanes = r.mask ∧
        (t.link l).counters = { x.counters with widthChange := inc x.counters.widthChange }) ∧
    (∀ counts : List Nat,
      (overLanes x counts = [] → exec (.laneErrorWindow l counts) s = .next (s.setLink l { x with
        laneOver := [], counters := { x.counters with fecCorr := satAdd x.counters.fecCorr counts.sum } })) ∧
      (∀ i n : Nat, overLanes x counts = [(i, n)] → 3 ≤ n → x.lanesActive.getLsbD i = true → x.excluded.getLsbD i = false →
        x.cfg.autoExclude = true → ∃ t, exec (.laneErrorWindow l counts) s = .next t ∧ (t.link l).excluded = putBit x.excluded i true ∧
          t.events.map EventReq.code = s.events.map EventReq.code ++ (if s.parts_ = [] then [evLaneExcluded] else s.parts_.map fun _ => evLaneExcluded)))

/-- With the device ID set: PACKET_ROUTE of a queue message for another device that is the first of its path puts its packet on the port that its hash picks among the candidates, where that port is up; without a candidate it counts, is raised and is answered NACK gone. PACKET_FORWARD of a Bypass packet at the head of a port's buffer for another device, whose credits are freed, drops one without hops or with bad parity and counts, else sends it on with one hop fewer; the first flit of a Request or Response packet goes on at once. PACKET_DELIVER hands a queue message to the queue engine and a segment to the landing engine; an unused kind counts. LINK_QUERY returns status and counters of the ports of its mask; LINK_RETRAIN holds a port that is not disabled; LINK_FLUSH flushes a held one. -/
def Obligations.PacketsAreRouted : Prop :=
  (∀ (s : State) (k : Nat) (body : List Byte) (t : Transit) (rest : List Transit) (d : Descriptor), let dev := QAddr.device d.dst
    s.idValid = true → s.inflight.drop k = t :: rest → t.item = .message d → dev ≠ s.deviceId → (∀ u ∈ s.inflight.take k, u.ahead t = false) →
    let cs := s.candidates dev
    let p := s.newPacket 0x01 dev d.dst 0 (descBytes d)
    (∀ l, cs[routeHash p % cs.length]? = some l → (s.link l).isUp = true → ∃ w, exec (.packetRoute ⟨k, body⟩) s = .next w ∧
      w.link l = (s.link l).enqueue ⟨p, p.data.length, none, some t.item⟩ ∧ w.inflight = s.inflight.take k ++ rest ∧ w.mem = s.mem) ∧
    (cs = [] → ∃ w, exec (.packetRoute ⟨k, body⟩) s = .next w ∧ w.hub.noRoute = inc s.hub.noRoute ∧
      w.events.map EventReq.code = s.events.map EventReq.code ++ [evNoRoute] ∧ w.links = s.links ∧
      w.inflight.map Transit.item = (s.inflight.take k ++ rest).map Transit.item ++ [.answer ⟨d.dst, d.src, d.sendSeq, anGone⟩])) ∧
  (∀ (s : State) (l : LinkId) (f : Flit) (fs : List Flit), l < 24 → let x := s.link l
    (∀ (p : Packet) (r : List Flit) (n : Nat), x.rxBypass = f :: fs → bypassHead false f fs = .whole p r n → s.isMine p = false →
      let u := s.setLink l (x.free .bypass r n)
      (p.hops = 0 → ∃ t, exec (.packetForward l .bypass true) s = .next t ∧ t.hub.hopDrop = inc s.hub.hopDrop ∧ t.links = u.links) ∧
      (p.hops ≠ 0 → exec (.packetForward l .bypass false) s = .next (u.count fun h => { h with pathPerr := inc h.pathPerr })) ∧
      (p.hops ≠ 0 → exec (.packetForward l .bypass true) s =
        .next (u.route ⟨{ p with hops := p.hops - 1 }, p.data.length, none, none⟩ none).1)) ∧
    (x.rxRequest = f :: fs → x.cutReq = none → f.first = true → s.isMine (packetOf f.payload []) = false →
      exec (.packetForward l .request true) s = .next (s.forwardFirst l .request f fs true)) ∧
    (x.rxResponse = f :: fs → x.cutRsp = none → f.first = true → s.isMine (packetOf f.payload []) = false →
      exec (.packetForward l .response true) s = .next (s.forwardFirst l .response f fs true))) ∧
  (∀ (s : State) (l : LinkId) (vc : Channel) (p : Packet) (rest : List Flit) (n : Nat), l < 24 → s.idValid = true → p.dstDev = s.deviceId →
    (s.link l).cut vc = none → headPacket false vc ((s.link l).buffer vc) = .whole p rest n →
    let u := s.setLink l ((s.link l).free vc rest n)
    (p.kind = 0x01 → exec (.packetDeliver l vc) s = .next (u.shipFrom hubUnit (.message (packetDesc p)))) ∧
    (∀ q, p.kind = 0x04 → s.ringOf ⟨p.srcDev, p.flow⟩ = some q →
      exec (.packetDeliver l vc) s = .next (u.ship (.segment q ⟨p.srcDev, p.flow⟩ p.ext.toNat p.data))) ∧
    (p.kind.toNat = 0 ∨ 8 ≤ p.kind.toNat → exec (.packetDeliver l vc) s = .next (u.count fun h => { h with kindDrop := inc h.kindDrop }))) ∧
  (∀ (s : State) (r : Running) (m : BitVec 24), s.carries r 0x0404 .all = true →
    exec (.linkQuery m) s = .next (s.taken.okData r
      ((maskBits m).flatMap fun l => linkStatusWord (s.link l) :: linkCounterWords (s.link l).counters))) ∧
  (∀ (s : State) (r : Running) (l : Nat), l < 24 →
    (s.carries r 0x0405 .package = true → (s.link l).mode ≠ .disabled → exec (.linkRetrain l) s = .next ((s.taken.hitch l).ok r)) ∧
    (s.carries r 0x0406 .package = true → (s.link l).mode = .held → exec (.linkFlush l) s = .next ((s.taken.flushLink l).ok r)))

/-- BUNDLE_TRAINING of a region bundle in training whose wires all work puts it in service with its fused spare choices; one failing wire moves its group's spare, counted; two failing wires of a group, or a failed verification, take it out; of a guest bundle it opens the firewall of an enabled site. CONTROL_ENTRY_FAIL of a bundle in service, a parity wire of the beat failing, counts the resend and the entry's failures; the eighth of one entry takes a bundle of the second path out of service; a sound beat changes nothing. BUNDLE_PARITY_FAIL of a descriptor that lies on the bundle counts it and answers NACK crc in its place. FIFO_CLOSE of a crossing with an island that does not run closes it, discards its first data entries and counts them; FIFO_REOPEN opens one whose islands run. BUNDLE_QUERY returns each region's bundle ends and counters, then the hub's. -/
def Obligations.BundlesAndCrossings : Prop :=
  (∀ (s : State) (r : RegionId) (b : Nat) (w : TrainResult), (s.bundle r b).mode = bdTraining →
    (b < 24 →
      (w.failedWires = [] → w.verifyFails = none → ∃ u : State, exec (.bundleTraining r b w) s = .next u.settleBoot ∧
        (u.bundle r b).mode = bdInService ∧ (u.bundle r b).repl = replOf ((List.range 8).map fun g => (g, some (fusedChoice r b g))) ∧
        (u.bundle r b).moved = false) ∧
      (∀ i : Nat, w.failedWires = [[i]] → i < 66 → BitVec.ofNat 7 i ≠ fusedChoice r b 0 → w.verifyFails = none →
        ∃ u : State, exec (.bundleTraining r b w) s = .next u.settleBoot ∧ (u.bundle r b).mode = bdInService ∧ (u.bundle r b).moved = true ∧
        (u.region r).spareMoved = inc (s.region r).spareMoved) ∧
      (∀ i j : Nat, w.failedWires = [[i, j]] →
        ∃ u : State, exec (.bundleTraining r b w) s = .next u.settleBoot ∧ (u.bundle r b).mode = bdOut) ∧
      (∀ g : Nat, w.verifyFails = some g → ∃ u : State, exec (.bundleTraining r b w) s = .next u.settleBoot ∧ (u.bundle r b).mode = bdOut)) ∧
    (24 ≤ b → b < 28 → ∃ u : State, exec (.bundleTraining r b w) s = .next u.settleBoot ∧
      u.guest.mode = if s.guest.enable then 0b10#2 else 0b01#2)) ∧
  (∀ (s : State) (r : RegionId) (b : Nat) (beat : Beat), b < 24 → (s.bundle r b).mode = bdInService →
    let x := s.bundle r b
    (∀ e : Nat, beatFails beat = false → exec (.controlEntryFail ⟨r, b⟩ ⟨beat, e⟩) s = .next s) ∧
    (∀ e : Nat, beatFails beat = true → tGet 0 x.ctlFails e + 1 < 8 → ∃ t, exec (.controlEntryFail ⟨r, b⟩ ⟨beat, e⟩) s = .next t ∧
      (t.bundle r b).ctlFails = tSet x.ctlFails e (tGet 0 x.ctlFails e + 1) ∧
      (t.region r).ctlResend = inc (s.region r).ctlResend ∧ (t.bundle r b).mode = bdInService) ∧
    (∀ e : Nat, beatFails beat = true → 12 ≤ b → 7 ≤ tGet 0 x.ctlFails e → ∃ t, exec (.controlEntryFail ⟨r, b⟩ ⟨beat, e⟩) s = .next t ∧
      (t.bundle r b).mode = bdOut ∧ (t.region r).ctlResend = inc (s.region r).ctlResend) ∧
    (∀ (d : Descriptor) (n : Nat) (u : State), beatFails beat = true → s.onBundle r b (.descriptor d) = true → n ≤ 16 →
      s.arrive (fun i => decide (i = .message d)) = some u → ∃ t, exec (.bundleParityFail r b ⟨beat, .descriptor d⟩ n) s = .next t ∧
      (t.bundle r b).perr = inc x.perr ∧ (t.bundle r b).mode = bdInService ∧
      t.inflight.map Transit.item = u.inflight.map Transit.item ++ [.answer ⟨d.dst, d.src, d.sendSeq, anCrc⟩])) ∧
  (∀ (s : State) (c : Crossing) (n : Nat), s.closed.contains c = false →
    (s.crossingUp c = false → ∃ t, exec (.fifoClose c n) s = .next t ∧ t.closed = s.closed ++ [c] ∧
      t.inflight = discardFirst (·.crosses c) (min n 8) s.inflight ∧
      (∀ b, c = .block b → (t.region b.region).xingDiscard = satAdd (s.region b.region).xingDiscard (min n 8)) ∧
      (c = .hub → t.hub.xingDiscard = satAdd s.hub.xingDiscard (min n 8)) ∧ t.blocks = s.blocks ∧ t.mem = s.mem) ∧
    (s.crossingUp c = true → exec (.fifoClose c n) s = .next s)) ∧
  (∀ (s : State) (c : Crossing), s.closed.contains c = true → s.crossingUp c = true →
    exec (.fifoReopen c) s = .next { s with closed := s.closed.filter fun d => d != c }) ∧
  (∀ (s : State) (r : Running) (m : BitVec 4), s.carries r 0x0611 .all = true →
    exec (.bundleQuery m) s = .next (s.taken.okData r (((maskBits m).flatMap fun q =>
      ((List.range 24).map fun b => (s.bundle (BitVec.ofNat 2 q) b).word) ++ ((List.range 24).map fun b => (s.bundle (BitVec.ofNat 2 q) b).perr) ++
      [(s.region (BitVec.ofNat 2 q)).ctlResend, (s.region (BitVec.ofNat 2 q)).spareMoved, (s.region (BitVec.ofNat 2 q)).xingDiscard]) ++
      [s.hub.xingDiscard, s.guest.fwRefused, s.guest.rateWait])))

/-- With the firewall open, nothing waiting, the bucket holding the request's bytes, its stacks wiped and the guest's credits for the answer: GUEST_READ and GUEST_WRITE of stacked memory of the guest's partition inside a window that grants them, no burst holding an error, are performed and answered OK, the request's credits returning; GUEST_MEMOP with a listed operation goes to the stack controllers; GUEST_SEND of a sound descriptor that a queue entry allows leaves as the hub's own message. With the firewall closed a request is answered refused and counted; without a header credit the answer waits. MBOX_UP joins the guest partition's mail; GUEST_CREDIT adds credits; an unknown packet type counts as refused; TOKEN_BUCKET_REFILL fills the buckets up to their limits. GUEST_RESET closes the firewall, discards what waits and trains the guest bundles; GUEST_MSG of the guest's partition sends the message; GUEST_QUERY returns the site's registers. -/
def Obligations.GuestSiteServes : Prop :=
  (∀ (s : State) (g : GuestReq), let a := g.address.toNat
    let n := 64 * g.beats.toNat
    let paid (u : State) : Prop := u.guest.byteBucket = s.guest.byteBucket - n ∧ u.guest.waiting = []
    (s.guest.opened = true → s.guest.waiting = [] → s.guest.responses = [] → 0 < s.guest.hdrCredits → n ≤ s.guest.byteBucket → s.stacksUp a n = true →
      (s.inWindow g (·.read) = true → inCompanion a n = false → s.allowed s.guest.partition a n = true → s.errorsIn [⟨a, n⟩] = [] →
        g.beats.toNat ≤ s.guest.beatCredits → ∃ t, exec (.guestRead g) s = .next t ∧ paid t ∧ t.mem = s.mem ∧
        t.out = s.out ++ [.guestCredit 1 0, .guest 0x11 g.tag 0 (memRead s.mem a n)]) ∧
      (let bs := g.data.take n
       s.inWindow g (·.write) = true → inCompanion a bs.length = false → s.allowed s.guest.partition a bs.length = true →
        s.errorsIn [⟨a, bs.length⟩] = [] → ∃ t, exec (.guestWrite g) s = .next t ∧ paid t ∧
        t.mem = memWrite s.mem a bs ∧ t.out = s.out ++ [.guestCredit 1 g.beats.toNat, .guest 0x12 g.tag 0 []]) ∧
      (let op := g.opx.extractLsb' 0 8
       let k := guestOpLen op g.beats.toNat
       s.inWindow g (·.memop) = true → (msoUnit op).isSome = true → inCompanion a k = false → k ≠ 0 → ∃ t, exec (.guestMemop g) s = .next t ∧
        paid t ∧ t.msos = s.msos ++
          [⟨op, g.opx.extractLsb' 8 8, g.opx.extractLsb' 16 8, a, 0, none, k, 0, none, some g.tag, g.data, s.guest.partition⟩])) ∧
    (s.guest.opened = false → s.guest.responses = [] → ∃ t, exec (.guestRead g) s = .next t ∧
      t.guest.fwRefused = inc s.guest.fwRefused ∧ t.mem = s.mem ∧
      (0 < s.guest.hdrCredits → t.out = s.out ++ [.guestCredit 1 0, .guest 0x11 g.tag 1 []]) ∧
      (s.guest.hdrCredits = 0 → t.guest.responses = [⟨0x11, g.tag, 1, []⟩] ∧ t.out = s.out ++ [.guestCredit 1 0]))) ∧
  (∀ (s : State) (g : GuestReq) (d : Descriptor) (q : FwQueue), s.guest.opened = true → s.guest.waiting = [] → s.sendEntry d = some q →
    d.crc = descCrc d → d.relay = false → 0 < s.guest.descBucket →
    ∃ t, exec (.guestSend g d) s = .next t ∧ t.hubSeq = s.hubSeq + 1 ∧ t.guest.descBucket = s.guest.descBucket - 1 ∧
      t.inflight.map Transit.item = s.inflight.map Transit.item ++
        [.message (descSeal { d with src := q.replyTo, epoch := s.epoch, sendSeq := s.hubSeq })]) ∧
  (∀ (s : State) (data : List Byte), let p := s.guest.partition
    let u := s.emit (.guestCredit 1 1)
    s.guest.opened = true → exec (.mboxUp data) s =
      .next ((u.setPart p { s.part p with mbox := (s.part p).mbox ++ [(padTo 64 (data.take 64), false)] }).pumpEvt p)) ∧
  (∀ (s : State) (h k : BitVec 16), s.guest.responses = [] → exec (.guestCredit h k) s = .next { s with guest := { s.guest with
    hdrCredits := s.guest.hdrCredits + h.toNat, beatCredits := s.guest.beatCredits + k.toNat } }) ∧
  (∀ (s : State) (k : BitVec 8), (k = 0 ∨ 6 < k.toNat) →
    exec (.guestUnknownPacket k) s = .next { s with guest := { s.guest with fwRefused := inc s.guest.fwRefused } }) ∧
  (∀ (s : State) (n k : Nat) (w : Bool), s.guest.waiting = [] → exec (.tokenBucketRefill ⟨n, k⟩ w) s = .next { s with guest := { s.guest with
    byteBucket := min (s.guest.byteBucket + n) (s.guest.rate.burstKib.toNat * 1024), descBucket := min (s.guest.descBucket + k) 64
    refusedInWindow := s.guest.refusedInWindow && !w } }) ∧
  (∀ (s : State) (r : Running),
    (∀ n : Nat, s.carries r 0x0711 .package = true → s.guest.present = true → ∃ u : State, exec (.guestReset n) s = .next (u.ok r) ∧
      u.guest.mode = 1 ∧ u.guest.waiting = [] ∧ u.guest.reads = [] ∧ u.guest.responses = [] ∧ u.guest.hdrCredits = 0 ∧ u.guest.beatCredits = 0 ∧
      (∀ b, 24 ≤ b → b < 28 → (u.bundle 0 b).mode = bdTraining) ∧
      u.hub.xingDiscard = satAdd s.hub.xingDiscard (s.guest.waiting.length + s.guest.responses.length + n) ∧ u.mem = s.mem) ∧
    (∀ data : List Byte, s.carries r 0x0712 .own = true → r.part = s.guest.partition → s.guest.opened = true →
      exec (.guestMsg data) s = .next ((s.taken.toGuest ⟨0x15, 0, 0, padTo 64 (data.take 64)⟩).ok r)) ∧
    (s.carries r 0x0713 .all = true → ∃ rest : List Word, rest.length = 101 ∧
      exec .guestQuery s = .next (s.taken.okData r (s.guest.ctlWord :: rest))))

/-- A command of the companion takes its packet off the Sceolink buffer when it lies there. C_RD and C_WR of a window register read or write it; of a line of the shared window they move the line to S or M; a C_RD of any other address is answered REFUSED and counted. A device access to the shared window proceeds, or waits for a snoop of a line that the companion may hold; SNP_ACK writes the returned line, then lets the access proceed. CSNP_INV drops the line and is answered. RD_DATA hands its data to the LD that waits, WR_ACK ends a write, an unknown packet is counted. A REMOUNT REQ is accepted or refused; ACCEPT makes the transmitter send SWITCH and take the new map; REFUSE ends the exchange; SWITCH makes the receiver take the new map; TIMEOUT sends REQ again or, after 8 attempts, gives up. Each record comes after its flit's ack fields. A window of corrected symbols is counted, and a lane over the limit for the third time is moved to a spare. -/
def Obligations.CompanionAccesses : Prop :=
  (∀ (s : State) (tag : BitVec 16) (off : Nat), off < 0x1000 → off % 8 = 0 →
    (let u := s.fromScl .request 0x20
     exec (.cRd (BitVec.ofNat 48 (windowBase + off)) 8 tag) s = .next (u.toScl (.dData tag .ok (leBytes 8 (u.deviceRead off).toNat))) ∧
     (∀ p : PartId, exec (.cRd (BitVec.ofNat 48 (windowBase + 0x1000 * (p.toNat + 1) + off)) 8 tag) s =
       .next (u.toScl (.dData tag .ok (leBytes 8 (u.windowRead p off).toNat))))) ∧
    (∀ data : List Byte, data.length = 8 → let u := s.fromScl .request 0x21
      exec (.cWr (BitVec.ofNat 48 (windowBase + off)) data) s = .next (u.deviceWrite off (BitVec.ofNat 64 (leNat data))) ∧
      (∀ p : PartId, exec (.cWr (BitVec.ofNat 48 (windowBase + 0x1000 * (p.toNat + 1) + off)) data) s =
        .next (u.windowWrite p off (BitVec.ofNat 64 (leNat data)))))) ∧
  (∀ (s : State) (a : Addr) (tag : BitVec 16), a.toNat % 64 = 0 →
    (s.inShared a.toNat 64 = true →
      exec (.cRd a 64 tag) s = .next (((s.fromScl .request 0x20).setLine a.toNat (some .s)).toScl (.dData tag .ok (memRead s.mem a.toNat 64))) ∧
      (∀ data : List Byte, data.length = 64 → s.errorsIn [⟨a.toNat, 64⟩] = [] → let u := s.fromScl .request 0x21
        exec (.cWr a data) s = .next (({ u with mem := memWrite s.mem a.toNat data } : State).setLine a.toNat (some .m)))) ∧
    (s.inShared a.toNat 64 = false → exec (.cRd a 64 tag) s =
      .next (((s.fromScl .request 0x20).setScl fun t => { t with cRefused := inc t.cRefused }).toScl (.dData tag .refused [])))) ∧
  (∀ (s : State) (a : Addr) (w : Option (List Byte)), s.inShared a.toNat (max 1 (w.getD []).length) = true →
    (s.lineState a.toNat = none → s.errorsIn [⟨a.toNat, (w.getD []).length⟩] = [] → exec (.sharedWindowAccess a w) s =
      .next (match w with | some bs => { s with mem := memWrite s.mem a.toNat bs } | none => s)) ∧
    (s.lineState a.toNat = some .m → s.scl.snoops = [] → ∃ t, exec (.sharedWindowAccess a w) s = .next t ∧ t.scl.snoops = [⟨a, w⟩] ∧
      t.scl.snoopCount = inc s.scl.snoopCount ∧ t.mem = s.mem)) ∧
  (∀ (s : State) (a : Addr) (bs ds : List Byte), s.scl.snoops = [⟨a, some ds⟩] → s.bursts = [] → let u := s.fromScl .bypass 0x31
    exec (.snpAck a (some bs)) s = .next ((({ u with
      mem := memWrite (memWrite s.mem (a.toNat / 64 * 64) (bs.take 64)) a.toNat ds } : State).setLine a.toNat none).setScl fun t =>
        { t with snoops := [] })) ∧
  (∀ (s : State) (l : BitVec 47), exec (.csnpInv l) s =
    .next (((s.fromScl .bypass 0x32).setScl fun t => { t with lineCache := t.lineCache.filter (· != l) }).toScl (.csnpAck l))) ∧
  (∀ (s : State) (r : RdDataMsg) (q : CompanionReq) (b : BlockId), s.scl.reqs.find? (isRead r.stream r.tag) = some q → q.use = .ld b →
    r.status = .ok → r.data.length = q.len → s.fl.exports = [] →
    exec (.rdData r) s = .next (((s.fromScl .response 0x18).setScl fun t => { t with reqs := answered r.stream r.tag t.reqs }).setBlock b
      { s.block b with ldData := r.data })) ∧
  (∀ (s : State) (q : CompanionReq) (rest : List CompanionReq) (p : PartId), s.scl.reqs = q :: rest → q.stream = 269 → q.data ≠ [] → q.use = .report p →
    exec (.wrAck q.tag) s = .next ((s.fromScl .response 0x19).setScl fun t => { t with reqs := rest })) ∧
  (∀ (s : State) (k : BitVec 8) (tag : BitVec 16), k ≠ 0x20 →
    exec (.sceolinkPacketDrop k tag) s = .next ((s.fromScl .request k).setScl fun t => { t with kindDrop := inc t.kindDrop })) ∧
  (∀ (s : State) (ack : FlitAck) (r : RemountRec), let u := s.takeFlitAck sclLink ack
    r.dir = .tx → u.scl.remountTx = none →
    ((u.link sclLink).trainedLanes.getLsbD r.physTo.toNat = true → (u.link sclLink).isUp = true → exec (.remountReq ack r) s =
      .next ((u.setScl fun t => { t with remountTx := some ⟨r, 1, true⟩ }).sendRecs sclLink [.remount 2 r])) ∧
    (((u.link sclLink).trainedLanes.getLsbD r.physTo.toNat && (u.link sclLink).isUp) = false →
      exec (.remountReq ack r) s = .next (u.sendRecs sclLink [.remount 3 r]))) ∧
  (∀ (s : State) (ack : FlitAck) (m : Remount), let u := s.takeFlitAck sclLink ack
    (u.scl.remountTx = some m → (u.link sclLink).isUp = true → ∃ t, exec (.remountAccept .tx ⟨ack, m.msg.cmd⟩) s = .next t ∧
      t.out = (u.sendRecs sclLink [.remount 4 m.msg]).out ∧ t.scl.mapTx = laneMove u.scl.mapTx m.msg ∧ t.scl.remountTx = none ∧
      t.scl.remounts = inc u.scl.remounts) ∧
    (u.scl.remountRx = some m → (u.link sclLink).isUp = true →
      exec (.remountAccept .rx ⟨ack, m.msg.cmd⟩) s = .next (u.setScl fun t => { t with remountRx := some { m with accepted := true } }) ∧
      (m.accepted = true → exec (.remountSwitch .rx ⟨ack, m.msg.cmd⟩) s = .next
        ((((u.setScl fun t => { t with mapRx := laneMove t.mapRx m.msg, remountRx := none }).countSpares.remounted m.msg).fixLanes)))) ∧
    (∀ d : SclDir, u.scl.remount d = some m → exec (.remountRefuse d ⟨ack, m.msg.cmd⟩) s = .next (u.setScl fun t => t.setRemount d none))) ∧
  (∀ (s : State) (d : SclDir) (m : Remount), s.scl.remount d = some m → m.accepted = false →
    (m.attempts < 8 → exec (.remountTimeout d) s =
      .next ((s.setScl fun t => t.setRemount d (some { m with attempts := m.attempts + 1 })).sendRecs sclLink [.remount 1 m.msg])) ∧
    (8 ≤ m.attempts → exec (.remountTimeout d) s = .next (s.setScl fun t => t.setRemount d none))) ∧
  (∀ (s : State) (counts : List Nat), let x := s.link sclLink
    let over_ := overLanes x counts
    x.isUp = true → x.cfg.autoExclude = true →
    (x.excluded = 0 → s.scl.remountRx = none → x.changing = false →
      (∀ i : Nat, i < s.scl.widthRx.toNat → tGet 0 over_ (laneAt s.scl.mapRx i) < 3) → exec (.sceolinkLaneWindow .rx counts) s =
      .next (s.setLink sclLink { x with
        laneOver := over_, counters := { x.counters with fecCorr := satAdd x.counters.fecCorr counts.sum } })) ∧
    (0 < s.scl.widthRx.toNat → 3 ≤ tGet 0 over_ (laneAt s.scl.mapRx 0) → s.scl.remountRx = none → x.changing = false →
      (let c := putBit x.excluded (laneAt s.scl.mapRx 0) true
       (∀ i : Nat, i < s.scl.widthRx.toNat → i ≠ 0 → tGet 0 over_ (laneAt s.scl.mapRx i) < 3) → laneAt s.scl.mapRx 0 < 18 →
       spareLanes (x.trainedLanes &&& ~~~c) s.scl.mapRx s.scl.widthRx.toNat ≠ [] →
       ∃ (t : State) (m : Remount), exec (.sceolinkLaneWindow .rx counts) s = .next t ∧ t.scl.remountRx = some m ∧ m.msg.logical = 0 ∧
        m.msg.dir = .rx ∧ m.attempts = 1 ∧ m.msg.physFrom = BitVec.ofNat 5 (laneAt s.scl.mapRx 0) ∧
        (t.link sclLink).excluded = c)))

/-- SCL_ATTACH_NEW with the next number in NONE or DETACHED attaches, unparks every ring and discards every draft; any other number is refused with attach_err. SCL_ATTACH_RESUME of the same number attaches a session that a heartbeat expiry held. SCL_ATTACH_DETACH enters DETACHED at once when nothing is unsent or unacknowledged, else it waits. A heartbeat write changes nothing but the timing; HEARTBEAT_EXPIRY holds an attached session. SESSION_FLUSH of a held session detaches it and empties the line cache and the directory. FMP_BOOT_IMAGE_WRITE while the boot waits for the image starts its reads. SCL_REMOUNT opens an exchange to a spare lane, and SCL_QUERY returns the registers of Tables 12.9 to 12.13 with the counters. SESSION_FLUSH with an IDENT that asks for a fresh start of the trained link makes it, and flushes. -/
def Obligations.SessionsAttach : Prop :=
  (∀ (s : State) (n : BitVec 32),
    ((s.scl.mode = .none ∨ s.scl.mode = .detached) → n = s.scl.number + 1 → ∃ t, exec (.sclAttachNew n) s = .next t ∧
      t.scl.mode = .attached ∧ t.scl.number = n ∧ t.scl.attachErr = false ∧
      ∀ p : PartId, s.partExists p = true → (t.part p).park = 0 ∧ (t.part p).draft = []) ∧
    (n ≠ s.scl.number + 1 → exec (.sclAttachNew n) s = .next (s.setScl fun t => { t with attachErr := true })) ∧
    (s.scl.mode = .held → s.scl.heldByHeartbeat = true → (s.link sclLink).isUp = true → n = s.scl.number →
      ∃ t, exec (.sclAttachResume n) s = .next t ∧ t.scl.mode = .attached ∧ t.scl.number = n ∧ t.scl.heldByHeartbeat = false)) ∧
  (∀ s : State, let x := s.link sclLink
    s.scl.mode = .attached →
    (x.replayBuf = [] → x.txBypass = [] → x.txRequest = [] → x.txResponse = [] →
      exec .sclAttachDetach s = .next (s.setScl fun t => { t with mode := .detached, detaching := false })) ∧
    (x.replayBuf ≠ [] → exec .sclAttachDetach s = .next (s.setScl fun t => { t with detaching := true }))) ∧
  (∀ (s : State) (v : Word), exec (.sclHeartbeatWrite v) s = .next s) ∧
  (∀ s : State, s.scl.heartbeatMs ≠ 0 → s.scl.mode = .attached →
    exec .heartbeatExpiry s = .next (s.setScl fun t => { t with mode := .held, heldByHeartbeat := true })) ∧
  (∀ s : State, s.scl.mode = .held → let x := s.link sclLink
    (∃ t, exec (.sessionFlush none) s = .next t ∧ t.scl.mode = .detached ∧ t.scl.lineCache = [] ∧
      t.scl.directory = [] ∧ t.scl.snoops = [] ∧ t.scl.remountTx = none ∧ t.scl.remountRx = none) ∧
    (∀ i : IdentRec, x.trains = true → x.trained = true → x.resuming = false → x.asksFresh i = true →
      exec (.sessionFlush (some i)) s = .next (s.startFresh sclLink i))) ∧
  (∀ (s : State) (v : Word), s.reset_.active = true → s.reset_.bootStage = 0x04 → s.reset_.strap.getLsbD 3 = false → v.getLsbD 63 = true →
    ∃ t, exec (.fmpBootImageWrite v) s = .next t ∧ t.reset_ = { s.reset_ with bootImage := v } ∧ t.mem = s.mem ∧
      t.scl.reqs.length = s.scl.reqs.length + (pieces ((v.extractLsb' 12 36).toNat * 4096) ((v.extractLsb' 48 10).toNat * 4096)).length) ∧
  (∀ (s : State) (r : Running),
    (∀ (d : SclDir) (i : BitVec 4) (j : Nat), s.carries r 0x0411 .package = true → i.toNat < s.scl.width d →
      (s.spareLanesOf d).head? = some j → s.scl.remount d = none → (s.link sclLink).isUp = true →
      exec (.sclRemount d i) s = .next ((s.taken.openRemount d i.toNat (laneAt (s.scl.map d) i.toNat) j 0).ok r)) ∧
    (s.carries r 0x0412 .all = true → ∃ rest : List Word, rest.length = 31 ∧
      exec .sclQuery s = .next (s.taken.okData r (s.sclCfgWord :: rest))))

/-- A head or tail write within the ring's size takes effect (a doorbell unparks the ring; a head lets records that wait be written); one that breaks R329 sets head_err, which HEAD_ERR_CLEAR clears. COMMAND_RECORD_READ of the ring whose turn it is moves the head past a valid record, which becomes the current command; a PAD is skipped; an invalid record is counted and left for a re-read; a record that the ring cannot hold parks the ring with TOO_LONG. RING_REREAD does the same and parks the ring stale at the 64th. UNKNOWN completes an opcode outside Table 13.13 with UNKNOWN. DEVICE_RECORD_ACK moves the tail of the completion or event ring past the record. -/
def Obligations.RingsAreServed : Prop :=
  (∀ (s : State) (p : PartId) (v : Word), s.partExists p = true → let x := s.part p
    let cmdR : RingRegs := { x.cmdRing with tail := countOf v }
    let cplR : RingRegs := { x.cplRing with head := countOf v }
    let evtR : RingRegs := { x.evtRing with head := countOf v }
    (headBad cmdR = false → exec (.fmpPCmdTailWrite p v) s = .next (s.setPart p { x with cmdRing := cmdR, park := 0, rereads := 0 })) ∧
    (headBad cmdR = true → exec (.fmpPCmdTailWrite p v) s = .next (s.setPart p { x with headErr := true })) ∧
    (headBad cplR = false → exec (.fmpPCplHeadWrite p v) s = .next ((s.setPart p { x with cplRing := cplR }).pumpCpl p)) ∧
    (headBad cplR = true → exec (.fmpPCplHeadWrite p v) s = .next ((s.setPart p { x with headErr := true }).pumpCpl p)) ∧
    (headBad evtR = false → exec (.fmpPEvtHeadWrite p v) s = .next ((s.setPart p { x with evtRing := evtR }).pumpEvt p)) ∧
    (headBad evtR = true → exec (.fmpPEvtHeadWrite p v) s = .next ((s.setPart p { x with headErr := true }).pumpEvt p)) ∧
    exec (.headErrClear p v) s = .next (if v.getLsbD 7 then s.setPart p { x with headErr := false } else s)) ∧
  (∀ (s : State) (p : PartId) (h : CmdHeader), let x := s.part p
    s.readsRings = true → s.fl.current = none →
    (s.turn = some p → tooLong x.cmdRing h.units.toNat = false →
      (h.seqOk = true → h.crcOk = true → h.opcode ≠ 0 → s.bgFull p h.opcode = false →
        ∃ t, exec (.commandRecordRead p h) s = .next t ∧ t.fl.current = some ⟨p, h, x.cmdRing.head⟩ ∧ t.fl.lastTurn = p ∧
          t.part p = { x with cmdRing := x.cmdRing.take h.units.toNat, rereads := 0 }) ∧
      (h.seqOk = true → h.crcOk = true → h.opcode = 0 →
        ∃ t, exec (.commandRecordRead p h) s = .next t ∧ t.fl.current = none ∧ t.fl.lastTurn = p ∧
          t.part p = { x with cmdRing := x.cmdRing.take h.units.toNat, rereads := 0 }) ∧
      ((h.seqOk && h.crcOk) = false → ∃ t, exec (.commandRecordRead p h) s = .next t ∧ t.fl.current = none ∧ t.part p = { x with rereads := 1 } ∧
        t.scl.ringReread = inc s.scl.ringReread)) ∧
    (s.turn = some p → h.seqOk = true → tooLong x.cmdRing h.units.toNat = true →
      ∃ t, exec (.commandRecordRead p h) s = .next t ∧ (t.part p).park = 2 ∧ (t.part p).cmdRing = x.cmdRing ∧ t.fl.current = none) ∧
    (s.ringReady p = true → 0 < x.rereads → tooLong x.cmdRing h.units.toNat = false →
      (h.seqOk = true → h.crcOk = true → h.opcode ≠ 0 → s.bgFull p h.opcode = false →
        ∃ t, exec (.ringReread p h) s = .next t ∧ t.fl.current = some ⟨p, h, x.cmdRing.head⟩ ∧
          t.part p = { x with cmdRing := x.cmdRing.take h.units.toNat, rereads := 0 }) ∧
      (h.crcOk = false → x.rereads < 64 → ∃ t, exec (.ringReread p h) s = .next t ∧ t.part p = { x with rereads := x.rereads + 1 } ∧
        t.scl.ringReread = inc s.scl.ringReread) ∧
      (h.crcOk = false → 64 ≤ x.rereads → ∃ t, exec (.ringReread p h) s = .next t ∧ t.part p = { x with park := 1, rereads := 0 } ∧
        t.scl.ringStale = inc s.scl.ringStale))) ∧
  (∀ (s : State) (r : Running), s.fl.current = some r → listedOpcodes.contains r.hdr.opcode = false →
    exec .unknown s = .next (s.taken.cmdDone r cdUnknown 0 0 [])) ∧
  (∀ (s : State) (p : PartId), let x := s.part p
    s.scl.mode = .attached →
    (∀ (r : StoredRecord) (rest : List StoredRecord), x.records = r :: rest → r.writing = true → s.reset_.pendingReset = none →
      ∃ t, exec (.deviceRecordAck p false) s = .next t ∧ (t.part p).cplRing = ringPut x.cplRing (recordUnits r.record) ∧
        (t.part p).records.length = rest.length) ∧
    (x.errs.any (·.writing) = true → x.mbox = [] → ∃ t, exec (.deviceRecordAck p true) s = .next t ∧
      (t.part p).evtRing = ringPut x.evtRing 1))

/-- EVENT_RAISE takes the oldest event: one of a masked code is only counted; any other gets an entry of the error table under its code; a CRIMSON fails its partition. COMPLETION_COLLECT moves one entry from the next region's FIFO to its partition. GROUP_DONE_WRITE with 16 pending entries, and COALESCING_WAIT_EXPIRY with any, put up to 16 of them into one record. COMPLETION_HOLD counts the cycles of a held partition. REPORT_INTERVAL_END samples the counters into a 64-byte record and moves the sequence. -/
def Obligations.CompletionsAndReports : Prop :=
  (∀ (s : State) (e : EventReq) (rest : List EventReq), s.events = e :: rest → let x := s.part e.partition
    let c := eventClass e.code
    ((c = clsGrey ∨ c = clsAmber) → x.mask.contains e.code = true → exec .eventRaise s = .next (({ s with events := rest } : State).setPart e.partition
      { x.countClass c with masked := inc x.masked })) ∧
    (c ≠ clsCrimson → ((c = clsGrey ∨ c = clsAmber) → x.mask.contains e.code = false) → s.generalUsed < 928 →
      ∃ t, exec .eventRaise s = .next t ∧ t.events = rest ∧
        ((t.part e.partition).errs.any fun y => y.record.code == e.code && y.record.unit == e.unit) = true ∧
        (t.part e.partition).umber = if c = clsUmber then inc x.umber else x.umber) ∧
    (c = clsCrimson → x.mode = pRunning → ∃ t, exec .eventRaise s = .next t ∧ (t.part e.partition).mode = pFailed ∧
      (t.part e.partition).crimson = inc x.crimson)) ∧
  (∀ (s : State) (r : RegionId) (e : CplEntry) (rest : List CplEntry),
    (collectOrder s.collectNext).find? (fun q => !(s.region q).fifo.isEmpty) = some r → (s.region r).fifo = e :: rest →
    ∃ t, exec .completionCollect s = .next t ∧ t.collectNext = r + 1 ∧ (t.region r).fifo = rest ∧
      (t.part (s.ownerOr0 e.block)).pendingCpl = (s.part (s.ownerOr0 e.block)).pendingCpl ++ [e]) ∧
  (∀ (s : State) (p : PartId), let x := s.part p
    let done : Res := .next ((s.setPart p { x with pendingCpl := x.pendingCpl.drop 16 }).storeRecord p (.groupDone (x.pendingCpl.take 16)))
    (16 ≤ x.pendingCpl.length → exec (.groupDoneWrite p) s = done) ∧
    (x.pendingCpl ≠ [] → x.mode ≠ pRunning → exec (.groupDoneWrite p) s = done) ∧
    (x.pendingCpl ≠ [] → exec (.coalescingWaitExpiry p) s = done) ∧
    (x.pendingCpl = [] → exec (.groupDoneWrite p) s = .next s ∧ exec (.coalescingWaitExpiry p) s = .next s)) ∧
  (∀ (s : State) (p : PartId) (n : Word), let x := s.part p
    x.held = true → ∃ t, exec (.completionHold p n) s = .next t ∧ (t.part p).cplHold = satAdd x.cplHold n.toNat ∧
      (t.part p).held = decide (64 + 7 * (s.partBlocks p).length ≤ x.stored)) ∧
  (∀ (s : State) (p : PartId), let x := s.part p
    s.partExists p = true → x.report.intervalMs ≠ 0 → s.faults.status.getLsbD 4 = false →
    ∃ t, exec (.reportIntervalEnd p) s = .next t ∧ (t.part p).reportSeq = x.reportSeq + 1 ∧ (t.part p).lastReport.length = 64 ∧
      (t.part p).sampledGroups = s.sumBlocks p (·.grpCount) ∧ (t.part p).sampledMeas = s.sumBlocks p (·.grpMeas) ∧
      (t.part p).sampledEst = s.sumBlocks p (·.grpEst) ∧ t.mem = s.mem ∧ t.blocks = s.blocks)

/-- When Flapino carries a D command whose scope and epoch pass, that its table does not refuse against the settings as the rest of the draft would leave them, and that fits in the draft, the command takes the place of the draft's command for the same object, or the draft's end, and completes OK with the flag staged. No setting changes before the Cinch. -/
def Obligations.DraftCommandsStage : Prop :=
  ∀ (s : State) (r : Running),
    (∀ x : PartCreateP, s.acceptsDraft r 0x0101 .package (.partCreate x) = true → exec (.partCreate x) s = .next (s.drafted r 0x0101 .package (.partCreate x))) ∧
    (∀ i : BitVec 8, s.acceptsDraft r 0x0102 .package (.partDestroy i) = true → exec (.partDestroy i) s = .next (s.drafted r 0x0102 .package (.partDestroy i))) ∧
    (∀ (i : BitVec 8) (m : BitVec 64), s.acceptsDraft r 0x0103 .package (.partQuads i m) = true → exec (.partQuads i m) s = .next (s.drafted r 0x0103 .package (.partQuads i m))) ∧
    (∀ x : PartMemP, s.acceptsDraft r 0x0104 .package (.partMem x) = true → exec (.partMem x) s = .next (s.drafted r 0x0104 .package (.partMem x))) ∧
    (∀ m : BitVec 2, s.acceptsDraft r 0x0105 .own (.partCheckMode m) = true → exec (.partCheckMode m) s = .next (s.drafted r 0x0105 .own (.partCheckMode m))) ∧
    (∀ x : ReportP, s.acceptsDraft r 0x010E .own (.reportSet x) = true → exec (.reportSet x) s = .next (s.drafted r 0x010E .own (.reportSet x))) ∧
    (∀ x : StageP, s.acceptsDraft r 0x0201 (.names x.partition) (.stageSet x) = true → exec (.stageSet x) s = .next (s.drafted r 0x0201 (.names x.partition) (.stageSet x))) ∧
    (∀ i : BitVec 8, s.acceptsDraft r 0x0202 (s.stageScope i) (.stageClear i) = true → exec (.stageClear i) s = .next (s.drafted r 0x0202 (s.stageScope i) (.stageClear i))) ∧
    (∀ x : QueueConfigP, s.acceptsDraft r 0x0230 (.names x.partition) (.queueConfig x) = true → exec (.queueConfig x) s = .next (s.drafted r 0x0230 (.names x.partition) (.queueConfig x))) ∧
    (∀ (i : BitVec 8) (l : Addr) (n : BitVec 13), s.acceptsDraft r 0x0240 .own (.collGroupSet i l n) = true → exec (.collGroupSet i l n) s = .next (s.drafted r 0x0240 .own (.collGroupSet i l n))) ∧
    (∀ (i : BitVec 16) (x : PlanEntry), s.acceptsDraft r 0x0241 (.names x.partition) (.collPlanSet i x) = true → exec (.collPlanSet i x) s = .next (s.drafted r 0x0241 (.names x.partition) (.collPlanSet i x))) ∧
    (∀ i : BitVec 16, s.acceptsDraft r 0x0242 (s.planScope i) (.collPlanClear i) = true → exec (.collPlanClear i) s = .next (s.drafted r 0x0242 (s.planScope i) (.collPlanClear i))) ∧
    (∀ (j : BitVec 16) (g : BitVec 8) (a : Addr) (n : BitVec 32), s.acceptsDraft r 0x0243 .own (.collJobSet j g a n) = true → exec (.collJobSet j g a n) s = .next (s.drafted r 0x0243 .own (.collJobSet j g a n))) ∧
    (∀ (q : RegionId) (i : BitVec 8) (x : Sys2Proof.TaskEntry), s.acceptsDraft r 0x0250 (.names x.partition) (.updTaskSet q i x) = true → exec (.updTaskSet q i x) s = .next (s.drafted r 0x0250 (.names x.partition) (.updTaskSet q i x))) ∧
    (∀ (q : RegionId) (i : BitVec 8), s.acceptsDraft r 0x0251 (s.taskScope q i.toNat) (.updTaskClear q i) = true → exec (.updTaskClear q i) s = .next (s.drafted r 0x0251 (s.taskScope q i.toNat) (.updTaskClear q i))) ∧
    (∀ (q : RegionId) (i : BitVec 5) (w : BitVec 512), s.acceptsDraft r 0x0252 .own (.updParamSet q i w) = true → exec (.updParamSet q i w) s = .next (s.drafted r 0x0252 .own (.updParamSet q i w))) ∧
    (∀ (q : RegionId) (i : BitVec 8) (g : List SchedSeg), s.acceptsDraft r 0x0253 .own (.updSchedSet q i g) = true → exec (.updSchedSet q i g) s = .next (s.drafted r 0x0253 .own (.updSchedSet q i g))) ∧
    (∀ (p : PartId) (i n : BitVec 16) (a : Bool), s.acceptsDraft r 0x0301 (.names p) (.memClassSet p i n a) = true → exec (.memClassSet p i n a) s = .next (s.drafted r 0x0301 (.names p) (.memClassSet p i n a))) ∧
    (∀ x : LinkConfigP, s.acceptsDraft r 0x0401 .package (.linkConfig x) = true → exec (.linkConfig x) s = .next (s.drafted r 0x0401 .package (.linkConfig x))) ∧
    (∀ (i : BitVec 16) (n : BitVec 32) (a : Addr), s.acceptsDraft r 0x0402 .package (.linkRouteSet i n a) = true → exec (.linkRouteSet i n a) s = .next (s.drafted r 0x0402 .package (.linkRouteSet i n a))) ∧
    (∀ (d : BitVec 16) (h : BitVec 8), s.acceptsDraft r 0x0403 .package (.linkIdSet d h) = true → exec (.linkIdSet d h) s = .next (s.drafted r 0x0403 .package (.linkIdSet d h))) ∧
    (∀ x : SclConfigP, s.acceptsDraft r 0x0410 .package (.sclConfig x) = true → exec (.sclConfig x) s = .next (s.drafted r 0x0410 .package (.sclConfig x))) ∧
    (∀ l : List (BitVec 16), s.acceptsDraft r 0x0602 .own (.eventMaskSet l) = true → exec (.eventMaskSet l) s = .next (s.drafted r 0x0602 .own (.eventMaskSet l))) ∧
    (∀ x : PowerLimitP, s.acceptsDraft r 0x0604 .package (.powerLimitSet x) = true → exec (.powerLimitSet x) s = .next (s.drafted r 0x0604 .package (.powerLimitSet x))) ∧
    (∀ x : GuestFwP, s.acceptsDraft r 0x0710 .package (.guestFwSet x) = true → exec (.guestFwSet x) s = .next (s.drafted r 0x0710 .package (.guestFwSet x))) ∧
    (∀ x : ExportP, s.acceptsDraft r 0x0801 (.names x.partition) (.exportSet x) = true → exec (.exportSet x) s = .next (s.drafted r 0x0801 (.names x.partition) (.exportSet x))) ∧
    (∀ x : BatchP, s.acceptsDraft r 0x0905 .own (.batchSet x) = true → exec (.batchSet x) s = .next (s.drafted r 0x0905 .own (.batchSet x)))

/-- A D command with a field out of range is REJECTED with FIELD, one that its object's state forbids with STATE, and one that the draft has no room for with DRAFT_FULL; the draft stays as it was. CHECK answers OK for a draft without conflicts, else REJECTED with the list of conflicts; it changes no setting. DRAFT_DISCARD empties the draft. DRAFT_QUERY returns the opcode, tag and index of each command. -/
def Obligations.DraftsAreChecked : Prop :=
  ∀ (s : State) (r : Running), let full (d : DraftCmd) : Prop := draftBig (putDraft (s.part r.part).draft d) = true
    let refused (k : BitVec 8) : Res := .next (s.taken.rejected r k)
    (s.carries r 0x0101 .package = true → ∀ x : PartCreateP, (x.index = 0 ∨ 31 < x.index.toNat) → exec (.partCreate x) s = refused rsField) ∧
    (s.carries r 0x0101 .package = true → ∀ x : PartCreateP, x.index ≠ 0 → x.index.toNat ≤ 31 →
      (s.draftMet r (.partCreate x)).partExists (x.index.setWidth 5) = true → exec (.partCreate x) s = refused rsState) ∧
    (s.carries r 0x0102 .package = true → ∀ i : BitVec 8, i ≠ 0 → i.toNat ≤ 31 →
      ((s.draftMet r (.partDestroy i)).part (i.setWidth 5)).mode = pRunning → exec (.partDestroy i) s = refused rsState) ∧
    (s.carries r 0x0103 .package = true → ∀ (i : BitVec 8) (m : BitVec 64), 31 < i.toNat → exec (.partQuads i m) s = refused rsField) ∧
    (s.carries r 0x0104 .package = true → ∀ x : PartMemP, 31 < x.index.toNat → exec (.partMem x) s = refused rsField) ∧
    (s.carries r 0x0105 .own = true → exec (.partCheckMode 3) s = refused rsField) ∧
    (s.carries r 0x010E .own = true → ∀ x : ReportP, 10000 < x.intervalMs.toNat → exec (.reportSet x) s = refused rsField) ∧
    (∀ x : StageP, s.carries r 0x0201 (.names x.partition) = true → (x.fwdQ = x.bwdQ ∨ x.budget = 0) → exec (.stageSet x) s = refused rsField) ∧
    (∀ x : QueueConfigP, s.carries r 0x0230 (.names x.partition) = true → x.depths.length ≠ 128 → exec (.queueConfig x) s = refused rsField) ∧
    (∀ (i : BitVec 8) (a : Addr), s.carries r 0x0240 .own = true → exec (.collGroupSet i a 0) s = refused rsField) ∧
    (∀ (i : BitVec 16) (x : PlanEntry), s.carries r 0x0241 (.names x.partition) = true → x.elements.toNat % 256 ≠ 0 →
      exec (.collPlanSet i x) s = refused rsField) ∧
    (∀ (q : RegionId) (i : BitVec 8) (x : Sys2Proof.TaskEntry), s.carries r 0x0250 (.names x.partition) = true → x.gFirst.toNat % 256 ≠ 0 →
      exec (.updTaskSet q i x) s = refused rsField) ∧
    (∀ (p : PartId) (i n : BitVec 16) (a : Bool), s.carries r 0x0301 (.names p) = true → 432 < i.toNat + n.toNat →
      exec (.memClassSet p i n a) s = refused rsField) ∧
    (∀ x : LinkConfigP, s.carries r 0x0401 .package = true → x.graceMs = 0 → exec (.linkConfig x) s = refused rsField) ∧
    (∀ d : BitVec 16, s.carries r 0x0403 .package = true → exec (.linkIdSet d 0) s = refused rsField) ∧
    (∀ x : SclConfigP, s.carries r 0x0410 .package = true → 1000 < x.graceMs.toNat → exec (.sclConfig x) s = refused rsField) ∧
    (∀ (l : List (BitVec 16)) (c : BitVec 16), s.carries r 0x0602 .own = true → c ∈ l → (eventClass c = clsUmber ∨ eventClass c = clsCrimson) →
      exec (.eventMaskSet l) s = refused rsField) ∧
    (∀ x : PowerLimitP, s.carries r 0x0604 .package = true → x.sustainedW.toNat < 600 → exec (.powerLimitSet x) s = refused rsField) ∧
    (∀ x : GuestFwP, s.carries r 0x0710 .package = true → s.guest.present = false → exec (.guestFwSet x) s = refused rsState) ∧
    (∀ x : BatchP, s.carries r 0x0905 .own = true → x.batchMin = 0 → exec (.batchSet x) s = refused rsField) ∧
    (∀ (d : BitVec 16) (h : BitVec 8), s.carries r 0x0403 .package = true → h ≠ 0 → full (draftedAs r 0x0403 .package (.linkIdSet d h)) →
      exec (.linkIdSet d h) s = refused rsDraftFull) ∧
    (s.carries r 0x0501 .own = true →
      (s.taken.conflicts (s.part r.part).draft = [] → exec .check s = .next (s.taken.ok r)) ∧
      (s.taken.conflicts (s.part r.part).draft ≠ [] → exec .check s = .next (s.taken.cmdDone r cdRejected rsDraftCheck 0
        (byteWords ((s.taken.conflicts (s.part r.part).draft).flatMap conflictBytes))))) ∧
    (s.carries r 0x0503 .own = true → exec .draftDiscard s = .next ((s.taken.setPart r.part { s.part r.part with draft := [] }).ok r)) ∧
    (s.carries r 0x0504 .own = true → exec .draftQuery s =
      .next (s.taken.okData r ((enum (s.part r.part).draft).map fun e => BitVec.ofNat 16 e.1 ++ e.2.tag ++ e.2.opcode)))

/-- CINCH waits behind another Cinch or a self-update; else a stale epoch, a conflict or an empty draft completes it at once, and any other draft waits for its cut. CUT_START opens the cut with the islands that must prepare. With the last PREPARED the new epoch is the old one plus 1 and every running island must switch. CUT_RECEIVED switches an island: a block takes the epoch, the hub crossbar the device epoch. A marker of a switched island switches the island that receives it. With the last CUT_ACK the cut is over and the draft empty. CUT_TIMEOUT fences what has not acknowledged and ends the cut. -/
def Obligations.CinchSwitchesEveryIsland : Prop :=
  (∀ (s : State) (r : Running), s.fl.current = some r → r.hdr.opcode = 0x0502 →
    let ks := s.taken.conflicts (s.part r.part).draft
    let wait : State := { s with fl := { s.fl with current := none, waitingCinch := s.fl.waitingCinch ++ [⟨r.part, r.hdr, r.seq⟩] } }
    (s.cinchWaits = true → exec .cinch s = .next wait) ∧
    (s.cinchWaits = false → staleHdr r.hdr.epoch (s.part r.part).epoch = true → exec .cinch s = .next (s.taken.cmdDone r cdStale 0 0 [])) ∧
    (s.cinchWaits = false → staleHdr r.hdr.epoch (s.part r.part).epoch = false →
      (ks ≠ [] → exec .cinch s = .next (s.taken.cmdDone r cdRejected rsDraftCheck 0 (byteWords (ks.flatMap conflictBytes)))) ∧
      (ks = [] → (s.part r.part).draft = [] → exec .cinch s = .next (s.taken.ok r)) ∧
      (ks = [] → (s.part r.part).draft ≠ [] → exec .cinch s = .next wait))) ∧
  (∀ (s : State) (w : WaitingCinch) (rest : List WaitingCinch), let cs := (s.part w.part).draft
    s.fl.waitingCinch = w :: rest → s.fl.cut = none → s.fl.fw = .idle → s.flapinoUp = true → staleHdr w.hdr.epoch (s.part w.part).epoch = false →
    ({ s with fl := { s.fl with waitingCinch := rest } } : State).conflicts cs = [] → cs ≠ [] → s.preparing cs ≠ [] →
    exec .cutStart s = .next { s with fl := { s.fl with
      waitingCinch := rest, cut := some ⟨w.part, w.hdr, w.seq, 0, s.preparing cs, false, [], [], []⟩ } }) ∧
  (∀ (s : State) (c : Cut), s.fl.cut = some c →
    (∀ i : Island, c.prepared.contains i = true → c.cutSent = false →
      (c.prepared.filter (fun j => j != i) ≠ [] →
        exec (.prepared i) s = .next (s.putCut { c with prepared := c.prepared.filter fun j => j != i })) ∧
      (c.prepared.filter (fun j => j != i) = [] → ∃ t, exec (.prepared i) s = .next t ∧ t.fl.cut =
        some { c with prepared := [], newEpoch := s.epoch + 1, cutSent := true, unswitched := s.runningIslands, unacked := s.runningIslands })) ∧
    (∀ i : Island, c.cutSent = true → c.unswitched.contains i = true →
      ∃ t, exec (.cutReceived i) s = .next t ∧ t.fl.cut = some { c with unswitched := c.unswitched.filter fun j => j != i } ∧
        (i = .hubCrossbar → t.epoch = c.newEpoch) ∧ (∀ b, i = .block b → (t.block b).epoch = c.newEpoch ∧ t.epoch = s.epoch)) ∧
    (∀ i source : Island, c.cutSent = true → c.unacked.contains i = true → c.unswitched.contains source = false →
      c.markers.contains (i, source) = false → ∃ t, exec (.markerReceived i source) s = .next t ∧ t.fl.cut = some { c with
        markers := c.markers ++ [(i, source)], unswitched := c.unswitched.filter fun j => j != i }) ∧
    (∀ i : Island, c.cutSent = true → c.unacked.contains i = true → c.unswitched.contains i = false →
      (c.unacked.filter (fun j => j != i) ≠ [] → exec (.cutAck i) s = .next (s.putCut { c with unacked := c.unacked.filter fun j => j != i })) ∧
      (c.unacked.filter (fun j => j != i) = [] → ∃ t, exec (.cutAck i) s = .next t ∧ t.fl.cut = none ∧ (t.part c.part).draft = [])) ∧
    (c.cutSent = true → c.unacked ≠ [] → ∃ t, exec .cutTimeout s = .next t ∧ t.fl.cut = none ∧ (t.part c.part).draft = [] ∧
      (∀ b, c.unacked.contains (.block b) = true → (t.block b).fenced = true)))

/-- PROGRAM_START makes the partition RUNNING and starts each named block that is not fenced at the address with s1 kept and s2 on from the payload. BLOCK_RESUME and STALE_BLOCK_RESUME reopen a parked block. PART_DRAIN makes it DRAINING: a block in a group stops at its next GHDR, one in a blocking RECV of the open state at once. DRAIN_TIMEOUT kills the groups still open. PARTITION_DRAINED with the five conditions makes it DRAINED and completes PART_DRAIN. PART_RESUME reopens the stopped blocks; PART_ABORT kills open groups; PART_QUERY returns state and quads first. PART_RESET puts the blocks that are not fenced in reset and wipes the memory when asked. REGION_RESET puts an idle region in reset. -/
def Obligations.PartitionsRunAndDrain : Prop :=
  ∀ (s : State) (r : Running), let p := r.part
    let x := s.part p
    (∀ (mask : BitVec 64) (pc : Addr) (vals : List Word), s.carries r 0x010B .own = true → (x.mode = pCreated ∨ x.mode = pDrained) →
      pc.toNat % 32 = 0 → s.allowed p pc.toNat 32 = true → inCompanion pc.toNat 32 = false → ∃ t, exec (.programStart mask pc vals) s = .next t ∧
        (t.part p).mode = pRunning ∧ t.mem = s.mem ∧ ∀ b ∈ s.maskBlocks p mask, (s.block b).fenced = false →
          (t.block b).pc = pc ∧ (t.block b).running = true ∧ (t.block b).core = .openState ∧ (t.block b).regs = startRegs (s.block b).regs vals) ∧
    (∀ (b : BlockId) (pc : Addr), s.carries r 0x010C .own = true → s.partHas p b = true → (s.block b).core = .parked →
      exec (.blockResume b pc) s = .next ((s.taken.resumeAt b (if pc = 0 then (s.block b).ghdrPc else pc)).ok r)) ∧
    (∀ b : BlockId, s.owner b = some p → x.mode = pRunning → s.flapinoUp = true → (s.block b).core = .parked →
      (s.block b).lastStatus = stStaleConfig → (s.block b).pc = (s.block b).ghdrPc →
      exec (.staleBlockResume b) s = .next (s.resumeAt b (s.block b).pc)) ∧
    (∀ ms : BitVec 32, s.carries r opPartDrain .own = true → ms.toNat ≤ 60000 → x.mode = pRunning → ∃ t, exec (.partDrain ms) s = .next t ∧
      (t.part p).mode = pDraining ∧ (t.part p).drainTimeout = (ms != 0) ∧ t.fl.bg = s.fl.bg ++ [r] ∧
      ∀ b ∈ s.partBlocks p, ((s.block b).core = .inGroup → (t.block b).stopAtGhdr = true) ∧
        (∀ i q d, (s.block b).core = .openState → (s.block b).stall = .recv i q d → (t.block b).core = .stopped)) ∧
    (x.mode = pDraining → x.drainTimeout = true → ∃ t, exec (.drainTimeout p) s = .next t ∧ (t.part p).drainTimeout = false ∧
      (t.part p).mode = pDraining ∧ ∀ b ∈ s.partBlocks p, (s.block b).core = .inGroup → (s.block b).group.isSome = true → (t.block b).group = none) ∧
    (∀ c : Running, x.mode = pDraining → s.isDrained p = true → s.bgOf p opPartDrain = some c →
      exec (.partitionDrained p) s = .next ((((s.setPart p { x with drainTimeout := false }).setPartMode p pDrained).dropBg p opPartDrain).ok c)) ∧
    (s.carries r 0x0107 .own = true → x.mode = pDrained → ∃ t, exec .partResume s = .next t ∧ (t.part p).mode = pRunning ∧
      ∀ b ∈ s.partBlocks p, (s.block b).running = true → (s.block b).core = .stopped → (s.block b).fenced = false → (s.block b).inReset = false →
        (t.block b).core = .openState ∧ (t.block b).pc = (s.block b).pc) ∧
    (s.carries r 0x0108 .own = true → (x.mode = pRunning ∨ x.mode = pDraining) → ∃ t, exec .partAbort s = .next t ∧ (t.part p).mode = pDraining ∧
      ∀ b ∈ s.partBlocks p, (s.block b).core = .inGroup → (s.block b).group.isSome = true → (t.block b).group = none) ∧
    (s.carries r 0x0109 .own = true → ∃ rest : List Word,
      exec .partQuery s = .next (s.taken.okData r (x.mode.setWidth 64 :: x.quads :: rest))) ∧
    (∀ w : Bool, s.carries r opPartReset .own = true → (x.mode = pDrained ∨ x.mode = pFailed) → ∃ t, exec (.partReset w) s = .next t ∧
      (∀ b ∈ s.partBlocks p, (s.block b).fenced = false → (t.block b).inReset = true ∧ (t.part p).mode = pResetting) ∧
      (w = true → ∀ g ∈ x.stacked, ∀ a : Nat, g.base ≤ a → a < g.base + g.len → memByte t.mem a = 0)) ∧
    (∀ q : RegionId, s.carries r opRegionReset .package = true → (s.region q).upd.run = none → (s.region q).upd.queue = [] →
      (∀ k ∈ s.partsOfRegion q, (s.part k).mode ≠ pRunning ∧ (s.part k).mode ≠ pDraining) → ∃ t, exec (.regionReset q) s = .next t ∧
        (t.region q).inReset = true ∧ t.fl.bg = s.fl.bg ++ [r] ∧ tGet false t.reset_.regionBooting q.toNat = true ∧
        (t.region q).fencedQuads = (s.region q).fencedQuads)

/-- SEQ_ADD takes the lowest free entry of the partition's range, waiting, with the next arrival number, and answers the number and the index. SEQ_UPDATE changes the fields that are given. SEQ_REMOVE frees an entry, and the lack of pages is judged anew, or marks one that is listed. SEQ_QUERY returns the entries asked for. WORKLIST_START needs BATCH_SET; WORKLIST_STOP ends the building of lists. MEM_SCRUB_SET sets the interval; MEM_QUERY returns the stacks' words, the wipe status and the refusals. STACK_TEMPERATURE_READ doubles the refresh above 85 and throttles above 95. WIPE_COMPLETE marks a stack wiped and out of self refresh. -/
def Obligations.SequencesAreServed : Prop :=
  (∀ (s : State) (r : Running), let p := r.part
    let x := s.part p
    (∀ (y : SeqAddP) (i : Nat), s.carries r 0x0901 .own = true → x.hasStacked y.kvList.toNat (8 * y.kvPages.toNat) = true →
      (List.range x.seqCount).find? (fun j => !s.seqUsed p j) = some i → x.batch = none →
      exec (.seqAdd y) s = .next (((s.taken.setSeq p i
        ⟨y.kvList, y.kvPages, y.position, y.remaining, x.arrivals, y.user, y.ready, y.priority, sqWaiting, false⟩).setPart p
          { x with arrivals := x.arrivals + 1 }).okData r [x.arrivals ++ BitVec.ofNat 32 i])) ∧
    (∀ y : SeqUpdateP, s.carries r 0x0902 .own = true → s.seqUsed p y.index.toNat = true → ∃ t, exec (.seqUpdate y) s = .next t ∧
      let e := s.seq p y.index.toNat
      let f := t.seq p y.index.toNat
      f.ready = e.ready + y.readyAdd ∧ f.priority = y.priority ∧ f.kvList = (if y.kvList = 0 then e.kvList else y.kvList) ∧
      f.kvPages = (if y.kvPages = 0 then e.kvPages else y.kvPages) ∧ f.remaining = (if y.remaining = 0xFFFFFFFF then e.remaining else y.remaining) ∧
      f.position = e.position ∧ f.arrival = e.arrival ∧ f.user = e.user) ∧
    (∀ i : BitVec 32, s.carries r 0x0903 .own = true → s.seqUsed p i.toNat = true →
      exec (.seqRemove i) s = .next ((if (s.seq p i.toNat).mode = sqListed then s.taken.setSeq p i.toNat { s.seq p i.toNat with removed := true }
        else ({ s.taken with seqs := tDel s.seqs (x.seqBase + i.toNat) } : State).settlePages p).ok r)) ∧
    (∀ i n : BitVec 32, s.carries r 0x0904 .own = true → exec (.seqQuery i n) s = .next (s.taken.okData r
      ((List.range (min n.toNat (x.seqCount - i.toNat))).flatMap fun j => seqWords (s.seq p (i.toNat + j))))) ∧
    (s.carries r 0x0906 .own = true → x.batch.isSome = true → exec .worklistStart s =
      .next ((s.taken.setPart p { x with wlStarted := true }).ok r)) ∧
    (s.carries r 0x0907 .own = true → exec .worklistStop s = .next ((s.taken.setPart p { x with wlStarted := false }).ok r)) ∧
    (∀ h : BitVec 16, s.carries r 0x0302 .package = true → h ≠ 0 → h.toNat ≤ 168 → exec (.memScrubSet h) s =
      .next (({ s.taken with fl := { s.taken.fl with scrubHours := h } } : State).ok r)) ∧
    (∀ m : BitVec 12, s.carries r 0x0303 .all = true → exec (.memQuery m) s = .next (s.taken.okData r
      ((maskBits m).flatMap (fun i => (s.stack i).words) ++ [s.wipeStatus] ++ (allRegions.map fun q => (s.region q).memRefused) ++ [s.hub.memRefused])))) ∧
  (∀ (s : State) (k : Nat) (c : BitVec 8), k < 12 → c.toInt < 105 → ∃ t, exec (.stackTemperatureRead k c) s = .next t ∧
    (t.stack k).temp = c ∧ (t.stack k).doubleRefresh = decide (85 < c.toInt) ∧
    (95 < c.toInt → (t.stack k).throttled = true) ∧ (c.toInt < 92 → (t.stack k).throttled = false) ∧ t.mem = s.mem) ∧
  (∀ (s : State) (k : Nat), k < 12 → s.reset_.active = true → s.reset_.bootStage = 0x07 → s.reset_.released.contains (.memSide k) = true →
    (s.stack k).wipeDone = false → ∃ t, exec (.wipeComplete k) s = .next t ∧ (t.stack k).wipeDone = true ∧ (t.stack k).selfRefresh = false)

/-- PORST_N and a thermal trip restart the whole package with boot count 1 and empty memory; a second PORST_N while a power-on reset is in progress only records its source. PORST_N_RELEASE takes the strap. SYSRST_N outside a reset is a warm reset: the count rises unless it is at its end, the class map and the fuses stay. RESET_RELEASE lets an island out when it is its turn; the hub crossbar starts the guest bundles. Without REGULATOR_ACK the boot stops with 0xE3; BOOT_IMAGE_VERIFY stops it with 0xE0 to 0xE2 or starts the image; BOOT_COMPLETE creates partition 0 and releases RSTOUT_N. DOMAIN_POWER_ON ramps a domain that is needed. JTAG_TEST_TRANSITION takes a BLANK part to TEST. MGT_BLOCK_READ answers from order 1 on. -/
def Obligations.ResetsAssertAndRelease : Prop :=
  (∀ (s : State) (supply : Bool),
    ((s.reset_.busy && s.reset_.kind == .powerOn) = false → ∃ t, exec (.porstNAssert supply) s = .next t ∧ t.reset_.active = true ∧
      t.reset_.bootStage = 0 ∧ t.reset_.bootCount = 1 ∧ t.reset_.kind = .powerOn ∧ t.reset_.sources = bitMask 10 (if supply then 1 else 0) ∧
      t.reset_.tripped = (s.reset_.tripped && supply) ∧ t.mem = [] ∧ t.blocks = [] ∧ t.parts = [] ∧ t.pending = s.pending ∧
      t.lc.state = s.lc.state ∧ t.lc.rollback = s.lc.rollback) ∧
    (s.reset_.busy = true → s.reset_.kind = .powerOn → exec (.porstNAssert supply) s = .next { s with reset_ := { s.reset_ with
      tripped := s.reset_.tripped && supply, sources := putBit s.reset_.sources (if supply then 1 else 0) true } }) ∧
    (∀ strap : BitVec 4, s.reset_.active = true → s.reset_.bootStage = 0 → s.reset_.tripped = false →
      exec (.porstNRelease strap) s = .next { s with reset_ := { s.reset_ with bootStage := 0x02, strapValid := true, strap := strap } }) ∧
    (s.reset_.active = false → ∃ t, exec .sysrstNAssert s = .next t ∧ t.reset_.kind = .warm ∧
      (t.reset_.bootCount = if s.reset_.bootCount = 0xFFFFFFFF then 0xFFFFFFFF else s.reset_.bootCount + 1) ∧
      t.reset_.bootStage = 0x02 ∧ t.reset_.strap = s.reset_.strap ∧ t.mem = [] ∧ t.classMap = s.classMap ∧ t.parts = [] ∧
      t.faults.status = 0 ∧ t.faults.last = s.faults.status ∧ t.lc.fwRevoked = s.lc.fwRevoked) ∧
    (s.reset_.busy = true → s.reset_.kind = .warmPreserve → ∃ t, exec .sysrstNAssert s = .next t ∧ t.reset_.kind = .warm ∧
      t.reset_.bootCount = s.reset_.bootCount ∧ t.mem = []) ∧
    (∃ t, exec .thermalTrip s = .next t ∧ t.reset_.tripped = true ∧ t.reset_.active = true ∧ t.reset_.bootStage = 0 ∧
      t.reset_.sources.getLsbD 3 = true ∧ t.mem = [] ∧ t.blocks = [])) ∧
  (∀ (s : State) (i : Island), s.mayRelease i = true →
    ((i = .security ∨ i = .control ∨ i = .collector) → exec (.resetRelease i) s = .next (s.markReleased i)) ∧
    (i = .hubCrossbar → exec (.resetRelease i) s = .next ((s.markReleased i).startGuestBundles)) ∧
    (i = .telemetry → ∃ t, exec (.resetRelease i) s = .next t ∧ t.power.setpointMv = setpointOf 1100 ∧
      t.reset_.released = s.reset_.released ++ [.telemetry] ∧ t.out = s.out ++ [.avs (setpointOf 1100)]) ∧
    (i = .sceolink → ∃ t, exec (.resetRelease i) s = .next t ∧ t.reset_.bootStage = 0x04 ∧ (t.link sclLink).mode = .training ∧
      t.scl.widthTx = if s.reset_.strap.getLsbD 2 then 16 else 8) ∧
    (∀ r, i = .regionFabric r → ∃ t, exec (.resetRelease i) s = .next t ∧ (t.region r).inReset = false) ∧
    (∀ k, i = .memSide k → k < 12 → ∃ t, exec (.resetRelease i) s = .next t ∧ (t.stack k).classMap = s.classMap ∧
      t.reset_.released.contains (.memSide k) = true) ∧
    (∀ b, i = .block b → ∃ t, exec (.resetRelease i) s = .next t ∧ (t.block b).inReset = false) ∧
    (∀ p, i = .port p → p < 24 → ∃ t, exec (.resetRelease i) s = .next t ∧ (t.link p).cfg.enable = s.reset_.strap.getLsbD 0)) ∧
  (∀ s : State, s.reset_.active = true →
    (s.reset_.bootStage = 0x02 → s.reset_.released.contains .telemetry = true →
      exec (.regulatorAck true) s = .next { s with reset_ := { s.reset_ with bootStage := 0x03 } } ∧
      ∃ t, exec (.regulatorAck false) s = .next t ∧ t.reset_.bootStage = 0xE3 ∧ t.reset_.faultN = true) ∧
    (s.reset_.bootStage = 0x0A → ∃ t, exec .bootComplete s = .next t ∧ t.reset_.active = false ∧ t.reset_.rstoutN = true ∧
      t.reset_.bootStage = 0x0B ∧ (t.part 0).mode = pCreated)) ∧
  (∀ (s : State) (image : Image), s.imageReady = true → let recovery := !s.reset_.strap.getLsbD 1
    let slot := s.reset_.strap.getLsbD 3 && recovery
    exec (.bootImageVerify true image slot true) s =
      .next (if s.lc.imageOk slot image then s.bootImage image recovery else s.bootStop 0xE1) ∧
    exec (.bootImageVerify false image slot true) s = .next (s.bootStop 0xE0) ∧
    exec (.bootImageVerify true image slot false) s = .next (s.bootStop (if s.lc.imageOk slot image then 0xE2 else 0xE1))) ∧
  (∀ (s : State) (d : Nat), d < 80 → s.power.domainsOff.getLsbD d = true → s.domainUsed d = true →
    ∃ t, exec (.domainPowerOn d) s = .next t ∧ t.power.domainsOff = putBit s.power.domainsOff d false ∧ t.mem = s.mem) ∧
  (∀ (s : State) (secret : BitVec 256) (cert : List Byte), s.lc.state = 0 → ∃ t, exec (.jtagTestTransition secret cert) s = .next t ∧
    t.lc.state = 1 ∧ t.lc.secret = some secret ∧ t.lc.certificate = cert ∧ t.reset_.active = true) ∧
  (∀ (s : State) (c : BitVec 8), s.reset_.bootStage ≠ 0 → exec (.mgtBlockRead c) s = .next (s.emit (.mgt (s.mgtRead c.toNat))))

/-- POWER_CONTROL_INTERVAL takes the averages and the die temperature: power over a limit, or more than 103 degrees, lowers the block clock one step; at 110 degrees the package trips. CLOCK_SLEW reaches the frequency called for. PMBUS_POLL takes the readings. CORE_DROOP_START stretches the clocks and kills the open groups of range-check partitions for a rerun; CORE_DROOP_END ends the stretch and counts the dip, the ninth in a second setting dip_limit, which DIP_LIMIT_EXPIRY clears. WATCHDOG_WRITE changes only the timing; WATCHDOG_EXPIRY hands over to a healthy standby pair, else asserts FAULT_N, and with wdt_reset a warm reset. TELEMETRY_QUERY returns PWR_STATUS first. -/
def Obligations.PowerIsControlled : Prop :=
  (∀ (s : State) (x : PowerSample), s.reset_.released.contains .telemetry = true → s.power.telemetryFault = false →
    (110 ≤ x.dieTemp.toInt → exec (.powerControlInterval x) s = .next s.trip) ∧
    (x.dieTemp.toInt < 110 → ∃ t, exec (.powerControlInterval x) s = .next t ∧ t.power.dieTemp = x.dieTemp ∧ t.power.power1ms = x.power1ms ∧
      t.power.power1s = x.power1s ∧ t.power.ticks = s.power.ticks + 1 ∧ t.mem = s.mem ∧ t.blocks = s.blocks ∧
      ((103 < x.dieTemp.toInt ∨ 3400 < x.power1ms.toNat ∨ s.power.limit1s < 100 * x.power1s.toNat) → 550 < s.power.slewMhz.toNat →
        t.power.slewMhz = BitVec.ofNat 12 (clockStep (stepOf s.power.slewMhz.toNat + 1))) ∧
      (103 < x.dieTemp.toInt → t.power.thermal = true) ∧ (x.dieTemp.toInt ≤ 101 → t.power.thermal = false))) ∧
  (∀ s : State, s.power.slewMhz ≠ s.power.blockMhz → s.power.stretched = false → s.power.telemetryFault = false →
    exec (.clockSlew s.power.slewMhz) s = .next (({ s with power := { s.power with
      blockMhz := s.power.slewMhz, setpointMv := setpointOf s.power.slewMhz.toNat } } : State).emit (.avs (setpointOf s.power.slewMhz.toNat)))) ∧
  (∀ (s : State) (x : PmbusReading), s.reset_.released.contains .telemetry = true → s.power.telemetryFault = false →
    exec (.pmbusPoll x) s = .next { s with power := { s.power with reading := x } }) ∧
  (∀ s : State, s.power.stretched = false → ∃ t, exec .coreDroopStart s = .next t ∧ t.power.stretched = true ∧
    ∀ b, s.dipKills b = true → (t.block b).group = none ∧ (t.block b).dipRerun = true ∧ (t.block b).rerunHeld = true ∧
      (t.block b).kills = inc (s.block b).kills) ∧
  (∀ (s : State) (mv d : BitVec 16), s.power.stretched = true → ∃ t, exec (.coreDroopEnd mv d) s = .next t ∧ t.power.stretched = false ∧
    t.power.dipTimes = s.power.recent ++ [s.power.ticks] ∧
    t.power.dipLimit = (s.power.dipLimit || decide (9 ≤ (s.power.recent ++ [s.power.ticks]).length)) ∧
    (∀ b, (t.block b).rerunHeld = false) ∧ t.mem = s.mem) ∧
  (∀ s : State, exec .dipLimitExpiry s = .next { s with power := { s.power with dipLimit := false } }) ∧
  (∀ s : State, exec .watchdogWrite s = .next s) ∧
  (∀ s : State, s.reset_.active = false → s.flapinoUp = true → s.fl.fw = .idle →
    (s.fl.standbyHealthy = true → ∃ t, exec .watchdogExpiry s = .next t ∧ t.fl.activePair = !s.fl.activePair ∧ t.fl.standbyHealthy = false ∧
      t.reset_.active = false) ∧
    (s.fl.standbyHealthy = false → s.power.limit.wdtReset = false → ∃ t, exec .watchdogExpiry s = .next t ∧ t.reset_.faultN = true ∧
      t.flapinoUp = false ∧ t.fl = s.fl) ∧
    (s.fl.standbyHealthy = false → s.power.limit.wdtReset = true → ∃ t, exec .watchdogExpiry s = .next t ∧ t.reset_.kind = .warm ∧
      t.reset_.sources = bitMask 10 7 ∧
      (t.reset_.bootCount = if s.reset_.bootCount = 0xFFFFFFFF then 0xFFFFFFFF else s.reset_.bootCount + 1))) ∧
  (∀ (s : State) (r : Running), s.carries r 0x0605 .all = true → ∃ rest : List Word, exec .telemetryQuery s =
    .next (s.taken.okData r (s.pwrStatus :: powerLimitWord s.power.limit :: s.reset_.causeWord :: rest)))

/-- ATTEST outside BLANK and RETIRED returns the report, its signature and, when asked, the certificate. LC_TRANSITION of an allowed transition writes the fuses and leaves the life-cycle reset to the WR_ACK; a failed read-back completes FAILED. PRESERVE_ARM arms on a good token, refuses a bad one, and disarms without a token. DEVICE_RESET leaves its reset to the WR_ACK. FW_UPDATE with a good image starts the update, with a bad one is refused; FW_HANDOVER makes the standby pair active; HEALTH_WINDOW_END completes it, or hands control back. FW_QUERY returns the versions. The results of signatures and hashes are the model's free functions (log 21). -/
def Obligations.SecurityCommandsAct : Prop :=
  (∀ (s : State) (r : Running), s.carries r 0x0701 .all = true → s.lc.state ≠ 0 → s.lc.state ≠ 3 → ∀ (nonce : BitVec 256) (fl : BitVec 8),
    exec (.attest nonce fl) s = .next (s.taken.okData r
      (byteWords (s.reportBody nonce ++ s.reportSignature nonce ++ if fl.getLsbD 0 then s.lc.certificateOf else [])))) ∧
  (∀ (s : State) (r : Running) (p : LcP) (y : LifeCycle), s.carries r opLcTransition .package = true → s.lcRefusal p = none →
    s.lc.transitionTo p = some y →
    exec (.lcTransition p true) s = .next (({ s.taken with
      lc := { y with transition := true }, reset_ := { s.reset_ with pendingReset := some .lifeCycle } } : State).ok r) ∧
    exec (.lcTransition p false) s = .next (({ s.taken with lc := s.lc.partWritten p } : State).failed r rsState)) ∧
  (∀ (s : State) (p : LcP), s.lc.state = 2 → p.target = 2 → p.action = 1 → s.lc.ownerKeys.getLsbD p.slot.toNat = false →
    s.lc.transitionTo p = some { s.lc with
      ownerKeys := putBit s.lc.ownerKeys p.slot.toNat true, ownerKey := tSet s.lc.ownerKey p.slot.toNat p.ownerKey }) ∧
  (∀ (s : State) (r : Running), s.carries r 0x0703 .package = true →
    exec (.preserveArm none) s = .next (({ s.taken with lc := { s.lc with armed := false } } : State).ok r) ∧
    ∀ t : Token, exec (.preserveArm (some t)) s = .next (if s.preserveOk t then ({ s.taken with lc := { s.lc with armed := true } } : State).ok r
      else s.taken.rejected r rsImage)) ∧
  (∀ (s : State) (r : Running) (k : BitVec 8), s.carries r 0x0704 .package = true → s.lc.transition = false → s.reset_.pendingReset = none →
    (k = 0 ∨ k = 1 ∨ (k = 2 ∧ s.preserveAllowed = true)) → exec (.deviceReset k) s =
      .next (({ s.taken with reset_ := { s.reset_ with pendingReset := some (deviceResetKind k) } } : State).ok r)) ∧
  (∀ (s : State) (r : Running) (a : Addr) (n : BitVec 32) (i : Image), s.carries r opFwUpdate .package = true → s.fl.cut = none →
    s.fl.waitingCinch = [] → 0 < n.toNat → n.toNat ≤ 0x200000 → s.updateRange a.toNat n.toNat = true → s.lc.transition = false → s.fl.fw = .idle →
    s.fl.standbyHealthy = true → exec (.fwUpdate a n i true) s = .next (if s.lc.imageOk false i then
      { s.taken.startBg r with fl := { (s.taken.startBg r).fl with fw := .started r i, standbyVersion := i.imageVersion } }
      else s.taken.rejected r rsImage)) ∧
  (∀ (s : State) (r : Running) (i : Image), s.fl.fw = .started r i → s.fl.current = none → s.flapinoUp = true → ∃ t, exec .fwHandover s = .next t ∧
    t.fl.activePair = !s.fl.activePair ∧ t.fl.imageVersion = i.imageVersion ∧ t.fl.standbyVersion = s.fl.imageVersion ∧
    t.fl.fw = .health r i s.fl.imageVersion ∧ tFind t.lc.measurements 2 = some (Config.sha256 (imageBytes i)) ∧ t.parts = s.parts) ∧
  (∀ (s : State) (r : Running) (i : Image) (old : BitVec 32), s.fl.fw = .health r i old →
    (∃ t, exec (.healthWindowEnd true) s = .next t ∧ t.fl.fw = .idle ∧ t.fl.standbyVersion = i.imageVersion ∧ t.lc.runningKey = i.key ∧
      t.lc.rollback = max s.lc.rollback (min i.secVersion.toNat 64) ∧ t.fl.activePair = s.fl.activePair) ∧
    (s.fl.standbyHealthy = true → ∃ t, exec (.healthWindowEnd false) s = .next t ∧ t.fl.fw = .idle ∧ t.fl.activePair = !s.fl.activePair ∧
      t.fl.imageVersion = old ∧ t.lc.rollback = s.lc.rollback)) ∧
  (∀ (s : State) (r : Running), s.carries r 0x0706 .all = true → exec .fwQuery s = .next (s.taken.okData r [s.fl.imageVersion.setWidth 64,
    s.fl.standbyVersion.setWidth 64, BitVec.ofNat 64 s.fl.activePair.toNat, BitVec.ofNat 64 s.lc.rollback, s.fl.lastUpdate.setWidth 64]))

/-- Every command of Table 13.13 that breaks its scope completes REJECTED with reason 0x03, and one whose nonzero header epoch is older than its target's completes STALE_CONFIG; neither has another effect, and a zero epoch is not compared. CINCH compares its epoch the same way when it starts. Returned data of up to 1,984 bytes is carried in the CMD_DONE; longer data goes to result_addr before the CMD_DONE, with flags bit 2; longer data with result_addr 0 is REJECTED with reason 0x07. -/
def Obligations.ScopeAndEpochAreChecked : Prop :=
  (∀ h e : Epoch, staleHdr 0 e = false ∧ (h ≠ 0 → (staleHdr h e = true ↔ ¬ (h - e).toNat < 2 ^ 31))) ∧
  (∀ (s : State) (r : Running), (∀ p : PartId, s.scopeEpoch r (.names p) = (s.part p).epoch) ∧ s.scopeEpoch r .own = (s.part r.part).epoch ∧
    s.scopeEpoch r .package = s.epoch ∧ s.scopeEpoch r .all = s.epoch) ∧
  (∀ (s : State) (c : Instr) (r : Running) (op : BitVec 16) (sc : Scope), s.commandOf c = some (op, sc) → s.fl.current = some r → r.hdr.opcode = op →
    (∀ a n i k, c = .fwUpdate a n i k → s.fl.cut = none ∧ s.fl.waitingCinch = []) →
    (scopeOk r sc = false → exec c s = .next (s.taken.rejected r rsScope)) ∧
    (scopeOk r sc = true → staleHdr r.hdr.epoch (s.scopeEpoch r sc) = true → exec c s = .next (s.taken.cmdDone r cdStale 0 0 []))) ∧
  (∀ (s : State) (r : Running), s.fl.current = some r → r.hdr.opcode = 0x0502 → s.cinchWaits = false →
    staleHdr r.hdr.epoch (s.part r.part).epoch = true → exec .cinch s = .next (s.taken.cmdDone r cdStale 0 0 [])) ∧
  (∀ (s : State) (w : WaitingCinch) (rest : List WaitingCinch), s.fl.waitingCinch = w :: rest → s.fl.cut = none → s.fl.fw = .idle →
    s.flapinoUp = true → staleHdr w.hdr.epoch (s.part w.part).epoch = true → exec .cutStart s =
      .next (({ s with fl := { s.fl with waitingCinch := rest } } : State).cmdDone ⟨w.part, w.hdr, w.seq⟩ cdStale 0 0 [])) ∧
  (∀ (s : State) (r : Running) (st rs fl : BitVec 8) (data : List Word),
    (8 * data.length ≤ 1984 → s.cmdDone r st rs fl data = s.storeRecord r.part (doneRecord r st rs fl data)) ∧
    (1984 < 8 * data.length → r.hdr.resultAddr ≠ 0 → s.cmdDone r st rs fl data = s.storeRecord r.part (doneRecord r st rs (fl ||| 0x04) data)) ∧
    (1984 < 8 * data.length → r.hdr.resultAddr = 0 → s.cmdDone r st rs fl data =
      s.storeRecord r.part (.cmdDone ⟨r.hdr.opcode, r.hdr.tag, r.seq, cdRejected, 0x07, 0, 0, []⟩))) ∧
  (∀ (s : State) (p : PartId) (c : CmdDone), c.flags.getLsbD 2 = true → let first := s.writeLines p false c.result.toNat (wordBytes c.data)
    s.emitRecord p (.cmdDone c) = first.writeRing p false (first.part p).cplRing (recordUnits (.cmdDone c)) (cplBytes p first.epoch (.cmdDone c)))

/-- For every state and every command the block answers a next state with the same waiting commands; no operand stops it. An event that names a link, stack, port, bundle, position, domain, island or stacked address that the package does not have is no event of the package and changes nothing (the model's choice, log 3). -/
def Obligations.EveryCommandAnswers : Prop :=
  (∀ (c : Instr) (s : State), ∃ t, exec c s = .next t ∧ t.pending = s.pending) ∧
  (∀ (c : Instr) (s : State), c.unitsExist = false → exec c s = .next s)

/-- The memory of the package is a list of addresses that strictly rise with bytes that are not zero. Whatever command stands at the front of the queue, or none, a step that answers a next state keeps that form, so equal contents are equal data. -/
def Obligations.MemoryKeepsItsForm : Prop :=
  ∀ s t : State, s.Safe → step s = .next t → t.Safe

/-- Right after a power-on reset nothing is stored, no session is attached, the device epoch is 1, every block is in reset with its registers zero, its queues of depth 16 empty and no group open, every region is in reset, no partition exists, RSTOUT_N and FAULT_N are not released, and the block clock is nominal. -/
def Obligations.ResetValuesHold : Prop :=
  State.reset.Safe ∧ State.reset.pending = [] ∧ State.reset.epoch = 1 ∧ State.reset.scl.mode = .none ∧ State.reset.scl.number = 0 ∧
  State.reset.reset_.active = true ∧ State.reset.reset_.bootStage = 0 ∧ State.reset.reset_.rstoutN = false ∧ State.reset.classMap = 0 ∧
  State.reset.power.blockMhz = 1100 ∧ State.reset.faults.status = 0 ∧ (∀ a : Nat, memByte State.reset.mem a = 0) ∧
  (∀ p : PartId, State.reset.partExists p = false) ∧
  (∀ r : RegionId, (State.reset.region r).inReset = true ∧ (State.reset.region r).fenced = false) ∧
  (∀ (b : BlockId) (r : Reg) (q : BitVec 7), let x := State.reset.block b
    x.inReset = true ∧ x.running = false ∧ x.group = none ∧ x.reg r = 0 ∧ (x.queue q).depth = 16 ∧ (x.queue q).entries = [] ∧ x.epoch = 1)

/-- The encoder gives each well-formed block core command its word by Tables 4.2 to 4.8, within 256 bits; the decoder of the block reads from it the same command with the same operands, whatever their values. -/
def Obligations.CommandWordsRoundTrip : Prop :=
  ∀ (i : Instr) (w : Nat), i.wellFormed = true → encodeCommandWord i = some w → w < 2 ^ 256 ∧ ∃ b : BlockId, decodeCommandWord b w = i

/-- One word of each kind of block core command, put together from the bits that the tables give its opcode and fields: LI, ALU, BR, GHDR, COMMIT, WAIT, MATMUL, VEC, FETCH, SEND, RECV, ATOMIC, an offset with a row of its own, and an unlisted opcode. -/
def Obligations.SpelledWordsDecode : Prop :=
  ∀ b : BlockId,
    decodeCommandWord b (0x01 + 3 * 2 ^ 16 + 0x1234 * 2 ^ 64) = .li b 3 0x1234 ∧
    decodeCommandWord b (0x02 + 1 * 2 ^ 16 + 2 * 2 ^ 21 + 3 * 2 ^ 26 + 4 * 2 ^ 32) = .alu b 4 1 2 3 ∧
    decodeCommandWord b (0x06 + 1 * 2 ^ 8 + 5 * 2 ^ 21 + 6 * 2 ^ 26 + 0xFFFFFFFF * 2 ^ 32) = .br b 1 5 6 0xFFFFFFFF ∧
    decodeCommandWord b (0x0A + 7 * 2 ^ 21 + 0x0208 * 2 ^ 32) = .blkLrReleaseWrite b 7 ∧
    decodeCommandWord b (0x10 + 1 * 2 ^ 8 + 4 * 2 ^ 21 + 9 * 2 ^ 26 + 2 * 2 ^ 32 + 77 * 2 ^ 64) = .ghdr b 4 2 77 true 9 ∧
    decodeCommandWord b (0x11 + 1 * 2 ^ 8) = .commit b true ∧
    decodeCommandWord b (0x12 + 6 * 2 ^ 32) = .wait b 6 ∧
    decodeCommandWord b (0x28 + 8 * 2 ^ 21) = .send b 8 false ∧
    decodeCommandWord b (0x29 + 2 * 2 ^ 8 + 1 * 2 ^ 16 + 2 * 2 ^ 26 + 127 * 2 ^ 32) = .recv b 127 1 2 true false ∧
    decodeCommandWord b (0x2C + 1 * 2 ^ 16 + 2 * 2 ^ 21 + 3 * 2 ^ 26 + 0x000104 * 2 ^ 32) = .atomic b 1 2 3 0x000104 ∧
    decodeCommandWord b 0xFF = .unlistedCommand b ∧
    decodeCommandWord b (0x20 + 1 * 2 ^ 8 + 1 * 2 ^ 16 + 2 * 2 ^ 21 + 3 * 2 ^ 26 + 2 * 2 ^ 48 + 2 * 2 ^ 52 + 16 * 2 ^ 64 + 32 * 2 ^ 84 + 48 * 2 ^ 100) =
      .matmul b { amaxEn := false, amaxIdx := 0, t := 0, n := 48, k := 32, m := 16, fmtZ := 0, fmtC := 0, fmtB := 2, fmtA := 2, st := 0, ss := 0
                  sz := 0, sb := 3, sa := 2, sd := 1, roundSr := false, tiled := false, zShape := 0, fusedMul := false, fusedEn := true } ∧
    decodeCommandWord b (0x21 + 1 * 2 ^ 16 + 2 * 2 ^ 21 + 3 * 2 ^ 26 + 64 * 2 ^ 64 + 5 * 2 ^ 112) =
      .vec b { t := 0, vop := 5, rowLen := 0, count := 64, fmtD := 0, fmtB := 0, fmtA := 0, sc := 0, sb := 3, sa := 2, sd := 1, bcastB := false
               scalarB := false, amaxIdx := 0, amaxEn := false, roundSr := false } ∧
    decodeCommandWord b (0x23 + 2 * 2 ^ 8 + 1 * 2 ^ 16 + 2 * 2 ^ 21 + 6 * 2 ^ 26 + 4 * 2 ^ 32 + 2 * 2 ^ 48) =
      .fetch b { t := 0, fmtDst := 0, fmtSrc := 2, sv := 4, sb := 6, sa := 2, sd := 1, amaxIdx := 0, amaxEn := false, versionEn := true
                 toShadow := false }

/-- For every byte string of n groups of 64 bytes, decoding n groups of its coded form gives the string back, and the coded form has between 8 and 72 bytes for each group, so it never exceeds 9/8 of the difference. -/
def Obligations.DifferencesDecode : Prop :=
  ∀ (n : Nat) (d : List Byte), d.length = 64 * n →
    decodeDiff n (codeDiff d) = some d ∧ 8 * n ≤ (codeDiff d).length ∧ (codeDiff d).length ≤ 72 * n

/-- For every accumulator word and every term s times 2 to the e - 46, the sum's exponent field is not all ones, a zero exponent field has a zero fraction, a sum that saturates is 0x7F7F_FFFF or 0xFF7F_FFFF, one that does not reach 2 to the 128 does not saturate, and a sum that is exactly zero is +0 without the flag. -/
def Obligations.AccumulationStaysFinite : Prop :=
  ∀ (acc : BitVec 32) (s e : Int), let r := a32Add acc s e
    let x := (a32Read acc).1.add (Dy.ofInt s (e - 46) false)
    r.1.extractLsb' 23 8 ≠ 0xFF ∧ (r.1.extractLsb' 23 8 = 0 → r.1.extractLsb' 0 23 = 0) ∧
    (r.2 = true → r.1 = 0x7F7FFFFF ∨ r.1 = 0xFF7FFFFF) ∧ (x.m ≠ 0 → (r.2 = true ↔ 128 ≤ x.top)) ∧ (x.m = 0 → r = (0, false))
end

