-- ==== Sys2Proof/Laws/Memory.lean ====
section
/-! SUPPORT. Memory: every operation keeps the canonical form, a byte reads what was last written, and other bytes keep their values. -/

namespace Sys2Proof.Laws

open Sys2Proof.Machine

theorem memWfFrom_mono (m : Memory) (a b : Nat) (h : a ≤ b) (w : memWfFrom b m = true) : memWfFrom a m = true := by
  cases m with
  | nil => rfl
  | cons e r =>
    obtain ⟨k, v⟩ := e
    simp only [memWfFrom, Bool.and_eq_true, decide_eq_true_eq] at w ⊢
    exact ⟨⟨by omega, w.1.2⟩, w.2⟩

theorem memPut_wfFrom (m : Memory) (lo a : Nat) (v : Byte) (h : lo ≤ a) (w : memWfFrom lo m = true) :
    memWfFrom lo (memPut m a v) = true := by
  induction m generalizing lo with
  | nil =>
    simp only [memPut]
    split
    · rfl
    · rename_i hv
      simpa [memWfFrom, h] using hv
  | cons e r ih =>
    obtain ⟨k, x⟩ := e
    simp only [memWfFrom, Bool.and_eq_true, decide_eq_true_eq] at w
    obtain ⟨⟨w1, w2⟩, w3⟩ := w
    simp only [memPut]
    split
    · split
      · simp [memWfFrom, w1, w2, w3]
      · rename_i hk hv
        simp only [memWfFrom, Bool.and_eq_true, decide_eq_true_eq]
        exact ⟨⟨h, by simpa using hv⟩, ⟨by omega, w2⟩, w3⟩
    · split
      · split
        · exact memWfFrom_mono _ _ _ (by omega) w3
        · rename_i hk hv
          simp only [memWfFrom, Bool.and_eq_true, decide_eq_true_eq]
          exact ⟨⟨by omega, by simpa using hv⟩, by subst_vars; exact w3⟩
      · simp only [memWfFrom, Bool.and_eq_true, decide_eq_true_eq]
        exact ⟨⟨w1, w2⟩, ih (k + 1) (by omega) w3⟩

theorem memPut_wf (m : Memory) (a : Nat) (v : Byte) (w : m.wf = true) : (memPut m a v).wf = true :=
  memPut_wfFrom m 0 a v (Nat.zero_le _) w

theorem memWrite_wf (bs : List Byte) (m : Memory) (a : Nat) (w : m.wf = true) : (memWrite m a bs).wf = true := by
  induction bs generalizing m a with
  | nil => exact w
  | cons b r ih => exact ih _ _ (memPut_wf _ _ _ w)

theorem memPutNat_wf (m : Memory) (a n v : Nat) (w : m.wf = true) : (memPutNat m a n v).wf = true := memWrite_wf _ _ _ w

theorem filter_wfFrom (p : Host.Cell → Bool) (m : Memory) (lo : Nat) (w : memWfFrom lo m = true) : memWfFrom lo (m.filter p) = true := by
  induction m generalizing lo with
  | nil => rfl
  | cons e r ih =>
    obtain ⟨k, v⟩ := e
    simp only [memWfFrom, Bool.and_eq_true, decide_eq_true_eq] at w
    obtain ⟨⟨w1, w2⟩, w3⟩ := w
    simp only [List.filter]
    split
    · simp only [memWfFrom, Bool.and_eq_true, decide_eq_true_eq]
      exact ⟨⟨w1, w2⟩, ih _ w3⟩
    · exact ih lo (memWfFrom_mono _ _ _ (by omega) w3)

theorem filter_wf (p : Host.Cell → Bool) (m : Memory) (w : m.wf = true) : Memory.wf (m.filter p) = true := filter_wfFrom p m 0 w

theorem memClear_wf (m : Memory) (base len : Nat) (w : m.wf = true) : (memClear m base len).wf = true := filter_wf _ m w

/-- A byte below every listed address reads zero. -/
theorem memByte_below (m : Memory) (lo a : Nat) (h : a < lo) (w : memWfFrom lo m = true) : memByte m a = 0 := by
  induction m generalizing lo with
  | nil => rfl
  | cons e r ih =>
    obtain ⟨k, v⟩ := e
    simp only [memWfFrom, Bool.and_eq_true, decide_eq_true_eq] at w
    obtain ⟨⟨w1, _⟩, w3⟩ := w
    simp only [memByte]
    split
    · omega
    · exact ih (k + 1) (by omega) w3

theorem memByte_memPut_same_from (m : Memory) (lo a : Nat) (v : Byte) (w : memWfFrom lo m = true) : memByte (memPut m a v) a = v := by
  induction m generalizing lo with
  | nil =>
    simp only [memPut]
    split
    · rename_i hv; simp [memByte, hv]
    · simp [memByte]
  | cons e r ih =>
    obtain ⟨k, x⟩ := e
    simp only [memWfFrom, Bool.and_eq_true, decide_eq_true_eq] at w
    obtain ⟨⟨w1, w2⟩, w3⟩ := w
    simp only [memPut]
    split
    · split
      · rename_i hk hv
        simp only [memByte]
        split
        · omega
        · rw [hv]; exact memByte_below r (k + 1) a (by omega) w3
      · simp [memByte]
    · split
      · split
        · rename_i hk hv
          rw [hv]; exact memByte_below r (k + 1) a (by omega) w3
        · simp [memByte]
      · simp only [memByte]
        split
        · contradiction
        · exact ih (k + 1) w3

/-- A byte reads what was written to it. -/
theorem memByte_memPut_same (m : Memory) (a : Nat) (v : Byte) (w : m.wf = true) : memByte (memPut m a v) a = v :=
  memByte_memPut_same_from m 0 a v w

/-- A byte at another address keeps its value. -/
theorem memByte_memPut_other (m : Memory) (a c : Nat) (v : Byte) (h : c ≠ a) : memByte (memPut m a v) c = memByte m c := by
  induction m with
  | nil =>
    simp only [memPut]
    split
    · rfl
    · simp [memByte, Ne.symm h]
  | cons e r ih =>
    obtain ⟨k, x⟩ := e
    simp only [memPut]
    split
    · split
      · rfl
      · simp only [memByte]; simp [Ne.symm h]
    · split
      · split
        · rename_i hk hv; subst hk; simp [memByte, Ne.symm h]
        · rename_i hk hv; subst hk; simp [memByte, Ne.symm h]
      · simp only [memByte, ih]

/-- A write changes no byte outside its range. -/
theorem memByte_memWrite_outside (bs : List Byte) (m : Memory) (a c : Nat) (h : c < a ∨ a + bs.length ≤ c) :
    memByte (memWrite m a bs) c = memByte m c := by
  induction bs generalizing m a with
  | nil => rfl
  | cons b r ih =>
    simp only [List.length_cons] at h
    simp only [memWrite]
    rw [ih _ _ (by omega), memByte_memPut_other _ _ _ _ (by omega)]

/-- Every byte of a written range reads what was written. -/
theorem memByte_memWrite_inside (bs : List Byte) (m : Memory) (a i : Nat) (w : m.wf = true) (h : i < bs.length) :
    memByte (memWrite m a bs) (a + i) = bs[i] := by
  induction bs generalizing m a i with
  | nil => simp at h
  | cons b r ih =>
    simp only [memWrite]
    cases i with
    | zero =>
      rw [memByte_memWrite_outside r _ _ _ (by omega)]
      simpa using memByte_memPut_same m a b w
    | succ n =>
      have := ih (memPut m a b) (a + 1) n (memPut_wf _ _ _ w) (by simpa using h)
      simpa [Nat.add_assoc, Nat.add_comm 1 n] using this

end Sys2Proof.Laws
end

