-- ==== Sys2Proof/Laws/Bursts.lean ====
section
/-! SUPPORT. What the accesses to stacked memory do where no burst that they touch holds an error, and what an arrival leaves. -/

namespace Sys2Proof.Laws

open Sys2Proof.Machine

/-- Ranges without an error are read without an effect and without an error status. -/
theorem readRanges_clean (s : State) (rs : List Range) (h : s.errorsIn rs = []) : s.readRanges rs = (s, none) := by
  simp [State.readRanges, h]
/-- A write whose bursts hold no error changes memory alone. -/
theorem wrote_clean (s : State) (m : Memory) (rs : List Range) (h : s.errorsIn rs = []) : s.wrote m rs = { s with mem := m } := by
  simp [State.wrote, h]
/-- Bytes written where no burst holds an error. -/
theorem put_clean (s : State) (a : Nat) (bs : List Byte) (h : s.errorsIn [⟨a, bs.length⟩] = []) :
    s.put a bs = { s with mem := memWrite s.mem a bs } := wrote_clean s _ _ h
/-- An engine's read of bytes without an error answers data. -/
theorem engineRead_clean (s : State) (p : PartId) (a n : Nat) (h : s.errorsIn [⟨a, n⟩] = []) : s.engineRead p a n = (s, true) := by
  simp [State.engineRead, readRanges_clean s _ h]
/-- A version-table entry without an error is read. -/
theorem readEntry_clean (s : State) (p : PartId) (a : Nat) (h : s.errorsIn [⟨a, ventryBytes⟩] = []) : s.readEntry p a = (s, true) :=
  engineRead_clean s p a _ h

/-- The class A check bits of zeros are zeros. -/
theorem crc16_zero : crc16 0#256 = 0#16 := by
  unfold crc16
  generalize List.range 256 = l
  induction l with
  | nil => rfl
  | cons a l ih => simpa using ih
/-- Where no burst holds an error and nothing has turned over, an access finds the state as it is. -/
theorem struck_clean (s : State) (rs : List Range) (h : s.bursts = []) : s.struck rs ⟨0, 0⟩ = s := by
  have hw : taken false ⟨0#256, 0#16⟩ = some ⟨0#256, 0#16⟩ := by simp [taken, errPlaces, errBits, maskBits]
  have ha : taken true ⟨0#256, 0#16⟩ = some ⟨0#256, 0#16⟩ := by simp [taken, crc16_zero, errZero]
  have ht : ∀ c : Bool, taken c ⟨0#256, 0#16⟩ = some ⟨0#256, 0#16⟩ := fun c => match c with | true => ha | false => hw
  have hb : ∀ a, s.burst a = ⟨0#256, 0#16⟩ := fun a => by simp [State.burst, h, tGet, tFind, errZero]
  have hs : ({ s with bursts := [] } : State) = s := by rw [← h]
  simp only [State.struck]
  split
  · simp [State.upset, hb, errXor, ht, errZero, h, tDel, hs]
  · rfl
/-- What turns over in a burst leaves memory in its form. -/
theorem struck_wf (s : State) (rs : List Range) (e : BurstErr) (h : s.mem.wf = true) : (s.struck rs e).mem.wf = true := by
  simp only [State.struck]
  split
  · simp only [State.upset]
    split
    · exact h
    · exact memPutNat_wf _ _ _ _ h
  · exact h

/-- An arrival takes one entry off those on their way, or changes nothing where none is on its way. -/
theorem arrive_some (s u : State) (p : InFlight → Bool) (h : s.arrive p = some u) :
    u = s ∨ ∃ l, takeTransit p [] s.inflight = some l ∧ u = { s with inflight := l } := by
  unfold State.arrive at h
  split at h
  · obtain ⟨l, hl, rfl⟩ := Option.map_eq_some_iff.mp h
    exact .inr ⟨l, hl, rfl⟩
  · exact .inl (Option.some.inj h).symm
/-- An arrival goes on with the state it leaves. -/
theorem onArrival_some (s u : State) (p : InFlight → Bool) (k : State → Res) (h : s.arrive p = some u) : s.onArrival p k = k u := by
  simp [State.onArrival, h]
/-- Where nothing is on its way an arrival is of something the model did not send. -/
theorem arrive_nil (s : State) (p : InFlight → Bool) (h : s.inflight = []) : s.arrive p = some s := by simp [State.arrive, h]

end Sys2Proof.Laws
end

