-- ==== Sys2Proof/Laws/Flits.lean ====
section
/-! SUPPORT. Byte strings read back, and a flit's 256 bytes read back as the flit (R242). -/

namespace Sys2Proof.Laws

open Sys2Proof.Machine

@[simp] theorem leBytes_length (n v : Nat) : (leBytes n v).length = n := by
  induction n generalizing v with
  | zero => rfl
  | succ n ih => simp [leBytes, ih]
/-- A value's low n bytes read back. -/
theorem leNat_leBytes (n v : Nat) : leNat (leBytes n v) = v % 256 ^ n := by
  induction n generalizing v with
  | zero => simp [leBytes, leNat, Nat.mod_one]
  | succ n ih =>
    simp only [leBytes, leNat, ih, BitVec.toNat_ofNat]
    rw [show 256 ^ (n + 1) = 256 * 256 ^ n by rw [Nat.pow_succ, Nat.mul_comm], Nat.mod_mul]
@[simp] theorem padTo_length (n : Nat) (bs : List Byte) (h : bs.length ≤ n) : (padTo n bs).length = n := by
  simp [padTo]; omega
/-- A byte string of the full length is not padded. -/
theorem padTo_full (n : Nat) (bs : List Byte) (h : bs.length = n) : padTo n bs = bs := by
  simp [padTo, h, leBytes]

/-- A sealed flit passes the checks of R242, and its fields are those of its head. -/
theorem rxFlit_sealFlit (scl : Bool) (h : BitVec 96) (payload : List Byte) (hl : payload.length = 240) :
    let a : FlitAck := ⟨h.getLsbD 32, h.extractLsb' 20 12, h.getLsbD 33⟩
    rxFlit scl (sealFlit h payload) =
      match (h.extractLsb' 0 4).toNat, (h.extractLsb' 4 2).toNat with
      | 1, _ => .link a (recsOf scl payload)
      | 2, 0 => .data a ⟨.bypass, h.getLsbD 6, h.extractLsb' 40 2, h.extractLsb' 8 12, payload⟩
      | 2, 1 => .data a ⟨.request, h.getLsbD 6, h.extractLsb' 40 2, h.extractLsb' 8 12, payload⟩
      | 2, 2 => .data a ⟨.response, h.getLsbD 6, h.extractLsb' 40 2, h.extractLsb' 8 12, payload⟩
      | _, _ => .unused := by
  have e1 : payload.take 240 = payload := List.take_of_length_le (by omega)
  have e2 : padTo 240 (payload.take 240) = payload := by rw [e1, padTo_full _ _ hl]
  have hb : (leBytes 12 h.toNat ++ payload).length = 252 := by simp [hl]
  have t252 : (sealFlit h payload).take 252 = leBytes 12 h.toNat ++ payload := by
    simp only [sealFlit, e2]; rw [List.take_left' hb]
  have d252 : (sealFlit h payload).drop 252 = leBytes 4 (crc32c (leBytes 12 h.toNat ++ payload)).toNat := by
    simp only [sealFlit, e2]; rw [List.drop_left' hb]
  have t12 : (sealFlit h payload).take 12 = leBytes 12 h.toNat := by
    simp only [sealFlit, e2, List.append_assoc]; rw [List.take_left' (by simp)]
  have d12 : ((sealFlit h payload).drop 12).take 240 = payload := by
    simp only [sealFlit, e2, List.append_assoc]; rw [List.drop_left' (by simp), List.take_left' hl]
  have len : (sealFlit h payload).length = 256 := by simp [sealFlit, e2, hl]
  have hh : BitVec.ofNat 96 (leNat (leBytes 12 h.toNat)) = h := by
    apply BitVec.eq_of_toNat_eq
    have := h.isLt
    rw [leNat_leBytes, BitVec.toNat_ofNat]; omega
  have hc : leNat (leBytes 4 (crc32c (leBytes 12 h.toNat ++ payload)).toNat) = (crc32c (leBytes 12 h.toNat ++ payload)).toNat := by
    have := (crc32c (leBytes 12 h.toNat ++ payload)).isLt
    rw [leNat_leBytes]; omega
  intro a
  simp only [rxFlit, t12, d12, t252, d252, len, hh, hc]
  simp only [ne_eq, not_true_eq_false, or_self, if_false]
  rfl

/-- A flit's first 96 bits by their two fields. -/
theorem head_parts (h : BitVec 96) : h.extractLsb' 42 54 ++ h.extractLsb' 0 42 = h := by
  apply BitVec.eq_of_getLsbD_eq
  intro i hi
  simp only [BitVec.getLsbD_append, BitVec.getLsbD_extractLsb']
  by_cases hl : i < 42
  · simp [hl]
  · have e : 42 + (i - 42) = i := by omega
    have e2 : i - 42 < 54 := by omega
    simp [hl, e, e2]
/-- A sealed flit by the fields of Table 10.2. -/
theorem sealFlit_fields (h : BitVec 96) (payload : List Byte) (hl : payload.length = 240) :
    sealFlit h payload = flitBytes (h.extractLsb' 0 42) (h.extractLsb' 42 54) payload (crc32c (leBytes 12 h.toNat ++ payload)) := by
  simp only [sealFlit, flitBytes, head_parts, List.take_of_length_le (show payload.length ≤ 240 by omega), padTo_full 240 payload hl]

end Sys2Proof.Laws
end

