-- ==== Sys2Proof/Laws/State.lean ====
section
/-! SUPPORT. What each named update of the state leaves in each field: one equation per field per update, so that no proof unfolds a record update. -/

namespace Sys2Proof.Machine

variable (s : State)

/-! ## setBlock -/

@[simp] theorem State.setBlock_pending (b : BlockId) (x : BlockState) : (s.setBlock b x).pending = s.pending := rfl
@[simp] theorem State.setBlock_mem (b : BlockId) (x : BlockState) : (s.setBlock b x).mem = s.mem := rfl
@[simp] theorem State.setBlock_bursts (b : BlockId) (x : BlockState) : (s.setBlock b x).bursts = s.bursts := rfl
@[simp] theorem State.setBlock_blocks (b : BlockId) (x : BlockState) : (s.setBlock b x).blocks = tSet s.blocks b.idx x := rfl
@[simp] theorem State.setBlock_regions (b : BlockId) (x : BlockState) : (s.setBlock b x).regions = s.regions := rfl
@[simp] theorem State.setBlock_parts (b : BlockId) (x : BlockState) : (s.setBlock b x).parts = s.parts := rfl
@[simp] theorem State.setBlock_stages (b : BlockId) (x : BlockState) : (s.setBlock b x).stages = s.stages := rfl
@[simp] theorem State.setBlock_notices (b : BlockId) (x : BlockState) : (s.setBlock b x).notices = s.notices := rfl
@[simp] theorem State.setBlock_drains (b : BlockId) (x : BlockState) : (s.setBlock b x).drains = s.drains := rfl
@[simp] theorem State.setBlock_rings (b : BlockId) (x : BlockState) : (s.setBlock b x).rings = s.rings := rfl
@[simp] theorem State.setBlock_relays (b : BlockId) (x : BlockState) : (s.setBlock b x).relays = s.relays := rfl
@[simp] theorem State.setBlock_nextRelay (b : BlockId) (x : BlockState) : (s.setBlock b x).nextRelay = s.nextRelay := rfl
@[simp] theorem State.setBlock_hubSends (b : BlockId) (x : BlockState) : (s.setBlock b x).hubSends = s.hubSends := rfl
@[simp] theorem State.setBlock_hubSeq (b : BlockId) (x : BlockState) : (s.setBlock b x).hubSeq = s.hubSeq := rfl
@[simp] theorem State.setBlock_closed (b : BlockId) (x : BlockState) : (s.setBlock b x).closed = s.closed := rfl
@[simp] theorem State.setBlock_lossLimitMs (b : BlockId) (x : BlockState) : (s.setBlock b x).lossLimitMs = s.lossLimitMs := rfl
@[simp] theorem State.setBlock_plans (b : BlockId) (x : BlockState) : (s.setBlock b x).plans = s.plans := rfl
@[simp] theorem State.setBlock_lastSteps (b : BlockId) (x : BlockState) : (s.setBlock b x).lastSteps = s.lastSteps := rfl
@[simp] theorem State.setBlock_groups (b : BlockId) (x : BlockState) : (s.setBlock b x).groups = s.groups := rfl
@[simp] theorem State.setBlock_jobs (b : BlockId) (x : BlockState) : (s.setBlock b x).jobs = s.jobs := rfl
@[simp] theorem State.setBlock_posts (b : BlockId) (x : BlockState) : (s.setBlock b x).posts = s.posts := rfl
@[simp] theorem State.setBlock_instances (b : BlockId) (x : BlockState) : (s.setBlock b x).instances = s.instances := rfl
@[simp] theorem State.setBlock_pieceCredits (b : BlockId) (x : BlockState) : (s.setBlock b x).pieceCredits = s.pieceCredits := rfl
@[simp] theorem State.setBlock_normDone (b : BlockId) (x : BlockState) : (s.setBlock b x).normDone = s.normDone := rfl
@[simp] theorem State.setBlock_scalars (b : BlockId) (x : BlockState) : (s.setBlock b x).scalars = s.scalars := rfl
@[simp] theorem State.setBlock_permutes (b : BlockId) (x : BlockState) : (s.setBlock b x).permutes = s.permutes := rfl
@[simp] theorem State.setBlock_msos (b : BlockId) (x : BlockState) : (s.setBlock b x).msos = s.msos := rfl
@[simp] theorem State.setBlock_classMap (b : BlockId) (x : BlockState) : (s.setBlock b x).classMap = s.classMap := rfl
@[simp] theorem State.setBlock_stackCtl (b : BlockId) (x : BlockState) : (s.setBlock b x).stackCtl = s.stackCtl := rfl
@[simp] theorem State.setBlock_preserved (b : BlockId) (x : BlockState) : (s.setBlock b x).preserved = s.preserved := rfl
@[simp] theorem State.setBlock_links (b : BlockId) (x : BlockState) : (s.setBlock b x).links = s.links := rfl
@[simp] theorem State.setBlock_routes (b : BlockId) (x : BlockState) : (s.setBlock b x).routes = s.routes := rfl
@[simp] theorem State.setBlock_hopLimit (b : BlockId) (x : BlockState) : (s.setBlock b x).hopLimit = s.hopLimit := rfl
@[simp] theorem State.setBlock_idValid (b : BlockId) (x : BlockState) : (s.setBlock b x).idValid = s.idValid := rfl
@[simp] theorem State.setBlock_deviceId (b : BlockId) (x : BlockState) : (s.setBlock b x).deviceId = s.deviceId := rfl
@[simp] theorem State.setBlock_guest (b : BlockId) (x : BlockState) : (s.setBlock b x).guest = s.guest := rfl
@[simp] theorem State.setBlock_scl (b : BlockId) (x : BlockState) : (s.setBlock b x).scl = s.scl := rfl
@[simp] theorem State.setBlock_epoch (b : BlockId) (x : BlockState) : (s.setBlock b x).epoch = s.epoch := rfl
@[simp] theorem State.setBlock_fl (b : BlockId) (x : BlockState) : (s.setBlock b x).fl = s.fl := rfl
@[simp] theorem State.setBlock_seqs (b : BlockId) (x : BlockState) : (s.setBlock b x).seqs = s.seqs := rfl
@[simp] theorem State.setBlock_events (b : BlockId) (x : BlockState) : (s.setBlock b x).events = s.events := rfl
@[simp] theorem State.setBlock_faults (b : BlockId) (x : BlockState) : (s.setBlock b x).faults = s.faults := rfl
@[simp] theorem State.setBlock_reset_ (b : BlockId) (x : BlockState) : (s.setBlock b x).reset_ = s.reset_ := rfl
@[simp] theorem State.setBlock_power (b : BlockId) (x : BlockState) : (s.setBlock b x).power = s.power := rfl
@[simp] theorem State.setBlock_lc (b : BlockId) (x : BlockState) : (s.setBlock b x).lc = s.lc := rfl
@[simp] theorem State.setBlock_hub (b : BlockId) (x : BlockState) : (s.setBlock b x).hub = s.hub := rfl
@[simp] theorem State.setBlock_collectNext (b : BlockId) (x : BlockState) : (s.setBlock b x).collectNext = s.collectNext := rfl
@[simp] theorem State.setBlock_inflight (b : BlockId) (x : BlockState) : (s.setBlock b x).inflight = s.inflight := rfl
@[simp] theorem State.setBlock_out (b : BlockId) (x : BlockState) : (s.setBlock b x).out = s.out := rfl
@[simp] theorem State.setBlock_freeCount (b : BlockId) (x : BlockState) : (s.setBlock b x).freeCount = s.freeCount := rfl

/-! ## setRegion -/

@[simp] theorem State.setRegion_pending (r : RegionId) (x : RegionState) : (s.setRegion r x).pending = s.pending := rfl
@[simp] theorem State.setRegion_mem (r : RegionId) (x : RegionState) : (s.setRegion r x).mem = s.mem := rfl
@[simp] theorem State.setRegion_bursts (r : RegionId) (x : RegionState) : (s.setRegion r x).bursts = s.bursts := rfl
@[simp] theorem State.setRegion_blocks (r : RegionId) (x : RegionState) : (s.setRegion r x).blocks = s.blocks := rfl
@[simp] theorem State.setRegion_regions (r : RegionId) (x : RegionState) : (s.setRegion r x).regions = tSet s.regions r.toNat x := rfl
@[simp] theorem State.setRegion_parts (r : RegionId) (x : RegionState) : (s.setRegion r x).parts = s.parts := rfl
@[simp] theorem State.setRegion_stages (r : RegionId) (x : RegionState) : (s.setRegion r x).stages = s.stages := rfl
@[simp] theorem State.setRegion_notices (r : RegionId) (x : RegionState) : (s.setRegion r x).notices = s.notices := rfl
@[simp] theorem State.setRegion_drains (r : RegionId) (x : RegionState) : (s.setRegion r x).drains = s.drains := rfl
@[simp] theorem State.setRegion_rings (r : RegionId) (x : RegionState) : (s.setRegion r x).rings = s.rings := rfl
@[simp] theorem State.setRegion_relays (r : RegionId) (x : RegionState) : (s.setRegion r x).relays = s.relays := rfl
@[simp] theorem State.setRegion_nextRelay (r : RegionId) (x : RegionState) : (s.setRegion r x).nextRelay = s.nextRelay := rfl
@[simp] theorem State.setRegion_hubSends (r : RegionId) (x : RegionState) : (s.setRegion r x).hubSends = s.hubSends := rfl
@[simp] theorem State.setRegion_hubSeq (r : RegionId) (x : RegionState) : (s.setRegion r x).hubSeq = s.hubSeq := rfl
@[simp] theorem State.setRegion_closed (r : RegionId) (x : RegionState) : (s.setRegion r x).closed = s.closed := rfl
@[simp] theorem State.setRegion_lossLimitMs (r : RegionId) (x : RegionState) : (s.setRegion r x).lossLimitMs = s.lossLimitMs := rfl
@[simp] theorem State.setRegion_plans (r : RegionId) (x : RegionState) : (s.setRegion r x).plans = s.plans := rfl
@[simp] theorem State.setRegion_lastSteps (r : RegionId) (x : RegionState) : (s.setRegion r x).lastSteps = s.lastSteps := rfl
@[simp] theorem State.setRegion_groups (r : RegionId) (x : RegionState) : (s.setRegion r x).groups = s.groups := rfl
@[simp] theorem State.setRegion_jobs (r : RegionId) (x : RegionState) : (s.setRegion r x).jobs = s.jobs := rfl
@[simp] theorem State.setRegion_posts (r : RegionId) (x : RegionState) : (s.setRegion r x).posts = s.posts := rfl
@[simp] theorem State.setRegion_instances (r : RegionId) (x : RegionState) : (s.setRegion r x).instances = s.instances := rfl
@[simp] theorem State.setRegion_pieceCredits (r : RegionId) (x : RegionState) : (s.setRegion r x).pieceCredits = s.pieceCredits := rfl
@[simp] theorem State.setRegion_normDone (r : RegionId) (x : RegionState) : (s.setRegion r x).normDone = s.normDone := rfl
@[simp] theorem State.setRegion_scalars (r : RegionId) (x : RegionState) : (s.setRegion r x).scalars = s.scalars := rfl
@[simp] theorem State.setRegion_permutes (r : RegionId) (x : RegionState) : (s.setRegion r x).permutes = s.permutes := rfl
@[simp] theorem State.setRegion_msos (r : RegionId) (x : RegionState) : (s.setRegion r x).msos = s.msos := rfl
@[simp] theorem State.setRegion_classMap (r : RegionId) (x : RegionState) : (s.setRegion r x).classMap = s.classMap := rfl
@[simp] theorem State.setRegion_stackCtl (r : RegionId) (x : RegionState) : (s.setRegion r x).stackCtl = s.stackCtl := rfl
@[simp] theorem State.setRegion_preserved (r : RegionId) (x : RegionState) : (s.setRegion r x).preserved = s.preserved := rfl
@[simp] theorem State.setRegion_links (r : RegionId) (x : RegionState) : (s.setRegion r x).links = s.links := rfl
@[simp] theorem State.setRegion_routes (r : RegionId) (x : RegionState) : (s.setRegion r x).routes = s.routes := rfl
@[simp] theorem State.setRegion_hopLimit (r : RegionId) (x : RegionState) : (s.setRegion r x).hopLimit = s.hopLimit := rfl
@[simp] theorem State.setRegion_idValid (r : RegionId) (x : RegionState) : (s.setRegion r x).idValid = s.idValid := rfl
@[simp] theorem State.setRegion_deviceId (r : RegionId) (x : RegionState) : (s.setRegion r x).deviceId = s.deviceId := rfl
@[simp] theorem State.setRegion_guest (r : RegionId) (x : RegionState) : (s.setRegion r x).guest = s.guest := rfl
@[simp] theorem State.setRegion_scl (r : RegionId) (x : RegionState) : (s.setRegion r x).scl = s.scl := rfl
@[simp] theorem State.setRegion_epoch (r : RegionId) (x : RegionState) : (s.setRegion r x).epoch = s.epoch := rfl
@[simp] theorem State.setRegion_fl (r : RegionId) (x : RegionState) : (s.setRegion r x).fl = s.fl := rfl
@[simp] theorem State.setRegion_seqs (r : RegionId) (x : RegionState) : (s.setRegion r x).seqs = s.seqs := rfl
@[simp] theorem State.setRegion_events (r : RegionId) (x : RegionState) : (s.setRegion r x).events = s.events := rfl
@[simp] theorem State.setRegion_faults (r : RegionId) (x : RegionState) : (s.setRegion r x).faults = s.faults := rfl
@[simp] theorem State.setRegion_reset_ (r : RegionId) (x : RegionState) : (s.setRegion r x).reset_ = s.reset_ := rfl
@[simp] theorem State.setRegion_power (r : RegionId) (x : RegionState) : (s.setRegion r x).power = s.power := rfl
@[simp] theorem State.setRegion_lc (r : RegionId) (x : RegionState) : (s.setRegion r x).lc = s.lc := rfl
@[simp] theorem State.setRegion_hub (r : RegionId) (x : RegionState) : (s.setRegion r x).hub = s.hub := rfl
@[simp] theorem State.setRegion_collectNext (r : RegionId) (x : RegionState) : (s.setRegion r x).collectNext = s.collectNext := rfl
@[simp] theorem State.setRegion_inflight (r : RegionId) (x : RegionState) : (s.setRegion r x).inflight = s.inflight := rfl
@[simp] theorem State.setRegion_out (r : RegionId) (x : RegionState) : (s.setRegion r x).out = s.out := rfl
@[simp] theorem State.setRegion_freeCount (r : RegionId) (x : RegionState) : (s.setRegion r x).freeCount = s.freeCount := rfl

/-! ## setPart -/

@[simp] theorem State.setPart_pending (p : PartId) (x : Partition) : (s.setPart p x).pending = s.pending := rfl
@[simp] theorem State.setPart_mem (p : PartId) (x : Partition) : (s.setPart p x).mem = s.mem := rfl
@[simp] theorem State.setPart_bursts (p : PartId) (x : Partition) : (s.setPart p x).bursts = s.bursts := rfl
@[simp] theorem State.setPart_blocks (p : PartId) (x : Partition) : (s.setPart p x).blocks = s.blocks := rfl
@[simp] theorem State.setPart_regions (p : PartId) (x : Partition) : (s.setPart p x).regions = s.regions := rfl
@[simp] theorem State.setPart_parts (p : PartId) (x : Partition) : (s.setPart p x).parts = tSet s.parts p.toNat x := rfl
@[simp] theorem State.setPart_stages (p : PartId) (x : Partition) : (s.setPart p x).stages = s.stages := rfl
@[simp] theorem State.setPart_notices (p : PartId) (x : Partition) : (s.setPart p x).notices = s.notices := rfl
@[simp] theorem State.setPart_drains (p : PartId) (x : Partition) : (s.setPart p x).drains = s.drains := rfl
@[simp] theorem State.setPart_rings (p : PartId) (x : Partition) : (s.setPart p x).rings = s.rings := rfl
@[simp] theorem State.setPart_relays (p : PartId) (x : Partition) : (s.setPart p x).relays = s.relays := rfl
@[simp] theorem State.setPart_nextRelay (p : PartId) (x : Partition) : (s.setPart p x).nextRelay = s.nextRelay := rfl
@[simp] theorem State.setPart_hubSends (p : PartId) (x : Partition) : (s.setPart p x).hubSends = s.hubSends := rfl
@[simp] theorem State.setPart_hubSeq (p : PartId) (x : Partition) : (s.setPart p x).hubSeq = s.hubSeq := rfl
@[simp] theorem State.setPart_closed (p : PartId) (x : Partition) : (s.setPart p x).closed = s.closed := rfl
@[simp] theorem State.setPart_lossLimitMs (p : PartId) (x : Partition) : (s.setPart p x).lossLimitMs = s.lossLimitMs := rfl
@[simp] theorem State.setPart_plans (p : PartId) (x : Partition) : (s.setPart p x).plans = s.plans := rfl
@[simp] theorem State.setPart_lastSteps (p : PartId) (x : Partition) : (s.setPart p x).lastSteps = s.lastSteps := rfl
@[simp] theorem State.setPart_groups (p : PartId) (x : Partition) : (s.setPart p x).groups = s.groups := rfl
@[simp] theorem State.setPart_jobs (p : PartId) (x : Partition) : (s.setPart p x).jobs = s.jobs := rfl
@[simp] theorem State.setPart_posts (p : PartId) (x : Partition) : (s.setPart p x).posts = s.posts := rfl
@[simp] theorem State.setPart_instances (p : PartId) (x : Partition) : (s.setPart p x).instances = s.instances := rfl
@[simp] theorem State.setPart_pieceCredits (p : PartId) (x : Partition) : (s.setPart p x).pieceCredits = s.pieceCredits := rfl
@[simp] theorem State.setPart_normDone (p : PartId) (x : Partition) : (s.setPart p x).normDone = s.normDone := rfl
@[simp] theorem State.setPart_scalars (p : PartId) (x : Partition) : (s.setPart p x).scalars = s.scalars := rfl
@[simp] theorem State.setPart_permutes (p : PartId) (x : Partition) : (s.setPart p x).permutes = s.permutes := rfl
@[simp] theorem State.setPart_msos (p : PartId) (x : Partition) : (s.setPart p x).msos = s.msos := rfl
@[simp] theorem State.setPart_classMap (p : PartId) (x : Partition) : (s.setPart p x).classMap = s.classMap := rfl
@[simp] theorem State.setPart_stackCtl (p : PartId) (x : Partition) : (s.setPart p x).stackCtl = s.stackCtl := rfl
@[simp] theorem State.setPart_preserved (p : PartId) (x : Partition) : (s.setPart p x).preserved = s.preserved := rfl
@[simp] theorem State.setPart_links (p : PartId) (x : Partition) : (s.setPart p x).links = s.links := rfl
@[simp] theorem State.setPart_routes (p : PartId) (x : Partition) : (s.setPart p x).routes = s.routes := rfl
@[simp] theorem State.setPart_hopLimit (p : PartId) (x : Partition) : (s.setPart p x).hopLimit = s.hopLimit := rfl
@[simp] theorem State.setPart_idValid (p : PartId) (x : Partition) : (s.setPart p x).idValid = s.idValid := rfl
@[simp] theorem State.setPart_deviceId (p : PartId) (x : Partition) : (s.setPart p x).deviceId = s.deviceId := rfl
@[simp] theorem State.setPart_guest (p : PartId) (x : Partition) : (s.setPart p x).guest = s.guest := rfl
@[simp] theorem State.setPart_scl (p : PartId) (x : Partition) : (s.setPart p x).scl = s.scl := rfl
@[simp] theorem State.setPart_epoch (p : PartId) (x : Partition) : (s.setPart p x).epoch = s.epoch := rfl
@[simp] theorem State.setPart_fl (p : PartId) (x : Partition) : (s.setPart p x).fl = s.fl := rfl
@[simp] theorem State.setPart_seqs (p : PartId) (x : Partition) : (s.setPart p x).seqs = s.seqs := rfl
@[simp] theorem State.setPart_events (p : PartId) (x : Partition) : (s.setPart p x).events = s.events := rfl
@[simp] theorem State.setPart_faults (p : PartId) (x : Partition) : (s.setPart p x).faults = s.faults := rfl
@[simp] theorem State.setPart_reset_ (p : PartId) (x : Partition) : (s.setPart p x).reset_ = s.reset_ := rfl
@[simp] theorem State.setPart_power (p : PartId) (x : Partition) : (s.setPart p x).power = s.power := rfl
@[simp] theorem State.setPart_lc (p : PartId) (x : Partition) : (s.setPart p x).lc = s.lc := rfl
@[simp] theorem State.setPart_hub (p : PartId) (x : Partition) : (s.setPart p x).hub = s.hub := rfl
@[simp] theorem State.setPart_collectNext (p : PartId) (x : Partition) : (s.setPart p x).collectNext = s.collectNext := rfl
@[simp] theorem State.setPart_inflight (p : PartId) (x : Partition) : (s.setPart p x).inflight = s.inflight := rfl
@[simp] theorem State.setPart_out (p : PartId) (x : Partition) : (s.setPart p x).out = s.out := rfl
@[simp] theorem State.setPart_freeCount (p : PartId) (x : Partition) : (s.setPart p x).freeCount = s.freeCount := rfl

/-! ## setStage -/

@[simp] theorem State.setStage_pending (e : StageId) (x : StageEntry) : (s.setStage e x).pending = s.pending := rfl
@[simp] theorem State.setStage_mem (e : StageId) (x : StageEntry) : (s.setStage e x).mem = s.mem := rfl
@[simp] theorem State.setStage_bursts (e : StageId) (x : StageEntry) : (s.setStage e x).bursts = s.bursts := rfl
@[simp] theorem State.setStage_blocks (e : StageId) (x : StageEntry) : (s.setStage e x).blocks = s.blocks := rfl
@[simp] theorem State.setStage_regions (e : StageId) (x : StageEntry) : (s.setStage e x).regions = s.regions := rfl
@[simp] theorem State.setStage_parts (e : StageId) (x : StageEntry) : (s.setStage e x).parts = s.parts := rfl
@[simp] theorem State.setStage_stages (e : StageId) (x : StageEntry) : (s.setStage e x).stages = tSet s.stages e.toNat x := rfl
@[simp] theorem State.setStage_notices (e : StageId) (x : StageEntry) : (s.setStage e x).notices = s.notices := rfl
@[simp] theorem State.setStage_drains (e : StageId) (x : StageEntry) : (s.setStage e x).drains = s.drains := rfl
@[simp] theorem State.setStage_rings (e : StageId) (x : StageEntry) : (s.setStage e x).rings = s.rings := rfl
@[simp] theorem State.setStage_relays (e : StageId) (x : StageEntry) : (s.setStage e x).relays = s.relays := rfl
@[simp] theorem State.setStage_nextRelay (e : StageId) (x : StageEntry) : (s.setStage e x).nextRelay = s.nextRelay := rfl
@[simp] theorem State.setStage_hubSends (e : StageId) (x : StageEntry) : (s.setStage e x).hubSends = s.hubSends := rfl
@[simp] theorem State.setStage_hubSeq (e : StageId) (x : StageEntry) : (s.setStage e x).hubSeq = s.hubSeq := rfl
@[simp] theorem State.setStage_closed (e : StageId) (x : StageEntry) : (s.setStage e x).closed = s.closed := rfl
@[simp] theorem State.setStage_lossLimitMs (e : StageId) (x : StageEntry) : (s.setStage e x).lossLimitMs = s.lossLimitMs := rfl
@[simp] theorem State.setStage_plans (e : StageId) (x : StageEntry) : (s.setStage e x).plans = s.plans := rfl
@[simp] theorem State.setStage_lastSteps (e : StageId) (x : StageEntry) : (s.setStage e x).lastSteps = s.lastSteps := rfl
@[simp] theorem State.setStage_groups (e : StageId) (x : StageEntry) : (s.setStage e x).groups = s.groups := rfl
@[simp] theorem State.setStage_jobs (e : StageId) (x : StageEntry) : (s.setStage e x).jobs = s.jobs := rfl
@[simp] theorem State.setStage_posts (e : StageId) (x : StageEntry) : (s.setStage e x).posts = s.posts := rfl
@[simp] theorem State.setStage_instances (e : StageId) (x : StageEntry) : (s.setStage e x).instances = s.instances := rfl
@[simp] theorem State.setStage_pieceCredits (e : StageId) (x : StageEntry) : (s.setStage e x).pieceCredits = s.pieceCredits := rfl
@[simp] theorem State.setStage_normDone (e : StageId) (x : StageEntry) : (s.setStage e x).normDone = s.normDone := rfl
@[simp] theorem State.setStage_scalars (e : StageId) (x : StageEntry) : (s.setStage e x).scalars = s.scalars := rfl
@[simp] theorem State.setStage_permutes (e : StageId) (x : StageEntry) : (s.setStage e x).permutes = s.permutes := rfl
@[simp] theorem State.setStage_msos (e : StageId) (x : StageEntry) : (s.setStage e x).msos = s.msos := rfl
@[simp] theorem State.setStage_classMap (e : StageId) (x : StageEntry) : (s.setStage e x).classMap = s.classMap := rfl
@[simp] theorem State.setStage_stackCtl (e : StageId) (x : StageEntry) : (s.setStage e x).stackCtl = s.stackCtl := rfl
@[simp] theorem State.setStage_preserved (e : StageId) (x : StageEntry) : (s.setStage e x).preserved = s.preserved := rfl
@[simp] theorem State.setStage_links (e : StageId) (x : StageEntry) : (s.setStage e x).links = s.links := rfl
@[simp] theorem State.setStage_routes (e : StageId) (x : StageEntry) : (s.setStage e x).routes = s.routes := rfl
@[simp] theorem State.setStage_hopLimit (e : StageId) (x : StageEntry) : (s.setStage e x).hopLimit = s.hopLimit := rfl
@[simp] theorem State.setStage_idValid (e : StageId) (x : StageEntry) : (s.setStage e x).idValid = s.idValid := rfl
@[simp] theorem State.setStage_deviceId (e : StageId) (x : StageEntry) : (s.setStage e x).deviceId = s.deviceId := rfl
@[simp] theorem State.setStage_guest (e : StageId) (x : StageEntry) : (s.setStage e x).guest = s.guest := rfl
@[simp] theorem State.setStage_scl (e : StageId) (x : StageEntry) : (s.setStage e x).scl = s.scl := rfl
@[simp] theorem State.setStage_epoch (e : StageId) (x : StageEntry) : (s.setStage e x).epoch = s.epoch := rfl
@[simp] theorem State.setStage_fl (e : StageId) (x : StageEntry) : (s.setStage e x).fl = s.fl := rfl
@[simp] theorem State.setStage_seqs (e : StageId) (x : StageEntry) : (s.setStage e x).seqs = s.seqs := rfl
@[simp] theorem State.setStage_events (e : StageId) (x : StageEntry) : (s.setStage e x).events = s.events := rfl
@[simp] theorem State.setStage_faults (e : StageId) (x : StageEntry) : (s.setStage e x).faults = s.faults := rfl
@[simp] theorem State.setStage_reset_ (e : StageId) (x : StageEntry) : (s.setStage e x).reset_ = s.reset_ := rfl
@[simp] theorem State.setStage_power (e : StageId) (x : StageEntry) : (s.setStage e x).power = s.power := rfl
@[simp] theorem State.setStage_lc (e : StageId) (x : StageEntry) : (s.setStage e x).lc = s.lc := rfl
@[simp] theorem State.setStage_hub (e : StageId) (x : StageEntry) : (s.setStage e x).hub = s.hub := rfl
@[simp] theorem State.setStage_collectNext (e : StageId) (x : StageEntry) : (s.setStage e x).collectNext = s.collectNext := rfl
@[simp] theorem State.setStage_inflight (e : StageId) (x : StageEntry) : (s.setStage e x).inflight = s.inflight := rfl
@[simp] theorem State.setStage_out (e : StageId) (x : StageEntry) : (s.setStage e x).out = s.out := rfl
@[simp] theorem State.setStage_freeCount (e : StageId) (x : StageEntry) : (s.setStage e x).freeCount = s.freeCount := rfl

/-! ## setStack -/

@[simp] theorem State.setStack_pending (i : Nat) (x : StackState) : (s.setStack i x).pending = s.pending := rfl
@[simp] theorem State.setStack_mem (i : Nat) (x : StackState) : (s.setStack i x).mem = s.mem := rfl
@[simp] theorem State.setStack_bursts (i : Nat) (x : StackState) : (s.setStack i x).bursts = s.bursts := rfl
@[simp] theorem State.setStack_blocks (i : Nat) (x : StackState) : (s.setStack i x).blocks = s.blocks := rfl
@[simp] theorem State.setStack_regions (i : Nat) (x : StackState) : (s.setStack i x).regions = s.regions := rfl
@[simp] theorem State.setStack_parts (i : Nat) (x : StackState) : (s.setStack i x).parts = s.parts := rfl
@[simp] theorem State.setStack_stages (i : Nat) (x : StackState) : (s.setStack i x).stages = s.stages := rfl
@[simp] theorem State.setStack_notices (i : Nat) (x : StackState) : (s.setStack i x).notices = s.notices := rfl
@[simp] theorem State.setStack_drains (i : Nat) (x : StackState) : (s.setStack i x).drains = s.drains := rfl
@[simp] theorem State.setStack_rings (i : Nat) (x : StackState) : (s.setStack i x).rings = s.rings := rfl
@[simp] theorem State.setStack_relays (i : Nat) (x : StackState) : (s.setStack i x).relays = s.relays := rfl
@[simp] theorem State.setStack_nextRelay (i : Nat) (x : StackState) : (s.setStack i x).nextRelay = s.nextRelay := rfl
@[simp] theorem State.setStack_hubSends (i : Nat) (x : StackState) : (s.setStack i x).hubSends = s.hubSends := rfl
@[simp] theorem State.setStack_hubSeq (i : Nat) (x : StackState) : (s.setStack i x).hubSeq = s.hubSeq := rfl
@[simp] theorem State.setStack_closed (i : Nat) (x : StackState) : (s.setStack i x).closed = s.closed := rfl
@[simp] theorem State.setStack_lossLimitMs (i : Nat) (x : StackState) : (s.setStack i x).lossLimitMs = s.lossLimitMs := rfl
@[simp] theorem State.setStack_plans (i : Nat) (x : StackState) : (s.setStack i x).plans = s.plans := rfl
@[simp] theorem State.setStack_lastSteps (i : Nat) (x : StackState) : (s.setStack i x).lastSteps = s.lastSteps := rfl
@[simp] theorem State.setStack_groups (i : Nat) (x : StackState) : (s.setStack i x).groups = s.groups := rfl
@[simp] theorem State.setStack_jobs (i : Nat) (x : StackState) : (s.setStack i x).jobs = s.jobs := rfl
@[simp] theorem State.setStack_posts (i : Nat) (x : StackState) : (s.setStack i x).posts = s.posts := rfl
@[simp] theorem State.setStack_instances (i : Nat) (x : StackState) : (s.setStack i x).instances = s.instances := rfl
@[simp] theorem State.setStack_pieceCredits (i : Nat) (x : StackState) : (s.setStack i x).pieceCredits = s.pieceCredits := rfl
@[simp] theorem State.setStack_normDone (i : Nat) (x : StackState) : (s.setStack i x).normDone = s.normDone := rfl
@[simp] theorem State.setStack_scalars (i : Nat) (x : StackState) : (s.setStack i x).scalars = s.scalars := rfl
@[simp] theorem State.setStack_permutes (i : Nat) (x : StackState) : (s.setStack i x).permutes = s.permutes := rfl
@[simp] theorem State.setStack_msos (i : Nat) (x : StackState) : (s.setStack i x).msos = s.msos := rfl
@[simp] theorem State.setStack_classMap (i : Nat) (x : StackState) : (s.setStack i x).classMap = s.classMap := rfl
@[simp] theorem State.setStack_stackCtl (i : Nat) (x : StackState) : (s.setStack i x).stackCtl = tSet s.stackCtl i x := rfl
@[simp] theorem State.setStack_preserved (i : Nat) (x : StackState) : (s.setStack i x).preserved = s.preserved := rfl
@[simp] theorem State.setStack_links (i : Nat) (x : StackState) : (s.setStack i x).links = s.links := rfl
@[simp] theorem State.setStack_routes (i : Nat) (x : StackState) : (s.setStack i x).routes = s.routes := rfl
@[simp] theorem State.setStack_hopLimit (i : Nat) (x : StackState) : (s.setStack i x).hopLimit = s.hopLimit := rfl
@[simp] theorem State.setStack_idValid (i : Nat) (x : StackState) : (s.setStack i x).idValid = s.idValid := rfl
@[simp] theorem State.setStack_deviceId (i : Nat) (x : StackState) : (s.setStack i x).deviceId = s.deviceId := rfl
@[simp] theorem State.setStack_guest (i : Nat) (x : StackState) : (s.setStack i x).guest = s.guest := rfl
@[simp] theorem State.setStack_scl (i : Nat) (x : StackState) : (s.setStack i x).scl = s.scl := rfl
@[simp] theorem State.setStack_epoch (i : Nat) (x : StackState) : (s.setStack i x).epoch = s.epoch := rfl
@[simp] theorem State.setStack_fl (i : Nat) (x : StackState) : (s.setStack i x).fl = s.fl := rfl
@[simp] theorem State.setStack_seqs (i : Nat) (x : StackState) : (s.setStack i x).seqs = s.seqs := rfl
@[simp] theorem State.setStack_events (i : Nat) (x : StackState) : (s.setStack i x).events = s.events := rfl
@[simp] theorem State.setStack_faults (i : Nat) (x : StackState) : (s.setStack i x).faults = s.faults := rfl
@[simp] theorem State.setStack_reset_ (i : Nat) (x : StackState) : (s.setStack i x).reset_ = s.reset_ := rfl
@[simp] theorem State.setStack_power (i : Nat) (x : StackState) : (s.setStack i x).power = s.power := rfl
@[simp] theorem State.setStack_lc (i : Nat) (x : StackState) : (s.setStack i x).lc = s.lc := rfl
@[simp] theorem State.setStack_hub (i : Nat) (x : StackState) : (s.setStack i x).hub = s.hub := rfl
@[simp] theorem State.setStack_collectNext (i : Nat) (x : StackState) : (s.setStack i x).collectNext = s.collectNext := rfl
@[simp] theorem State.setStack_inflight (i : Nat) (x : StackState) : (s.setStack i x).inflight = s.inflight := rfl
@[simp] theorem State.setStack_out (i : Nat) (x : StackState) : (s.setStack i x).out = s.out := rfl
@[simp] theorem State.setStack_freeCount (i : Nat) (x : StackState) : (s.setStack i x).freeCount = s.freeCount := rfl

/-! ## setLink -/

@[simp] theorem State.setLink_pending (l : LinkId) (x : LinkState) : (s.setLink l x).pending = s.pending := rfl
@[simp] theorem State.setLink_mem (l : LinkId) (x : LinkState) : (s.setLink l x).mem = s.mem := rfl
@[simp] theorem State.setLink_bursts (l : LinkId) (x : LinkState) : (s.setLink l x).bursts = s.bursts := rfl
@[simp] theorem State.setLink_blocks (l : LinkId) (x : LinkState) : (s.setLink l x).blocks = s.blocks := rfl
@[simp] theorem State.setLink_regions (l : LinkId) (x : LinkState) : (s.setLink l x).regions = s.regions := rfl
@[simp] theorem State.setLink_parts (l : LinkId) (x : LinkState) : (s.setLink l x).parts = s.parts := rfl
@[simp] theorem State.setLink_stages (l : LinkId) (x : LinkState) : (s.setLink l x).stages = s.stages := rfl
@[simp] theorem State.setLink_notices (l : LinkId) (x : LinkState) : (s.setLink l x).notices = s.notices := rfl
@[simp] theorem State.setLink_drains (l : LinkId) (x : LinkState) : (s.setLink l x).drains = s.drains := rfl
@[simp] theorem State.setLink_rings (l : LinkId) (x : LinkState) : (s.setLink l x).rings = s.rings := rfl
@[simp] theorem State.setLink_relays (l : LinkId) (x : LinkState) : (s.setLink l x).relays = s.relays := rfl
@[simp] theorem State.setLink_nextRelay (l : LinkId) (x : LinkState) : (s.setLink l x).nextRelay = s.nextRelay := rfl
@[simp] theorem State.setLink_hubSends (l : LinkId) (x : LinkState) : (s.setLink l x).hubSends = s.hubSends := rfl
@[simp] theorem State.setLink_hubSeq (l : LinkId) (x : LinkState) : (s.setLink l x).hubSeq = s.hubSeq := rfl
@[simp] theorem State.setLink_closed (l : LinkId) (x : LinkState) : (s.setLink l x).closed = s.closed := rfl
@[simp] theorem State.setLink_lossLimitMs (l : LinkId) (x : LinkState) : (s.setLink l x).lossLimitMs = s.lossLimitMs := rfl
@[simp] theorem State.setLink_plans (l : LinkId) (x : LinkState) : (s.setLink l x).plans = s.plans := rfl
@[simp] theorem State.setLink_lastSteps (l : LinkId) (x : LinkState) : (s.setLink l x).lastSteps = s.lastSteps := rfl
@[simp] theorem State.setLink_groups (l : LinkId) (x : LinkState) : (s.setLink l x).groups = s.groups := rfl
@[simp] theorem State.setLink_jobs (l : LinkId) (x : LinkState) : (s.setLink l x).jobs = s.jobs := rfl
@[simp] theorem State.setLink_posts (l : LinkId) (x : LinkState) : (s.setLink l x).posts = s.posts := rfl
@[simp] theorem State.setLink_instances (l : LinkId) (x : LinkState) : (s.setLink l x).instances = s.instances := rfl
@[simp] theorem State.setLink_pieceCredits (l : LinkId) (x : LinkState) : (s.setLink l x).pieceCredits = s.pieceCredits := rfl
@[simp] theorem State.setLink_normDone (l : LinkId) (x : LinkState) : (s.setLink l x).normDone = s.normDone := rfl
@[simp] theorem State.setLink_scalars (l : LinkId) (x : LinkState) : (s.setLink l x).scalars = s.scalars := rfl
@[simp] theorem State.setLink_permutes (l : LinkId) (x : LinkState) : (s.setLink l x).permutes = s.permutes := rfl
@[simp] theorem State.setLink_msos (l : LinkId) (x : LinkState) : (s.setLink l x).msos = s.msos := rfl
@[simp] theorem State.setLink_classMap (l : LinkId) (x : LinkState) : (s.setLink l x).classMap = s.classMap := rfl
@[simp] theorem State.setLink_stackCtl (l : LinkId) (x : LinkState) : (s.setLink l x).stackCtl = s.stackCtl := rfl
@[simp] theorem State.setLink_preserved (l : LinkId) (x : LinkState) : (s.setLink l x).preserved = s.preserved := rfl
@[simp] theorem State.setLink_links (l : LinkId) (x : LinkState) : (s.setLink l x).links = tSet s.links l x := rfl
@[simp] theorem State.setLink_routes (l : LinkId) (x : LinkState) : (s.setLink l x).routes = s.routes := rfl
@[simp] theorem State.setLink_hopLimit (l : LinkId) (x : LinkState) : (s.setLink l x).hopLimit = s.hopLimit := rfl
@[simp] theorem State.setLink_idValid (l : LinkId) (x : LinkState) : (s.setLink l x).idValid = s.idValid := rfl
@[simp] theorem State.setLink_deviceId (l : LinkId) (x : LinkState) : (s.setLink l x).deviceId = s.deviceId := rfl
@[simp] theorem State.setLink_guest (l : LinkId) (x : LinkState) : (s.setLink l x).guest = s.guest := rfl
@[simp] theorem State.setLink_scl (l : LinkId) (x : LinkState) : (s.setLink l x).scl = s.scl := rfl
@[simp] theorem State.setLink_epoch (l : LinkId) (x : LinkState) : (s.setLink l x).epoch = s.epoch := rfl
@[simp] theorem State.setLink_fl (l : LinkId) (x : LinkState) : (s.setLink l x).fl = s.fl := rfl
@[simp] theorem State.setLink_seqs (l : LinkId) (x : LinkState) : (s.setLink l x).seqs = s.seqs := rfl
@[simp] theorem State.setLink_events (l : LinkId) (x : LinkState) : (s.setLink l x).events = s.events := rfl
@[simp] theorem State.setLink_faults (l : LinkId) (x : LinkState) : (s.setLink l x).faults = s.faults := rfl
@[simp] theorem State.setLink_reset_ (l : LinkId) (x : LinkState) : (s.setLink l x).reset_ = s.reset_ := rfl
@[simp] theorem State.setLink_power (l : LinkId) (x : LinkState) : (s.setLink l x).power = s.power := rfl
@[simp] theorem State.setLink_lc (l : LinkId) (x : LinkState) : (s.setLink l x).lc = s.lc := rfl
@[simp] theorem State.setLink_hub (l : LinkId) (x : LinkState) : (s.setLink l x).hub = s.hub := rfl
@[simp] theorem State.setLink_collectNext (l : LinkId) (x : LinkState) : (s.setLink l x).collectNext = s.collectNext := rfl
@[simp] theorem State.setLink_inflight (l : LinkId) (x : LinkState) : (s.setLink l x).inflight = s.inflight := rfl
@[simp] theorem State.setLink_out (l : LinkId) (x : LinkState) : (s.setLink l x).out = s.out := rfl
@[simp] theorem State.setLink_freeCount (l : LinkId) (x : LinkState) : (s.setLink l x).freeCount = s.freeCount := rfl

/-! ## setRing -/

@[simp] theorem State.setRing_pending (q : QAddr) (x : Ring) : (s.setRing q x).pending = s.pending := rfl
@[simp] theorem State.setRing_mem (q : QAddr) (x : Ring) : (s.setRing q x).mem = s.mem := rfl
@[simp] theorem State.setRing_bursts (q : QAddr) (x : Ring) : (s.setRing q x).bursts = s.bursts := rfl
@[simp] theorem State.setRing_blocks (q : QAddr) (x : Ring) : (s.setRing q x).blocks = s.blocks := rfl
@[simp] theorem State.setRing_regions (q : QAddr) (x : Ring) : (s.setRing q x).regions = s.regions := rfl
@[simp] theorem State.setRing_parts (q : QAddr) (x : Ring) : (s.setRing q x).parts = s.parts := rfl
@[simp] theorem State.setRing_stages (q : QAddr) (x : Ring) : (s.setRing q x).stages = s.stages := rfl
@[simp] theorem State.setRing_notices (q : QAddr) (x : Ring) : (s.setRing q x).notices = s.notices := rfl
@[simp] theorem State.setRing_drains (q : QAddr) (x : Ring) : (s.setRing q x).drains = s.drains := rfl
@[simp] theorem State.setRing_rings (q : QAddr) (x : Ring) : (s.setRing q x).rings = tSet s.rings (q.extractLsb' 1 15).toNat x := rfl
@[simp] theorem State.setRing_relays (q : QAddr) (x : Ring) : (s.setRing q x).relays = s.relays := rfl
@[simp] theorem State.setRing_nextRelay (q : QAddr) (x : Ring) : (s.setRing q x).nextRelay = s.nextRelay := rfl
@[simp] theorem State.setRing_hubSends (q : QAddr) (x : Ring) : (s.setRing q x).hubSends = s.hubSends := rfl
@[simp] theorem State.setRing_hubSeq (q : QAddr) (x : Ring) : (s.setRing q x).hubSeq = s.hubSeq := rfl
@[simp] theorem State.setRing_closed (q : QAddr) (x : Ring) : (s.setRing q x).closed = s.closed := rfl
@[simp] theorem State.setRing_lossLimitMs (q : QAddr) (x : Ring) : (s.setRing q x).lossLimitMs = s.lossLimitMs := rfl
@[simp] theorem State.setRing_plans (q : QAddr) (x : Ring) : (s.setRing q x).plans = s.plans := rfl
@[simp] theorem State.setRing_lastSteps (q : QAddr) (x : Ring) : (s.setRing q x).lastSteps = s.lastSteps := rfl
@[simp] theorem State.setRing_groups (q : QAddr) (x : Ring) : (s.setRing q x).groups = s.groups := rfl
@[simp] theorem State.setRing_jobs (q : QAddr) (x : Ring) : (s.setRing q x).jobs = s.jobs := rfl
@[simp] theorem State.setRing_posts (q : QAddr) (x : Ring) : (s.setRing q x).posts = s.posts := rfl
@[simp] theorem State.setRing_instances (q : QAddr) (x : Ring) : (s.setRing q x).instances = s.instances := rfl
@[simp] theorem State.setRing_pieceCredits (q : QAddr) (x : Ring) : (s.setRing q x).pieceCredits = s.pieceCredits := rfl
@[simp] theorem State.setRing_normDone (q : QAddr) (x : Ring) : (s.setRing q x).normDone = s.normDone := rfl
@[simp] theorem State.setRing_scalars (q : QAddr) (x : Ring) : (s.setRing q x).scalars = s.scalars := rfl
@[simp] theorem State.setRing_permutes (q : QAddr) (x : Ring) : (s.setRing q x).permutes = s.permutes := rfl
@[simp] theorem State.setRing_msos (q : QAddr) (x : Ring) : (s.setRing q x).msos = s.msos := rfl
@[simp] theorem State.setRing_classMap (q : QAddr) (x : Ring) : (s.setRing q x).classMap = s.classMap := rfl
@[simp] theorem State.setRing_stackCtl (q : QAddr) (x : Ring) : (s.setRing q x).stackCtl = s.stackCtl := rfl
@[simp] theorem State.setRing_preserved (q : QAddr) (x : Ring) : (s.setRing q x).preserved = s.preserved := rfl
@[simp] theorem State.setRing_links (q : QAddr) (x : Ring) : (s.setRing q x).links = s.links := rfl
@[simp] theorem State.setRing_routes (q : QAddr) (x : Ring) : (s.setRing q x).routes = s.routes := rfl
@[simp] theorem State.setRing_hopLimit (q : QAddr) (x : Ring) : (s.setRing q x).hopLimit = s.hopLimit := rfl
@[simp] theorem State.setRing_idValid (q : QAddr) (x : Ring) : (s.setRing q x).idValid = s.idValid := rfl
@[simp] theorem State.setRing_deviceId (q : QAddr) (x : Ring) : (s.setRing q x).deviceId = s.deviceId := rfl
@[simp] theorem State.setRing_guest (q : QAddr) (x : Ring) : (s.setRing q x).guest = s.guest := rfl
@[simp] theorem State.setRing_scl (q : QAddr) (x : Ring) : (s.setRing q x).scl = s.scl := rfl
@[simp] theorem State.setRing_epoch (q : QAddr) (x : Ring) : (s.setRing q x).epoch = s.epoch := rfl
@[simp] theorem State.setRing_fl (q : QAddr) (x : Ring) : (s.setRing q x).fl = s.fl := rfl
@[simp] theorem State.setRing_seqs (q : QAddr) (x : Ring) : (s.setRing q x).seqs = s.seqs := rfl
@[simp] theorem State.setRing_events (q : QAddr) (x : Ring) : (s.setRing q x).events = s.events := rfl
@[simp] theorem State.setRing_faults (q : QAddr) (x : Ring) : (s.setRing q x).faults = s.faults := rfl
@[simp] theorem State.setRing_reset_ (q : QAddr) (x : Ring) : (s.setRing q x).reset_ = s.reset_ := rfl
@[simp] theorem State.setRing_power (q : QAddr) (x : Ring) : (s.setRing q x).power = s.power := rfl
@[simp] theorem State.setRing_lc (q : QAddr) (x : Ring) : (s.setRing q x).lc = s.lc := rfl
@[simp] theorem State.setRing_hub (q : QAddr) (x : Ring) : (s.setRing q x).hub = s.hub := rfl
@[simp] theorem State.setRing_collectNext (q : QAddr) (x : Ring) : (s.setRing q x).collectNext = s.collectNext := rfl
@[simp] theorem State.setRing_inflight (q : QAddr) (x : Ring) : (s.setRing q x).inflight = s.inflight := rfl
@[simp] theorem State.setRing_out (q : QAddr) (x : Ring) : (s.setRing q x).out = s.out := rfl
@[simp] theorem State.setRing_freeCount (q : QAddr) (x : Ring) : (s.setRing q x).freeCount = s.freeCount := rfl

/-! ## delRing -/

@[simp] theorem State.delRing_pending (q : QAddr) : (s.delRing q).pending = s.pending := rfl
@[simp] theorem State.delRing_mem (q : QAddr) : (s.delRing q).mem = s.mem := rfl
@[simp] theorem State.delRing_bursts (q : QAddr) : (s.delRing q).bursts = s.bursts := rfl
@[simp] theorem State.delRing_blocks (q : QAddr) : (s.delRing q).blocks = s.blocks := rfl
@[simp] theorem State.delRing_regions (q : QAddr) : (s.delRing q).regions = s.regions := rfl
@[simp] theorem State.delRing_parts (q : QAddr) : (s.delRing q).parts = s.parts := rfl
@[simp] theorem State.delRing_stages (q : QAddr) : (s.delRing q).stages = s.stages := rfl
@[simp] theorem State.delRing_notices (q : QAddr) : (s.delRing q).notices = s.notices := rfl
@[simp] theorem State.delRing_drains (q : QAddr) : (s.delRing q).drains = s.drains := rfl
@[simp] theorem State.delRing_rings (q : QAddr) : (s.delRing q).rings = tDel s.rings (q.extractLsb' 1 15).toNat := rfl
@[simp] theorem State.delRing_relays (q : QAddr) : (s.delRing q).relays = s.relays := rfl
@[simp] theorem State.delRing_nextRelay (q : QAddr) : (s.delRing q).nextRelay = s.nextRelay := rfl
@[simp] theorem State.delRing_hubSends (q : QAddr) : (s.delRing q).hubSends = s.hubSends := rfl
@[simp] theorem State.delRing_hubSeq (q : QAddr) : (s.delRing q).hubSeq = s.hubSeq := rfl
@[simp] theorem State.delRing_closed (q : QAddr) : (s.delRing q).closed = s.closed := rfl
@[simp] theorem State.delRing_lossLimitMs (q : QAddr) : (s.delRing q).lossLimitMs = s.lossLimitMs := rfl
@[simp] theorem State.delRing_plans (q : QAddr) : (s.delRing q).plans = s.plans := rfl
@[simp] theorem State.delRing_lastSteps (q : QAddr) : (s.delRing q).lastSteps = s.lastSteps := rfl
@[simp] theorem State.delRing_groups (q : QAddr) : (s.delRing q).groups = s.groups := rfl
@[simp] theorem State.delRing_jobs (q : QAddr) : (s.delRing q).jobs = s.jobs := rfl
@[simp] theorem State.delRing_posts (q : QAddr) : (s.delRing q).posts = s.posts := rfl
@[simp] theorem State.delRing_instances (q : QAddr) : (s.delRing q).instances = s.instances := rfl
@[simp] theorem State.delRing_pieceCredits (q : QAddr) : (s.delRing q).pieceCredits = s.pieceCredits := rfl
@[simp] theorem State.delRing_normDone (q : QAddr) : (s.delRing q).normDone = s.normDone := rfl
@[simp] theorem State.delRing_scalars (q : QAddr) : (s.delRing q).scalars = s.scalars := rfl
@[simp] theorem State.delRing_permutes (q : QAddr) : (s.delRing q).permutes = s.permutes := rfl
@[simp] theorem State.delRing_msos (q : QAddr) : (s.delRing q).msos = s.msos := rfl
@[simp] theorem State.delRing_classMap (q : QAddr) : (s.delRing q).classMap = s.classMap := rfl
@[simp] theorem State.delRing_stackCtl (q : QAddr) : (s.delRing q).stackCtl = s.stackCtl := rfl
@[simp] theorem State.delRing_preserved (q : QAddr) : (s.delRing q).preserved = s.preserved := rfl
@[simp] theorem State.delRing_links (q : QAddr) : (s.delRing q).links = s.links := rfl
@[simp] theorem State.delRing_routes (q : QAddr) : (s.delRing q).routes = s.routes := rfl
@[simp] theorem State.delRing_hopLimit (q : QAddr) : (s.delRing q).hopLimit = s.hopLimit := rfl
@[simp] theorem State.delRing_idValid (q : QAddr) : (s.delRing q).idValid = s.idValid := rfl
@[simp] theorem State.delRing_deviceId (q : QAddr) : (s.delRing q).deviceId = s.deviceId := rfl
@[simp] theorem State.delRing_guest (q : QAddr) : (s.delRing q).guest = s.guest := rfl
@[simp] theorem State.delRing_scl (q : QAddr) : (s.delRing q).scl = s.scl := rfl
@[simp] theorem State.delRing_epoch (q : QAddr) : (s.delRing q).epoch = s.epoch := rfl
@[simp] theorem State.delRing_fl (q : QAddr) : (s.delRing q).fl = s.fl := rfl
@[simp] theorem State.delRing_seqs (q : QAddr) : (s.delRing q).seqs = s.seqs := rfl
@[simp] theorem State.delRing_events (q : QAddr) : (s.delRing q).events = s.events := rfl
@[simp] theorem State.delRing_faults (q : QAddr) : (s.delRing q).faults = s.faults := rfl
@[simp] theorem State.delRing_reset_ (q : QAddr) : (s.delRing q).reset_ = s.reset_ := rfl
@[simp] theorem State.delRing_power (q : QAddr) : (s.delRing q).power = s.power := rfl
@[simp] theorem State.delRing_lc (q : QAddr) : (s.delRing q).lc = s.lc := rfl
@[simp] theorem State.delRing_hub (q : QAddr) : (s.delRing q).hub = s.hub := rfl
@[simp] theorem State.delRing_collectNext (q : QAddr) : (s.delRing q).collectNext = s.collectNext := rfl
@[simp] theorem State.delRing_inflight (q : QAddr) : (s.delRing q).inflight = s.inflight := rfl
@[simp] theorem State.delRing_out (q : QAddr) : (s.delRing q).out = s.out := rfl
@[simp] theorem State.delRing_freeCount (q : QAddr) : (s.delRing q).freeCount = s.freeCount := rfl

/-! ## raise -/

@[simp] theorem State.raise_pending (p : PartId) (c : BitVec 16) (l : BitVec 3) (u : BitVec 24) (d : BitVec 88) : (s.raise p c l u d).pending = s.pending := rfl
@[simp] theorem State.raise_mem (p : PartId) (c : BitVec 16) (l : BitVec 3) (u : BitVec 24) (d : BitVec 88) : (s.raise p c l u d).mem = s.mem := rfl
@[simp] theorem State.raise_bursts (p : PartId) (c : BitVec 16) (l : BitVec 3) (u : BitVec 24) (d : BitVec 88) : (s.raise p c l u d).bursts = s.bursts := rfl
@[simp] theorem State.raise_blocks (p : PartId) (c : BitVec 16) (l : BitVec 3) (u : BitVec 24) (d : BitVec 88) : (s.raise p c l u d).blocks = s.blocks := rfl
@[simp] theorem State.raise_regions (p : PartId) (c : BitVec 16) (l : BitVec 3) (u : BitVec 24) (d : BitVec 88) : (s.raise p c l u d).regions = s.regions := rfl
@[simp] theorem State.raise_parts (p : PartId) (c : BitVec 16) (l : BitVec 3) (u : BitVec 24) (d : BitVec 88) : (s.raise p c l u d).parts = s.parts := rfl
@[simp] theorem State.raise_stages (p : PartId) (c : BitVec 16) (l : BitVec 3) (u : BitVec 24) (d : BitVec 88) : (s.raise p c l u d).stages = s.stages := rfl
@[simp] theorem State.raise_notices (p : PartId) (c : BitVec 16) (l : BitVec 3) (u : BitVec 24) (d : BitVec 88) : (s.raise p c l u d).notices = s.notices := rfl
@[simp] theorem State.raise_drains (p : PartId) (c : BitVec 16) (l : BitVec 3) (u : BitVec 24) (d : BitVec 88) : (s.raise p c l u d).drains = s.drains := rfl
@[simp] theorem State.raise_rings (p : PartId) (c : BitVec 16) (l : BitVec 3) (u : BitVec 24) (d : BitVec 88) : (s.raise p c l u d).rings = s.rings := rfl
@[simp] theorem State.raise_relays (p : PartId) (c : BitVec 16) (l : BitVec 3) (u : BitVec 24) (d : BitVec 88) : (s.raise p c l u d).relays = s.relays := rfl
@[simp] theorem State.raise_nextRelay (p : PartId) (c : BitVec 16) (l : BitVec 3) (u : BitVec 24) (d : BitVec 88) : (s.raise p c l u d).nextRelay = s.nextRelay := rfl
@[simp] theorem State.raise_hubSends (p : PartId) (c : BitVec 16) (l : BitVec 3) (u : BitVec 24) (d : BitVec 88) : (s.raise p c l u d).hubSends = s.hubSends := rfl
@[simp] theorem State.raise_hubSeq (p : PartId) (c : BitVec 16) (l : BitVec 3) (u : BitVec 24) (d : BitVec 88) : (s.raise p c l u d).hubSeq = s.hubSeq := rfl
@[simp] theorem State.raise_closed (p : PartId) (c : BitVec 16) (l : BitVec 3) (u : BitVec 24) (d : BitVec 88) : (s.raise p c l u d).closed = s.closed := rfl
@[simp] theorem State.raise_lossLimitMs (p : PartId) (c : BitVec 16) (l : BitVec 3) (u : BitVec 24) (d : BitVec 88) : (s.raise p c l u d).lossLimitMs = s.lossLimitMs := rfl
@[simp] theorem State.raise_plans (p : PartId) (c : BitVec 16) (l : BitVec 3) (u : BitVec 24) (d : BitVec 88) : (s.raise p c l u d).plans = s.plans := rfl
@[simp] theorem State.raise_lastSteps (p : PartId) (c : BitVec 16) (l : BitVec 3) (u : BitVec 24) (d : BitVec 88) : (s.raise p c l u d).lastSteps = s.lastSteps := rfl
@[simp] theorem State.raise_groups (p : PartId) (c : BitVec 16) (l : BitVec 3) (u : BitVec 24) (d : BitVec 88) : (s.raise p c l u d).groups = s.groups := rfl
@[simp] theorem State.raise_jobs (p : PartId) (c : BitVec 16) (l : BitVec 3) (u : BitVec 24) (d : BitVec 88) : (s.raise p c l u d).jobs = s.jobs := rfl
@[simp] theorem State.raise_posts (p : PartId) (c : BitVec 16) (l : BitVec 3) (u : BitVec 24) (d : BitVec 88) : (s.raise p c l u d).posts = s.posts := rfl
@[simp] theorem State.raise_instances (p : PartId) (c : BitVec 16) (l : BitVec 3) (u : BitVec 24) (d : BitVec 88) : (s.raise p c l u d).instances = s.instances := rfl
@[simp] theorem State.raise_pieceCredits (p : PartId) (c : BitVec 16) (l : BitVec 3) (u : BitVec 24) (d : BitVec 88) : (s.raise p c l u d).pieceCredits = s.pieceCredits := rfl
@[simp] theorem State.raise_normDone (p : PartId) (c : BitVec 16) (l : BitVec 3) (u : BitVec 24) (d : BitVec 88) : (s.raise p c l u d).normDone = s.normDone := rfl
@[simp] theorem State.raise_scalars (p : PartId) (c : BitVec 16) (l : BitVec 3) (u : BitVec 24) (d : BitVec 88) : (s.raise p c l u d).scalars = s.scalars := rfl
@[simp] theorem State.raise_permutes (p : PartId) (c : BitVec 16) (l : BitVec 3) (u : BitVec 24) (d : BitVec 88) : (s.raise p c l u d).permutes = s.permutes := rfl
@[simp] theorem State.raise_msos (p : PartId) (c : BitVec 16) (l : BitVec 3) (u : BitVec 24) (d : BitVec 88) : (s.raise p c l u d).msos = s.msos := rfl
@[simp] theorem State.raise_classMap (p : PartId) (c : BitVec 16) (l : BitVec 3) (u : BitVec 24) (d : BitVec 88) : (s.raise p c l u d).classMap = s.classMap := rfl
@[simp] theorem State.raise_stackCtl (p : PartId) (c : BitVec 16) (l : BitVec 3) (u : BitVec 24) (d : BitVec 88) : (s.raise p c l u d).stackCtl = s.stackCtl := rfl
@[simp] theorem State.raise_preserved (p : PartId) (c : BitVec 16) (l : BitVec 3) (u : BitVec 24) (d : BitVec 88) : (s.raise p c l u d).preserved = s.preserved := rfl
@[simp] theorem State.raise_links (p : PartId) (c : BitVec 16) (l : BitVec 3) (u : BitVec 24) (d : BitVec 88) : (s.raise p c l u d).links = s.links := rfl
@[simp] theorem State.raise_routes (p : PartId) (c : BitVec 16) (l : BitVec 3) (u : BitVec 24) (d : BitVec 88) : (s.raise p c l u d).routes = s.routes := rfl
@[simp] theorem State.raise_hopLimit (p : PartId) (c : BitVec 16) (l : BitVec 3) (u : BitVec 24) (d : BitVec 88) : (s.raise p c l u d).hopLimit = s.hopLimit := rfl
@[simp] theorem State.raise_idValid (p : PartId) (c : BitVec 16) (l : BitVec 3) (u : BitVec 24) (d : BitVec 88) : (s.raise p c l u d).idValid = s.idValid := rfl
@[simp] theorem State.raise_deviceId (p : PartId) (c : BitVec 16) (l : BitVec 3) (u : BitVec 24) (d : BitVec 88) : (s.raise p c l u d).deviceId = s.deviceId := rfl
@[simp] theorem State.raise_guest (p : PartId) (c : BitVec 16) (l : BitVec 3) (u : BitVec 24) (d : BitVec 88) : (s.raise p c l u d).guest = s.guest := rfl
@[simp] theorem State.raise_scl (p : PartId) (c : BitVec 16) (l : BitVec 3) (u : BitVec 24) (d : BitVec 88) : (s.raise p c l u d).scl = s.scl := rfl
@[simp] theorem State.raise_epoch (p : PartId) (c : BitVec 16) (l : BitVec 3) (u : BitVec 24) (d : BitVec 88) : (s.raise p c l u d).epoch = s.epoch := rfl
@[simp] theorem State.raise_fl (p : PartId) (c : BitVec 16) (l : BitVec 3) (u : BitVec 24) (d : BitVec 88) : (s.raise p c l u d).fl = s.fl := rfl
@[simp] theorem State.raise_seqs (p : PartId) (c : BitVec 16) (l : BitVec 3) (u : BitVec 24) (d : BitVec 88) : (s.raise p c l u d).seqs = s.seqs := rfl
@[simp] theorem State.raise_events (p : PartId) (c : BitVec 16) (l : BitVec 3) (u : BitVec 24) (d : BitVec 88) : (s.raise p c l u d).events = s.events ++ [⟨c, u, l, p, d⟩] := rfl
@[simp] theorem State.raise_faults (p : PartId) (c : BitVec 16) (l : BitVec 3) (u : BitVec 24) (d : BitVec 88) : (s.raise p c l u d).faults = s.faults := rfl
@[simp] theorem State.raise_reset_ (p : PartId) (c : BitVec 16) (l : BitVec 3) (u : BitVec 24) (d : BitVec 88) : (s.raise p c l u d).reset_ = s.reset_ := rfl
@[simp] theorem State.raise_power (p : PartId) (c : BitVec 16) (l : BitVec 3) (u : BitVec 24) (d : BitVec 88) : (s.raise p c l u d).power = s.power := rfl
@[simp] theorem State.raise_lc (p : PartId) (c : BitVec 16) (l : BitVec 3) (u : BitVec 24) (d : BitVec 88) : (s.raise p c l u d).lc = s.lc := rfl
@[simp] theorem State.raise_hub (p : PartId) (c : BitVec 16) (l : BitVec 3) (u : BitVec 24) (d : BitVec 88) : (s.raise p c l u d).hub = s.hub := rfl
@[simp] theorem State.raise_collectNext (p : PartId) (c : BitVec 16) (l : BitVec 3) (u : BitVec 24) (d : BitVec 88) : (s.raise p c l u d).collectNext = s.collectNext := rfl
@[simp] theorem State.raise_inflight (p : PartId) (c : BitVec 16) (l : BitVec 3) (u : BitVec 24) (d : BitVec 88) : (s.raise p c l u d).inflight = s.inflight := rfl
@[simp] theorem State.raise_out (p : PartId) (c : BitVec 16) (l : BitVec 3) (u : BitVec 24) (d : BitVec 88) : (s.raise p c l u d).out = s.out := rfl
@[simp] theorem State.raise_freeCount (p : PartId) (c : BitVec 16) (l : BitVec 3) (u : BitVec 24) (d : BitVec 88) : (s.raise p c l u d).freeCount = s.freeCount := rfl

/-! ## emit -/

@[simp] theorem State.emit_pending (o : Output) : (s.emit o).pending = s.pending := rfl
@[simp] theorem State.emit_mem (o : Output) : (s.emit o).mem = s.mem := rfl
@[simp] theorem State.emit_bursts (o : Output) : (s.emit o).bursts = s.bursts := rfl
@[simp] theorem State.emit_blocks (o : Output) : (s.emit o).blocks = s.blocks := rfl
@[simp] theorem State.emit_regions (o : Output) : (s.emit o).regions = s.regions := rfl
@[simp] theorem State.emit_parts (o : Output) : (s.emit o).parts = s.parts := rfl
@[simp] theorem State.emit_stages (o : Output) : (s.emit o).stages = s.stages := rfl
@[simp] theorem State.emit_notices (o : Output) : (s.emit o).notices = s.notices := rfl
@[simp] theorem State.emit_drains (o : Output) : (s.emit o).drains = s.drains := rfl
@[simp] theorem State.emit_rings (o : Output) : (s.emit o).rings = s.rings := rfl
@[simp] theorem State.emit_relays (o : Output) : (s.emit o).relays = s.relays := rfl
@[simp] theorem State.emit_nextRelay (o : Output) : (s.emit o).nextRelay = s.nextRelay := rfl
@[simp] theorem State.emit_hubSends (o : Output) : (s.emit o).hubSends = s.hubSends := rfl
@[simp] theorem State.emit_hubSeq (o : Output) : (s.emit o).hubSeq = s.hubSeq := rfl
@[simp] theorem State.emit_closed (o : Output) : (s.emit o).closed = s.closed := rfl
@[simp] theorem State.emit_lossLimitMs (o : Output) : (s.emit o).lossLimitMs = s.lossLimitMs := rfl
@[simp] theorem State.emit_plans (o : Output) : (s.emit o).plans = s.plans := rfl
@[simp] theorem State.emit_lastSteps (o : Output) : (s.emit o).lastSteps = s.lastSteps := rfl
@[simp] theorem State.emit_groups (o : Output) : (s.emit o).groups = s.groups := rfl
@[simp] theorem State.emit_jobs (o : Output) : (s.emit o).jobs = s.jobs := rfl
@[simp] theorem State.emit_posts (o : Output) : (s.emit o).posts = s.posts := rfl
@[simp] theorem State.emit_instances (o : Output) : (s.emit o).instances = s.instances := rfl
@[simp] theorem State.emit_pieceCredits (o : Output) : (s.emit o).pieceCredits = s.pieceCredits := rfl
@[simp] theorem State.emit_normDone (o : Output) : (s.emit o).normDone = s.normDone := rfl
@[simp] theorem State.emit_scalars (o : Output) : (s.emit o).scalars = s.scalars := rfl
@[simp] theorem State.emit_permutes (o : Output) : (s.emit o).permutes = s.permutes := rfl
@[simp] theorem State.emit_msos (o : Output) : (s.emit o).msos = s.msos := rfl
@[simp] theorem State.emit_classMap (o : Output) : (s.emit o).classMap = s.classMap := rfl
@[simp] theorem State.emit_stackCtl (o : Output) : (s.emit o).stackCtl = s.stackCtl := rfl
@[simp] theorem State.emit_preserved (o : Output) : (s.emit o).preserved = s.preserved := rfl
@[simp] theorem State.emit_links (o : Output) : (s.emit o).links = s.links := rfl
@[simp] theorem State.emit_routes (o : Output) : (s.emit o).routes = s.routes := rfl
@[simp] theorem State.emit_hopLimit (o : Output) : (s.emit o).hopLimit = s.hopLimit := rfl
@[simp] theorem State.emit_idValid (o : Output) : (s.emit o).idValid = s.idValid := rfl
@[simp] theorem State.emit_deviceId (o : Output) : (s.emit o).deviceId = s.deviceId := rfl
@[simp] theorem State.emit_guest (o : Output) : (s.emit o).guest = s.guest := rfl
@[simp] theorem State.emit_scl (o : Output) : (s.emit o).scl = s.scl := rfl
@[simp] theorem State.emit_epoch (o : Output) : (s.emit o).epoch = s.epoch := rfl
@[simp] theorem State.emit_fl (o : Output) : (s.emit o).fl = s.fl := rfl
@[simp] theorem State.emit_seqs (o : Output) : (s.emit o).seqs = s.seqs := rfl
@[simp] theorem State.emit_events (o : Output) : (s.emit o).events = s.events := rfl
@[simp] theorem State.emit_faults (o : Output) : (s.emit o).faults = s.faults := rfl
@[simp] theorem State.emit_reset_ (o : Output) : (s.emit o).reset_ = s.reset_ := rfl
@[simp] theorem State.emit_power (o : Output) : (s.emit o).power = s.power := rfl
@[simp] theorem State.emit_lc (o : Output) : (s.emit o).lc = s.lc := rfl
@[simp] theorem State.emit_hub (o : Output) : (s.emit o).hub = s.hub := rfl
@[simp] theorem State.emit_collectNext (o : Output) : (s.emit o).collectNext = s.collectNext := rfl
@[simp] theorem State.emit_inflight (o : Output) : (s.emit o).inflight = s.inflight := rfl
@[simp] theorem State.emit_out (o : Output) : (s.emit o).out = s.out ++ [o] := rfl
@[simp] theorem State.emit_freeCount (o : Output) : (s.emit o).freeCount = s.freeCount := rfl

/-! ## shipFrom -/

@[simp] theorem State.shipFrom_pending (src : Nat) (i : InFlight) : (s.shipFrom src i).pending = s.pending := rfl
@[simp] theorem State.shipFrom_mem (src : Nat) (i : InFlight) : (s.shipFrom src i).mem = s.mem := rfl
@[simp] theorem State.shipFrom_bursts (src : Nat) (i : InFlight) : (s.shipFrom src i).bursts = s.bursts := rfl
@[simp] theorem State.shipFrom_blocks (src : Nat) (i : InFlight) : (s.shipFrom src i).blocks = s.blocks := rfl
@[simp] theorem State.shipFrom_regions (src : Nat) (i : InFlight) : (s.shipFrom src i).regions = s.regions := rfl
@[simp] theorem State.shipFrom_parts (src : Nat) (i : InFlight) : (s.shipFrom src i).parts = s.parts := rfl
@[simp] theorem State.shipFrom_stages (src : Nat) (i : InFlight) : (s.shipFrom src i).stages = s.stages := rfl
@[simp] theorem State.shipFrom_notices (src : Nat) (i : InFlight) : (s.shipFrom src i).notices = s.notices := rfl
@[simp] theorem State.shipFrom_drains (src : Nat) (i : InFlight) : (s.shipFrom src i).drains = s.drains := rfl
@[simp] theorem State.shipFrom_rings (src : Nat) (i : InFlight) : (s.shipFrom src i).rings = s.rings := rfl
@[simp] theorem State.shipFrom_relays (src : Nat) (i : InFlight) : (s.shipFrom src i).relays = s.relays := rfl
@[simp] theorem State.shipFrom_nextRelay (src : Nat) (i : InFlight) : (s.shipFrom src i).nextRelay = s.nextRelay := rfl
@[simp] theorem State.shipFrom_hubSends (src : Nat) (i : InFlight) : (s.shipFrom src i).hubSends = s.hubSends := rfl
@[simp] theorem State.shipFrom_hubSeq (src : Nat) (i : InFlight) : (s.shipFrom src i).hubSeq = s.hubSeq := rfl
@[simp] theorem State.shipFrom_closed (src : Nat) (i : InFlight) : (s.shipFrom src i).closed = s.closed := rfl
@[simp] theorem State.shipFrom_lossLimitMs (src : Nat) (i : InFlight) : (s.shipFrom src i).lossLimitMs = s.lossLimitMs := rfl
@[simp] theorem State.shipFrom_plans (src : Nat) (i : InFlight) : (s.shipFrom src i).plans = s.plans := rfl
@[simp] theorem State.shipFrom_lastSteps (src : Nat) (i : InFlight) : (s.shipFrom src i).lastSteps = s.lastSteps := rfl
@[simp] theorem State.shipFrom_groups (src : Nat) (i : InFlight) : (s.shipFrom src i).groups = s.groups := rfl
@[simp] theorem State.shipFrom_jobs (src : Nat) (i : InFlight) : (s.shipFrom src i).jobs = s.jobs := rfl
@[simp] theorem State.shipFrom_posts (src : Nat) (i : InFlight) : (s.shipFrom src i).posts = s.posts := rfl
@[simp] theorem State.shipFrom_instances (src : Nat) (i : InFlight) : (s.shipFrom src i).instances = s.instances := rfl
@[simp] theorem State.shipFrom_pieceCredits (src : Nat) (i : InFlight) : (s.shipFrom src i).pieceCredits = s.pieceCredits := rfl
@[simp] theorem State.shipFrom_normDone (src : Nat) (i : InFlight) : (s.shipFrom src i).normDone = s.normDone := rfl
@[simp] theorem State.shipFrom_scalars (src : Nat) (i : InFlight) : (s.shipFrom src i).scalars = s.scalars := rfl
@[simp] theorem State.shipFrom_permutes (src : Nat) (i : InFlight) : (s.shipFrom src i).permutes = s.permutes := rfl
@[simp] theorem State.shipFrom_msos (src : Nat) (i : InFlight) : (s.shipFrom src i).msos = s.msos := rfl
@[simp] theorem State.shipFrom_classMap (src : Nat) (i : InFlight) : (s.shipFrom src i).classMap = s.classMap := rfl
@[simp] theorem State.shipFrom_stackCtl (src : Nat) (i : InFlight) : (s.shipFrom src i).stackCtl = s.stackCtl := rfl
@[simp] theorem State.shipFrom_preserved (src : Nat) (i : InFlight) : (s.shipFrom src i).preserved = s.preserved := rfl
@[simp] theorem State.shipFrom_links (src : Nat) (i : InFlight) : (s.shipFrom src i).links = s.links := rfl
@[simp] theorem State.shipFrom_routes (src : Nat) (i : InFlight) : (s.shipFrom src i).routes = s.routes := rfl
@[simp] theorem State.shipFrom_hopLimit (src : Nat) (i : InFlight) : (s.shipFrom src i).hopLimit = s.hopLimit := rfl
@[simp] theorem State.shipFrom_idValid (src : Nat) (i : InFlight) : (s.shipFrom src i).idValid = s.idValid := rfl
@[simp] theorem State.shipFrom_deviceId (src : Nat) (i : InFlight) : (s.shipFrom src i).deviceId = s.deviceId := rfl
@[simp] theorem State.shipFrom_guest (src : Nat) (i : InFlight) : (s.shipFrom src i).guest = s.guest := rfl
@[simp] theorem State.shipFrom_scl (src : Nat) (i : InFlight) : (s.shipFrom src i).scl = s.scl := rfl
@[simp] theorem State.shipFrom_epoch (src : Nat) (i : InFlight) : (s.shipFrom src i).epoch = s.epoch := rfl
@[simp] theorem State.shipFrom_fl (src : Nat) (i : InFlight) : (s.shipFrom src i).fl = s.fl := rfl
@[simp] theorem State.shipFrom_seqs (src : Nat) (i : InFlight) : (s.shipFrom src i).seqs = s.seqs := rfl
@[simp] theorem State.shipFrom_events (src : Nat) (i : InFlight) : (s.shipFrom src i).events = s.events := rfl
@[simp] theorem State.shipFrom_faults (src : Nat) (i : InFlight) : (s.shipFrom src i).faults = s.faults := rfl
@[simp] theorem State.shipFrom_reset_ (src : Nat) (i : InFlight) : (s.shipFrom src i).reset_ = s.reset_ := rfl
@[simp] theorem State.shipFrom_power (src : Nat) (i : InFlight) : (s.shipFrom src i).power = s.power := rfl
@[simp] theorem State.shipFrom_lc (src : Nat) (i : InFlight) : (s.shipFrom src i).lc = s.lc := rfl
@[simp] theorem State.shipFrom_hub (src : Nat) (i : InFlight) : (s.shipFrom src i).hub = s.hub := rfl
@[simp] theorem State.shipFrom_collectNext (src : Nat) (i : InFlight) : (s.shipFrom src i).collectNext = s.collectNext := rfl
@[simp] theorem State.shipFrom_inflight (src : Nat) (i : InFlight) : (s.shipFrom src i).inflight = s.inflight ++ [⟨i, src, (endsOf s.deviceId i).2.1, (endsOf s.deviceId i).2.2, s.path src (endsOf s.deviceId i).2.1 none⟩] := rfl
@[simp] theorem State.shipFrom_out (src : Nat) (i : InFlight) : (s.shipFrom src i).out = s.out := rfl
@[simp] theorem State.shipFrom_freeCount (src : Nat) (i : InFlight) : (s.shipFrom src i).freeCount = s.freeCount := rfl

/-! ## ship -/

@[simp] theorem State.ship_pending (i : InFlight) : (s.ship i).pending = s.pending := rfl
@[simp] theorem State.ship_mem (i : InFlight) : (s.ship i).mem = s.mem := rfl
@[simp] theorem State.ship_bursts (i : InFlight) : (s.ship i).bursts = s.bursts := rfl
@[simp] theorem State.ship_blocks (i : InFlight) : (s.ship i).blocks = s.blocks := rfl
@[simp] theorem State.ship_regions (i : InFlight) : (s.ship i).regions = s.regions := rfl
@[simp] theorem State.ship_parts (i : InFlight) : (s.ship i).parts = s.parts := rfl
@[simp] theorem State.ship_stages (i : InFlight) : (s.ship i).stages = s.stages := rfl
@[simp] theorem State.ship_notices (i : InFlight) : (s.ship i).notices = s.notices := rfl
@[simp] theorem State.ship_drains (i : InFlight) : (s.ship i).drains = s.drains := rfl
@[simp] theorem State.ship_rings (i : InFlight) : (s.ship i).rings = s.rings := rfl
@[simp] theorem State.ship_relays (i : InFlight) : (s.ship i).relays = s.relays := rfl
@[simp] theorem State.ship_nextRelay (i : InFlight) : (s.ship i).nextRelay = s.nextRelay := rfl
@[simp] theorem State.ship_hubSends (i : InFlight) : (s.ship i).hubSends = s.hubSends := rfl
@[simp] theorem State.ship_hubSeq (i : InFlight) : (s.ship i).hubSeq = s.hubSeq := rfl
@[simp] theorem State.ship_closed (i : InFlight) : (s.ship i).closed = s.closed := rfl
@[simp] theorem State.ship_lossLimitMs (i : InFlight) : (s.ship i).lossLimitMs = s.lossLimitMs := rfl
@[simp] theorem State.ship_plans (i : InFlight) : (s.ship i).plans = s.plans := rfl
@[simp] theorem State.ship_lastSteps (i : InFlight) : (s.ship i).lastSteps = s.lastSteps := rfl
@[simp] theorem State.ship_groups (i : InFlight) : (s.ship i).groups = s.groups := rfl
@[simp] theorem State.ship_jobs (i : InFlight) : (s.ship i).jobs = s.jobs := rfl
@[simp] theorem State.ship_posts (i : InFlight) : (s.ship i).posts = s.posts := rfl
@[simp] theorem State.ship_instances (i : InFlight) : (s.ship i).instances = s.instances := rfl
@[simp] theorem State.ship_pieceCredits (i : InFlight) : (s.ship i).pieceCredits = s.pieceCredits := rfl
@[simp] theorem State.ship_normDone (i : InFlight) : (s.ship i).normDone = s.normDone := rfl
@[simp] theorem State.ship_scalars (i : InFlight) : (s.ship i).scalars = s.scalars := rfl
@[simp] theorem State.ship_permutes (i : InFlight) : (s.ship i).permutes = s.permutes := rfl
@[simp] theorem State.ship_msos (i : InFlight) : (s.ship i).msos = s.msos := rfl
@[simp] theorem State.ship_classMap (i : InFlight) : (s.ship i).classMap = s.classMap := rfl
@[simp] theorem State.ship_stackCtl (i : InFlight) : (s.ship i).stackCtl = s.stackCtl := rfl
@[simp] theorem State.ship_preserved (i : InFlight) : (s.ship i).preserved = s.preserved := rfl
@[simp] theorem State.ship_links (i : InFlight) : (s.ship i).links = s.links := rfl
@[simp] theorem State.ship_routes (i : InFlight) : (s.ship i).routes = s.routes := rfl
@[simp] theorem State.ship_hopLimit (i : InFlight) : (s.ship i).hopLimit = s.hopLimit := rfl
@[simp] theorem State.ship_idValid (i : InFlight) : (s.ship i).idValid = s.idValid := rfl
@[simp] theorem State.ship_deviceId (i : InFlight) : (s.ship i).deviceId = s.deviceId := rfl
@[simp] theorem State.ship_guest (i : InFlight) : (s.ship i).guest = s.guest := rfl
@[simp] theorem State.ship_scl (i : InFlight) : (s.ship i).scl = s.scl := rfl
@[simp] theorem State.ship_epoch (i : InFlight) : (s.ship i).epoch = s.epoch := rfl
@[simp] theorem State.ship_fl (i : InFlight) : (s.ship i).fl = s.fl := rfl
@[simp] theorem State.ship_seqs (i : InFlight) : (s.ship i).seqs = s.seqs := rfl
@[simp] theorem State.ship_events (i : InFlight) : (s.ship i).events = s.events := rfl
@[simp] theorem State.ship_faults (i : InFlight) : (s.ship i).faults = s.faults := rfl
@[simp] theorem State.ship_reset_ (i : InFlight) : (s.ship i).reset_ = s.reset_ := rfl
@[simp] theorem State.ship_power (i : InFlight) : (s.ship i).power = s.power := rfl
@[simp] theorem State.ship_lc (i : InFlight) : (s.ship i).lc = s.lc := rfl
@[simp] theorem State.ship_hub (i : InFlight) : (s.ship i).hub = s.hub := rfl
@[simp] theorem State.ship_collectNext (i : InFlight) : (s.ship i).collectNext = s.collectNext := rfl
@[simp] theorem State.ship_inflight (i : InFlight) : (s.ship i).inflight = (s.shipFrom (endsOf s.deviceId i).1 i).inflight := rfl
@[simp] theorem State.ship_out (i : InFlight) : (s.ship i).out = s.out := rfl
@[simp] theorem State.ship_freeCount (i : InFlight) : (s.ship i).freeCount = s.freeCount := rfl

/-! ## count -/

@[simp] theorem State.count_pending (f : HubCounters → HubCounters) : (s.count f).pending = s.pending := rfl
@[simp] theorem State.count_mem (f : HubCounters → HubCounters) : (s.count f).mem = s.mem := rfl
@[simp] theorem State.count_bursts (f : HubCounters → HubCounters) : (s.count f).bursts = s.bursts := rfl
@[simp] theorem State.count_blocks (f : HubCounters → HubCounters) : (s.count f).blocks = s.blocks := rfl
@[simp] theorem State.count_regions (f : HubCounters → HubCounters) : (s.count f).regions = s.regions := rfl
@[simp] theorem State.count_parts (f : HubCounters → HubCounters) : (s.count f).parts = s.parts := rfl
@[simp] theorem State.count_stages (f : HubCounters → HubCounters) : (s.count f).stages = s.stages := rfl
@[simp] theorem State.count_notices (f : HubCounters → HubCounters) : (s.count f).notices = s.notices := rfl
@[simp] theorem State.count_drains (f : HubCounters → HubCounters) : (s.count f).drains = s.drains := rfl
@[simp] theorem State.count_rings (f : HubCounters → HubCounters) : (s.count f).rings = s.rings := rfl
@[simp] theorem State.count_relays (f : HubCounters → HubCounters) : (s.count f).relays = s.relays := rfl
@[simp] theorem State.count_nextRelay (f : HubCounters → HubCounters) : (s.count f).nextRelay = s.nextRelay := rfl
@[simp] theorem State.count_hubSends (f : HubCounters → HubCounters) : (s.count f).hubSends = s.hubSends := rfl
@[simp] theorem State.count_hubSeq (f : HubCounters → HubCounters) : (s.count f).hubSeq = s.hubSeq := rfl
@[simp] theorem State.count_closed (f : HubCounters → HubCounters) : (s.count f).closed = s.closed := rfl
@[simp] theorem State.count_lossLimitMs (f : HubCounters → HubCounters) : (s.count f).lossLimitMs = s.lossLimitMs := rfl
@[simp] theorem State.count_plans (f : HubCounters → HubCounters) : (s.count f).plans = s.plans := rfl
@[simp] theorem State.count_lastSteps (f : HubCounters → HubCounters) : (s.count f).lastSteps = s.lastSteps := rfl
@[simp] theorem State.count_groups (f : HubCounters → HubCounters) : (s.count f).groups = s.groups := rfl
@[simp] theorem State.count_jobs (f : HubCounters → HubCounters) : (s.count f).jobs = s.jobs := rfl
@[simp] theorem State.count_posts (f : HubCounters → HubCounters) : (s.count f).posts = s.posts := rfl
@[simp] theorem State.count_instances (f : HubCounters → HubCounters) : (s.count f).instances = s.instances := rfl
@[simp] theorem State.count_pieceCredits (f : HubCounters → HubCounters) : (s.count f).pieceCredits = s.pieceCredits := rfl
@[simp] theorem State.count_normDone (f : HubCounters → HubCounters) : (s.count f).normDone = s.normDone := rfl
@[simp] theorem State.count_scalars (f : HubCounters → HubCounters) : (s.count f).scalars = s.scalars := rfl
@[simp] theorem State.count_permutes (f : HubCounters → HubCounters) : (s.count f).permutes = s.permutes := rfl
@[simp] theorem State.count_msos (f : HubCounters → HubCounters) : (s.count f).msos = s.msos := rfl
@[simp] theorem State.count_classMap (f : HubCounters → HubCounters) : (s.count f).classMap = s.classMap := rfl
@[simp] theorem State.count_stackCtl (f : HubCounters → HubCounters) : (s.count f).stackCtl = s.stackCtl := rfl
@[simp] theorem State.count_preserved (f : HubCounters → HubCounters) : (s.count f).preserved = s.preserved := rfl
@[simp] theorem State.count_links (f : HubCounters → HubCounters) : (s.count f).links = s.links := rfl
@[simp] theorem State.count_routes (f : HubCounters → HubCounters) : (s.count f).routes = s.routes := rfl
@[simp] theorem State.count_hopLimit (f : HubCounters → HubCounters) : (s.count f).hopLimit = s.hopLimit := rfl
@[simp] theorem State.count_idValid (f : HubCounters → HubCounters) : (s.count f).idValid = s.idValid := rfl
@[simp] theorem State.count_deviceId (f : HubCounters → HubCounters) : (s.count f).deviceId = s.deviceId := rfl
@[simp] theorem State.count_guest (f : HubCounters → HubCounters) : (s.count f).guest = s.guest := rfl
@[simp] theorem State.count_scl (f : HubCounters → HubCounters) : (s.count f).scl = s.scl := rfl
@[simp] theorem State.count_epoch (f : HubCounters → HubCounters) : (s.count f).epoch = s.epoch := rfl
@[simp] theorem State.count_fl (f : HubCounters → HubCounters) : (s.count f).fl = s.fl := rfl
@[simp] theorem State.count_seqs (f : HubCounters → HubCounters) : (s.count f).seqs = s.seqs := rfl
@[simp] theorem State.count_events (f : HubCounters → HubCounters) : (s.count f).events = s.events := rfl
@[simp] theorem State.count_faults (f : HubCounters → HubCounters) : (s.count f).faults = s.faults := rfl
@[simp] theorem State.count_reset_ (f : HubCounters → HubCounters) : (s.count f).reset_ = s.reset_ := rfl
@[simp] theorem State.count_power (f : HubCounters → HubCounters) : (s.count f).power = s.power := rfl
@[simp] theorem State.count_lc (f : HubCounters → HubCounters) : (s.count f).lc = s.lc := rfl
@[simp] theorem State.count_hub (f : HubCounters → HubCounters) : (s.count f).hub = f s.hub := rfl
@[simp] theorem State.count_collectNext (f : HubCounters → HubCounters) : (s.count f).collectNext = s.collectNext := rfl
@[simp] theorem State.count_inflight (f : HubCounters → HubCounters) : (s.count f).inflight = s.inflight := rfl
@[simp] theorem State.count_out (f : HubCounters → HubCounters) : (s.count f).out = s.out := rfl
@[simp] theorem State.count_freeCount (f : HubCounters → HubCounters) : (s.count f).freeCount = s.freeCount := rfl

/-! ## free -/

@[simp] theorem State.free_pending : (s.free.2).pending = s.pending := rfl
@[simp] theorem State.free_mem : (s.free.2).mem = s.mem := rfl
@[simp] theorem State.free_bursts : (s.free.2).bursts = s.bursts := rfl
@[simp] theorem State.free_blocks : (s.free.2).blocks = s.blocks := rfl
@[simp] theorem State.free_regions : (s.free.2).regions = s.regions := rfl
@[simp] theorem State.free_parts : (s.free.2).parts = s.parts := rfl
@[simp] theorem State.free_stages : (s.free.2).stages = s.stages := rfl
@[simp] theorem State.free_notices : (s.free.2).notices = s.notices := rfl
@[simp] theorem State.free_drains : (s.free.2).drains = s.drains := rfl
@[simp] theorem State.free_rings : (s.free.2).rings = s.rings := rfl
@[simp] theorem State.free_relays : (s.free.2).relays = s.relays := rfl
@[simp] theorem State.free_nextRelay : (s.free.2).nextRelay = s.nextRelay := rfl
@[simp] theorem State.free_hubSends : (s.free.2).hubSends = s.hubSends := rfl
@[simp] theorem State.free_hubSeq : (s.free.2).hubSeq = s.hubSeq := rfl
@[simp] theorem State.free_closed : (s.free.2).closed = s.closed := rfl
@[simp] theorem State.free_lossLimitMs : (s.free.2).lossLimitMs = s.lossLimitMs := rfl
@[simp] theorem State.free_plans : (s.free.2).plans = s.plans := rfl
@[simp] theorem State.free_lastSteps : (s.free.2).lastSteps = s.lastSteps := rfl
@[simp] theorem State.free_groups : (s.free.2).groups = s.groups := rfl
@[simp] theorem State.free_jobs : (s.free.2).jobs = s.jobs := rfl
@[simp] theorem State.free_posts : (s.free.2).posts = s.posts := rfl
@[simp] theorem State.free_instances : (s.free.2).instances = s.instances := rfl
@[simp] theorem State.free_pieceCredits : (s.free.2).pieceCredits = s.pieceCredits := rfl
@[simp] theorem State.free_normDone : (s.free.2).normDone = s.normDone := rfl
@[simp] theorem State.free_scalars : (s.free.2).scalars = s.scalars := rfl
@[simp] theorem State.free_permutes : (s.free.2).permutes = s.permutes := rfl
@[simp] theorem State.free_msos : (s.free.2).msos = s.msos := rfl
@[simp] theorem State.free_classMap : (s.free.2).classMap = s.classMap := rfl
@[simp] theorem State.free_stackCtl : (s.free.2).stackCtl = s.stackCtl := rfl
@[simp] theorem State.free_preserved : (s.free.2).preserved = s.preserved := rfl
@[simp] theorem State.free_links : (s.free.2).links = s.links := rfl
@[simp] theorem State.free_routes : (s.free.2).routes = s.routes := rfl
@[simp] theorem State.free_hopLimit : (s.free.2).hopLimit = s.hopLimit := rfl
@[simp] theorem State.free_idValid : (s.free.2).idValid = s.idValid := rfl
@[simp] theorem State.free_deviceId : (s.free.2).deviceId = s.deviceId := rfl
@[simp] theorem State.free_guest : (s.free.2).guest = s.guest := rfl
@[simp] theorem State.free_scl : (s.free.2).scl = s.scl := rfl
@[simp] theorem State.free_epoch : (s.free.2).epoch = s.epoch := rfl
@[simp] theorem State.free_fl : (s.free.2).fl = s.fl := rfl
@[simp] theorem State.free_seqs : (s.free.2).seqs = s.seqs := rfl
@[simp] theorem State.free_events : (s.free.2).events = s.events := rfl
@[simp] theorem State.free_faults : (s.free.2).faults = s.faults := rfl
@[simp] theorem State.free_reset_ : (s.free.2).reset_ = s.reset_ := rfl
@[simp] theorem State.free_power : (s.free.2).power = s.power := rfl
@[simp] theorem State.free_lc : (s.free.2).lc = s.lc := rfl
@[simp] theorem State.free_hub : (s.free.2).hub = s.hub := rfl
@[simp] theorem State.free_collectNext : (s.free.2).collectNext = s.collectNext := rfl
@[simp] theorem State.free_inflight : (s.free.2).inflight = s.inflight := rfl
@[simp] theorem State.free_out : (s.free.2).out = s.out := rfl
@[simp] theorem State.free_freeCount : (s.free.2).freeCount = s.freeCount + 1 := rfl

/-! ## struck -/

@[simp] theorem State.struck_pending (rs : List Range) (h : BurstErr) : (s.struck rs h).pending = s.pending := by simp only [State.struck, State.upset]; split <;> rfl
@[simp] theorem State.struck_blocks (rs : List Range) (h : BurstErr) : (s.struck rs h).blocks = s.blocks := by simp only [State.struck, State.upset]; split <;> rfl
@[simp] theorem State.struck_regions (rs : List Range) (h : BurstErr) : (s.struck rs h).regions = s.regions := by simp only [State.struck, State.upset]; split <;> rfl
@[simp] theorem State.struck_parts (rs : List Range) (h : BurstErr) : (s.struck rs h).parts = s.parts := by simp only [State.struck, State.upset]; split <;> rfl
@[simp] theorem State.struck_stages (rs : List Range) (h : BurstErr) : (s.struck rs h).stages = s.stages := by simp only [State.struck, State.upset]; split <;> rfl
@[simp] theorem State.struck_notices (rs : List Range) (h : BurstErr) : (s.struck rs h).notices = s.notices := by simp only [State.struck, State.upset]; split <;> rfl
@[simp] theorem State.struck_drains (rs : List Range) (h : BurstErr) : (s.struck rs h).drains = s.drains := by simp only [State.struck, State.upset]; split <;> rfl
@[simp] theorem State.struck_rings (rs : List Range) (h : BurstErr) : (s.struck rs h).rings = s.rings := by simp only [State.struck, State.upset]; split <;> rfl
@[simp] theorem State.struck_relays (rs : List Range) (h : BurstErr) : (s.struck rs h).relays = s.relays := by simp only [State.struck, State.upset]; split <;> rfl
@[simp] theorem State.struck_nextRelay (rs : List Range) (h : BurstErr) : (s.struck rs h).nextRelay = s.nextRelay := by simp only [State.struck, State.upset]; split <;> rfl
@[simp] theorem State.struck_hubSends (rs : List Range) (h : BurstErr) : (s.struck rs h).hubSends = s.hubSends := by simp only [State.struck, State.upset]; split <;> rfl
@[simp] theorem State.struck_hubSeq (rs : List Range) (h : BurstErr) : (s.struck rs h).hubSeq = s.hubSeq := by simp only [State.struck, State.upset]; split <;> rfl
@[simp] theorem State.struck_closed (rs : List Range) (h : BurstErr) : (s.struck rs h).closed = s.closed := by simp only [State.struck, State.upset]; split <;> rfl
@[simp] theorem State.struck_lossLimitMs (rs : List Range) (h : BurstErr) : (s.struck rs h).lossLimitMs = s.lossLimitMs := by simp only [State.struck, State.upset]; split <;> rfl
@[simp] theorem State.struck_plans (rs : List Range) (h : BurstErr) : (s.struck rs h).plans = s.plans := by simp only [State.struck, State.upset]; split <;> rfl
@[simp] theorem State.struck_lastSteps (rs : List Range) (h : BurstErr) : (s.struck rs h).lastSteps = s.lastSteps := by simp only [State.struck, State.upset]; split <;> rfl
@[simp] theorem State.struck_groups (rs : List Range) (h : BurstErr) : (s.struck rs h).groups = s.groups := by simp only [State.struck, State.upset]; split <;> rfl
@[simp] theorem State.struck_jobs (rs : List Range) (h : BurstErr) : (s.struck rs h).jobs = s.jobs := by simp only [State.struck, State.upset]; split <;> rfl
@[simp] theorem State.struck_posts (rs : List Range) (h : BurstErr) : (s.struck rs h).posts = s.posts := by simp only [State.struck, State.upset]; split <;> rfl
@[simp] theorem State.struck_instances (rs : List Range) (h : BurstErr) : (s.struck rs h).instances = s.instances := by simp only [State.struck, State.upset]; split <;> rfl
@[simp] theorem State.struck_pieceCredits (rs : List Range) (h : BurstErr) : (s.struck rs h).pieceCredits = s.pieceCredits := by simp only [State.struck, State.upset]; split <;> rfl
@[simp] theorem State.struck_normDone (rs : List Range) (h : BurstErr) : (s.struck rs h).normDone = s.normDone := by simp only [State.struck, State.upset]; split <;> rfl
@[simp] theorem State.struck_scalars (rs : List Range) (h : BurstErr) : (s.struck rs h).scalars = s.scalars := by simp only [State.struck, State.upset]; split <;> rfl
@[simp] theorem State.struck_permutes (rs : List Range) (h : BurstErr) : (s.struck rs h).permutes = s.permutes := by simp only [State.struck, State.upset]; split <;> rfl
@[simp] theorem State.struck_msos (rs : List Range) (h : BurstErr) : (s.struck rs h).msos = s.msos := by simp only [State.struck, State.upset]; split <;> rfl
@[simp] theorem State.struck_classMap (rs : List Range) (h : BurstErr) : (s.struck rs h).classMap = s.classMap := by simp only [State.struck, State.upset]; split <;> rfl
@[simp] theorem State.struck_stackCtl (rs : List Range) (h : BurstErr) : (s.struck rs h).stackCtl = s.stackCtl := by simp only [State.struck, State.upset]; split <;> rfl
@[simp] theorem State.struck_preserved (rs : List Range) (h : BurstErr) : (s.struck rs h).preserved = s.preserved := by simp only [State.struck, State.upset]; split <;> rfl
@[simp] theorem State.struck_links (rs : List Range) (h : BurstErr) : (s.struck rs h).links = s.links := by simp only [State.struck, State.upset]; split <;> rfl
@[simp] theorem State.struck_routes (rs : List Range) (h : BurstErr) : (s.struck rs h).routes = s.routes := by simp only [State.struck, State.upset]; split <;> rfl
@[simp] theorem State.struck_hopLimit (rs : List Range) (h : BurstErr) : (s.struck rs h).hopLimit = s.hopLimit := by simp only [State.struck, State.upset]; split <;> rfl
@[simp] theorem State.struck_idValid (rs : List Range) (h : BurstErr) : (s.struck rs h).idValid = s.idValid := by simp only [State.struck, State.upset]; split <;> rfl
@[simp] theorem State.struck_deviceId (rs : List Range) (h : BurstErr) : (s.struck rs h).deviceId = s.deviceId := by simp only [State.struck, State.upset]; split <;> rfl
@[simp] theorem State.struck_guest (rs : List Range) (h : BurstErr) : (s.struck rs h).guest = s.guest := by simp only [State.struck, State.upset]; split <;> rfl
@[simp] theorem State.struck_scl (rs : List Range) (h : BurstErr) : (s.struck rs h).scl = s.scl := by simp only [State.struck, State.upset]; split <;> rfl
@[simp] theorem State.struck_epoch (rs : List Range) (h : BurstErr) : (s.struck rs h).epoch = s.epoch := by simp only [State.struck, State.upset]; split <;> rfl
@[simp] theorem State.struck_fl (rs : List Range) (h : BurstErr) : (s.struck rs h).fl = s.fl := by simp only [State.struck, State.upset]; split <;> rfl
@[simp] theorem State.struck_seqs (rs : List Range) (h : BurstErr) : (s.struck rs h).seqs = s.seqs := by simp only [State.struck, State.upset]; split <;> rfl
@[simp] theorem State.struck_events (rs : List Range) (h : BurstErr) : (s.struck rs h).events = s.events := by simp only [State.struck, State.upset]; split <;> rfl
@[simp] theorem State.struck_faults (rs : List Range) (h : BurstErr) : (s.struck rs h).faults = s.faults := by simp only [State.struck, State.upset]; split <;> rfl
@[simp] theorem State.struck_reset_ (rs : List Range) (h : BurstErr) : (s.struck rs h).reset_ = s.reset_ := by simp only [State.struck, State.upset]; split <;> rfl
@[simp] theorem State.struck_power (rs : List Range) (h : BurstErr) : (s.struck rs h).power = s.power := by simp only [State.struck, State.upset]; split <;> rfl
@[simp] theorem State.struck_lc (rs : List Range) (h : BurstErr) : (s.struck rs h).lc = s.lc := by simp only [State.struck, State.upset]; split <;> rfl
@[simp] theorem State.struck_hub (rs : List Range) (h : BurstErr) : (s.struck rs h).hub = s.hub := by simp only [State.struck, State.upset]; split <;> rfl
@[simp] theorem State.struck_collectNext (rs : List Range) (h : BurstErr) : (s.struck rs h).collectNext = s.collectNext := by simp only [State.struck, State.upset]; split <;> rfl
@[simp] theorem State.struck_inflight (rs : List Range) (h : BurstErr) : (s.struck rs h).inflight = s.inflight := by simp only [State.struck, State.upset]; split <;> rfl
@[simp] theorem State.struck_out (rs : List Range) (h : BurstErr) : (s.struck rs h).out = s.out := by simp only [State.struck, State.upset]; split <;> rfl
@[simp] theorem State.struck_freeCount (rs : List Range) (h : BurstErr) : (s.struck rs h).freeCount = s.freeCount := by simp only [State.struck, State.upset]; split <;> rfl


/-! ## A block: a scalar register written, the next word, the end of a commit -/

@[simp] theorem BlockState.setReg_pc (x : BlockState) (r : Reg) (v : Word) : (x.setReg r v).pc = x.pc := by simp only [BlockState.setReg]; split <;> rfl
@[simp] theorem BlockState.setReg_ghdrPc (x : BlockState) (r : Reg) (v : Word) : (x.setReg r v).ghdrPc = x.ghdrPc := by simp only [BlockState.setReg]; split <;> rfl
@[simp] theorem BlockState.setReg_core (x : BlockState) (r : Reg) (v : Word) : (x.setReg r v).core = x.core := by simp only [BlockState.setReg]; split <;> rfl
@[simp] theorem BlockState.setReg_parkCode (x : BlockState) (r : Reg) (v : Word) : (x.setReg r v).parkCode = x.parkCode := by simp only [BlockState.setReg]; split <;> rfl
@[simp] theorem BlockState.setReg_groupTag (x : BlockState) (r : Reg) (v : Word) : (x.setReg r v).groupTag = x.groupTag := by simp only [BlockState.setReg]; split <;> rfl
@[simp] theorem BlockState.setReg_lastStatus (x : BlockState) (r : Reg) (v : Word) : (x.setReg r v).lastStatus = x.lastStatus := by simp only [BlockState.setReg]; split <;> rfl
@[simp] theorem BlockState.setReg_stall (x : BlockState) (r : Reg) (v : Word) : (x.setReg r v).stall = x.stall := by simp only [BlockState.setReg]; split <;> rfl
@[simp] theorem BlockState.setReg_running (x : BlockState) (r : Reg) (v : Word) : (x.setReg r v).running = x.running := by simp only [BlockState.setReg]; split <;> rfl
@[simp] theorem BlockState.setReg_stopAtGhdr (x : BlockState) (r : Reg) (v : Word) : (x.setReg r v).stopAtGhdr = x.stopAtGhdr := by simp only [BlockState.setReg]; split <;> rfl
@[simp] theorem BlockState.setReg_recoverAt (x : BlockState) (r : Reg) (v : Word) : (x.setReg r v).recoverAt = x.recoverAt := by simp only [BlockState.setReg]; split <;> rfl
@[simp] theorem BlockState.setReg_cache (x : BlockState) (r : Reg) (v : Word) : (x.setReg r v).cache = x.cache := by simp only [BlockState.setReg]; split <;> rfl
@[simp] theorem BlockState.setReg_userBase (x : BlockState) (r : Reg) (v : Word) : (x.setReg r v).userBase = x.userBase := by simp only [BlockState.setReg]; split <;> rfl
@[simp] theorem BlockState.setReg_queueBytes (x : BlockState) (r : Reg) (v : Word) : (x.setReg r v).queueBytes = x.queueBytes := by simp only [BlockState.setReg]; split <;> rfl
@[simp] theorem BlockState.setReg_workSize (x : BlockState) (r : Reg) (v : Word) : (x.setReg r v).workSize = x.workSize := by simp only [BlockState.setReg]; split <;> rfl
@[simp] theorem BlockState.setReg_ppSel (x : BlockState) (r : Reg) (v : Word) : (x.setReg r v).ppSel = x.ppSel := by simp only [BlockState.setReg]; split <;> rfl
@[simp] theorem BlockState.setReg_srSeed (x : BlockState) (r : Reg) (v : Word) : (x.setReg r v).srSeed = x.srSeed := by simp only [BlockState.setReg]; split <;> rfl
@[simp] theorem BlockState.setReg_laneSeed (x : BlockState) (r : Reg) (v : Word) : (x.setReg r v).laneSeed = x.laneSeed := by simp only [BlockState.setReg]; split <;> rfl
@[simp] theorem BlockState.setReg_lanes (x : BlockState) (r : Reg) (v : Word) : (x.setReg r v).lanes = x.lanes := by simp only [BlockState.setReg]; split <;> rfl
@[simp] theorem BlockState.setReg_checkMode (x : BlockState) (r : Reg) (v : Word) : (x.setReg r v).checkMode = x.checkMode := by simp only [BlockState.setReg]; split <;> rfl
@[simp] theorem BlockState.setReg_pairRole (x : BlockState) (r : Reg) (v : Word) : (x.setReg r v).pairRole = x.pairRole := by simp only [BlockState.setReg]; split <;> rfl
@[simp] theorem BlockState.setReg_keeperDuty (x : BlockState) (r : Reg) (v : Word) : (x.setReg r v).keeperDuty = x.keeperDuty := by simp only [BlockState.setReg]; split <;> rfl
@[simp] theorem BlockState.setReg_keeperState (x : BlockState) (r : Reg) (v : Word) : (x.setReg r v).keeperState = x.keeperState := by simp only [BlockState.setReg]; split <;> rfl
@[simp] theorem BlockState.setReg_keeperEn (x : BlockState) (r : Reg) (v : Word) : (x.setReg r v).keeperEn = x.keeperEn := by simp only [BlockState.setReg]; split <;> rfl
@[simp] theorem BlockState.setReg_arrayBusy (x : BlockState) (r : Reg) (v : Word) : (x.setReg r v).arrayBusy = x.arrayBusy := by simp only [BlockState.setReg]; split <;> rfl
@[simp] theorem BlockState.setReg_shadowStall (x : BlockState) (r : Reg) (v : Word) : (x.setReg r v).shadowStall = x.shadowStall := by simp only [BlockState.setReg]; split <;> rfl
@[simp] theorem BlockState.setReg_keeperFill (x : BlockState) (r : Reg) (v : Word) : (x.setReg r v).keeperFill = x.keeperFill := by simp only [BlockState.setReg]; split <;> rfl
@[simp] theorem BlockState.setReg_rampHold (x : BlockState) (r : Reg) (v : Word) : (x.setReg r v).rampHold = x.rampHold := by simp only [BlockState.setReg]; split <;> rfl
@[simp] theorem BlockState.setReg_commits (x : BlockState) (r : Reg) (v : Word) : (x.setReg r v).commits = x.commits := by simp only [BlockState.setReg]; split <;> rfl
@[simp] theorem BlockState.setReg_kills (x : BlockState) (r : Reg) (v : Word) : (x.setReg r v).kills = x.kills := by simp only [BlockState.setReg]; split <;> rfl
@[simp] theorem BlockState.setReg_rejects (x : BlockState) (r : Reg) (v : Word) : (x.setReg r v).rejects = x.rejects := by simp only [BlockState.setReg]; split <;> rfl
@[simp] theorem BlockState.setReg_grpMeas (x : BlockState) (r : Reg) (v : Word) : (x.setReg r v).grpMeas = x.grpMeas := by simp only [BlockState.setReg]; split <;> rfl
@[simp] theorem BlockState.setReg_grpEst (x : BlockState) (r : Reg) (v : Word) : (x.setReg r v).grpEst = x.grpEst := by simp only [BlockState.setReg]; split <;> rfl
@[simp] theorem BlockState.setReg_grpCount (x : BlockState) (r : Reg) (v : Word) : (x.setReg r v).grpCount = x.grpCount := by simp only [BlockState.setReg]; split <;> rfl
@[simp] theorem BlockState.setReg_rbMask (x : BlockState) (r : Reg) (v : Word) : (x.setReg r v).rbMask = x.rbMask := by simp only [BlockState.setReg]; split <;> rfl
@[simp] theorem BlockState.setReg_rbBase (x : BlockState) (r : Reg) (v : Word) : (x.setReg r v).rbBase = x.rbBase := by simp only [BlockState.setReg]; split <;> rfl
@[simp] theorem BlockState.setReg_jobVersion (x : BlockState) (r : Reg) (v : Word) : (x.setReg r v).jobVersion = x.jobVersion := by simp only [BlockState.setReg]; split <;> rfl
@[simp] theorem BlockState.setReg_stallPolicy (x : BlockState) (r : Reg) (v : Word) : (x.setReg r v).stallPolicy = x.stallPolicy := by simp only [BlockState.setReg]; split <;> rfl
@[simp] theorem BlockState.setReg_stallLimit (x : BlockState) (r : Reg) (v : Word) : (x.setReg r v).stallLimit = x.stallLimit := by simp only [BlockState.setReg]; split <;> rfl
@[simp] theorem BlockState.setReg_qAccepted (x : BlockState) (r : Reg) (v : Word) : (x.setReg r v).qAccepted = x.qAccepted := by simp only [BlockState.setReg]; split <;> rfl
@[simp] theorem BlockState.setReg_qNacked (x : BlockState) (r : Reg) (v : Word) : (x.setReg r v).qNacked = x.qNacked := by simp only [BlockState.setReg]; split <;> rfl
@[simp] theorem BlockState.setReg_qDrop (x : BlockState) (r : Reg) (v : Word) : (x.setReg r v).qDrop = x.qDrop := by simp only [BlockState.setReg]; split <;> rfl
@[simp] theorem BlockState.setReg_qVoided (x : BlockState) (r : Reg) (v : Word) : (x.setReg r v).qVoided = x.qVoided := by simp only [BlockState.setReg]; split <;> rfl
@[simp] theorem BlockState.setReg_qStall (x : BlockState) (r : Reg) (v : Word) : (x.setReg r v).qStall = x.qStall := by simp only [BlockState.setReg]; split <;> rfl
@[simp] theorem BlockState.setReg_qReleaseErr (x : BlockState) (r : Reg) (v : Word) : (x.setReg r v).qReleaseErr = x.qReleaseErr := by simp only [BlockState.setReg]; split <;> rfl
@[simp] theorem BlockState.setReg_queues (x : BlockState) (r : Reg) (v : Word) : (x.setReg r v).queues = x.queues := by simp only [BlockState.setReg]; split <;> rfl
@[simp] theorem BlockState.setReg_landed (x : BlockState) (r : Reg) (v : Word) : (x.setReg r v).landed = x.landed := by simp only [BlockState.setReg]; split <;> rfl
@[simp] theorem BlockState.setReg_arrayQ (x : BlockState) (r : Reg) (v : Word) : (x.setReg r v).arrayQ = x.arrayQ := by simp only [BlockState.setReg]; split <;> rfl
@[simp] theorem BlockState.setReg_vectorQ (x : BlockState) (r : Reg) (v : Word) : (x.setReg r v).vectorQ = x.vectorQ := by simp only [BlockState.setReg]; split <;> rfl
@[simp] theorem BlockState.setReg_fetchQ (x : BlockState) (r : Reg) (v : Word) : (x.setReg r v).fetchQ = x.fetchQ := by simp only [BlockState.setReg]; split <;> rfl
@[simp] theorem BlockState.setReg_queueQ (x : BlockState) (r : Reg) (v : Word) : (x.setReg r v).queueQ = x.queueQ := by simp only [BlockState.setReg]; split <;> rfl
@[simp] theorem BlockState.setReg_vecData (x : BlockState) (r : Reg) (v : Word) : (x.setReg r v).vecData = x.vecData := by simp only [BlockState.setReg]; split <;> rfl
@[simp] theorem BlockState.setReg_fetchData (x : BlockState) (r : Reg) (v : Word) : (x.setReg r v).fetchData = x.fetchData := by simp only [BlockState.setReg]; split <;> rfl
@[simp] theorem BlockState.setReg_ldData (x : BlockState) (r : Reg) (v : Word) : (x.setReg r v).ldData = x.ldData := by simp only [BlockState.setReg]; split <;> rfl
@[simp] theorem BlockState.setReg_run (x : BlockState) (r : Reg) (v : Word) : (x.setReg r v).run = x.run := by simp only [BlockState.setReg]; split <;> rfl
@[simp] theorem BlockState.setReg_active (x : BlockState) (r : Reg) (v : Word) : (x.setReg r v).active = x.active := by simp only [BlockState.setReg]; split <;> rfl
@[simp] theorem BlockState.setReg_shadow (x : BlockState) (r : Reg) (v : Word) : (x.setReg r v).shadow = x.shadow := by simp only [BlockState.setReg]; split <;> rfl
@[simp] theorem BlockState.setReg_untaken (x : BlockState) (r : Reg) (v : Word) : (x.setReg r v).untaken = x.untaken := by simp only [BlockState.setReg]; split <;> rfl
@[simp] theorem BlockState.setReg_shadowNo (x : BlockState) (r : Reg) (v : Word) : (x.setReg r v).shadowNo = x.shadowNo := by simp only [BlockState.setReg]; split <;> rfl
@[simp] theorem BlockState.setReg_group (x : BlockState) (r : Reg) (v : Word) : (x.setReg r v).group = x.group := by simp only [BlockState.setReg]; split <;> rfl
@[simp] theorem BlockState.setReg_reran (x : BlockState) (r : Reg) (v : Word) : (x.setReg r v).reran = x.reran := by simp only [BlockState.setReg]; split <;> rfl
@[simp] theorem BlockState.setReg_dipRerun (x : BlockState) (r : Reg) (v : Word) : (x.setReg r v).dipRerun = x.dipRerun := by simp only [BlockState.setReg]; split <;> rfl
@[simp] theorem BlockState.setReg_rerunHeld (x : BlockState) (r : Reg) (v : Word) : (x.setReg r v).rerunHeld = x.rerunHeld := by simp only [BlockState.setReg]; split <;> rfl
@[simp] theorem BlockState.setReg_report (x : BlockState) (r : Reg) (v : Word) : (x.setReg r v).report = x.report := by simp only [BlockState.setReg]; split <;> rfl
@[simp] theorem BlockState.setReg_sendBuf (x : BlockState) (r : Reg) (v : Word) : (x.setReg r v).sendBuf = x.sendBuf := by simp only [BlockState.setReg]; split <;> rfl
@[simp] theorem BlockState.setReg_sendSeq (x : BlockState) (r : Reg) (v : Word) : (x.setReg r v).sendSeq = x.sendSeq := by simp only [BlockState.setReg]; split <;> rfl
@[simp] theorem BlockState.setReg_cpls (x : BlockState) (r : Reg) (v : Word) : (x.setReg r v).cpls = x.cpls := by simp only [BlockState.setReg]; split <;> rfl
@[simp] theorem BlockState.setReg_cplSeq (x : BlockState) (r : Reg) (v : Word) : (x.setReg r v).cplSeq = x.cplSeq := by simp only [BlockState.setReg]; split <;> rfl
@[simp] theorem BlockState.setReg_epoch (x : BlockState) (r : Reg) (v : Word) : (x.setReg r v).epoch = x.epoch := by simp only [BlockState.setReg]; split <;> rfl
@[simp] theorem BlockState.setReg_pEpoch (x : BlockState) (r : Reg) (v : Word) : (x.setReg r v).pEpoch = x.pEpoch := by simp only [BlockState.setReg]; split <;> rfl
@[simp] theorem BlockState.setReg_locks (x : BlockState) (r : Reg) (v : Word) : (x.setReg r v).locks = x.locks := by simp only [BlockState.setReg]; split <;> rfl
@[simp] theorem BlockState.setReg_lastUcWr (x : BlockState) (r : Reg) (v : Word) : (x.setReg r v).lastUcWr = x.lastUcWr := by simp only [BlockState.setReg]; split <;> rfl
@[simp] theorem BlockState.setReg_ucWrNew (x : BlockState) (r : Reg) (v : Word) : (x.setReg r v).ucWrNew = x.ucWrNew := by simp only [BlockState.setReg]; split <;> rfl
@[simp] theorem BlockState.setReg_estimates (x : BlockState) (r : Reg) (v : Word) : (x.setReg r v).estimates = x.estimates := by simp only [BlockState.setReg]; split <;> rfl
@[simp] theorem BlockState.setReg_fenced (x : BlockState) (r : Reg) (v : Word) : (x.setReg r v).fenced = x.fenced := by simp only [BlockState.setReg]; split <;> rfl
@[simp] theorem BlockState.setReg_swapping (x : BlockState) (r : Reg) (v : Word) : (x.setReg r v).swapping = x.swapping := by simp only [BlockState.setReg]; split <;> rfl
@[simp] theorem BlockState.setReg_fenceDropped (x : BlockState) (r : Reg) (v : Word) : (x.setReg r v).fenceDropped = x.fenceDropped := by simp only [BlockState.setReg]; split <;> rfl
@[simp] theorem BlockState.setReg_voidCopies (x : BlockState) (r : Reg) (v : Word) : (x.setReg r v).voidCopies = x.voidCopies := by simp only [BlockState.setReg]; split <;> rfl
@[simp] theorem BlockState.setReg_phys (x : BlockState) (r : Reg) (v : Word) : (x.setReg r v).phys = x.phys := by simp only [BlockState.setReg]; split <;> rfl
@[simp] theorem BlockState.setReg_inReset (x : BlockState) (r : Reg) (v : Word) : (x.setReg r v).inReset = x.inReset := by simp only [BlockState.setReg]; split <;> rfl
@[simp] theorem BlockState.next_pc (x : BlockState) : x.next.pc = x.pc + 32 := rfl
@[simp] theorem BlockState.next_ghdrPc (x : BlockState) : x.next.ghdrPc = x.ghdrPc := rfl
@[simp] theorem BlockState.next_regs (x : BlockState) : x.next.regs = x.regs := rfl
@[simp] theorem BlockState.next_core (x : BlockState) : x.next.core = x.core := rfl
@[simp] theorem BlockState.next_parkCode (x : BlockState) : x.next.parkCode = x.parkCode := rfl
@[simp] theorem BlockState.next_groupTag (x : BlockState) : x.next.groupTag = x.groupTag := rfl
@[simp] theorem BlockState.next_lastStatus (x : BlockState) : x.next.lastStatus = x.lastStatus := rfl
@[simp] theorem BlockState.next_stall (x : BlockState) : x.next.stall = x.stall := rfl
@[simp] theorem BlockState.next_running (x : BlockState) : x.next.running = x.running := rfl
@[simp] theorem BlockState.next_stopAtGhdr (x : BlockState) : x.next.stopAtGhdr = x.stopAtGhdr := rfl
@[simp] theorem BlockState.next_recoverAt (x : BlockState) : x.next.recoverAt = x.recoverAt := rfl
@[simp] theorem BlockState.next_cache (x : BlockState) : x.next.cache = x.cache := rfl
@[simp] theorem BlockState.next_userBase (x : BlockState) : x.next.userBase = x.userBase := rfl
@[simp] theorem BlockState.next_queueBytes (x : BlockState) : x.next.queueBytes = x.queueBytes := rfl
@[simp] theorem BlockState.next_workSize (x : BlockState) : x.next.workSize = x.workSize := rfl
@[simp] theorem BlockState.next_ppSel (x : BlockState) : x.next.ppSel = x.ppSel := rfl
@[simp] theorem BlockState.next_srSeed (x : BlockState) : x.next.srSeed = x.srSeed := rfl
@[simp] theorem BlockState.next_laneSeed (x : BlockState) : x.next.laneSeed = x.laneSeed := rfl
@[simp] theorem BlockState.next_lanes (x : BlockState) : x.next.lanes = x.lanes := rfl
@[simp] theorem BlockState.next_checkMode (x : BlockState) : x.next.checkMode = x.checkMode := rfl
@[simp] theorem BlockState.next_pairRole (x : BlockState) : x.next.pairRole = x.pairRole := rfl
@[simp] theorem BlockState.next_keeperDuty (x : BlockState) : x.next.keeperDuty = x.keeperDuty := rfl
@[simp] theorem BlockState.next_keeperState (x : BlockState) : x.next.keeperState = x.keeperState := rfl
@[simp] theorem BlockState.next_keeperEn (x : BlockState) : x.next.keeperEn = x.keeperEn := rfl
@[simp] theorem BlockState.next_arrayBusy (x : BlockState) : x.next.arrayBusy = x.arrayBusy := rfl
@[simp] theorem BlockState.next_shadowStall (x : BlockState) : x.next.shadowStall = x.shadowStall := rfl
@[simp] theorem BlockState.next_keeperFill (x : BlockState) : x.next.keeperFill = x.keeperFill := rfl
@[simp] theorem BlockState.next_rampHold (x : BlockState) : x.next.rampHold = x.rampHold := rfl
@[simp] theorem BlockState.next_commits (x : BlockState) : x.next.commits = x.commits := rfl
@[simp] theorem BlockState.next_kills (x : BlockState) : x.next.kills = x.kills := rfl
@[simp] theorem BlockState.next_rejects (x : BlockState) : x.next.rejects = x.rejects := rfl
@[simp] theorem BlockState.next_grpMeas (x : BlockState) : x.next.grpMeas = x.grpMeas := rfl
@[simp] theorem BlockState.next_grpEst (x : BlockState) : x.next.grpEst = x.grpEst := rfl
@[simp] theorem BlockState.next_grpCount (x : BlockState) : x.next.grpCount = x.grpCount := rfl
@[simp] theorem BlockState.next_rbMask (x : BlockState) : x.next.rbMask = x.rbMask := rfl
@[simp] theorem BlockState.next_rbBase (x : BlockState) : x.next.rbBase = x.rbBase := rfl
@[simp] theorem BlockState.next_jobVersion (x : BlockState) : x.next.jobVersion = x.jobVersion := rfl
@[simp] theorem BlockState.next_stallPolicy (x : BlockState) : x.next.stallPolicy = x.stallPolicy := rfl
@[simp] theorem BlockState.next_stallLimit (x : BlockState) : x.next.stallLimit = x.stallLimit := rfl
@[simp] theorem BlockState.next_qAccepted (x : BlockState) : x.next.qAccepted = x.qAccepted := rfl
@[simp] theorem BlockState.next_qNacked (x : BlockState) : x.next.qNacked = x.qNacked := rfl
@[simp] theorem BlockState.next_qDrop (x : BlockState) : x.next.qDrop = x.qDrop := rfl
@[simp] theorem BlockState.next_qVoided (x : BlockState) : x.next.qVoided = x.qVoided := rfl
@[simp] theorem BlockState.next_qStall (x : BlockState) : x.next.qStall = x.qStall := rfl
@[simp] theorem BlockState.next_qReleaseErr (x : BlockState) : x.next.qReleaseErr = x.qReleaseErr := rfl
@[simp] theorem BlockState.next_queues (x : BlockState) : x.next.queues = x.queues := rfl
@[simp] theorem BlockState.next_landed (x : BlockState) : x.next.landed = x.landed := rfl
@[simp] theorem BlockState.next_arrayQ (x : BlockState) : x.next.arrayQ = x.arrayQ := rfl
@[simp] theorem BlockState.next_vectorQ (x : BlockState) : x.next.vectorQ = x.vectorQ := rfl
@[simp] theorem BlockState.next_fetchQ (x : BlockState) : x.next.fetchQ = x.fetchQ := rfl
@[simp] theorem BlockState.next_queueQ (x : BlockState) : x.next.queueQ = x.queueQ := rfl
@[simp] theorem BlockState.next_vecData (x : BlockState) : x.next.vecData = x.vecData := rfl
@[simp] theorem BlockState.next_fetchData (x : BlockState) : x.next.fetchData = x.fetchData := rfl
@[simp] theorem BlockState.next_ldData (x : BlockState) : x.next.ldData = x.ldData := rfl
@[simp] theorem BlockState.next_run (x : BlockState) : x.next.run = x.run := rfl
@[simp] theorem BlockState.next_active (x : BlockState) : x.next.active = x.active := rfl
@[simp] theorem BlockState.next_shadow (x : BlockState) : x.next.shadow = x.shadow := rfl
@[simp] theorem BlockState.next_untaken (x : BlockState) : x.next.untaken = x.untaken := rfl
@[simp] theorem BlockState.next_shadowNo (x : BlockState) : x.next.shadowNo = x.shadowNo := rfl
@[simp] theorem BlockState.next_group (x : BlockState) : x.next.group = x.group := rfl
@[simp] theorem BlockState.next_reran (x : BlockState) : x.next.reran = x.reran := rfl
@[simp] theorem BlockState.next_dipRerun (x : BlockState) : x.next.dipRerun = x.dipRerun := rfl
@[simp] theorem BlockState.next_rerunHeld (x : BlockState) : x.next.rerunHeld = x.rerunHeld := rfl
@[simp] theorem BlockState.next_report (x : BlockState) : x.next.report = x.report := rfl
@[simp] theorem BlockState.next_sendBuf (x : BlockState) : x.next.sendBuf = x.sendBuf := rfl
@[simp] theorem BlockState.next_sendSeq (x : BlockState) : x.next.sendSeq = x.sendSeq := rfl
@[simp] theorem BlockState.next_cpls (x : BlockState) : x.next.cpls = x.cpls := rfl
@[simp] theorem BlockState.next_cplSeq (x : BlockState) : x.next.cplSeq = x.cplSeq := rfl
@[simp] theorem BlockState.next_epoch (x : BlockState) : x.next.epoch = x.epoch := rfl
@[simp] theorem BlockState.next_pEpoch (x : BlockState) : x.next.pEpoch = x.pEpoch := rfl
@[simp] theorem BlockState.next_locks (x : BlockState) : x.next.locks = x.locks := rfl
@[simp] theorem BlockState.next_lastUcWr (x : BlockState) : x.next.lastUcWr = x.lastUcWr := rfl
@[simp] theorem BlockState.next_ucWrNew (x : BlockState) : x.next.ucWrNew = x.ucWrNew := rfl
@[simp] theorem BlockState.next_estimates (x : BlockState) : x.next.estimates = x.estimates := rfl
@[simp] theorem BlockState.next_fenced (x : BlockState) : x.next.fenced = x.fenced := rfl
@[simp] theorem BlockState.next_swapping (x : BlockState) : x.next.swapping = x.swapping := rfl
@[simp] theorem BlockState.next_fenceDropped (x : BlockState) : x.next.fenceDropped = x.fenceDropped := rfl
@[simp] theorem BlockState.next_voidCopies (x : BlockState) : x.next.voidCopies = x.voidCopies := rfl
@[simp] theorem BlockState.next_phys (x : BlockState) : x.next.phys = x.phys := rfl
@[simp] theorem BlockState.next_inReset (x : BlockState) : x.next.inReset = x.inReset := rfl
@[simp] theorem BlockState.endCommit_pc (x : BlockState) : x.endCommit.pc = x.pc := by simp only [BlockState.endCommit]; split <;> rfl
@[simp] theorem BlockState.endCommit_ghdrPc (x : BlockState) : x.endCommit.ghdrPc = x.ghdrPc := by simp only [BlockState.endCommit]; split <;> rfl
@[simp] theorem BlockState.endCommit_regs (x : BlockState) : x.endCommit.regs = x.regs := by simp only [BlockState.endCommit]; split <;> rfl
@[simp] theorem BlockState.endCommit_parkCode (x : BlockState) : x.endCommit.parkCode = x.parkCode := by simp only [BlockState.endCommit]; split <;> rfl
@[simp] theorem BlockState.endCommit_groupTag (x : BlockState) : x.endCommit.groupTag = x.groupTag := by simp only [BlockState.endCommit]; split <;> rfl
@[simp] theorem BlockState.endCommit_lastStatus (x : BlockState) : x.endCommit.lastStatus = x.lastStatus := by simp only [BlockState.endCommit]; split <;> rfl
@[simp] theorem BlockState.endCommit_stall (x : BlockState) : x.endCommit.stall = x.stall := by simp only [BlockState.endCommit]; split <;> rfl
@[simp] theorem BlockState.endCommit_running (x : BlockState) : x.endCommit.running = x.running := by simp only [BlockState.endCommit]; split <;> rfl
@[simp] theorem BlockState.endCommit_stopAtGhdr (x : BlockState) : x.endCommit.stopAtGhdr = x.stopAtGhdr := by simp only [BlockState.endCommit]; split <;> rfl
@[simp] theorem BlockState.endCommit_recoverAt (x : BlockState) : x.endCommit.recoverAt = x.recoverAt := by simp only [BlockState.endCommit]; split <;> rfl
@[simp] theorem BlockState.endCommit_cache (x : BlockState) : x.endCommit.cache = x.cache := by simp only [BlockState.endCommit]; split <;> rfl
@[simp] theorem BlockState.endCommit_userBase (x : BlockState) : x.endCommit.userBase = x.userBase := by simp only [BlockState.endCommit]; split <;> rfl
@[simp] theorem BlockState.endCommit_queueBytes (x : BlockState) : x.endCommit.queueBytes = x.queueBytes := by simp only [BlockState.endCommit]; split <;> rfl
@[simp] theorem BlockState.endCommit_workSize (x : BlockState) : x.endCommit.workSize = x.workSize := by simp only [BlockState.endCommit]; split <;> rfl
@[simp] theorem BlockState.endCommit_ppSel (x : BlockState) : x.endCommit.ppSel = x.ppSel := by simp only [BlockState.endCommit]; split <;> rfl
@[simp] theorem BlockState.endCommit_srSeed (x : BlockState) : x.endCommit.srSeed = x.srSeed := by simp only [BlockState.endCommit]; split <;> rfl
@[simp] theorem BlockState.endCommit_laneSeed (x : BlockState) : x.endCommit.laneSeed = x.laneSeed := by simp only [BlockState.endCommit]; split <;> rfl
@[simp] theorem BlockState.endCommit_lanes (x : BlockState) : x.endCommit.lanes = x.lanes := by simp only [BlockState.endCommit]; split <;> rfl
@[simp] theorem BlockState.endCommit_checkMode (x : BlockState) : x.endCommit.checkMode = x.checkMode := by simp only [BlockState.endCommit]; split <;> rfl
@[simp] theorem BlockState.endCommit_pairRole (x : BlockState) : x.endCommit.pairRole = x.pairRole := by simp only [BlockState.endCommit]; split <;> rfl
@[simp] theorem BlockState.endCommit_keeperDuty (x : BlockState) : x.endCommit.keeperDuty = x.keeperDuty := by simp only [BlockState.endCommit]; split <;> rfl
@[simp] theorem BlockState.endCommit_keeperState (x : BlockState) : x.endCommit.keeperState = x.keeperState := by simp only [BlockState.endCommit]; split <;> rfl
@[simp] theorem BlockState.endCommit_keeperEn (x : BlockState) : x.endCommit.keeperEn = x.keeperEn := by simp only [BlockState.endCommit]; split <;> rfl
@[simp] theorem BlockState.endCommit_arrayBusy (x : BlockState) : x.endCommit.arrayBusy = x.arrayBusy := by simp only [BlockState.endCommit]; split <;> rfl
@[simp] theorem BlockState.endCommit_shadowStall (x : BlockState) : x.endCommit.shadowStall = x.shadowStall := by simp only [BlockState.endCommit]; split <;> rfl
@[simp] theorem BlockState.endCommit_keeperFill (x : BlockState) : x.endCommit.keeperFill = x.keeperFill := by simp only [BlockState.endCommit]; split <;> rfl
@[simp] theorem BlockState.endCommit_rampHold (x : BlockState) : x.endCommit.rampHold = x.rampHold := by simp only [BlockState.endCommit]; split <;> rfl
@[simp] theorem BlockState.endCommit_commits (x : BlockState) : x.endCommit.commits = x.commits := by simp only [BlockState.endCommit]; split <;> rfl
@[simp] theorem BlockState.endCommit_kills (x : BlockState) : x.endCommit.kills = x.kills := by simp only [BlockState.endCommit]; split <;> rfl
@[simp] theorem BlockState.endCommit_rejects (x : BlockState) : x.endCommit.rejects = x.rejects := by simp only [BlockState.endCommit]; split <;> rfl
@[simp] theorem BlockState.endCommit_grpMeas (x : BlockState) : x.endCommit.grpMeas = x.grpMeas := by simp only [BlockState.endCommit]; split <;> rfl
@[simp] theorem BlockState.endCommit_grpEst (x : BlockState) : x.endCommit.grpEst = x.grpEst := by simp only [BlockState.endCommit]; split <;> rfl
@[simp] theorem BlockState.endCommit_grpCount (x : BlockState) : x.endCommit.grpCount = x.grpCount := by simp only [BlockState.endCommit]; split <;> rfl
@[simp] theorem BlockState.endCommit_rbMask (x : BlockState) : x.endCommit.rbMask = x.rbMask := by simp only [BlockState.endCommit]; split <;> rfl
@[simp] theorem BlockState.endCommit_rbBase (x : BlockState) : x.endCommit.rbBase = x.rbBase := by simp only [BlockState.endCommit]; split <;> rfl
@[simp] theorem BlockState.endCommit_jobVersion (x : BlockState) : x.endCommit.jobVersion = x.jobVersion := by simp only [BlockState.endCommit]; split <;> rfl
@[simp] theorem BlockState.endCommit_stallPolicy (x : BlockState) : x.endCommit.stallPolicy = x.stallPolicy := by simp only [BlockState.endCommit]; split <;> rfl
@[simp] theorem BlockState.endCommit_stallLimit (x : BlockState) : x.endCommit.stallLimit = x.stallLimit := by simp only [BlockState.endCommit]; split <;> rfl
@[simp] theorem BlockState.endCommit_qAccepted (x : BlockState) : x.endCommit.qAccepted = x.qAccepted := by simp only [BlockState.endCommit]; split <;> rfl
@[simp] theorem BlockState.endCommit_qNacked (x : BlockState) : x.endCommit.qNacked = x.qNacked := by simp only [BlockState.endCommit]; split <;> rfl
@[simp] theorem BlockState.endCommit_qDrop (x : BlockState) : x.endCommit.qDrop = x.qDrop := by simp only [BlockState.endCommit]; split <;> rfl
@[simp] theorem BlockState.endCommit_qVoided (x : BlockState) : x.endCommit.qVoided = x.qVoided := by simp only [BlockState.endCommit]; split <;> rfl
@[simp] theorem BlockState.endCommit_qStall (x : BlockState) : x.endCommit.qStall = x.qStall := by simp only [BlockState.endCommit]; split <;> rfl
@[simp] theorem BlockState.endCommit_qReleaseErr (x : BlockState) : x.endCommit.qReleaseErr = x.qReleaseErr := by simp only [BlockState.endCommit]; split <;> rfl
@[simp] theorem BlockState.endCommit_queues (x : BlockState) : x.endCommit.queues = x.queues := by simp only [BlockState.endCommit]; split <;> rfl
@[simp] theorem BlockState.endCommit_landed (x : BlockState) : x.endCommit.landed = x.landed := by simp only [BlockState.endCommit]; split <;> rfl
@[simp] theorem BlockState.endCommit_arrayQ (x : BlockState) : x.endCommit.arrayQ = x.arrayQ := by simp only [BlockState.endCommit]; split <;> rfl
@[simp] theorem BlockState.endCommit_vectorQ (x : BlockState) : x.endCommit.vectorQ = x.vectorQ := by simp only [BlockState.endCommit]; split <;> rfl
@[simp] theorem BlockState.endCommit_fetchQ (x : BlockState) : x.endCommit.fetchQ = x.fetchQ := by simp only [BlockState.endCommit]; split <;> rfl
@[simp] theorem BlockState.endCommit_queueQ (x : BlockState) : x.endCommit.queueQ = x.queueQ := by simp only [BlockState.endCommit]; split <;> rfl
@[simp] theorem BlockState.endCommit_vecData (x : BlockState) : x.endCommit.vecData = x.vecData := by simp only [BlockState.endCommit]; split <;> rfl
@[simp] theorem BlockState.endCommit_fetchData (x : BlockState) : x.endCommit.fetchData = x.fetchData := by simp only [BlockState.endCommit]; split <;> rfl
@[simp] theorem BlockState.endCommit_ldData (x : BlockState) : x.endCommit.ldData = x.ldData := by simp only [BlockState.endCommit]; split <;> rfl
@[simp] theorem BlockState.endCommit_run (x : BlockState) : x.endCommit.run = x.run := by simp only [BlockState.endCommit]; split <;> rfl
@[simp] theorem BlockState.endCommit_active (x : BlockState) : x.endCommit.active = x.active := by simp only [BlockState.endCommit]; split <;> rfl
@[simp] theorem BlockState.endCommit_shadow (x : BlockState) : x.endCommit.shadow = x.shadow := by simp only [BlockState.endCommit]; split <;> rfl
@[simp] theorem BlockState.endCommit_untaken (x : BlockState) : x.endCommit.untaken = x.untaken := by simp only [BlockState.endCommit]; split <;> rfl
@[simp] theorem BlockState.endCommit_shadowNo (x : BlockState) : x.endCommit.shadowNo = x.shadowNo := by simp only [BlockState.endCommit]; split <;> rfl
@[simp] theorem BlockState.endCommit_group (x : BlockState) : x.endCommit.group = x.group := by simp only [BlockState.endCommit]; split <;> rfl
@[simp] theorem BlockState.endCommit_reran (x : BlockState) : x.endCommit.reran = x.reran := by simp only [BlockState.endCommit]; split <;> rfl
@[simp] theorem BlockState.endCommit_dipRerun (x : BlockState) : x.endCommit.dipRerun = x.dipRerun := by simp only [BlockState.endCommit]; split <;> rfl
@[simp] theorem BlockState.endCommit_rerunHeld (x : BlockState) : x.endCommit.rerunHeld = x.rerunHeld := by simp only [BlockState.endCommit]; split <;> rfl
@[simp] theorem BlockState.endCommit_report (x : BlockState) : x.endCommit.report = x.report := by simp only [BlockState.endCommit]; split <;> rfl
@[simp] theorem BlockState.endCommit_sendBuf (x : BlockState) : x.endCommit.sendBuf = x.sendBuf := by simp only [BlockState.endCommit]; split <;> rfl
@[simp] theorem BlockState.endCommit_sendSeq (x : BlockState) : x.endCommit.sendSeq = x.sendSeq := by simp only [BlockState.endCommit]; split <;> rfl
@[simp] theorem BlockState.endCommit_cpls (x : BlockState) : x.endCommit.cpls = x.cpls := by simp only [BlockState.endCommit]; split <;> rfl
@[simp] theorem BlockState.endCommit_cplSeq (x : BlockState) : x.endCommit.cplSeq = x.cplSeq := by simp only [BlockState.endCommit]; split <;> rfl
@[simp] theorem BlockState.endCommit_epoch (x : BlockState) : x.endCommit.epoch = x.epoch := by simp only [BlockState.endCommit]; split <;> rfl
@[simp] theorem BlockState.endCommit_pEpoch (x : BlockState) : x.endCommit.pEpoch = x.pEpoch := by simp only [BlockState.endCommit]; split <;> rfl
@[simp] theorem BlockState.endCommit_locks (x : BlockState) : x.endCommit.locks = x.locks := by simp only [BlockState.endCommit]; split <;> rfl
@[simp] theorem BlockState.endCommit_lastUcWr (x : BlockState) : x.endCommit.lastUcWr = x.lastUcWr := by simp only [BlockState.endCommit]; split <;> rfl
@[simp] theorem BlockState.endCommit_ucWrNew (x : BlockState) : x.endCommit.ucWrNew = x.ucWrNew := by simp only [BlockState.endCommit]; split <;> rfl
@[simp] theorem BlockState.endCommit_estimates (x : BlockState) : x.endCommit.estimates = x.estimates := by simp only [BlockState.endCommit]; split <;> rfl
@[simp] theorem BlockState.endCommit_fenced (x : BlockState) : x.endCommit.fenced = x.fenced := by simp only [BlockState.endCommit]; split <;> rfl
@[simp] theorem BlockState.endCommit_swapping (x : BlockState) : x.endCommit.swapping = x.swapping := by simp only [BlockState.endCommit]; split <;> rfl
@[simp] theorem BlockState.endCommit_fenceDropped (x : BlockState) : x.endCommit.fenceDropped = x.fenceDropped := by simp only [BlockState.endCommit]; split <;> rfl
@[simp] theorem BlockState.endCommit_voidCopies (x : BlockState) : x.endCommit.voidCopies = x.voidCopies := by simp only [BlockState.endCommit]; split <;> rfl
@[simp] theorem BlockState.endCommit_phys (x : BlockState) : x.endCommit.phys = x.phys := by simp only [BlockState.endCommit]; split <;> rfl
@[simp] theorem BlockState.endCommit_inReset (x : BlockState) : x.endCommit.inReset = x.inReset := by simp only [BlockState.endCommit]; split <;> rfl

end Sys2Proof.Machine
end

