-- ==== Sys2Proof/Laws/Tables.lean ====
section
/-! SUPPORT. Tables: what a lookup finds after an entry is set or deleted. -/

namespace Sys2Proof.Laws

open Sys2Proof.Machine

theorem tFind_tSet_same {α : Type} (t : Tab α) (i : Nat) (v : α) : tFind (tSet t i v) i = some v := by
  induction t with
  | nil => simp [tSet, tFind]
  | cons e r ih =>
    obtain ⟨k, w⟩ := e
    simp only [tSet]
    split
    · simp [tFind]
    · split
      · simp [tFind]
      · simp only [tFind]
        split
        · contradiction
        · exact ih

theorem tFind_tSet_other {α : Type} (t : Tab α) (i j : Nat) (v : α) (h : j ≠ i) : tFind (tSet t i v) j = tFind t j := by
  induction t with
  | nil => simp [tSet, tFind]; omega
  | cons e r ih =>
    obtain ⟨k, w⟩ := e
    simp only [tSet]
    split
    · simp only [tFind]; split
      · omega
      · rfl
    · split
      · simp only [tFind]; subst_vars; simp [Ne.symm h]
      · simp only [tFind, ih]

@[simp] theorem tGet_tSet_same {α : Type} (d : α) (t : Tab α) (i : Nat) (v : α) : tGet d (tSet t i v) i = v := by
  simp [tGet, tFind_tSet_same]

theorem tGet_tSet_other {α : Type} (d : α) (t : Tab α) (i j : Nat) (v : α) (h : j ≠ i) : tGet d (tSet t i v) j = tGet d t j := by
  simp [tGet, tFind_tSet_other t i j v h]

/-- A block number is its region and its number in the region. -/
theorem blockId_ext (a b : BlockId) (h : a.idx = b.idx) : a = b := by
  obtain ⟨ar, ab⟩ := a
  obtain ⟨br, bb⟩ := b
  simp only [BlockId.idx] at h
  have h1 := ar.isLt; have h2 := ab.isLt; have h3 := br.isLt; have h4 := bb.isLt
  have e1 : ar.toNat = br.toNat := by omega
  have e2 : ab.toNat = bb.toNat := by omega
  rw [BitVec.eq_of_toNat_eq e1, BitVec.eq_of_toNat_eq e2]

/-- A block read after it is written. -/
@[simp] theorem block_setBlock_same (s : State) (b : BlockId) (x : BlockState) : (s.setBlock b x).block b = x := by
  simp [State.block, State.setBlock]

/-- A block read after another is written. -/
theorem block_setBlock_other (s : State) (b c : BlockId) (x : BlockState) (h : c ≠ b) : (s.setBlock b x).block c = s.block c := by
  simp only [State.block, State.setBlock]
  exact tGet_tSet_other _ _ _ _ _ fun e => h (blockId_ext _ _ e)

@[simp] theorem region_setRegion_same (s : State) (r : RegionId) (x : RegionState) : (s.setRegion r x).region r = x := by
  simp [State.region, State.setRegion]

@[simp] theorem part_setPart_same (s : State) (p : PartId) (x : Partition) : (s.setPart p x).part p = x := by
  simp [State.part, State.setPart]

theorem part_setPart_other (s : State) (p q : PartId) (x : Partition) (h : q ≠ p) : (s.setPart p x).part q = s.part q := by
  simp only [State.part, State.setPart]
  exact tGet_tSet_other _ _ _ _ _ fun e => h (BitVec.eq_of_toNat_eq e)

@[simp] theorem stage_setStage_same (s : State) (e : StageId) (x : StageEntry) : (s.setStage e x).stage e = x := by
  simp [State.stage, State.setStage]

@[simp] theorem stack_setStack_same (s : State) (i : Nat) (x : StackState) : (s.setStack i x).stack i = x := by
  simp [State.stack, State.setStack]

@[simp] theorem link_setLink_same (s : State) (l : LinkId) (x : LinkState) : (s.setLink l x).link l = x := by
  simp [State.link, State.setLink]

theorem link_setLink_other (s : State) (l m : LinkId) (x : LinkState) (h : m ≠ l) : (s.setLink l x).link m = s.link m := by
  simp only [State.link, State.setLink]
  exact tGet_tSet_other _ _ _ _ _ h

/-- s0 reads zero whatever is written (R77). -/
@[simp] theorem reg_zero (x : BlockState) : x.reg 0#5 = 0 := by simp [BlockState.reg]

/-- A write to s0 changes nothing (R77). -/
@[simp] theorem setReg_zero (x : BlockState) (v : Word) : x.setReg 0#5 v = x := by simp [BlockState.setReg]

/-- A register other than s0 reads what was written. -/
theorem reg_setReg_same (x : BlockState) (r : Reg) (v : Word) (h : r ≠ 0#5) : (x.setReg r v).reg r = v := by
  simp [BlockState.reg, BlockState.setReg, h]

/-- The other registers keep their values. -/
theorem reg_setReg_other (x : BlockState) (r q : Reg) (v : Word) (h : q ≠ r) : (x.setReg r v).reg q = x.reg q := by
  simp only [BlockState.reg, BlockState.setReg]
  split
  · rfl
  · split
    · rfl
    · exact tGet_tSet_other _ _ _ _ _ fun e => h (BitVec.eq_of_toNat_eq e)

end Sys2Proof.Laws
end

