-- ==== Sys2Proof/Laws/Ops.lean ====
section
/-! SUPPORT. What each shared operation answers: one lemma an operation, cited in place of its definition. -/

namespace Sys2Proof.Laws

open Sys2Proof.Machine

/-! ## Outcomes -/

@[simp] theorem when_true (s t : State) : when_ true s t = .next t := rfl
@[simp] theorem when_false (s t : State) : when_ false s t = .next s := rfl
@[simp] theorem whenHere_true (s : State) (r : Res) : whenHere true s r = r := rfl
@[simp] theorem whenHere_false (s : State) (r : Res) : whenHere false s r = .next s := rfl

/-- An event answers the state it leaves or the state as it was. -/
theorem when_answers (c : Bool) (s t u : State) (h : when_ c s t = .next u) : (c = true ∧ u = t) ∨ (c = false ∧ u = s) := by
  cases c with
  | true => exact .inl ⟨rfl, by cases h; rfl⟩
  | false => exact .inr ⟨rfl, by cases h; rfl⟩

/-! ## Tables -/

/-- An entry set twice holds the later value. -/
theorem tSet_tSet {α : Type} (t : Tab α) (i : Nat) (v w : α) : tSet (tSet t i v) i w = tSet t i w := by
  induction t with
  | nil => simp [tSet]
  | cons e r ih =>
    obtain ⟨k, u⟩ := e
    by_cases h : i < k
    · simp [tSet, h]
    · by_cases g : k = i
      · simp [tSet, g]
      · simp [tSet, h, g, ih]

/-- A block set twice holds the later value. -/
@[simp] theorem setBlock_setBlock (s : State) (b : BlockId) (x y : BlockState) : (s.setBlock b x).setBlock b y = s.setBlock b y := by
  simp only [State.setBlock, tSet_tSet]

@[simp] theorem done_eq (s : State) (b : BlockId) (x : BlockState) : s.done b x = s.setBlock b x.next := rfl

/-! ## The block core -/

/-- A block that decodes runs the command on the state in which its commit has ended. -/
theorem core_of_decodes (s : State) (b : BlockId) (k : State → BlockState → State) (h : s.decodes b = true) :
    s.core b k = .next (k (s.setBlock b (s.block b).endCommit) (s.block b).endCommit) := by
  simp only [State.decodes, Bool.and_eq_true] at h
  simp [State.core, h.1, h.2]

/-- A core command always answers a next state. -/
theorem core_answers (s : State) (b : BlockId) (k : State → BlockState → State) : ∃ t, s.core b k = .next t := by
  simp only [State.core]; split <;> exact ⟨_, rfl⟩

@[simp] theorem endCommit_reg (x : BlockState) (r : Reg) : x.endCommit.reg r = x.reg r := by
  simp only [BlockState.endCommit]; split <;> rfl
@[simp] theorem endCommit_inGroup (x : BlockState) : x.endCommit.inGroup = x.inGroup := by
  simp only [BlockState.endCommit, BlockState.inGroup]; split
  · next h => simp [h]
  · rfl

/-! ## Commands of the control complex -/

/-- A command that Flapino carries out runs on the state from which it has been taken. -/
theorem cmd_of_carries (s : State) (r : Running) (op : BitVec 16) (sc : Scope) (k : State → Running → State) (h : s.carries r op sc = true) :
    s.cmd op sc k = .next (k s.taken r) := by
  simp only [State.carries, Bool.and_eq_true, Bool.not_eq_true', beq_iff_eq] at h
  obtain ⟨⟨⟨⟨h1, h2⟩, h3⟩, h4⟩, h5⟩ := h
  have e : s.taken.scopeEpoch r sc = s.scopeEpoch r sc := by cases sc <;> rfl
  simp only [State.cmd, h1, h2, beq_self_eq_true, when_true]
  rw [← State.taken, e, h4, h5, h3]
  rfl

/-- A command of the control complex always answers a next state. -/
theorem cmd_answers (s : State) (op : BitVec 16) (sc : Scope) (k : State → Running → State) : ∃ t, s.cmd op sc k = .next t := by
  simp only [State.cmd]
  split
  · exact ⟨_, rfl⟩
  · simp only [when_]; split <;> exact ⟨_, rfl⟩

/-- A D command that its issuer's draft accepts is staged there, and does nothing else (R337). -/
theorem stageCmd_of_acceptsDraft (s : State) (r : Running) (op : BitVec 16) (sc : State → Scope) (d : DraftSetting) (hsc : sc s.taken = sc s)
    (h : s.acceptsDraft r op (sc s) d = true) : s.stageCmd op sc d = .next (s.drafted r op (sc s) d) := by
  simp only [State.acceptsDraft, Bool.and_eq_true, beq_iff_eq, Bool.not_eq_true'] at h
  obtain ⟨⟨h1, h2⟩, h3⟩ := h
  unfold State.draftMet draftedAs at h2
  unfold draftedAs at h3
  unfold State.stageCmd
  rw [cmd_of_carries s r op _ _ h1]
  have e : s.taken.part r.part = s.part r.part := rfl
  simp only [hsc, e, h2, h3]
  rfl

end Sys2Proof.Laws
end

