-- ==== Sys2Proof/Laws/PerInstr.lean ====
section
/-! SUPPORT. One lemma per command of the family WordRoundTrip: the command word that the encoder gives decodes to the command. -/

namespace Sys2Proof.Laws

/-- What is left of a packed word above its first fields. -/
theorem packWord_drop (l r : List (Nat × Nat)) : packWord (l ++ r) / 2 ^ (l.map Prod.fst).sum = packWord r := by
  induction l with
  | nil => simp
  | cons e l ih =>
    obtain ⟨n, v⟩ := e
    simp only [List.cons_append, packWord, List.map_cons, List.sum_cons, Nat.pow_add, ← Nat.div_div_eq_div_mul]
    rw [Nat.add_mul_div_left _ _ (Nat.two_pow_pos n), Nat.div_eq_of_lt (Nat.mod_lt _ (Nat.two_pow_pos n)), Nat.zero_add, ih]

/-- A field of a packed word. -/
theorem packWord_field (l r : List (Nat × Nat)) (n v : Nat) :
    packWord (l ++ (n, v) :: r) / 2 ^ (l.map Prod.fst).sum % 2 ^ n = v % 2 ^ n := by
  rw [packWord_drop]
  simp [packWord, Nat.add_mul_mod_self_left]

/-- A bit-vector field read back. -/
theorem wordField_packWord {k : Nat} (l r : List (Nat × Nat)) (v : BitVec k) {lo : Nat} (h : (l.map Prod.fst).sum = lo) :
    wordField (packWord (l ++ (k, v.toNat) :: r)) lo k = v :=
  h ▸ BitVec.eq_of_toNat_eq (by simp only [wordField, BitVec.toNat_ofNat, packWord_field, Nat.mod_eq_of_lt v.isLt])

/-- A field that holds a narrower value in a wider place. -/
theorem wordField_packWide {k : Nat} (l r : List (Nat × Nat)) (m : Nat) (h : k ≤ m) (v : BitVec k) {lo : Nat}
    (e : (l.map Prod.fst).sum = lo) : wordField (packWord (l ++ (m, v.toNat) :: r)) lo k = v := by
  subst e
  refine BitVec.eq_of_toNat_eq ?_
  simp only [wordField, BitVec.toNat_ofNat]
  rw [← Nat.mod_mod_of_dvd _ (Nat.pow_dvd_pow 2 h), packWord_field, Nat.mod_mod_of_dvd _ (Nat.pow_dvd_pow 2 h),
    Nat.mod_eq_of_lt v.isLt]

/-- A flag read back. -/
theorem wordBit_packWord (l r : List (Nat × Nat)) (v : Bool) {lo : Nat} (e : (l.map Prod.fst).sum = lo) :
    wordBit (packWord (l ++ (1, v.toNat) :: r)) lo = v := by
  subst e
  have h := packWord_field l r 1 v.toNat
  simp only [wordBit, Nat.pow_one] at h ⊢
  rw [h]; cases v <;> rfl

/-- The opcode read back. -/
theorem packWord_opcode (op : Nat) (r : List (Nat × Nat)) (h : op < 256) : packWord ((8, op) :: r) % 256 = op := by
  have e := packWord_field [] r 8 op
  simp only [List.nil_append, List.map_nil, List.sum_nil, Nat.pow_zero, Nat.div_one] at e
  exact e.trans (Nat.mod_eq_of_lt h)

variable (op flags : Nat) (sd sa sb : Reg) (opa : BitVec 32) (imm : Word)

theorem scalarWord_opcode (h : op < 256) : scalarWord op flags sd sa sb opa imm % 256 = op := packWord_opcode op _ h
@[simp] theorem scalarWord_sd : wordSd (scalarWord op flags sd sa sb opa imm) = sd := wordField_packWord [(8, op), (8, flags)] _ sd (by simp)
@[simp] theorem scalarWord_sa : wordSa (scalarWord op flags sd sa sb opa imm) = sa :=
  wordField_packWord [(8, op), (8, flags), (5, sd.toNat)] _ sa (by simp)
@[simp] theorem scalarWord_sb : wordSb (scalarWord op flags sd sa sb opa imm) = sb :=
  wordField_packWord [(8, op), (8, flags), (5, sd.toNat), (5, sa.toNat)] _ sb (by simp)
@[simp] theorem scalarWord_opa : wordOpa (scalarWord op flags sd sa sb opa imm) = opa :=
  wordField_packWord [(8, op), (8, flags), (5, sd.toNat), (5, sa.toNat), (5, sb.toNat), (1, 0)] _ opa (by simp)
@[simp] theorem scalarWord_imm : wordImm (scalarWord op flags sd sa sb opa imm) = imm :=
  wordField_packWord [(8, op), (8, flags), (5, sd.toNat), (5, sa.toNat), (5, sb.toNat), (1, 0), (32, opa.toNat)] _ imm (by simp)
/-- A field of operand A narrower than 32 bits. -/
@[simp] theorem scalarWord_opaField {k : Nat} (h : k ≤ 32) (v : BitVec k) :
    wordField (scalarWord op flags sd sa sb (v.setWidth 32) imm) 32 k = v := by
  have e : (v.setWidth 32).toNat = v.toNat := by
    simp only [BitVec.toNat_setWidth]
    exact Nat.mod_eq_of_lt (Nat.lt_of_lt_of_le v.isLt (Nat.pow_le_pow_right (by decide) h))
  simp only [scalarWord, e]
  exact wordField_packWide [(8, op), (8, flags), (5, sd.toNat), (5, sa.toNat), (5, sb.toNat), (1, 0)] _ 32 h v (by simp)
/-- The group tag, the low half of the imm field. -/
@[simp] theorem scalarWord_immLow (v : BitVec 32) :
    wordField (scalarWord op flags sd sa sb opa (v.setWidth 64)) 64 32 = v := by
  have e : (v.setWidth 64).toNat = v.toNat := by
    simp only [BitVec.toNat_setWidth]
    exact Nat.mod_eq_of_lt (Nat.lt_of_lt_of_le v.isLt (by decide))
  simp only [scalarWord, e]
  exact wordField_packWide [(8, op), (8, flags), (5, sd.toNat), (5, sa.toNat), (5, sb.toNat), (1, 0), (32, opa.toNat)] _ 64 (by decide) v (by simp)
/-- Bits 15:8 read back. -/
theorem scalarWord_flags : scalarWord op flags sd sa sb opa imm / 2 ^ 8 % 2 ^ 8 = flags % 2 ^ 8 :=
  packWord_field [(8, op)] _ 8 flags

/-- A bit below 8 of the flags. -/
theorem scalarWord_flagBit (i : Nat) (h : i < 8) :
    wordBit (scalarWord op flags sd sa sb opa imm) (8 + i) = (flags / 2 ^ i % 2 == 1) := by
  have e := scalarWord_flags op flags sd sa sb opa imm
  have d : ∀ x : Nat, x / 2 ^ i % 2 = x % 2 ^ 8 / 2 ^ i % 2 := by
    intro x; have : i = 0 ∨ i = 1 ∨ i = 2 ∨ i = 3 ∨ i = 4 ∨ i = 5 ∨ i = 6 ∨ i = 7 := by omega
    rcases this with rfl | rfl | rfl | rfl | rfl | rfl | rfl | rfl <;> omega
  simp only [wordBit, Nat.pow_add, ← Nat.div_div_eq_div_mul]
  rw [d (_ / 2 ^ 8), e, ← d]

/-- A WRREG word names a register of its own row, or it is that row. -/
theorem wordWrreg_plain (b : BlockId) (sa : Reg) (off : BitVec 16) (h : Instr.ownRow (.wrreg b sa off) = true) :
    wordWrreg b sa off = .wrreg b sa off := by
  simp only [Instr.ownRow, Bool.and_eq_true, bne_iff_ne, ne_eq] at h
  simp only [wordWrreg, h.1.1.1, h.1.1.2, h.1.2, h.2, if_false]

/-- MATMUL's word, field by field. -/
theorem wordMatmul_matmulWord (f : MatmulFields) : wordMatmul (matmulWord f) = f := by
  obtain ⟨amaxEn, amaxIdx, t, n, k, m, fmtZ, fmtC, fmtB, fmtA, st, ss, sz, sb, sa, sd, roundSr, tiled, zShape, fusedMul, fusedEn⟩ := f
  simp only [wordMatmul, MatmulFields.mk.injEq]
  exact ⟨wordBit_packWord [(8, 0x20), (1, fusedEn.toNat), (1, fusedMul.toNat), (2, zShape.toNat), (1, tiled.toNat), (1, roundSr.toNat), (2, 0), (5, sd.toNat), (5, sa.toNat), (5, sb.toNat), (1, 0), (5, sz.toNat), (5, ss.toNat), (5, st.toNat), (1, 0), (4, fmtA.toNat), (4, fmtB.toNat), (4, fmtC.toNat), (4, fmtZ.toNat), (20, m.toNat), (16, k.toNat), (16, n.toNat), (8, t.toNat), (3, amaxIdx.toNat)] _ amaxEn (by simp),
    wordField_packWord [(8, 0x20), (1, fusedEn.toNat), (1, fusedMul.toNat), (2, zShape.toNat), (1, tiled.toNat), (1, roundSr.toNat), (2, 0), (5, sd.toNat), (5, sa.toNat), (5, sb.toNat), (1, 0), (5, sz.toNat), (5, ss.toNat), (5, st.toNat), (1, 0), (4, fmtA.toNat), (4, fmtB.toNat), (4, fmtC.toNat), (4, fmtZ.toNat), (20, m.toNat), (16, k.toNat), (16, n.toNat), (8, t.toNat)] _ amaxIdx (by simp),
    wordField_packWord [(8, 0x20), (1, fusedEn.toNat), (1, fusedMul.toNat), (2, zShape.toNat), (1, tiled.toNat), (1, roundSr.toNat), (2, 0), (5, sd.toNat), (5, sa.toNat), (5, sb.toNat), (1, 0), (5, sz.toNat), (5, ss.toNat), (5, st.toNat), (1, 0), (4, fmtA.toNat), (4, fmtB.toNat), (4, fmtC.toNat), (4, fmtZ.toNat), (20, m.toNat), (16, k.toNat), (16, n.toNat)] _ t (by simp),
    wordField_packWord [(8, 0x20), (1, fusedEn.toNat), (1, fusedMul.toNat), (2, zShape.toNat), (1, tiled.toNat), (1, roundSr.toNat), (2, 0), (5, sd.toNat), (5, sa.toNat), (5, sb.toNat), (1, 0), (5, sz.toNat), (5, ss.toNat), (5, st.toNat), (1, 0), (4, fmtA.toNat), (4, fmtB.toNat), (4, fmtC.toNat), (4, fmtZ.toNat), (20, m.toNat), (16, k.toNat)] _ n (by simp),
    wordField_packWord [(8, 0x20), (1, fusedEn.toNat), (1, fusedMul.toNat), (2, zShape.toNat), (1, tiled.toNat), (1, roundSr.toNat), (2, 0), (5, sd.toNat), (5, sa.toNat), (5, sb.toNat), (1, 0), (5, sz.toNat), (5, ss.toNat), (5, st.toNat), (1, 0), (4, fmtA.toNat), (4, fmtB.toNat), (4, fmtC.toNat), (4, fmtZ.toNat), (20, m.toNat)] _ k (by simp),
    wordField_packWord [(8, 0x20), (1, fusedEn.toNat), (1, fusedMul.toNat), (2, zShape.toNat), (1, tiled.toNat), (1, roundSr.toNat), (2, 0), (5, sd.toNat), (5, sa.toNat), (5, sb.toNat), (1, 0), (5, sz.toNat), (5, ss.toNat), (5, st.toNat), (1, 0), (4, fmtA.toNat), (4, fmtB.toNat), (4, fmtC.toNat), (4, fmtZ.toNat)] _ m (by simp),
    wordField_packWord [(8, 0x20), (1, fusedEn.toNat), (1, fusedMul.toNat), (2, zShape.toNat), (1, tiled.toNat), (1, roundSr.toNat), (2, 0), (5, sd.toNat), (5, sa.toNat), (5, sb.toNat), (1, 0), (5, sz.toNat), (5, ss.toNat), (5, st.toNat), (1, 0), (4, fmtA.toNat), (4, fmtB.toNat), (4, fmtC.toNat)] _ fmtZ (by simp),
    wordField_packWord [(8, 0x20), (1, fusedEn.toNat), (1, fusedMul.toNat), (2, zShape.toNat), (1, tiled.toNat), (1, roundSr.toNat), (2, 0), (5, sd.toNat), (5, sa.toNat), (5, sb.toNat), (1, 0), (5, sz.toNat), (5, ss.toNat), (5, st.toNat), (1, 0), (4, fmtA.toNat), (4, fmtB.toNat)] _ fmtC (by simp),
    wordField_packWord [(8, 0x20), (1, fusedEn.toNat), (1, fusedMul.toNat), (2, zShape.toNat), (1, tiled.toNat), (1, roundSr.toNat), (2, 0), (5, sd.toNat), (5, sa.toNat), (5, sb.toNat), (1, 0), (5, sz.toNat), (5, ss.toNat), (5, st.toNat), (1, 0), (4, fmtA.toNat)] _ fmtB (by simp),
    wordField_packWord [(8, 0x20), (1, fusedEn.toNat), (1, fusedMul.toNat), (2, zShape.toNat), (1, tiled.toNat), (1, roundSr.toNat), (2, 0), (5, sd.toNat), (5, sa.toNat), (5, sb.toNat), (1, 0), (5, sz.toNat), (5, ss.toNat), (5, st.toNat), (1, 0)] _ fmtA (by simp),
    wordField_packWord [(8, 0x20), (1, fusedEn.toNat), (1, fusedMul.toNat), (2, zShape.toNat), (1, tiled.toNat), (1, roundSr.toNat), (2, 0), (5, sd.toNat), (5, sa.toNat), (5, sb.toNat), (1, 0), (5, sz.toNat), (5, ss.toNat)] _ st (by simp),
    wordField_packWord [(8, 0x20), (1, fusedEn.toNat), (1, fusedMul.toNat), (2, zShape.toNat), (1, tiled.toNat), (1, roundSr.toNat), (2, 0), (5, sd.toNat), (5, sa.toNat), (5, sb.toNat), (1, 0), (5, sz.toNat)] _ ss (by simp),
    wordField_packWord [(8, 0x20), (1, fusedEn.toNat), (1, fusedMul.toNat), (2, zShape.toNat), (1, tiled.toNat), (1, roundSr.toNat), (2, 0), (5, sd.toNat), (5, sa.toNat), (5, sb.toNat), (1, 0)] _ sz (by simp),
    wordField_packWord [(8, 0x20), (1, fusedEn.toNat), (1, fusedMul.toNat), (2, zShape.toNat), (1, tiled.toNat), (1, roundSr.toNat), (2, 0), (5, sd.toNat), (5, sa.toNat)] _ sb (by simp),
    wordField_packWord [(8, 0x20), (1, fusedEn.toNat), (1, fusedMul.toNat), (2, zShape.toNat), (1, tiled.toNat), (1, roundSr.toNat), (2, 0), (5, sd.toNat)] _ sa (by simp),
    wordField_packWord [(8, 0x20), (1, fusedEn.toNat), (1, fusedMul.toNat), (2, zShape.toNat), (1, tiled.toNat), (1, roundSr.toNat), (2, 0)] _ sd (by simp),
    wordBit_packWord [(8, 0x20), (1, fusedEn.toNat), (1, fusedMul.toNat), (2, zShape.toNat), (1, tiled.toNat)] _ roundSr (by simp),
    wordBit_packWord [(8, 0x20), (1, fusedEn.toNat), (1, fusedMul.toNat), (2, zShape.toNat)] _ tiled (by simp),
    wordField_packWord [(8, 0x20), (1, fusedEn.toNat), (1, fusedMul.toNat)] _ zShape (by simp),
    wordBit_packWord [(8, 0x20), (1, fusedEn.toNat)] _ fusedMul (by simp),
    wordBit_packWord [(8, 0x20)] _ fusedEn (by simp)⟩

/-- VEC's and CONVERT's word, field by field. -/
theorem wordVec_vecWord (op : Nat) (f : VecFields) : wordVec (vecWord op f) = f := by
  obtain ⟨t, vop, rowLen, count, fmtD, fmtB, fmtA, sc, sb, sa, sd, bcastB, scalarB, amaxIdx, amaxEn, roundSr⟩ := f
  simp only [wordVec, VecFields.mk.injEq]
  exact ⟨wordField_packWord [(8, op), (1, roundSr.toNat), (1, amaxEn.toNat), (3, amaxIdx.toNat), (1, scalarB.toNat), (1, bcastB.toNat), (1, 0), (5, sd.toNat), (5, sa.toNat), (5, sb.toNat), (1, 0), (5, sc.toNat), (11, 0), (4, fmtA.toNat), (4, fmtB.toNat), (4, fmtD.toNat), (4, 0), (32, count.toNat), (16, rowLen.toNat), (8, vop.toNat)] _ t (by simp),
    wordField_packWord [(8, op), (1, roundSr.toNat), (1, amaxEn.toNat), (3, amaxIdx.toNat), (1, scalarB.toNat), (1, bcastB.toNat), (1, 0), (5, sd.toNat), (5, sa.toNat), (5, sb.toNat), (1, 0), (5, sc.toNat), (11, 0), (4, fmtA.toNat), (4, fmtB.toNat), (4, fmtD.toNat), (4, 0), (32, count.toNat), (16, rowLen.toNat)] _ vop (by simp),
    wordField_packWord [(8, op), (1, roundSr.toNat), (1, amaxEn.toNat), (3, amaxIdx.toNat), (1, scalarB.toNat), (1, bcastB.toNat), (1, 0), (5, sd.toNat), (5, sa.toNat), (5, sb.toNat), (1, 0), (5, sc.toNat), (11, 0), (4, fmtA.toNat), (4, fmtB.toNat), (4, fmtD.toNat), (4, 0), (32, count.toNat)] _ rowLen (by simp),
    wordField_packWord [(8, op), (1, roundSr.toNat), (1, amaxEn.toNat), (3, amaxIdx.toNat), (1, scalarB.toNat), (1, bcastB.toNat), (1, 0), (5, sd.toNat), (5, sa.toNat), (5, sb.toNat), (1, 0), (5, sc.toNat), (11, 0), (4, fmtA.toNat), (4, fmtB.toNat), (4, fmtD.toNat), (4, 0)] _ count (by simp),
    wordField_packWord [(8, op), (1, roundSr.toNat), (1, amaxEn.toNat), (3, amaxIdx.toNat), (1, scalarB.toNat), (1, bcastB.toNat), (1, 0), (5, sd.toNat), (5, sa.toNat), (5, sb.toNat), (1, 0), (5, sc.toNat), (11, 0), (4, fmtA.toNat), (4, fmtB.toNat)] _ fmtD (by simp),
    wordField_packWord [(8, op), (1, roundSr.toNat), (1, amaxEn.toNat), (3, amaxIdx.toNat), (1, scalarB.toNat), (1, bcastB.toNat), (1, 0), (5, sd.toNat), (5, sa.toNat), (5, sb.toNat), (1, 0), (5, sc.toNat), (11, 0), (4, fmtA.toNat)] _ fmtB (by simp),
    wordField_packWord [(8, op), (1, roundSr.toNat), (1, amaxEn.toNat), (3, amaxIdx.toNat), (1, scalarB.toNat), (1, bcastB.toNat), (1, 0), (5, sd.toNat), (5, sa.toNat), (5, sb.toNat), (1, 0), (5, sc.toNat), (11, 0)] _ fmtA (by simp),
    wordField_packWord [(8, op), (1, roundSr.toNat), (1, amaxEn.toNat), (3, amaxIdx.toNat), (1, scalarB.toNat), (1, bcastB.toNat), (1, 0), (5, sd.toNat), (5, sa.toNat), (5, sb.toNat), (1, 0)] _ sc (by simp),
    wordField_packWord [(8, op), (1, roundSr.toNat), (1, amaxEn.toNat), (3, amaxIdx.toNat), (1, scalarB.toNat), (1, bcastB.toNat), (1, 0), (5, sd.toNat), (5, sa.toNat)] _ sb (by simp),
    wordField_packWord [(8, op), (1, roundSr.toNat), (1, amaxEn.toNat), (3, amaxIdx.toNat), (1, scalarB.toNat), (1, bcastB.toNat), (1, 0), (5, sd.toNat)] _ sa (by simp),
    wordField_packWord [(8, op), (1, roundSr.toNat), (1, amaxEn.toNat), (3, amaxIdx.toNat), (1, scalarB.toNat), (1, bcastB.toNat), (1, 0)] _ sd (by simp),
    wordBit_packWord [(8, op), (1, roundSr.toNat), (1, amaxEn.toNat), (3, amaxIdx.toNat), (1, scalarB.toNat)] _ bcastB (by simp),
    wordBit_packWord [(8, op), (1, roundSr.toNat), (1, amaxEn.toNat), (3, amaxIdx.toNat)] _ scalarB (by simp),
    wordField_packWord [(8, op), (1, roundSr.toNat), (1, amaxEn.toNat)] _ amaxIdx (by simp),
    wordBit_packWord [(8, op), (1, roundSr.toNat)] _ amaxEn (by simp),
    wordBit_packWord [(8, op)] _ roundSr (by simp)⟩

/-- FETCH's and COPY's word, field by field. -/
theorem wordFetch_fetchWord (op : Nat) (f : FetchFields) : wordFetch (fetchWord op f) = f := by
  obtain ⟨t, fmtDst, fmtSrc, sv, sb, sa, sd, amaxIdx, amaxEn, versionEn, toShadow⟩ := f
  simp only [wordFetch, FetchFields.mk.injEq]
  exact ⟨wordField_packWord [(8, op), (1, toShadow.toNat), (1, versionEn.toNat), (1, amaxEn.toNat), (3, amaxIdx.toNat), (2, 0), (5, sd.toNat), (5, sa.toNat), (5, sb.toNat), (1, 0), (5, sv.toNat), (11, 0), (4, fmtSrc.toNat), (4, fmtDst.toNat)] _ t (by simp),
    wordField_packWord [(8, op), (1, toShadow.toNat), (1, versionEn.toNat), (1, amaxEn.toNat), (3, amaxIdx.toNat), (2, 0), (5, sd.toNat), (5, sa.toNat), (5, sb.toNat), (1, 0), (5, sv.toNat), (11, 0), (4, fmtSrc.toNat)] _ fmtDst (by simp),
    wordField_packWord [(8, op), (1, toShadow.toNat), (1, versionEn.toNat), (1, amaxEn.toNat), (3, amaxIdx.toNat), (2, 0), (5, sd.toNat), (5, sa.toNat), (5, sb.toNat), (1, 0), (5, sv.toNat), (11, 0)] _ fmtSrc (by simp),
    wordField_packWord [(8, op), (1, toShadow.toNat), (1, versionEn.toNat), (1, amaxEn.toNat), (3, amaxIdx.toNat), (2, 0), (5, sd.toNat), (5, sa.toNat), (5, sb.toNat), (1, 0)] _ sv (by simp),
    wordField_packWord [(8, op), (1, toShadow.toNat), (1, versionEn.toNat), (1, amaxEn.toNat), (3, amaxIdx.toNat), (2, 0), (5, sd.toNat), (5, sa.toNat)] _ sb (by simp),
    wordField_packWord [(8, op), (1, toShadow.toNat), (1, versionEn.toNat), (1, amaxEn.toNat), (3, amaxIdx.toNat), (2, 0), (5, sd.toNat)] _ sa (by simp),
    wordField_packWord [(8, op), (1, toShadow.toNat), (1, versionEn.toNat), (1, amaxEn.toNat), (3, amaxIdx.toNat), (2, 0)] _ sd (by simp),
    wordField_packWord [(8, op), (1, toShadow.toNat), (1, versionEn.toNat), (1, amaxEn.toNat)] _ amaxIdx (by simp),
    wordBit_packWord [(8, op), (1, toShadow.toNat), (1, versionEn.toNat)] _ amaxEn (by simp),
    wordBit_packWord [(8, op), (1, toShadow.toNat)] _ versionEn (by simp),
    wordBit_packWord [(8, op)] _ toShadow (by simp)⟩

namespace WordRoundTrip

/-- The command word that a well-formed command is encoded as decodes, at its block, to that command. -/
def Statement (i : Instr) : Prop :=
  i.wellFormed = true → ∀ w, encodeCommandWord i = some w → ∃ b, decodeCommandWord b w = i

theorem nop (b : BlockId) : Statement (.nop b) := by
  intro wf w h
  have e := Option.some.inj h
  subst e
  refine ⟨b, ?_⟩
  simp only [decodeCommandWord, scalarWord_opcode 0x00 _ _ _ _ _ _ (by decide)]
theorem li (b : BlockId) (sd : Reg) (imm : Word) : Statement (.li b sd imm) := by
  intro wf w h
  have e := Option.some.inj h
  subst e
  refine ⟨b, ?_⟩
  simp only [decodeCommandWord, scalarWord_opcode 0x01 _ _ _ _ _ _ (by decide)]
  simp
theorem alu (b : BlockId) (op : BitVec 4) (sd : Reg) (sa : Reg) (sb : Reg) : Statement (.alu b op sd sa sb) := by
  intro wf w h
  have e := Option.some.inj h
  subst e
  refine ⟨b, ?_⟩
  simp only [decodeCommandWord, scalarWord_opcode 0x02 _ _ _ _ _ _ (by decide)]
  simp
theorem alui (b : BlockId) (op : BitVec 4) (sd : Reg) (sa : Reg) (imm : Word) : Statement (.alui b op sd sa imm) := by
  intro wf w h
  have e := Option.some.inj h
  subst e
  refine ⟨b, ?_⟩
  simp only [decodeCommandWord, scalarWord_opcode 0x03 _ _ _ _ _ _ (by decide)]
  simp
theorem ld (b : BlockId) (sd : Reg) (sa : Reg) (imm : Word) : Statement (.ld b sd sa imm) := by
  intro wf w h
  have e := Option.some.inj h
  subst e
  refine ⟨b, ?_⟩
  simp only [decodeCommandWord, scalarWord_opcode 0x04 _ _ _ _ _ _ (by decide)]
  simp
theorem ldDataReturn (b : BlockId) (hit : BurstErr) : Statement (.ldDataReturn b hit) := fun _ _ h => nomatch h
theorem st (b : BlockId) (sa : Reg) (sb : Reg) (imm : Word) : Statement (.st b sa sb imm) := by
  intro wf w h
  have e := Option.some.inj h
  subst e
  refine ⟨b, ?_⟩
  simp only [decodeCommandWord, scalarWord_opcode 0x05 _ _ _ _ _ _ (by decide)]
  simp
theorem br (b : BlockId) (cond : BitVec 3) (sa : Reg) (sb : Reg) (offset : BitVec 32) : Statement (.br b cond sa sb offset) := by
  intro wf w h
  have e := Option.some.inj h
  subst e
  refine ⟨b, ?_⟩
  simp only [decodeCommandWord, scalarWord_opcode 0x06 _ _ _ _ _ _ (by decide)]
  have g : wordField (scalarWord 0x06 cond.toNat 0 sa sb offset 0) 8 3 = cond := wordField_packWide [(8, 0x06)] _ 8 (by decide) cond (by simp)
  simp only [scalarWord_sa, scalarWord_sb, scalarWord_opa, g]
theorem jmp (b : BlockId) (call : Bool) (indirect : Bool) (sa : Reg) (offset : BitVec 32) : Statement (.jmp b call indirect sa offset) := by
  intro wf w h
  have e := Option.some.inj h
  subst e
  refine ⟨b, ?_⟩
  simp only [decodeCommandWord, scalarWord_opcode 0x07 _ _ _ _ _ _ (by decide)]
  rw [scalarWord_flagBit _ _ _ _ _ _ _ 0 (by decide), scalarWord_flagBit _ _ _ _ _ _ _ 1 (by decide)]
  cases call <;> cases indirect <;> simp
theorem loop (b : BlockId) (sd : Reg) (offset : BitVec 32) : Statement (.loop b sd offset) := by
  intro wf w h
  have e := Option.some.inj h
  subst e
  refine ⟨b, ?_⟩
  simp only [decodeCommandWord, scalarWord_opcode 0x08 _ _ _ _ _ _ (by decide)]
  simp
theorem rdreg (b : BlockId) (sd : Reg) (reg : BitVec 16) : Statement (.rdreg b sd reg) := by
  intro wf w h
  have e := Option.some.inj h
  subst e
  refine ⟨b, ?_⟩
  simp only [decodeCommandWord, scalarWord_opcode 0x09 _ _ _ _ _ _ (by decide)]
  simp
theorem wrreg (b : BlockId) (sa : Reg) (reg : BitVec 16) : Statement (.wrreg b sa reg) := by
  intro wf w h
  have e := Option.some.inj h
  subst e
  refine ⟨b, ?_⟩
  simp only [decodeCommandWord, scalarWord_opcode 0x0A _ _ _ _ _ _ (by decide)]
  have o : Instr.ownRow (.wrreg b sa reg) = true := by simp only [Instr.wellFormed, Bool.and_eq_true] at wf; exact wf.2
  rw [scalarWord_sa, scalarWord_opaField _ _ _ _ _ _ (by decide), wordWrreg_plain b sa reg o]
theorem blkSrSeedWrite (b : BlockId) (sa : Reg) : Statement (.blkSrSeedWrite b sa) := by
  intro wf w h
  have e := Option.some.inj h
  subst e
  refine ⟨b, ?_⟩
  simp only [decodeCommandWord, scalarWord_opcode 0x0A _ _ _ _ _ _ (by decide)]
  have o := scalarWord_opaField 0x0A 0 0 sa 0 0 (by decide) (0x0018#16)
  simp only [BitVec.reduceSetWidth] at o
  simp only [scalarWord_sa, BitVec.ofNat_eq_ofNat] at o ⊢
  rw [o]; rfl
theorem blkLrReleaseWrite (b : BlockId) (sa : Reg) : Statement (.blkLrReleaseWrite b sa) := by
  intro wf w h
  have e := Option.some.inj h
  subst e
  refine ⟨b, ?_⟩
  simp only [decodeCommandWord, scalarWord_opcode 0x0A _ _ _ _ _ _ (by decide)]
  have o := scalarWord_opaField 0x0A 0 0 sa 0 0 (by decide) (0x0208#16)
  simp only [BitVec.reduceSetWidth] at o
  simp only [scalarWord_sa, BitVec.ofNat_eq_ofNat] at o ⊢
  rw [o]; rfl
theorem blkCollPostWrite (b : BlockId) (sa : Reg) : Statement (.blkCollPostWrite b sa) := by
  intro wf w h
  have e := Option.some.inj h
  subst e
  refine ⟨b, ?_⟩
  simp only [decodeCommandWord, scalarWord_opcode 0x0A _ _ _ _ _ _ (by decide)]
  have o := scalarWord_opaField 0x0A 0 0 sa 0 0 (by decide) (0x0048#16)
  simp only [BitVec.reduceSetWidth] at o
  simp only [scalarWord_sa, BitVec.ofNat_eq_ofNat] at o ⊢
  rw [o]; rfl
theorem blkWlDoneWrite (b : BlockId) (sa : Reg) : Statement (.blkWlDoneWrite b sa) := by
  intro wf w h
  have e := Option.some.inj h
  subst e
  refine ⟨b, ?_⟩
  simp only [decodeCommandWord, scalarWord_opcode 0x0A _ _ _ _ _ _ (by decide)]
  have o := scalarWord_opaField 0x0A 0 0 sa 0 0 (by decide) (0x0050#16)
  simp only [BitVec.reduceSetWidth] at o
  simp only [scalarWord_sa, BitVec.ofNat_eq_ofNat] at o ⊢
  rw [o]; rfl
theorem park (b : BlockId) (code : BitVec 16) : Statement (.park b code) := by
  intro wf w h
  have e := Option.some.inj h
  subst e
  refine ⟨b, ?_⟩
  simp only [decodeCommandWord, scalarWord_opcode 0x0B _ _ _ _ _ _ (by decide)]
  simp
theorem unlistedCommand (b : BlockId) : Statement (.unlistedCommand b) := fun _ _ h => nomatch h
theorem ghdr (b : BlockId) (sa : Reg) (n : BitVec 6) (tag : BitVec 32) (riderEn : Bool) (sb : Reg) : Statement (.ghdr b sa n tag riderEn sb) := by
  intro wf w h
  have e := Option.some.inj h
  subst e
  refine ⟨b, ?_⟩
  simp only [decodeCommandWord, scalarWord_opcode 0x10 _ _ _ _ _ _ (by decide)]
  rw [scalarWord_flagBit _ _ _ _ _ _ _ 0 (by decide)]
  cases riderEn <;> simp
theorem commit (b : BlockId) (quiet : Bool) : Statement (.commit b quiet) := by
  intro wf w h
  have e := Option.some.inj h
  subst e
  refine ⟨b, ?_⟩
  simp only [decodeCommandWord, scalarWord_opcode 0x11 _ _ _ _ _ _ (by decide)]
  rw [scalarWord_flagBit _ _ _ _ _ _ _ 0 (by decide)]
  cases quiet <;> simp
theorem groupCommit (b : BlockId) (cycles : Word) : Statement (.groupCommit b cycles) := fun _ _ h => nomatch h
theorem groupCompletionPost (b : BlockId) : Statement (.groupCompletionPost b) := fun _ _ h => nomatch h
theorem wait (b : BlockId) (mask : BitVec 4) : Statement (.wait b mask) := by
  intro wf w h
  have e := Option.some.inj h
  subst e
  refine ⟨b, ?_⟩
  simp only [decodeCommandWord, scalarWord_opcode 0x12 _ _ _ _ _ _ (by decide)]
  simp
theorem engineCommandFinish (b : BlockId) (e : EngineId) (hit : BurstErr) : Statement (.engineCommandFinish b e hit) := fun _ _ h => nomatch h
theorem matmul (b : BlockId) (f : MatmulFields) : Statement (.matmul b f) := by
  intro wf w h
  have e := Option.some.inj h
  subst e
  refine ⟨b, ?_⟩
  have e : matmulWord f % 256 = 0x20 := packWord_opcode 0x20 _ (by decide)
  simp only [decodeCommandWord, e, wordMatmul_matmulWord f]
theorem vec (b : BlockId) (f : VecFields) : Statement (.vec b f) := by
  intro wf w h
  have e := Option.some.inj h
  subst e
  refine ⟨b, ?_⟩
  have e : vecWord 0x21 f % 256 = 0x21 := packWord_opcode 0x21 _ (by decide)
  simp only [decodeCommandWord, e, wordVec_vecWord 0x21 f]
theorem convert (b : BlockId) (f : VecFields) : Statement (.convert b f) := by
  intro wf w h
  have e := Option.some.inj h
  subst e
  refine ⟨b, ?_⟩
  have e : vecWord 0x22 f % 256 = 0x22 := packWord_opcode 0x22 _ (by decide)
  simp only [decodeCommandWord, e, wordVec_vecWord 0x22 f]
theorem fetch (b : BlockId) (f : FetchFields) : Statement (.fetch b f) := by
  intro wf w h
  have e := Option.some.inj h
  subst e
  refine ⟨b, ?_⟩
  have e : fetchWord 0x23 f % 256 = 0x23 := packWord_opcode 0x23 _ (by decide)
  simp only [decodeCommandWord, e, wordFetch_fetchWord 0x23 f]
theorem versionEntryRead (b : BlockId) (hit : BurstErr) : Statement (.versionEntryRead b hit) := fun _ _ h => nomatch h
theorem copy (b : BlockId) (f : FetchFields) : Statement (.copy b f) := by
  intro wf w h
  have e := Option.some.inj h
  subst e
  refine ⟨b, ?_⟩
  have e : fetchWord 0x24 f % 256 = 0x24 := packWord_opcode 0x24 _ (by decide)
  simp only [decodeCommandWord, e, wordFetch_fetchWord 0x24 f]
theorem send (b : BlockId) (sa : Reg) (byAddr : Bool) : Statement (.send b sa byAddr) := by
  intro wf w h
  have e := Option.some.inj h
  subst e
  refine ⟨b, ?_⟩
  simp only [decodeCommandWord, scalarWord_opcode 0x28 _ _ _ _ _ _ (by decide)]
  rw [scalarWord_flagBit _ _ _ _ _ _ _ 0 (by decide)]
  cases byAddr <;> simp
theorem recv (b : BlockId) (q : BitVec 7) (sd : Reg) (sb : Reg) (nonblock : Bool) (byAddr : Bool) : Statement (.recv b q sd sb nonblock byAddr) := by
  intro wf w h
  have e := Option.some.inj h
  subst e
  refine ⟨b, ?_⟩
  simp only [decodeCommandWord, scalarWord_opcode 0x29 _ _ _ _ _ _ (by decide)]
  rw [scalarWord_flagBit _ _ _ _ _ _ _ 0 (by decide), scalarWord_flagBit _ _ _ _ _ _ _ 1 (by decide)]
  simp only [scalarWord_sd, scalarWord_sb, scalarWord_opaField _ _ _ _ _ _ (show 7 ≤ 32 by decide)]
  cases byAddr <;> cases nonblock <;> simp
theorem recvWake (b : BlockId) : Statement (.recvWake b) := fun _ _ h => nomatch h
theorem relay (b : BlockId) (sa : Reg) (byAddr : Bool) : Statement (.relay b sa byAddr) := by
  intro wf w h
  have e := Option.some.inj h
  subst e
  refine ⟨b, ?_⟩
  simp only [decodeCommandWord, scalarWord_opcode 0x2A _ _ _ _ _ _ (by decide)]
  rw [scalarWord_flagBit _ _ _ _ _ _ _ 0 (by decide)]
  cases byAddr <;> simp
theorem atomic (b : BlockId) (sd : Reg) (sa : Reg) (sb : Reg) (op : BitVec 24) : Statement (.atomic b sd sa sb op) := by
  intro wf w h
  have e := Option.some.inj h
  subst e
  refine ⟨b, ?_⟩
  simp only [decodeCommandWord, scalarWord_opcode 0x2C _ _ _ _ _ _ (by decide)]
  simp
theorem fenceReadback (b : BlockId) : Statement (.fenceReadback b) := by
  intro wf w h
  have e := Option.some.inj h
  subst e
  refine ⟨b, ?_⟩
  simp only [decodeCommandWord, scalarWord_opcode 0x2D _ _ _ _ _ _ (by decide)]
theorem readbackReturn (b : BlockId) (st : RespStatus) : Statement (.readbackReturn b st) := fun _ _ h => nomatch h
theorem groupKill (b : BlockId) (cause : KillCause) : Statement (.groupKill b cause) := fun _ _ h => nomatch h
theorem blockAbort (b : BlockId) : Statement (.blockAbort b) := fun _ _ h => nomatch h
theorem commandFetchReturn (b : BlockId) (hit : BurstErr) : Statement (.commandFetchReturn b hit) := fun _ _ h => nomatch h
theorem shadowLoadComplete (b : BlockId) : Statement (.shadowLoadComplete b) := fun _ _ h => nomatch h
theorem arrayPass (b : BlockId) (fault : ArrayFault) : Statement (.arrayPass b fault) := fun _ _ h => nomatch h
theorem blockReport (b : BlockId) : Statement (.blockReport b) := fun _ _ h => nomatch h
theorem fenceDrainTimeout (b : BlockId) : Statement (.fenceDrainTimeout b) := fun _ _ h => nomatch h
theorem startupTestComplete (region : RegionId) (phys : Nat) (pass : Bool) : Statement (.startupTestComplete region phys pass) := fun _ _ h => nomatch h
theorem regionReport (rep : ChipReport) : Statement (.regionReport rep) := fun _ _ h => nomatch h
theorem descriptorArrival (d : Descriptor) (parityOk : Bool) : Statement (.descriptorArrival d parityOk) := fun _ _ h => nomatch h
theorem answerAccept (m : MsgRef) : Statement (.answerAccept m) := fun _ _ h => nomatch h
theorem answerNackFull (m : MsgRef) : Statement (.answerNackFull m) := fun _ _ h => nomatch h
theorem answerNackCrc (m : MsgRef) : Statement (.answerNackCrc m) := fun _ _ h => nomatch h
theorem answerNackStale (m : MsgRef) : Statement (.answerNackStale m) := fun _ _ h => nomatch h
theorem answerNackGone (m : MsgRef) : Statement (.answerNackGone m) := fun _ _ h => nomatch h
theorem answerNackBusy (m : MsgRef) : Statement (.answerNackBusy m) := fun _ _ h => nomatch h
theorem backoffExpiry (m : MsgRef) : Statement (.backoffExpiry m) := fun _ _ h => nomatch h
theorem lossLimitExpiry (m : MsgRef) : Statement (.lossLimitExpiry m) := fun _ _ h => nomatch h
theorem sendStallLimit (m : MsgRef) : Statement (.sendStallLimit m) := fun _ _ h => nomatch h
theorem relayOpen (o : RelayOpenMsg) : Statement (.relayOpen o) := fun _ _ h => nomatch h
theorem landingCredit (num : BitVec 32) (hit : BurstErr) : Statement (.landingCredit num hit) := fun _ _ h => nomatch h
theorem relaySegmentData (q : QAddr) (id : RelayId) (off : BitVec 32) (data : List Byte) : Statement (.relaySegmentData q id off data) := fun _ _ h => nomatch h
theorem relayDescriptorDelivery (q : QAddr) (id : RelayId) : Statement (.relayDescriptorDelivery q id) := fun _ _ h => nomatch h
theorem landedUpdate (q : QAddr) : Statement (.landedUpdate q) := fun _ _ h => nomatch h
theorem relayCancel (q : QAddr) (id : RelayId) : Statement (.relayCancel q id) := fun _ _ h => nomatch h
theorem relaySegmentTimeout (q : QAddr) (id : RelayId) : Statement (.relaySegmentTimeout q id) := fun _ _ h => nomatch h
theorem admissionPost (e : StageId) (mismatch : Bool) : Statement (.admissionPost e mismatch) := fun _ _ h => nomatch h
theorem holdNotice (mismatch : Bool) (hit : BurstErr) : Statement (.holdNotice mismatch hit) := fun _ _ h => nomatch h
theorem releaseNotice (mismatch : Bool) (hit : BurstErr) : Statement (.releaseNotice mismatch hit) := fun _ _ h => nomatch h
theorem slotAllocation (region : RegionId) (task : BitVec 8) : Statement (.slotAllocation region task) := fun _ _ h => nomatch h
theorem publication (region : RegionId) (task : BitVec 8) : Statement (.publication region task) := fun _ _ h => nomatch h
theorem drainMarkAnswer (b : BlockId) (ventry : Addr) : Statement (.drainMarkAnswer b ventry) := fun _ _ h => nomatch h
theorem versionDrainComplete (ventry : Addr) : Statement (.versionDrainComplete ventry) := fun _ _ h => nomatch h
theorem jobVersionCheck (job : BitVec 16) : Statement (.jobVersionCheck job) := fun _ _ h => nomatch h
theorem jobVersionAgreed (job : BitVec 16) (version : BitVec 32) : Statement (.jobVersionAgreed job version) := fun _ _ h => nomatch h
theorem instanceStart (plan : PlanId) : Statement (.instanceStart plan) := fun _ _ h => nomatch h
theorem collectivePiece (inst : InstanceId) (rank : BitVec 12) (p : Piece) : Statement (.collectivePiece inst rank p) := fun _ _ h => nomatch h
theorem collectiveCredit (inst : InstanceId) (rank : BitVec 12) : Statement (.collectiveCredit inst rank) := fun _ _ h => nomatch h
theorem collectiveAbortNotice (planId : BitVec 16) (step : BitVec 32) : Statement (.collectiveAbortNotice planId step) := fun _ _ h => nomatch h
theorem scalarValue (group : BitVec 6) (use : ScalarUse) (value : Word) (down : Bool) : Statement (.scalarValue group use value down) := fun _ _ h => nomatch h
theorem instanceComplete (plan : PlanId) : Statement (.instanceComplete plan) := fun _ _ h => nomatch h
theorem normComplete (job : BitVec 16) (step : BitVec 32) : Statement (.normComplete job step) := fun _ _ h => nomatch h
theorem colTimeoutExpiry (w : ColWait) : Statement (.colTimeoutExpiry w) := fun _ _ h => nomatch h
theorem permuteMoveLanded (cycle : BitVec 32) (pos : BitVec 16) : Statement (.permuteMoveLanded cycle pos) := fun _ _ h => nomatch h
theorem vacateNotice (cycle : BitVec 32) (pos : BitVec 16) : Statement (.vacateNotice cycle pos) := fun _ _ h => nomatch h
theorem updateTaskStart (region : RegionId) : Statement (.updateTaskStart region) := fun _ _ h => nomatch h
theorem updateGroup (region : RegionId) (firstMatch : Bool) (secondMatch : Bool) (hit : BurstErr) : Statement (.updateGroup region firstMatch secondMatch hit) := fun _ _ h => nomatch h
theorem updateTaskComplete (region : RegionId) (coderOk : Bool) : Statement (.updateTaskComplete region coderOk) := fun _ _ h => nomatch h
theorem updateInterrupt (region : RegionId) (cause : UpdCause) : Statement (.updateInterrupt region cause) := fun _ _ h => nomatch h
theorem exportRecordAppend (p : PartId) : Statement (.exportRecordAppend p) := fun _ _ h => nomatch h
theorem exportRoom (p : PartId) : Statement (.exportRoom p) := fun _ _ h => nomatch h
theorem exportSpanSend (p : PartId) : Statement (.exportSpanSend p) := fun _ _ h => nomatch h
theorem memoryRead (addr : Addr) (req : Requester) (fault : BurstFault) : Statement (.memoryRead addr req fault) := fun _ _ h => nomatch h
theorem memoryWrite (addr : Addr) (data : WriteData) (req : Requester) : Statement (.memoryWrite addr data req) := fun _ _ h => nomatch h
theorem memorySideOperation (srcHit : BurstErr) (dstHit : BurstErr) : Statement (.memorySideOperation srcHit dstHit) := fun _ _ h => nomatch h
theorem stackTemperatureRead (stack : Nat) (temp : BitVec 8) : Statement (.stackTemperatureRead stack temp) := fun _ _ h => nomatch h
theorem classSwitch (stack : Nat) : Statement (.classSwitch stack) := fun _ _ h => nomatch h
theorem wipeComplete (stack : Nat) : Statement (.wipeComplete stack) := fun _ _ h => nomatch h
theorem dataFlitReceived (l : LinkId) (head : BitVec 42) (reserved : BitVec 54) (payload : List Byte) (crc : BitVec 32) : Statement (.dataFlitReceived l head reserved payload crc) := fun _ _ h => nomatch h
theorem replayRequest (l : LinkId) (ack : FlitAck) : Statement (.replayRequest l ack) := fun _ _ h => nomatch h
theorem ackTimeoutExpiry (timer : AckTimer) : Statement (.ackTimeoutExpiry timer) := fun _ _ h => nomatch h
theorem ackFlitDue (l : LinkId) : Statement (.ackFlitDue l) := fun _ _ h => nomatch h
theorem flitSend (l : LinkId) : Statement (.flitSend l) := fun _ _ h => nomatch h
theorem credit (l : LinkId) (c : Carried CreditRec) : Statement (.credit l c) := fun _ _ h => nomatch h
theorem ident (l : LinkId) (i : Carried IdentRec) : Statement (.ident l i) := fun _ _ h => nomatch h
theorem resume (l : LinkId) (r : Carried ResumeRec) : Statement (.resume l r) := fun _ _ h => nomatch h
theorem laneReq (l : LinkId) (ack : FlitAck) (r : LaneRec) : Statement (.laneReq l ack r) := fun _ _ h => nomatch h
theorem laneAccept (l : LinkId) (cmd : Carried (BitVec 8)) : Statement (.laneAccept l cmd) := fun _ _ h => nomatch h
theorem laneRefuse (l : LinkId) (cmd : Carried (BitVec 8)) : Statement (.laneRefuse l cmd) := fun _ _ h => nomatch h
theorem laneSwitch (l : LinkId) (cmd : Carried (BitVec 8)) : Statement (.laneSwitch l cmd) := fun _ _ h => nomatch h
theorem laneReqTimeout (l : LinkId) : Statement (.laneReqTimeout l) := fun _ _ h => nomatch h
theorem laneErrorWindow (l : LinkId) (counts : List Nat) : Statement (.laneErrorWindow l counts) := fun _ _ h => nomatch h
theorem fecLockLost (l : LinkId) : Statement (.fecLockLost l) := fun _ _ h => nomatch h
theorem uncorrectableCodeword (l : LinkId) (flits : Nat) (windowCount : Nat) : Statement (.uncorrectableCodeword l flits windowCount) := fun _ _ h => nomatch h
theorem signalLost (l : LinkId) : Statement (.signalLost l) := fun _ _ h => nomatch h
theorem trainingComplete (l : LinkId) (lanes : BitVec 18) : Statement (.trainingComplete l lanes) := fun _ _ h => nomatch h
theorem quickRetrainFail (l : LinkId) : Statement (.quickRetrainFail l) := fun _ _ h => nomatch h
theorem graceExpiry (l : LinkId) : Statement (.graceExpiry l) := fun _ _ h => nomatch h
theorem packetRoute (p : Outgoing) : Statement (.packetRoute p) := fun _ _ h => nomatch h
theorem packetForward (l : LinkId) (vc : Channel) (parityOk : Bool) : Statement (.packetForward l vc parityOk) := fun _ _ h => nomatch h
theorem packetDeliver (l : LinkId) (vc : Channel) : Statement (.packetDeliver l vc) := fun _ _ h => nomatch h
theorem bundleTraining (region : RegionId) (bundle : Nat) (r : TrainResult) : Statement (.bundleTraining region bundle r) := fun _ _ h => nomatch h
theorem controlEntryFail (at_ : BundleEnd) (x : OnBeat Nat) : Statement (.controlEntryFail at_ x) := fun _ _ h => nomatch h
theorem bundleParityFail (region : RegionId) (bundle : Nat) (x : OnBeat BundleData) (inWindow : Nat) : Statement (.bundleParityFail region bundle x inWindow) := fun _ _ h => nomatch h
theorem fifoClose (c : Crossing) (entries : Nat) : Statement (.fifoClose c entries) := fun _ _ h => nomatch h
theorem fifoReopen (c : Crossing) : Statement (.fifoReopen c) := fun _ _ h => nomatch h
theorem guestRead (g : GuestReq) : Statement (.guestRead g) := fun _ _ h => nomatch h
theorem guestWrite (g : GuestReq) : Statement (.guestWrite g) := fun _ _ h => nomatch h
theorem guestMemop (g : GuestReq) : Statement (.guestMemop g) := fun _ _ h => nomatch h
theorem guestSend (g : GuestReq) (d : Descriptor) : Statement (.guestSend g d) := fun _ _ h => nomatch h
theorem mboxUp (data : List Byte) : Statement (.mboxUp data) := fun _ _ h => nomatch h
theorem guestCredit (hdrs : BitVec 16) (beats : BitVec 16) : Statement (.guestCredit hdrs beats) := fun _ _ h => nomatch h
theorem cRd (addr : Addr) (len : BitVec 12) (tag : BitVec 16) : Statement (.cRd addr len tag) := fun _ _ h => nomatch h
theorem cWr (addr : Addr) (data : List Byte) : Statement (.cWr addr data) := fun _ _ h => nomatch h
theorem csnpInv (line : BitVec 47) : Statement (.csnpInv line) := fun _ _ h => nomatch h
theorem snpAck (line : Addr) (data : Option (List Byte)) : Statement (.snpAck line data) := fun _ _ h => nomatch h
theorem sharedWindowAccess (line : Addr) (write : Option (List Byte)) : Statement (.sharedWindowAccess line write) := fun _ _ h => nomatch h
theorem rdData (r : RdDataMsg) : Statement (.rdData r) := fun _ _ h => nomatch h
theorem wrAck (tag : BitVec 16) : Statement (.wrAck tag) := fun _ _ h => nomatch h
theorem sceolinkPacketDrop (kind : BitVec 8) (tag : BitVec 16) : Statement (.sceolinkPacketDrop kind tag) := fun _ _ h => nomatch h
theorem remountReq (ack : FlitAck) (r : RemountRec) : Statement (.remountReq ack r) := fun _ _ h => nomatch h
theorem remountAccept (dir : SclDir) (cmd : Carried (BitVec 8)) : Statement (.remountAccept dir cmd) := fun _ _ h => nomatch h
theorem remountRefuse (dir : SclDir) (cmd : Carried (BitVec 8)) : Statement (.remountRefuse dir cmd) := fun _ _ h => nomatch h
theorem remountSwitch (dir : SclDir) (cmd : Carried (BitVec 8)) : Statement (.remountSwitch dir cmd) := fun _ _ h => nomatch h
theorem remountTimeout (dir : SclDir) : Statement (.remountTimeout dir) := fun _ _ h => nomatch h
theorem sceolinkLaneWindow (dir : SclDir) (counts : List Nat) : Statement (.sceolinkLaneWindow dir counts) := fun _ _ h => nomatch h
theorem sessionFlush (fresh : Option IdentRec) : Statement (.sessionFlush fresh) := fun _ _ h => nomatch h
theorem sclAttachNew (number : BitVec 32) : Statement (.sclAttachNew number) := fun _ _ h => nomatch h
theorem sclAttachResume (number : BitVec 32) : Statement (.sclAttachResume number) := fun _ _ h => nomatch h
theorem fmpPCmdTailWrite (p : PartId) (value : Word) : Statement (.fmpPCmdTailWrite p value) := fun _ _ h => nomatch h
theorem fmpPCplHeadWrite (p : PartId) (value : Word) : Statement (.fmpPCplHeadWrite p value) := fun _ _ h => nomatch h
theorem fmpPEvtHeadWrite (p : PartId) (value : Word) : Statement (.fmpPEvtHeadWrite p value) := fun _ _ h => nomatch h
theorem fmpBootImageWrite (value : Word) : Statement (.fmpBootImageWrite value) := fun _ _ h => nomatch h
theorem ringReread (p : PartId) (h : CmdHeader) : Statement (.ringReread p h) := fun _ _ h => nomatch h
theorem commandRecordRead (p : PartId) (h : CmdHeader) : Statement (.commandRecordRead p h) := fun _ _ h => nomatch h
theorem partCreate (x : PartCreateP) : Statement (.partCreate x) := fun _ _ h => nomatch h
theorem partDestroy (index : BitVec 8) : Statement (.partDestroy index) := fun _ _ h => nomatch h
theorem partQuads (index : BitVec 8) (mask : BitVec 64) : Statement (.partQuads index mask) := fun _ _ h => nomatch h
theorem partMem (x : PartMemP) : Statement (.partMem x) := fun _ _ h => nomatch h
theorem partCheckMode (mode : BitVec 2) : Statement (.partCheckMode mode) := fun _ _ h => nomatch h
theorem partDrain (timeoutMs : BitVec 32) : Statement (.partDrain timeoutMs) := fun _ _ h => nomatch h
theorem drainTimeout (p : PartId) : Statement (.drainTimeout p) := fun _ _ h => nomatch h
theorem partitionDrained (p : PartId) : Statement (.partitionDrained p) := fun _ _ h => nomatch h
theorem partReset (wipeMem : Bool) : Statement (.partReset wipeMem) := fun _ _ h => nomatch h
theorem programStart (mask : BitVec 64) (pc : Addr) (vals : List Word) : Statement (.programStart mask pc vals) := fun _ _ h => nomatch h
theorem blockResume (b : BlockId) (pc : Addr) : Statement (.blockResume b pc) := fun _ _ h => nomatch h
theorem staleBlockResume (b : BlockId) : Statement (.staleBlockResume b) := fun _ _ h => nomatch h
theorem quadRepair (region : RegionId) (quad : BitVec 4) (action : BitVec 8) (block : BitVec 2) : Statement (.quadRepair region quad action block) := fun _ _ h => nomatch h
theorem reportSet (x : ReportP) : Statement (.reportSet x) := fun _ _ h => nomatch h
theorem regionReset (region : RegionId) : Statement (.regionReset region) := fun _ _ h => nomatch h
theorem stageSet (x : StageP) : Statement (.stageSet x) := fun _ _ h => nomatch h
theorem stageClear (index : BitVec 8) : Statement (.stageClear index) := fun _ _ h => nomatch h
theorem stageQuery (index : BitVec 8) : Statement (.stageQuery index) := fun _ _ h => nomatch h
theorem admitStart (index : BitVec 8) (step : BitVec 32) (mb : BitVec 16) : Statement (.admitStart index step mb) := fun _ _ h => nomatch h
theorem admitStop (index : BitVec 8) : Statement (.admitStop index) := fun _ _ h => nomatch h
theorem vtableInit (x : VTableP) : Statement (.vtableInit x) := fun _ _ h => nomatch h
theorem vtableQuery (addr : Addr) : Statement (.vtableQuery addr) := fun _ _ h => nomatch h
theorem versionPin (index : BitVec 8) : Statement (.versionPin index) := fun _ _ h => nomatch h
theorem versionUnpin (index : BitVec 8) : Statement (.versionUnpin index) := fun _ _ h => nomatch h
theorem queueConfig (x : QueueConfigP) : Statement (.queueConfig x) := fun _ _ h => nomatch h
theorem lringBind (q : QAddr) (base : Addr) (segments : BitVec 32) : Statement (.lringBind q base segments) := fun _ _ h => nomatch h
theorem lringUnbind (q : QAddr) : Statement (.lringUnbind q) := fun _ _ h => nomatch h
theorem collGroupSet (index : BitVec 8) (list : Addr) (count : BitVec 13) : Statement (.collGroupSet index list count) := fun _ _ h => nomatch h
theorem collPlanSet (index : BitVec 16) (x : PlanEntry) : Statement (.collPlanSet index x) := fun _ _ h => nomatch h
theorem collPlanClear (index : BitVec 16) : Statement (.collPlanClear index) := fun _ _ h => nomatch h
theorem collJobSet (job : BitVec 16) (group : BitVec 8) (norm : Addr) (timeoutMs : BitVec 32) : Statement (.collJobSet job group norm timeoutMs) := fun _ _ h => nomatch h
theorem collScalar (group : BitVec 8) (op : ScalarOp) (value : Word) (result : Addr) : Statement (.collScalar group op value result) := fun _ _ h => nomatch h
theorem permuteStart (group : BitVec 8) (table : Addr) (count : BitVec 32) (staging : Addr) (size : BitVec 64) : Statement (.permuteStart group table count staging size) := fun _ _ h => nomatch h
theorem collQuery (index : BitVec 16) : Statement (.collQuery index) := fun _ _ h => nomatch h
theorem updTaskSet (region : RegionId) (index : BitVec 8) (x : TaskEntry) : Statement (.updTaskSet region index x) := fun _ _ h => nomatch h
theorem updTaskClear (region : RegionId) (index : BitVec 8) : Statement (.updTaskClear region index) := fun _ _ h => nomatch h
theorem updParamSet (region : RegionId) (index : BitVec 5) (words : BitVec 512) : Statement (.updParamSet region index words) := fun _ _ h => nomatch h
theorem updSchedSet (region : RegionId) (first : BitVec 8) (segs : List SchedSeg) : Statement (.updSchedSet region first segs) := fun _ _ h => nomatch h
theorem updQuery (region : RegionId) (index : BitVec 16) : Statement (.updQuery region index) := fun _ _ h => nomatch h
theorem memClassSet (partition : PartId) (first : BitVec 16) (count : BitVec 16) (classA : Bool) : Statement (.memClassSet partition first count classA) := fun _ _ h => nomatch h
theorem memScrubSet (hours : BitVec 16) : Statement (.memScrubSet hours) := fun _ _ h => nomatch h
theorem linkConfig (x : LinkConfigP) : Statement (.linkConfig x) := fun _ _ h => nomatch h
theorem linkRouteSet (first : BitVec 16) (count : BitVec 32) (addr : Addr) : Statement (.linkRouteSet first count addr) := fun _ _ h => nomatch h
theorem linkIdSet (device : BitVec 16) (hopLimit : BitVec 8) : Statement (.linkIdSet device hopLimit) := fun _ _ h => nomatch h
theorem linkQuery (mask : BitVec 24) : Statement (.linkQuery mask) := fun _ _ h => nomatch h
theorem linkRetrain (port : Nat) : Statement (.linkRetrain port) := fun _ _ h => nomatch h
theorem linkFlush (port : Nat) : Statement (.linkFlush port) := fun _ _ h => nomatch h
theorem sclConfig (x : SclConfigP) : Statement (.sclConfig x) := fun _ _ h => nomatch h
theorem sclRemount (dir : SclDir) (logical : BitVec 4) : Statement (.sclRemount dir logical) := fun _ _ h => nomatch h
theorem prepared (i : Island) : Statement (.prepared i) := fun _ _ h => nomatch h
theorem cutReceived (i : Island) : Statement (.cutReceived i) := fun _ _ h => nomatch h
theorem markerReceived (i : Island) (source : Island) : Statement (.markerReceived i source) := fun _ _ h => nomatch h
theorem cutAck (i : Island) : Statement (.cutAck i) := fun _ _ h => nomatch h
theorem errQuery (partition : BitVec 8) : Statement (.errQuery partition) := fun _ _ h => nomatch h
theorem eventMaskSet (codes : List (BitVec 16)) : Statement (.eventMaskSet codes) := fun _ _ h => nomatch h
theorem marginTest (x : MarginP) : Statement (.marginTest x) := fun _ _ h => nomatch h
theorem marginTestComplete (results : List MarginResult) : Statement (.marginTestComplete results) := fun _ _ h => nomatch h
theorem powerLimitSet (x : PowerLimitP) : Statement (.powerLimitSet x) := fun _ _ h => nomatch h
theorem attest (nonce : BitVec 256) (flags : BitVec 8) : Statement (.attest nonce flags) := fun _ _ h => nomatch h
theorem lcTransition (x : LcP) (readBackOk : Bool) : Statement (.lcTransition x readBackOk) := fun _ _ h => nomatch h
theorem preserveArm (token : Option Token) : Statement (.preserveArm token) := fun _ _ h => nomatch h
theorem deviceReset (kind : BitVec 8) : Statement (.deviceReset kind) := fun _ _ h => nomatch h
theorem fwUpdate (addr : Addr) (length : BitVec 32) (image : Image) (selfTestOk : Bool) : Statement (.fwUpdate addr length image selfTestOk) := fun _ _ h => nomatch h
theorem healthWindowEnd (ok : Bool) : Statement (.healthWindowEnd ok) := fun _ _ h => nomatch h
theorem guestFwSet (x : GuestFwP) : Statement (.guestFwSet x) := fun _ _ h => nomatch h
theorem guestReset (discarded : Nat) : Statement (.guestReset discarded) := fun _ _ h => nomatch h
theorem guestMsg (data : List Byte) : Statement (.guestMsg data) := fun _ _ h => nomatch h
theorem exportSet (x : ExportP) : Statement (.exportSet x) := fun _ _ h => nomatch h
theorem exportShard (region : RegionId) (index : BitVec 8) (moments : Bool) : Statement (.exportShard region index moments) := fun _ _ h => nomatch h
theorem checkpointMark (partition : PartId) (step : BitVec 32) : Statement (.checkpointMark partition step) := fun _ _ h => nomatch h
theorem exportQuery (partition : PartId) : Statement (.exportQuery partition) := fun _ _ h => nomatch h
theorem seqAdd (x : SeqAddP) : Statement (.seqAdd x) := fun _ _ h => nomatch h
theorem seqUpdate (x : SeqUpdateP) : Statement (.seqUpdate x) := fun _ _ h => nomatch h
theorem seqRemove (index : BitVec 32) : Statement (.seqRemove index) := fun _ _ h => nomatch h
theorem seqQuery (first : BitVec 32) (count : BitVec 32) : Statement (.seqQuery first count) := fun _ _ h => nomatch h
theorem batchSet (x : BatchP) : Statement (.batchSet x) := fun _ _ h => nomatch h
theorem worklistBuild (p : PartId) : Statement (.worklistBuild p) := fun _ _ h => nomatch h
theorem batchDeadlineExpiry (p : PartId) : Statement (.batchDeadlineExpiry p) := fun _ _ h => nomatch h
theorem groupDoneWrite (p : PartId) : Statement (.groupDoneWrite p) := fun _ _ h => nomatch h
theorem coalescingWaitExpiry (p : PartId) : Statement (.coalescingWaitExpiry p) := fun _ _ h => nomatch h
theorem completionHold (p : PartId) (cycles : Word) : Statement (.completionHold p cycles) := fun _ _ h => nomatch h
theorem deviceRecordAck (p : PartId) (event : Bool) : Statement (.deviceRecordAck p event) := fun _ _ h => nomatch h
theorem reportIntervalEnd (p : PartId) : Statement (.reportIntervalEnd p) := fun _ _ h => nomatch h
theorem coreDroopEnd (lowMv : BitVec 16) (duration : BitVec 16) : Statement (.coreDroopEnd lowMv duration) := fun _ _ h => nomatch h
theorem powerControlInterval (x : PowerSample) : Statement (.powerControlInterval x) := fun _ _ h => nomatch h
theorem hubFault (k : HubFaultKind) : Statement (.hubFault k) := fun _ _ h => nomatch h
theorem porstNAssert (supply : Bool) : Statement (.porstNAssert supply) := fun _ _ h => nomatch h
theorem porstNRelease (cfgsel : BitVec 4) : Statement (.porstNRelease cfgsel) := fun _ _ h => nomatch h
theorem resetRelease (i : Island) : Statement (.resetRelease i) := fun _ _ h => nomatch h
theorem bootImageVerify (found : Bool) (image : Image) (recoverySlot : Bool) (selfTestOk : Bool) : Statement (.bootImageVerify found image recoverySlot selfTestOk) := fun _ _ h => nomatch h
theorem regulatorAck (ack : Bool) : Statement (.regulatorAck ack) := fun _ _ h => nomatch h
theorem domainPowerOn (domain : Nat) : Statement (.domainPowerOn domain) := fun _ _ h => nomatch h
theorem signalDetect (l : LinkId) : Statement (.signalDetect l) := fun _ _ h => nomatch h
theorem keeperFillExpiry (b : BlockId) : Statement (.keeperFillExpiry b) := fun _ _ h => nomatch h
theorem keeperRampStep (b : BlockId) : Statement (.keeperRampStep b) := fun _ _ h => nomatch h
theorem patrolScrubBurst (addr : Addr) (fault : BurstFault) : Statement (.patrolScrubBurst addr fault) := fun _ _ h => nomatch h
theorem selfRefreshEntry (stack : Nat) : Statement (.selfRefreshEntry stack) := fun _ _ h => nomatch h
theorem refreshManagementRequest (stack : Nat) : Statement (.refreshManagementRequest stack) := fun _ _ h => nomatch h
theorem guestUnknownPacket (type : BitVec 8) : Statement (.guestUnknownPacket type) := fun _ _ h => nomatch h
theorem tokenBucketRefill (tokens : Tokens) (window : Bool) : Statement (.tokenBucketRefill tokens window) := fun _ _ h => nomatch h
theorem sclHeartbeatWrite (value : Word) : Statement (.sclHeartbeatWrite value) := fun _ _ h => nomatch h
theorem headErrClear (p : PartId) (value : Word) : Statement (.headErrClear p value) := fun _ _ h => nomatch h
theorem memQuery (mask : BitVec 12) : Statement (.memQuery mask) := fun _ _ h => nomatch h
theorem bundleQuery (mask : BitVec 4) : Statement (.bundleQuery mask) := fun _ _ h => nomatch h
theorem jtagTestTransition (secret : BitVec 256) (certificate : List Byte) : Statement (.jtagTestTransition secret certificate) := fun _ _ h => nomatch h
theorem pmbusPoll (x : PmbusReading) : Statement (.pmbusPoll x) := fun _ _ h => nomatch h
theorem clockSlew (mhz : BitVec 12) : Statement (.clockSlew mhz) := fun _ _ h => nomatch h
theorem mgtBlockRead (cmd : BitVec 8) : Statement (.mgtBlockRead cmd) := fun _ _ h => nomatch h
theorem perBankRefresh (stack : Nat) : Statement (.perBankRefresh stack) := fun _ _ h => nomatch h
theorem stallPolicy : Statement (.stallPolicy) := fun _ _ h => nomatch h
theorem collectivePost : Statement (.collectivePost) := fun _ _ h => nomatch h
theorem heartbeatExpiry : Statement (.heartbeatExpiry) := fun _ _ h => nomatch h
theorem sclAttachDetach : Statement (.sclAttachDetach) := fun _ _ h => nomatch h
theorem unknown : Statement (.unknown) := fun _ _ h => nomatch h
theorem partResume : Statement (.partResume) := fun _ _ h => nomatch h
theorem partAbort : Statement (.partAbort) := fun _ _ h => nomatch h
theorem partQuery : Statement (.partQuery) := fun _ _ h => nomatch h
theorem sclQuery : Statement (.sclQuery) := fun _ _ h => nomatch h
theorem check : Statement (.check) := fun _ _ h => nomatch h
theorem cinch : Statement (.cinch) := fun _ _ h => nomatch h
theorem draftDiscard : Statement (.draftDiscard) := fun _ _ h => nomatch h
theorem draftQuery : Statement (.draftQuery) := fun _ _ h => nomatch h
theorem cutTimeout : Statement (.cutTimeout) := fun _ _ h => nomatch h
theorem telemetryQuery : Statement (.telemetryQuery) := fun _ _ h => nomatch h
theorem fwHandover : Statement (.fwHandover) := fun _ _ h => nomatch h
theorem fwQuery : Statement (.fwQuery) := fun _ _ h => nomatch h
theorem guestQuery : Statement (.guestQuery) := fun _ _ h => nomatch h
theorem worklistStart : Statement (.worklistStart) := fun _ _ h => nomatch h
theorem worklistStop : Statement (.worklistStop) := fun _ _ h => nomatch h
theorem completionCollect : Statement (.completionCollect) := fun _ _ h => nomatch h
theorem eventRaise : Statement (.eventRaise) := fun _ _ h => nomatch h
theorem coreDroopStart : Statement (.coreDroopStart) := fun _ _ h => nomatch h
theorem dipLimitExpiry : Statement (.dipLimitExpiry) := fun _ _ h => nomatch h
theorem thermalTrip : Statement (.thermalTrip) := fun _ _ h => nomatch h
theorem watchdogWrite : Statement (.watchdogWrite) := fun _ _ h => nomatch h
theorem watchdogExpiry : Statement (.watchdogExpiry) := fun _ _ h => nomatch h
theorem controlFailover : Statement (.controlFailover) := fun _ _ h => nomatch h
theorem sysrstNAssert : Statement (.sysrstNAssert) := fun _ _ h => nomatch h
theorem bootComplete : Statement (.bootComplete) := fun _ _ h => nomatch h
theorem cutStart : Statement (.cutStart) := fun _ _ h => nomatch h

end WordRoundTrip

end Sys2Proof.Laws
end

