-- ==== Sys2Proof/Tests/Slice0.lean ====
section
/-! SUPPORT. The model's own tests: ill-formed commands are refused, words of the spec's encodings decode, and states that meet the hypotheses of each statement exist. -/

namespace Sys2Proof.Tests

set_option Elab.async false

open Sys2Proof.Machine

/-- Block 0.0. -/
def b00 : BlockId := ⟨0, 0⟩
/-- Block 0.0 running in the open state at the start of its user space. -/
def core0 : BlockState := { BlockState.reset with running := true, inReset := false, pc := 0x7F00000A0000 }
/-- A group with the user space of block 0.0 in its write set. -/
def group0 : Group :=
  { tag := 7, snap := core0.snapshot, reads := [], writes := [⟨0x7F00000A0000, 0x1000⟩], amaxWords := [], pairs := [], rider := none
    void := false, mode := 0, quiet := false, draining := false, saturated := false, invalid := false, amaxMax := [], held := []
    atomics := [], reserved := [], sends := 0, companion := false, dropMark := false, stale := false, sigs := [] }
/-- Block 0.0 inside that group. -/
def inGroup0 : BlockState := { core0 with core := .inGroup, group := some group0 }
/-- A machine whose block 0.0 is as given. -/
def onBlock (x : BlockState) : State := { State.reset with blocks := [(0, x)] }
/-- A field of the state that a command answers. -/
def after {α : Type} (r : Res) (f : State → α) : Option α := match r with | .next t => some (f t) | _ => none

/-- Block 0.0 in the open state in partition 0, which holds its quad and the first MiB of stacked memory. -/
def owned : State :=
  { onBlock core0 with parts := [(0, { Partition.reset with mode := pRunning, quads := 1, stacked := [⟨0, 0x100000⟩] })] }

/-- Block 0.0 with s1 naming its user space. -/
def core1 : BlockState := { core0 with regs := [(1, 0x7F00000A0000)] }
/-- A set table with one write range there: base 0x7F00_000A_1000, length 64. -/
def ghdr0 : State := { onBlock core1 with mem := [(0x7F00000A0001, 0x10), (0x7F00000A0002, 0x0A), (0x7F00000A0005, 0x7F), (0x7F00000A0008, 0x40), (0x7F00000A000E, 0x01)] }
/-- Block 0.0 with its group drained. -/
def drained0 : BlockState := { inGroup0 with stall := .drain }
def draining0 : State := onBlock drained0
/-- Block 0.0 in a group, owning stacked memory, with an A32 addition in s1, s2 and s3. -/
def atomic0 : State :=
  { onBlock { inGroup0 with regs := [(1, 0x40), (2, 0x7F00000A0000), (3, 4)] } with
    parts := [(0, { Partition.reset with mode := pRunning, quads := 1, stacked := [⟨0, 0x100000⟩] })] }

/-- Operand addresses in s1 to s3, strides of 64 in s4 and s5, a length of 64 in s6. -/
def regs0 (x : BlockState) : BlockState :=
  { x with regs := [(1, 0x7F00000A0000), (2, 0x7F00000A0100), (3, 0x7F00000A0200), (4, 0x4000000040), (5, 64), (6, 64)] }
/-- A MATMUL of one BF16 element by one into FP32. -/
def mm0 : MatmulFields :=
  { amaxEn := false, amaxIdx := 0, t := 0, n := 1, k := 1, m := 1, fmtZ := 0, fmtC := 0, fmtB := 2, fmtA := 2, st := 4, ss := 0, sz := 0
    sb := 2, sa := 1, sd := 3, roundSr := false, tiled := false, zShape := 0, fusedMul := false, fusedEn := false }
/-- A CONVERT of four FP32 elements to BF16. -/
def vec0 : VecFields :=
  { t := 0, vop := 0, rowLen := 0, count := 4, fmtD := 2, fmtB := 0, fmtA := 0, sc := 0, sb := 2, sa := 1, sd := 3, bcastB := false
    scalarB := false, amaxIdx := 0, amaxEn := false, roundSr := false }
def convert0 : EngineCmd := .vec vec0 true 0x7F00000A0000 0x7F00000A0100 0 0x7F00000A0200 0xA0100
/-- A move of 64 bytes. -/
def copy0 : EngineCmd := .copy 0x7F00000A0000 0x7F00000A0200 64
/-- A FETCH of 16 FP32 elements. -/
def fetch0 : FetchFields :=
  { t := 0, fmtDst := 0, fmtSrc := 0, sv := 0, sb := 6, sa := 1, sd := 3, amaxIdx := 0, amaxEn := false, versionEn := false, toShadow := false }
def fetchCmd0 : EngineCmd := .fetch fetch0 0x7F00000A0000 0x7F00000A0200 64 0 0x000A0000 0
/-- A MATMUL of two passes. -/
def mmDeep0 : MatmulFields := { mm0 with k := 200 }
def matmul0 : EngineCmd := .matmul mmDeep0 0x7F00000A0000 0x7F00000A0100 0x7F00000A0200 0 0 0 64 64 64 none
def running0 : BlockState := { inGroup0 with arrayQ := [matmul0], run := some ⟨0, 0, 0, true, 0, []⟩ }
/-- A version-table entry at 0x100 whose version 0 is current, 64 bytes at 0x400, in the block's partition. -/
def ventry0 : State :=
  { owned with mem := [(0x10C, 64), (0x149, 4), (0x14E, 2)], blocks := [(0, inGroup0)] }


/-- A descriptor of 64 bytes in block 0.0's scratchpad for queue 0 of block 0.1. -/
def desc0 : Descriptor :=
  { crc := 0, body := 0, len1 := 0, ptr1 := 0, len0 := 64, ptr0 := 0x7F00000A0000, stream := false, relay := false, rider := false, epoch := 1
    sendSeq := 0, tag := 5, src := 0, dst := 0x100 }
/-- It in a send buffer, released. -/
def sendEntry0 : SendEntry :=
  { desc := desc0, isRelay := false, released := true, outstanding := true, waiting := false, backoff := 0, crcNacks := 0, busy := false
    voidResend := false, stallRaised := false }
/-- Block 0.0 fenced with the spare 64 under test for it. -/
def spare0 : State :=
  { onBlock { core0 with fenced := true, swapping := true } with regions := [(0, { RegionState.reset with testing := some (64, b00) })] }
/-- A command of partition 0 with an opcode. -/
def cmd0 (op : BitVec 16) : Running := ⟨0, ⟨op, 1, 7, 0, 0, true, true, 0⟩, 0⟩
/-- It read by Flapino, the device started. -/
def withCmd (op : BitVec 16) : State :=
  { onBlock core0 with
    fl := { Flapino.reset with current := some (cmd0 op) }, reset_ := { ResetState.reset with active := false, bootStage := 10 }
    parts := [(0, { Partition.reset with mode := pRunning })] }
/-- A sound descriptor for queue 0 of block 0.0, and a machine whose block takes it. -/
def desc1 : Descriptor := descSeal { desc0 with dst := 0 }
def receiver0 : State := { owned with regions := [(0, { RegionState.reset with inReset := false })] }
/-- A Relay of two segments to queue 0 of block 0.0, both granted, and its ring of four segments. -/
def relay0 : RelayRx := ⟨⟨0, 3⟩, descSeal { desc0 with dst := 0, len0 := 0x180000, relay := true }, 2, some false, 0, 2, 0, false, false⟩
def ring0 : Ring :=
  { base := 0x400000, segs := 4, alloc := 2, landedPtr := 0, release := 0, seg := [(0, .granted ⟨0, 3⟩ 0 0), (1, .granted ⟨0, 3⟩ 1 0)], pending := [relay0]
    landedRelays := [] }
def ringed0 : State := { receiver0 with rings := [(0, ring0)] }
/-- The same Relay at its sender. -/
def relayTx0 : RelayTx := ⟨3, b00, { desc0 with len0 := 0x180000 }, 0⟩
def relaying0 : State := { onBlock core0 with relays := [relayTx0] }
/-- A partition that serves with one waiting sequence of four tokens. -/
def batch0 : BatchP := ⟨0x1000, 2, 8, 1, 100, 1000, 16, 16, 0⟩
def seq0 : SeqEntry := { SeqEntry.reset with kvPages := 1, remaining := 5, ready := 4, mode := 1 }
def serving0 : State :=
  { owned with
    seqs := [(0, seq0)]
    parts := [(0, { Partition.reset with mode := pRunning, quads := 1, seqCount := 4, batch := some batch0, wlStarted := true })] }
/-- A version-table entry at 0x100 with version 5 current, 64 bytes; its address in a shard list at 0x80; a first stage of quad 0 that admits. -/
def vtable0 : VTableP := ⟨0x100, 64, 0x400, 0x440, 0x480, 256, 5⟩
def stage0 : StageEntry :=
  { StageEntry.reset with
    shardList := 0x80, shardCount := 1, jobVersion := 5, nextStep := 5, mbPerStep := 4, quadMask := 1, fwdQ := 2, admitEn := true, first := true
    valid := true, keptEpoch := 1 }
def staged0 : State :=
  { owned with mem := memPutNat (memWrite [] 0x100 (ventryEnc (initEntry vtable0))) 0x80 8 0x100, stages := [(0, stage0)] }
/-- A version-table entry written to memory. -/
def putVentry (m : Memory) (a : Nat) (v : VEntry) : Memory := memWrite m a (ventryEnc { v with gen := v.gen + 1 })
/-- The same with one reference held. -/
def held0 : State :=
  { staged0 with
    mem := match (ventryAt staged0.mem 0x100).countRef 5 true with | some v => putVentry staged0.mem 0x100 v | none => staged0.mem
    stages := [(0, { stage0 with inflight := 1 })] }
/-- Update task 3 of region 0 for that entry, at the head of the queue for step 5. -/
def task0 : TaskEntry := { TaskEntry.reset with ventry := 0x100, valid := true }
def updating0 : State :=
  { staged0 with regions := [(0, { RegionState.reset with inReset := false, upd := { UpdateUnit.reset with tasks := [(3, task0)], queue := [(3, 5)] } })] }
/-- The same task completed with version 6 building. -/
def built0 : State :=
  { staged0 with
    mem := putVentry staged0.mem 0x100 ((ventryAt staged0.mem 0x100).allocate 5)
    regions := [(0, { RegionState.reset with inReset := false, upd := { UpdateUnit.reset with tasks := [(3, task0)], doneTasks := [(3, 5, 0)] } })] }
/-- A command of partition 0, which holds quad 0 and stacked memory, with that stage. -/
def staging (op : BitVec 16) : State :=
  { staged0 with
    fl := { Flapino.reset with current := some (cmd0 op) }
    parts := [(0, { Partition.reset with mode := pRunning, quads := 1, stacked := [⟨0, 0x1000000⟩] })] }
/-- Plan 2 of block 0.0: an all-gather of 512 elements among two members. -/
def plan0 : PlanEntry := { PlanEntry.reset with dst := 0x1000, src0 := 0x3000, elements := 512, planId := 9, op := 2, valid := true }
def planned0 : State :=
  { owned with
    plans := [(2, plan0)], groups := [(0, ⟨0, 2, 0, true⟩)]
    parts := [(0, { Partition.reset with mode := pRunning, quads := 1, stacked := [⟨0, 0x1000000⟩] })] }
def instance0 : Instance := ⟨2, 1, false, false, false, 4, [], 0, 0, 0, [], 0⟩
def instance1 : Instance := { instance0 with running := true }
def instance2 : Instance := { instance1 with gathered := 1, sent := 1 }
def gathering0 : State := { planned0 with instances := [instance1] }
def piece0 : Piece :=
  { gatherPhase := true, ringStep := 0, chunk := 1, firstBlock := 1, t := 0, elems := List.replicate 256 0, scales := [0x7F], contrib := 4, amax := 0
    lastOfChunk := true }
/-- A norm all-reduce, not started. -/
def scalar0 : Scalar := ⟨0, .norm 0 1, .a32Sum, 0, 0, false, none, none⟩
/-- The norm plan 2 of job 0 is done for step 1, with one region's sum. -/
def normed0 : State :=
  { planned0 with
    plans := [(2, { plan0 with normEn := true })], normDone := [(normKey 0 2 1, 1)]
    regions := [(0, { RegionState.reset with normSums := [(normStep 0 1, 0x40)] })] }
/-- A job whose shard is at version 5 while its stage holds version 4. -/
def versioned0 : State := { staged0 with groups := [(0, ⟨0, 2, 0, true⟩)], stages := [(0, { stage0 with jobVersion := 4 })] }
/-- Place 2 of cycle 1, moving and waiting. -/
def move0 : PermEntry := ⟨64, 1, 2, false, 0, 0x200, 0, 0x100⟩
def permute0 : Permute := ⟨0, 0, false, [(move0, .moving 0)], false, 0x400, 64, [], []⟩
def permuting0 : State := { owned with permutes := [permute0] }
def waitingMove0 : State := { owned with permutes := [{ permute0 with entries := [(move0, .waiting)] }] }
/-- The task's slot is ready, its header counts four contributions. -/
def begun0 : State :=
  { built0 with
    mem := memPutNat built0.mem 0x100C 4 4, plans := [(2, plan0)]
    parts := [(0, { Partition.reset with mode := pRunning, quads := 1, stacked := [⟨0, 0x1000000⟩] })]
    regions := [(0, { RegionState.reset with inReset := false, upd := { UpdateUnit.reset with
      tasks := [(3, { task0 with plan := 2, momA := 0x2000, momB := 0x2800 })], queue := [(3, 5)], slotReady := some 3 } })] }
/-- It running. -/
def run0 : RunTask :=
  { task := 3, step := 5, gs := 0, lr := 0, c1 := 0, c2 := 0, entry := task0, param := 0, group := 0, skip := false, coded := [], series := []
    nonfinite := 0, asked := false, slow := [], readback := 0, prog := [], scaled := false }
/-- An export ring of 4,096 bytes for another package with one waiting record. -/
def record0 : ExportRec := ⟨exDiff, 0x100, 0, 5, 6, 0, 1, 0, [1, 2, 3], false⟩
def exRing0 : ExportRing := ⟨⟨0, .package, 0x8000, 4096, 0, 0x10000, 4096, false⟩, 0, 0, [], 0, [record0], [], 0, false⟩
def exporting0 : State := { owned with parts := [(0, { Partition.reset with mode := pRunning, quads := 1, exportRing := some exRing0 })] }
def exportTask0 : State :=
  { staging opExportShard with
    parts := [(0, { Partition.reset with mode := pRunning, quads := 1, exportRing := some exRing0 })]
    regions := [(0, { RegionState.reset with upd := { UpdateUnit.reset with tasks := [(3, { task0 with exportEn := true })] } })] }
/-- A machine whose stack 0 has been wiped. -/
def wiped0 : State := { State.reset with stackCtl := [(0, { StackState.reset with wipeDone := true })] }
/-- A fabric port that is up on eight lanes, as port 3. -/
def port0 : LinkState := { LinkState.reset with cfg := { LinkCfg.reset with enable := true }, mode := .up, lanesActive := 0xFF, fresh := false }
def linked0 (x : LinkState) : State := { State.reset with links := [(3, x)] }
/-- A packet of kind 2 from device 0 to device 7, and a flit of it. -/
def packet0 : Packet := ⟨0, 1, 2, 16, 12, 0, 7, List.replicate 12 0⟩
def flit0 : Flit := ⟨.bypass, false, 1, 0, bypassPayload [packet0]⟩
/-- A routing table that sends device 7 to port 3. -/
def routed0 : State := { linked0 port0 with idValid := true, routes := [(7, ⟨0, 8, true⟩)] }
/-- Region 0's fabric runs while the hub starts; its bundle 12 in service after seven failing control entries. -/
def fabric0 : State := { State.reset with regions := [(0, { RegionState.reset with inReset := false })] }
def serviceBundle0 : State :=
  { fabric0 with
    regions := [(0, { RegionState.reset with inReset := false, bundles := [(12, { BundleState.reset with mode := 2, ctlFails := [(5, 7)] })] })] }
/-- A guest site that is open, with one window over 64 KiB at 0x10000 and one queue entry. -/
def guest0 : State :=
  { State.reset with
    guest := { GuestState.reset with
      present := true, enable := true, mode := 2, windows := [⟨2, 1, true, true, true, true⟩], queues := [⟨0x300, true, 0, 0⟩]
      rate := ⟨1, 64, 1⟩, byteBucket := 65536, descBucket := 4, hdrCredits := 32, beatCredits := 512 } }
def guestReq0 : GuestReq := ⟨9, 0x10000, 1, 1, List.replicate 64 0⟩
/-- A shared window at 64 MiB, and one of its lines held modified. -/
def shared0 : State := { State.reset with scl := { SclState.reset with sharedBase := 0x4000000, sharedEnable := true } }
def sharedM0 : State := shared0.setLine 0x4000040 (some .m)
/-- An LD of block 0.0 whose read is unanswered. -/
def companionReq0 (data : List Byte) : CompanionReq := ⟨3, 0, 0x40, 8, .ld b00, data⟩
def waits0 : State := { State.reset with scl := { SclState.reset with reqs := [companionReq0 []] } }
/-- Sceolink up, a session on it, and a Remount open in each direction. -/
def sclLink0 : LinkState := { linkReset 24 with mode := .up, trainedLanes := 0x3FFFF }
def sclUp0 : State := { State.reset with links := [(24, sclLink0)], scl := { SclState.reset with sparesTx := 2, sparesRx := 2, widthTx := 16, widthRx := 16 } }
def remount0 (d : SclDir) : Remount := ⟨⟨d, 1, 0, 0, 16, 0⟩, 1, false⟩
def remounting0 : State :=
  { sclUp0 with scl := { sclUp0.scl with remountTx := some (remount0 .tx), remountRx := some { remount0 .rx with accepted := true } } }
/-- Physical lane 0 was over the limit twice in a row. -/
def hotLane0 : State := { sclUp0 with links := [(24, { sclLink0 with laneOver := [(0, 2)], cfg := { sclLink0.cfg with autoExclude := true } })] }
def attached0 : State := { sclUp0 with scl := { sclUp0.scl with mode := .attached, heartbeatMs := 10 } }
def heldSession0 : State := { sclUp0 with scl := { sclUp0.scl with mode := .held, heldByHeartbeat := true } }
/-- The boot waits for the companion's image. -/
def boot4 : State := { State.reset with reset_ := { ResetState.reset with active := true, bootStage := 4 } }
/-- A command of partition 0 with Sceolink up. -/
def sclCmd (op : BitVec 16) : State := { withCmd op with links := sclUp0.links, scl := sclUp0.scl }
/-- Flapino reads the rings of partition 0, each of 64 units, its command ring holding four. -/
def reading0 : State :=
  { withCmd 0 with
    fl := Flapino.reset, scl := { SclState.reset with mode := .attached }
    parts := [(0, { Partition.reset with mode := pRunning, cmdRing := ⟨12, 0, 4⟩, cplRing := ⟨12, 0, 0⟩, evtRing := ⟨12, 0, 0⟩ })] }
def rereading0 (n : Nat) : State := { reading0 with parts := [(0, { reading0.part 0 with rereads := n })] }
/-- A completion record and an event record of partition 0 that are being written. -/
def recorded0 : State :=
  { reading0 with
    parts := [(0, { reading0.part 0 with
      records := [⟨.groupDone [], true⟩], errs := [⟨.general, eventRecord ⟨evHitch, 0, 4, 0, 0⟩ 0, true, none, 0, 0⟩] })] }
/-- An event of partition 0 that waits for the hub. -/
def eventful0 (code : BitVec 16) : State := { reading0 with events := [⟨code, 0, 4, 0, 0⟩] }
/-- A completion in region 2's FIFO; partitions with pending completions. -/
def completion0 : CplEntry := ⟨⟨2, 0⟩, 1, 7, 0, 0⟩
def collecting0 : State := { reading0 with regions := [(2, { RegionState.reset with fifo := [completion0] })] }
def pending0 (n : Nat) (m : BitVec 4) : Partition := { Partition.reset with mode := m, pendingCpl := List.replicate n completion0 }
def reporting0 : State := { reading0 with parts := [(0, { reading0.part 0 with report := ⟨1000, 0x800000000000, 0, []⟩ })] }
/-- D commands: a new partition 3, one that is drained, one with a companion range, a package without stages, and so on. -/
def create3 : PartCreateP := ⟨3, 2, 0, 256, 256, 0⟩
def draining3 (op : BitVec 16) : State :=
  { staging op with parts := [(0, { Partition.reset with mode := pRunning, quads := 1 }), (3, { Partition.reset with mode := pDrained })] }
def drained3 : State := draining3 0x0102
def companion0 (op : BitVec 16) : State :=
  { staging op with parts := [(0, { Partition.reset with mode := pRunning, quads := 1, companion := [⟨0x800000000000, 0x200000⟩] })] }
def emptyStage (op : BitVec 16) : State := { staging op with stages := [] }
def stageP0 : StageP := ⟨0, 0, 0x80, 0, 0, 0, 1, 4, 4, 1, 2, 0, 0, 0, 0, false, true, true⟩
def grouped (op : BitVec 16) : State := { staging op with groups := [(0, ⟨0, 2, 0, true⟩)] }
def tasked (op : BitVec 16) : State := { staging op with plans := [(2, plan0)] }
def paramWords0 : BitVec 512 := 1#512 <<< 488
def drainedOwn : State := { staging 0x0301 with parts := [(0, { Partition.reset with mode := pDrained, quads := 1 })] }
def withGuest (op : BitVec 16) : State := { staging op with guest := { GuestState.reset with present := true } }
/-- Drafts: one with a conflict, a sound one, one that is full; a partition whose epoch is 2; a running partition 3. -/
def existing3 (op : BitVec 16) : State :=
  { staging op with parts := [(0, { Partition.reset with mode := pRunning, quads := 1 }), (3, { Partition.reset with mode := pRunning })] }
def drafting (op : BitVec 16) (ds : List DraftCmd) : State :=
  { staging op with parts := [(0, { Partition.reset with mode := pRunning, quads := 1, stacked := [⟨0, 0x1000000⟩], draft := ds })] }
def badDraft (op : BitVec 16) : State := drafting op [⟨0x0403, 1, 16, 0, .linkIdSet 3 0⟩]
def goodDraft (op : BitVec 16) : State := drafting op [⟨0x0403, 1, 16, 0, .linkIdSet 3 16⟩]
def fullDraft (op : BitVec 16) : State := drafting op [⟨0x0602, 1, 65537, 0, .eventMaskSet []⟩]
def epochTwo (op : BitVec 16) : State := { staging op with parts := [(0, { Partition.reset with mode := pRunning, epoch := 2 })] }
/-- A Cinch whose cut may start, and a cut of partition 0. -/
def startingCut : State :=
  { goodDraft 0x0502 with
    fl := { Flapino.reset with waitingCinch := [⟨0, (cmd0 0x0502).hdr, 0⟩] }
    reset_ := { (staging 0x0502).reset_ with released := [.hubCrossbar] } }
def cut0 (prepared unswitched unacked : List Island) : Cut := ⟨0, (cmd0 0x0502).hdr, 0, 2, prepared, prepared.isEmpty, unswitched, unacked, []⟩
def cutting0 (c : Cut) : State := { goodDraft 0x0502 with fl := { Flapino.reset with cut := some c } }
/-- Partition 0 in a mode, its block 0.0 in a group; block 0.0 parked with STALE_CONFIG at its GHDR; a drain that times out or is over. -/
def inMode (op : BitVec 16) (m : BitVec 4) : State :=
  { staging op with
    blocks := [(0, inGroup0)], parts := [(0, { Partition.reset with mode := m, quads := 1, stacked := [⟨0, 0x1000000⟩] })] }
def parking (op : BitVec 16) : State :=
  { inMode op pRunning with blocks := [(0, { core0 with core := .parked, lastStatus := stStaleConfig, ghdrPc := core0.pc })] }
def timingOut : State :=
  { inMode opPartDrain pDraining with parts := [(0, { Partition.reset with mode := pDraining, quads := 1, drainTimeout := true })] }
def drainedNow : State :=
  { inMode opPartDrain pDraining with blocks := [], fl := { Flapino.reset with bg := [cmd0 opPartDrain] } }
/-- Partition 0 with a range of two sequences, the first in use; with BATCH_SET done. -/
def sequenced (op : BitVec 16) : State :=
  { staging op with seqs := [(0, seq0)], parts := [(0, { (staging op).part 0 with seqCount := 2 })] }
def batching (op : BitVec 16) : State := { staging op with parts := [(0, { (staging op).part 0 with batch := some batch0 })] }
/-- The boot at order 7, stack 11's controller released. -/
def wiping7 : State := { State.reset with reset_ := { ResetState.reset with active := true, bootStage := 7, released := [.memSide 11] } }
/-- A boot at a stage with some islands released; a Preserve reset in progress; region 0's fabric domain off. -/
def bootAt (stage : BitVec 8) (is : List Island) : State :=
  { State.reset with reset_ := { ResetState.reset with active := true, bootStage := stage, released := is } }
def preserving0 : State := { State.reset with reset_ := { ResetState.reset with active := true, bootStage := 4, kind := .warmPreserve } }
def poweredOff : State := { State.reset with power := { PowerState.reset with domainsOff := putBit 0 68 true } }
/-- A clock that must slew; a stretch; a package with and without a healthy standby pair. -/
def slewing0 : State := { State.reset with power := { PowerState.reset with slewMhz := 1065 } }
def stretched0 : State := { State.reset with power := { PowerState.reset with stretched := true } }
def standby0 : State := { withCmd 0 with fl := { Flapino.reset with standbyHealthy := true } }
def noStandby0 : State :=
  { withCmd 0 with
    fl := { Flapino.reset with standbyHealthy := false }
    power := { PowerState.reset with limit := { PowerState.reset.limit with wdtReset := true } } }
/-- The enrolment of owner key 1, and a self-update. -/
def enrol0 : LcP := ⟨2, 1, 1, Config.serial, 5, ⟨[], []⟩⟩
def image0 : Image := ⟨0x5A484C46, 2, 0x0D48, 7, 1, 0, 0, 0, 0, 0, 0, [], [], 0, 0⟩
def updatable0 : State :=
  { staging opFwUpdate with fl := { (staging opFwUpdate).fl with standbyHealthy := true } }
def updating1 (i : Image) : State := { withCmd 0 with fl := { Flapino.reset with fw := .started (cmd0 opFwUpdate) i } }
/-- A command with header epoch 1 of a partition whose epoch is 2, at Flapino and as a CINCH that waits. -/
def cmdOld (op : BitVec 16) : Running := ⟨0, ⟨op, 1, 7, 1, 0, true, true, 0⟩, 0⟩
def staleCmd (op : BitVec 16) : State :=
  { withCmd op with fl := { Flapino.reset with current := some (cmdOld op) }, parts := [(0, { Partition.reset with mode := pRunning, epoch := 2 })] }
def staleCut : State := { staleCmd 0x0502 with fl := { Flapino.reset with waitingCinch := [⟨0, (cmdOld 0x0502).hdr, 0⟩] } }

theorem witness_step_front : State.pending { State.reset with pending := [.check] } = Instr.check :: [] := by decide
theorem witness_step_idle : State.reset.pending = [] := by decide

theorem witness_decodes : (onBlock core0).decodes b00 = true ∧ (onBlock core0).decodesOpen b00 = true ∧
    (onBlock { core0 with core := .inCommit }).decodes b00 = true ∧ (onBlock inGroup0).decodes b00 = true := by decide

theorem witness_registers : (1#5 : Reg) ≠ 0 ∧ (2#5 : Reg) ≠ 1#5 := by decide

theorem witness_jmp_aligned : ((onBlock core0).block b00).endCommit.reg 0 = 0 ∧ (0#64 : Word).toNat % 32 = 0 := by decide

theorem witness_refusals : (onBlock core0).decodesOpen b00 = true ∧ (onBlock inGroup0).decodesIn b00 group0 = true ∧
    ((0#64 : Word) + 4#64).toNat % 8 ≠ 0 ∧ ((onBlock { core0 with regs := [(1, 4)] }).block b00).reg 1 = 4 := by decide

theorem witness_load : (onBlock { core0 with regs := [(1, 0x7F00000A0040)] }).decodes b00 = true ∧
    inOwn b00 0x7F00000A0040 8 = true ∧ readOk b00 core0 0x7F00000A0040 8 = true ∧
    (onBlock core0).blockAllowed b00 0x7F00000A0040 8 = true ∧ (onBlock core0).ringAbandoned b00 0x7F00000A0040 8 = none ∧
    (onBlock core0).ringWaits b00 0x7F00000A0040 8 = false := by decide
theorem witness_load_stacked : owned.decodes b00 = true ∧ inOwn b00 0x40 8 = false ∧ inCompanion 0x40 8 = false ∧
    owned.blockAllowed b00 0x40 8 = true ∧ readOk b00 core0 0x40 8 = true := by decide
theorem witness_load_return : ((onBlock { core0 with stall := .load 1 0x40 false }).block b00).stall = .load 1 0x40 false ∧
    ((onBlock { core0 with stall := .load 1 0x40 false }).readRanges [⟨0x40, 8⟩]).2 = none := by decide
theorem witness_store : owned.decodes b00 = true ∧ writeOk b00 core0 0x40 8 = true ∧ core0.lockedBy 0x40 8 = false ∧
    owned.isChecker b00 = false ∧ owned.errorsIn [⟨0x40, 8⟩] = [] := by decide
theorem witness_load_struck : (onBlock { core0 with stall := .load 1 0x40 false }).struck [⟨0x40, 8⟩] ⟨0, 0⟩ = onBlock { core0 with stall := .load 1 0x40 false } ∧
    (((onBlock { core0 with stall := .load 1 0x40 false }).struck [⟨0x40, 8⟩] ⟨1, 0⟩).readRanges [⟨0x40, 8⟩]).2 = none ∧
    (((onBlock { core0 with stall := .load 1 0x40 false }).struck [⟨0x40, 8⟩] ⟨3, 0⟩).readRanges [⟨0x40, 8⟩]).2 = some 0x40 :=
  ⟨Sys2Proof.Laws.struck_clean _ _ rfl, by decide +kernel⟩

theorem witness_wait : (onBlock core0).decodes b00 = true ∧ (onBlock core0).decodesOpen b00 = true ∧
    (((onBlock core0).setBlock b00 ((onBlock core0).block b00).endCommit).readRanges [⟨0x7F00000A0000, 32⟩]).2 = none := by decide
theorem witness_fetch_struck : ((onBlock core0).setBlock b00 ((onBlock core0).block b00).endCommit).struck [⟨0x7F00000A0000, 32⟩] ⟨0, 0⟩ =
    (onBlock core0).setBlock b00 ((onBlock core0).block b00).endCommit := Sys2Proof.Laws.struck_clean _ _ rfl

theorem witness_registers_open : (onBlock core0).decodesOpen b00 = true ∧ (onBlock core0).isChecker b00 = false ∧
    (onBlock inGroup0).decodesIn b00 group0 = true := by decide

theorem witness_ghdr : (onBlock core0).decodesOpen b00 = true ∧
    ghdr0.ghdrOk b00 core1 (core1.reg 1).toNat 1 false 0 = true ∧ core1.stopAtGhdr = false ∧ core1.rerunHeld = false ∧
    (ghdr0.power.stretched && core1.checkMode == 0 && (ghdr0.owner b00).isSome) = false ∧ ghdr0.decodesOpen b00 = true := by decide
theorem witness_ghdr_stops : (onBlock { core0 with stopAtGhdr := true }).decodesOpen b00 = true := by decide

theorem witness_commit : (draining0.block b00).group = some group0 ∧ (draining0.block b00).drained = true ∧ draining0.mayCommit b00 = true ∧
    draining0.isChecker b00 = false ∧ draining0.isChecker (pairOf b00) = false ∧ draining0.epochPasses b00 group0 = true := by decide
theorem witness_commit_stale : (onBlock { drained0 with pEpoch := 2 }).epochPasses b00 group0 = false ∧
    ((onBlock { drained0 with pEpoch := 2 }).block b00).drained = true := by decide
theorem witness_atomic : atomic0.decodesIn b00 group0 = true ∧ atomicOk b00 (atomic0.block b00) group0 ⟨0x40, 0x7F00000A0000, 4, 0x000001⟩ = true ∧
    atomic0.blockAllowed b00 0x7F00000A0000 4 = true ∧ atomic0.blockAllowed b00 0x40 4 = true := by decide

theorem witness_completion_post : ((onBlock { core0 with cpls := [⟨7, 0, 0, 0, false, false⟩] }).block b00).cpls = [⟨7, 0, 0, 0, false, false⟩] := by decide
theorem witness_completion_quiet : ((onBlock { core0 with cpls := [⟨7, 0, 0, 0, false, true⟩] }).block b00).cpls = [⟨7, 0, 0, 0, false, true⟩] := by decide

theorem witness_kill : ((onBlock inGroup0).block b00).group = some group0 ∧ ((onBlock inGroup0).block b00).inGroup = true ∧
    ((onBlock inGroup0).block b00).fenced = false ∧ ((onBlock inGroup0).block b00).inReset = false ∧
    ((onBlock inGroup0).block b00).report = false ∧ (onBlock inGroup0).isChecker b00 = false ∧
    (onBlock inGroup0).isChecker (pairOf b00) = false ∧ ((onBlock inGroup0).block b00).reran = none ∧
    (onBlock inGroup0).power.stretched = false := by decide
theorem witness_abort : ((onBlock core0).block b00).running = true ∧ ((onBlock core0).block b00).core = .openState ∧
    ((onBlock { core0 with stall := .recv 0 8 false }).block b00).stall = .recv 0 8 false ∧
    ((onBlock { core0 with core := .inCommit }).block b00).core = .inCommit ∧
    ((onBlock { core0 with core := .inCommit, cpls := [⟨7, 0, 0, 0, false, false⟩] }).block b00).cpls ≠ [] := by decide

theorem witness_fence : (onBlock core0).decodes b00 = true ∧ ((onBlock core0).block b00).fetchQ = [] ∧
    ((onBlock { core0 with ucWrNew := true }).block b00).endCommit.ucWrNew = true ∧
    State.attached { onBlock core0 with scl := { SclState.reset with mode := .attached } } = true := by decide
theorem witness_readback : ((onBlock { core0 with fetchQ := [.fence false true] }).block b00).fetchQ = [.fence false true] ∧
    ((onBlock { core0 with fetchQ := [.fence false true] }).block b00).cpls = [] ∧
    (onBlock { core0 with fetchQ := [.fence false true] }).hasReq (fun u => u == .fence b00) = false := by decide

theorem witness_matmul : (onBlock (regs0 inGroup0)).issues b00 group0 .array
    (mmOk group0 mm0 0x7F00000A0000 0x7F00000A0100 0x7F00000A0200 0 0 0x7F00000A0000 64 64 64 &&
      (mmReads mm0 0x7F00000A0000 0x7F00000A0100 0 0 0x7F00000A0000 64 64 64 ++ cRanges mm0 0 0x7F00000A0200 64).all (ownOrStacked b00))
    (mmReads mm0 0x7F00000A0000 0x7F00000A0100 0 0 0x7F00000A0000 64 64 64) (cRanges mm0 0 0x7F00000A0200 64) = true ∧
    group0.void = false := by decide
theorem witness_convert : (onBlock (regs0 { inGroup0 with vectorQ := [convert0] })).issues b00 group0 .vector
    (vecOk group0 vec0 (some .copy) 0x7F00000A0000 0x7F00000A0100 0 0x7F00000A0200) convert0.reads convert0.writes = true ∧
    group0.void = false := by decide
theorem witness_void : (onBlock (regs0 { inGroup0 with vectorQ := [convert0], group := some { group0 with void := true } })).issues b00 { group0 with void := true } .vector
    true convert0.reads convert0.writes = true := by decide
theorem witness_copy : (onBlock (regs0 { inGroup0 with fetchQ := [.fence true true] })).issues b00 group0 .fetch
    (copy0.reads.all (fetchFrom b00) && copy0.writes.all (fetchTo b00)) copy0.reads copy0.writes = true := by decide
theorem witness_fetch : (onBlock (regs0 { inGroup0 with fetchQ := [.fence true true] })).issues b00 group0 .fetch
    (fetchFormats fetch0 && tValid fetch0.t && amaxOk group0 fetch0.amaxEn fetch0.amaxIdx && fetchWhole fetch0 64 &&
      fetchCmd0.reads.all (fetchFrom b00) && fetchCmd0.writes.all (fetchTo b00)) fetchCmd0.reads fetchCmd0.writes = true ∧
    fetch0.versionEn = false := by decide
theorem witness_full_queue : (onBlock { inGroup0 with vectorQ := List.replicate 8 (.fence true true) }).decodesIn b00 group0 = true ∧
    8 ≤ (List.replicate 8 (EngineCmd.fence true true)).length := by decide

theorem witness_pass : ((onBlock running0).block b00).arrayQ = [matmul0] ∧ ((onBlock running0).block b00).run = some ⟨0, 0, 0, true, 0, []⟩ ∧
    ((onBlock running0).block b00).inGroup = true ∧ (onBlock running0).cmdAbandoned b00 matmul0 = none ∧
    (onBlock running0).cmdWaits b00 matmul0 = false ∧ (⟨0, 0, 0, true, 0, []⟩ : ArrayRun).over mmDeep0 = false ∧
    (⟨0, 0, 0, true, 0, []⟩ : ArrayRun).ready none = true ∧ 0 + 1 < passes mmDeep0 := by decide
theorem witness_pass_checks : ((onBlock running0).passEffect b00 mmDeep0 .none 0x7F00000A0000 0x7F00000A0200 0 0 0 64 64 none ⟨0, 0, 0, true, 0, []⟩).2.check
    ((onBlock running0).block b00).mode = .pass := by decide
theorem witness_matmul_over : (⟨1, 0, 0, true, 0, []⟩ : ArrayRun).over mmDeep0 = true ∧ running0.report = false ∧
    ((onBlock running0).readRanges matmul0.reads).2 = none := by decide
theorem witness_vector_end : ((onBlock { inGroup0 with vectorQ := [convert0] }).block b00).vectorQ = [convert0] ∧ inGroup0.live = true ∧
    (onBlock inGroup0).cmdWaits b00 convert0 = false ∧ (onBlock inGroup0).cmdAbandoned b00 convert0 = none ∧
    (onBlock inGroup0).isChecker b00 = false ∧ (onBlock inGroup0).sessionFor convert0 = true ∧
    (onBlock inGroup0).hasReq (fun u => u == .vec b00) = false ∧ ((onBlock inGroup0).readRanges convert0.reads).2 = none ∧
    (onBlock inGroup0).errorsIn [⟨0x7F00000A0200, tensorBytes 2 4⟩] = [] ∧ inCompanion 0x7F00000A0200 (tensorBytes 2 4) = false := by decide
theorem witness_copy_end : (onBlock { inGroup0 with fetchQ := [copy0] }).fetchReady b00 copy0 = true ∧
    (onBlock inGroup0).cmdWaits b00 copy0 = false ∧ (onBlock inGroup0).cmdAbandoned b00 copy0 = none ∧
    inCompanion 0x7F00000A0000 64 = false ∧ inCompanion 0x7F00000A0200 64 = false ∧ (onBlock inGroup0).sessionFor copy0 = true ∧
    ((onBlock inGroup0).readRanges copy0.reads).2 = none ∧ (onBlock inGroup0).errorsIn [⟨0x7F00000A0200, 64⟩] = [] := by decide
theorem witness_version_read : versionChain (ventryAt ventry0.mem 0x100) 0 = some [] ∧
    ventry0.errorsIn [⟨0x100, ventryBytes⟩] = [] ∧ ventry0.errorsIn (versionReads (ventryAt ventry0.mem 0x100) []) = [] ∧
    (nonEmpty (versionReads (ventryAt ventry0.mem 0x100) [])).all (fun r => ventry0.blockAllowed b00 r.base r.len) = true ∧
    (versionReads (ventryAt ventry0.mem 0x100) []).any (fun r => ventry0.ringWaits b00 r.base r.len) = false ∧
    ((versionReads (ventryAt ventry0.mem 0x100) []).filterMap fun r => ventry0.ringAbandoned b00 r.base r.len) = [] ∧
    (versionBytes ventry0.mem (ventryAt ventry0.mem 0x100) []).isSome = true := by decide
theorem witness_version_range :
    (ventry0.lateRange b00 (ventry0.block b00) { fetch0 with versionEn := true } 0x7F00000A0200 ((ventryAt ventry0.mem 0x100).shardBytes / 4)).isNone = true := by
  decide
theorem witness_finish_struck : (onBlock running0).struck matmul0.reads ⟨0, 0⟩ = onBlock running0 ∧
    (onBlock inGroup0).struck convert0.reads ⟨0, 0⟩ = onBlock inGroup0 ∧ (onBlock inGroup0).struck copy0.reads ⟨0, 0⟩ = onBlock inGroup0 ∧
    ventry0.struck [⟨0x100, ventryBytes⟩] ⟨0, 0⟩ = ventry0 :=
  ⟨Sys2Proof.Laws.struck_clean _ _ rfl, Sys2Proof.Laws.struck_clean _ _ rfl, Sys2Proof.Laws.struck_clean _ _ rfl, Sys2Proof.Laws.struck_clean _ _ rfl⟩

theorem witness_keeper : core0.keeperEn = true ∧ core0.inReset = false ∧ core0.arrayQ = [] ∧ core0.keeperState = .busy ∧
    ({ core0 with keeperState := .rampUp } : BlockState).keeperState = .rampUp ∧ running0.arrayQ ≠ [] ∧ running0.keeperEn = true := by decide
theorem witness_shadow : ((onBlock { inGroup0 with untaken := some ⟨0, 2, [], true, true, false⟩ }).block b00).untaken =
    some ⟨0, 2, [], true, true, false⟩ ∧ inGroup0.arrayQ = [] ∧ inGroup0.live = true := by decide
theorem witness_shadow_taken : running0.live = true ∧ (⟨0, 0, 0, false, 0, []⟩ : ArrayRun).over mm0 = false ∧
    (⟨0, 0, 0, false, 0, []⟩ : ArrayRun).takes (some ⟨0, 2, [], true, true, false⟩) = some ⟨0, 2, [], true, true, false⟩ ∧
    (⟨0, 0, 0, false, 0, []⟩ : ArrayRun).takes none = none := by decide

theorem witness_report : (onBlock { core0 with report := true }).isChecker b00 = false ∧ (onBlock core0).isChecker (pairOf b00) = false ∧
    freeSpares ((onBlock core0).region 0) = [0, 1, 2, 3] ∧ ((onBlock core0).region 0).testing = none ∧
    ((onBlock core0).blocks.all fun c => !(c.2.fenced && c.2.swapping)) = true := by decide
theorem witness_drain_timeout : (onBlock { core0 with fenced := true, sendBuf := [sendEntry0] }).block b00 =
    { core0 with fenced := true, sendBuf := [sendEntry0] } ∧ sendEntry0.desc.rider = false ∧ (onBlock core0).relays = [] := by decide
theorem witness_startup : spare0.fl.repair = none ∧ spare0.fl.margin = none ∧ (spare0.region 0).testing = some (64, b00) ∧
    (spare0.block b00).sendBuf = [] ∧ (spare0.block b00).fenced = true ∧ (spare0.block b00).swapping = true ∧
    freeSpares ((spare0.region 0).failSpare 64) = [1, 2, 3] := by decide

theorem witness_quad_repair : (withCmd opQuadRepair).carries (cmd0 opQuadRepair) opQuadRepair .package = true ∧
    (withCmd opQuadRepair).quadIdle 0 1 = true := by decide
theorem witness_margin : (withCmd opMarginTest).carries (cmd0 opMarginTest) opMarginTest .package = true ∧ marginOk ⟨0, 16, 10, 5, 0, 1, 1⟩ = true ∧
    (withCmd opMarginTest).marginTargets ⟨0, 16, 10, 5, 0, 1, 1⟩ = [64, 65, 66, 67] := by decide

theorem witness_report_quad : ((onBlock core0).region 0).fencedQuads.getLsbD 1 = false := by decide
theorem witness_failover : (withCmd 0x0601).reset_.active = false ∧ ({ withCmd 0x0601 with fl := Flapino.reset } : State).flapinoUp = true ∧
    Flapino.reset.standbyHealthy = true := by decide
theorem witness_err_query : (withCmd 0x0601).carries (cmd0 0x0601) 0x0601 .all = true := by decide

theorem witness_arrival : QAddr.device desc1.dst = receiver0.deviceId ∧ QAddr.blockId desc1.dst = b00 ∧
    receiver0.isChecker b00 = false ∧ receiver0.isChecker (pairOf b00) = false ∧ receiver0.fifoClosed desc1.src b00 = false ∧
    (receiver0.owner b00).isSome = true ∧ epochGe desc1.epoch (receiver0.block b00).pEpoch = true ∧
    epochTrails desc1.epoch (receiver0.block b00).epoch = false ∧ 3 ≤ ((receiver0.block b00).queue 0).room := by decide
theorem witness_arrives : receiver0.arrive (fun i => decide (i = .message desc1)) = some receiver0 := rfl
theorem witness_arrival_crc : desc1.crc = descCrc desc1 := by decide +kernel
theorem witness_message : (core0.msg ⟨b00, 0x100, 0⟩).isNone = true ∧
    ({ core0 with sendBuf := [sendEntry0] } : BlockState).msg ⟨b00, 0x100, 0⟩ = some sendEntry0 ∧ sendEntry0.crcNacks < 2 ∧
    sendEntry0.isRelay = false ∧ sendEntry0.desc.rider = false ∧ sendEntry0.voidResend = false ∧ core0.queueQ = [] := by decide
theorem witness_answer_comes : (onBlock { core0 with sendBuf := [sendEntry0] }).arrive (isAnswer ⟨b00, 0x100, 0⟩ anAccept) =
    some (onBlock { core0 with sendBuf := [sendEntry0] }) := rfl
theorem witness_rider_message :
    ({ core0 with sendBuf := [{ sendEntry0 with waiting := true, desc := { desc0 with rider := true, dst := 0x10100 } }] } : BlockState).msg ⟨b00, 0x10100, 0⟩ =
      some { sendEntry0 with waiting := true, desc := { desc0 with rider := true, dst := 0x10100 } } := by decide

theorem witness_stall : ({ sendEntry0 with backoff := 64 } : SendEntry).stallRaised = false ∧
    ({ core0 with sendBuf := [{ sendEntry0 with backoff := 64 }] } : BlockState).msg ⟨b00, 0x100, 0⟩ = some { sendEntry0 with backoff := 64 } ∧
    core0.msg ⟨b00, 0x100, 0⟩ = none ∧ QAddr.sameQueue desc0.dst 0x100 = true ∧
    ({ core0 with queueQ := [⟨desc0, false, false⟩] } : BlockState).msg ⟨b00, 0x100, 0⟩ = none := by decide
theorem witness_cycle : QAddr.device (0x100 : QAddr) = State.reset.deviceId ∧ QAddr.blockId (0x100 : QAddr) = ⟨0, 1⟩ ∧
    QAddr.device (0 : QAddr) = State.reset.deviceId ∧ QAddr.blockId (0 : QAddr) = b00 ∧ (b00 : BlockId) ≠ ⟨0, 1⟩ ∧
    ({ core0 with stallPolicy := 1 } : BlockState).stallPolicy = 1 := by decide

theorem witness_send : (onBlock inGroup0).decodesIn b00 group0 = true ∧ group0.void = false ∧ group0.sends < 32 ∧ isDescSet 8 = true ∧ inGroup0.queueQ = [] ∧ inGroup0.sendBuf.length < 32 ∧
    relayBad desc0 = false ∧ relaySourceOk b00 inGroup0 { desc0 with len0 := 0 } = true := by decide
theorem witness_send_by_address : ((0x7F00000A0000 : Nat) % 64 = 0) ∧ inUser b00 (regs0 inGroup0) 0x7F00000A0000 64 = true ∧
    readOk b00 (regs0 inGroup0) 0x7F00000A0000 64 = true ∧ (onBlock (regs0 inGroup0)).decodesIn b00 group0 = true := by decide
theorem witness_recv : (onBlock { inGroup0 with queues := [(0, ⟨16, [desc0], 0, 1⟩)] }).available b00 0 = some desc0 ∧
    (onBlock { core0 with queues := [(0, ⟨16, [desc0], 0, 1⟩)] }).available b00 0 = some desc0 ∧
    (onBlock { core0 with queues := [(0, ⟨16, [desc0], 0, 1⟩)] }).decodesOpen b00 = true ∧ (onBlock core0).available b00 0 = none := by decide
theorem witness_recv_by_address : recvBad b00 core1 1 true = none ∧ core1.lockedBy (core1.addr 1) 64 = false ∧
    (onBlock { core1 with queues := [(0, ⟨16, [desc0], 0, 1⟩)] }).available b00 0 = some desc0 ∧ (onBlock core1).decodes b00 = true := by decide
theorem witness_send_waits : 32 ≤ (List.replicate 32 sendEntry0).length ∧ 8 ≤ (List.replicate 8 (⟨desc0, false, false⟩ : QueueCmd)).length := by decide
theorem witness_recv_wake : (onBlock { inGroup0 with stall := .recv 0 8 false, queues := [(0, ⟨16, [desc0], 0, 1⟩)] }).available b00 0 = some desc0 := by decide

theorem witness_ring : ringed0.ring 0 = some ring0 ∧ ring0.pending.find? (fun y => y.id == ⟨0, 3⟩) = some relay0 ∧ relay0.dead = false ∧
    tGet .free ring0.seg ((relay0.start + 0) % ring0.segs) = .granted ⟨0, 3⟩ 0 0 ∧ relay0.landed < relay0.granted ∧ ringed0.inflight = [] ∧
    ringed0.isChecker (pairOf b00) = false ∧ QAddr.device (0 : QAddr) = ringed0.deviceId ∧ ringed0.errorsIn [⟨0x400000, 64⟩] = [] := by decide +kernel
theorem witness_ring_comes (p : InFlight → Bool) : ringed0.arrive p = some ringed0 := rfl
theorem witness_delivery : relayDue { relay0 with landed := 2 } = true ∧
    ringed0.arrivalCode (relayDesc { ring0 with pending := [{ relay0 with landed := 2 }] } { relay0 with landed := 2 }) (relay0.desc.crc == descCrc relay0.desc) = anAccept := by
  decide +kernel
theorem witness_landing_credit : relaying0.relays.find? (fun x => x.num == 3) = some relayTx0 ∧ relayTx0.sent + 1 < relaySegs relayTx0.desc ∧
    ringed0.ring 0x200 = none ∧ relaying0.relayAllowed relayTx0 (segRuns relayTx0.desc 0) = true ∧
    (relaying0.readRanges ((segRuns relayTx0.desc 0).map fun p => ⟨p.2.1, p.2.2⟩)).2 = none := by decide
theorem witness_landing_error : ({ relaying0 with bursts := [(0x7F00000A0000 / 32, ⟨3, 0⟩)] } : State).arrive
      (fun i => decide (i = .credit 3 0) || isControl 0x03 3 0 i) = some { relaying0 with bursts := [(0x7F00000A0000 / 32, ⟨3, 0⟩)] } ∧
    (({ relaying0 with bursts := [(0x7F00000A0000 / 32, ⟨3, 0⟩)] } : State).readRanges
      ((segRuns relayTx0.desc 0).map fun p => ⟨p.2.1, p.2.2⟩)).2.isSome = true := by decide +kernel
theorem witness_segment_struck : relaying0.struck ((segRuns relayTx0.desc 0).map fun p => ⟨p.2.1, p.2.2⟩) ⟨0, 0⟩ = relaying0 := Sys2Proof.Laws.struck_clean _ _ rfl

theorem witness_work_list : (serving0.part 0).batch = some batch0 ∧ freeSlot (serving0.part 0) batch0 = some 0 ∧ serving0.listDue 0 batch0 = true ∧
    (serving0.part 0).wlStarted = true ∧ (serving0.eligible 0 batch0).length = 1 ∧ serving0.errorsIn [⟨0x1000, 96⟩] = [] := by decide

theorem witness_hold : memNat staged0.mem (staged0.stage 0).shardList.toNat 6 = 0x100 ∧ (staged0.stage 0).valid = true ∧
    epochGe 1 (staged0.stage 0).keptEpoch = true ∧ (staged0.stage 0).shardCount.toNat = 1 ∧ staged0.engineMay 0 0x80 8 = true ∧
    staged0.errorsIn [⟨0x80, 8⟩] = [] ∧ staged0.engineMay 0 0x100 ventryBytes = true ∧ staged0.errorsIn [⟨0x100, ventryBytes⟩] = [] ∧
    ((ventryAt staged0.mem 0x100).countRef 5 true).isSome = true := by decide +kernel
theorem witness_release : ((ventryAt held0.mem 0x100).countRef 5 false).isSome = true ∧ (held0.stage 0).inflight ≠ 0 ∧
    memNat held0.mem (held0.stage 0).shardList.toNat 6 = 0x100 ∧ held0.engineMay 0 0x80 8 = true ∧
    held0.engineMay 0 0x100 ventryBytes = true ∧ held0.errorsIn [⟨0x80, 8⟩, ⟨0x100, ventryBytes⟩] = [] := by decide +kernel
theorem witness_admission : staged0.admits (staged0.stage 0) = true ∧ (staged0.lanesOf (staged0.stage 0)).length = 4 ∧
    ((staged0.lanesOf (staged0.stage 0)).all fun b => !staged0.isChecker (pairOf b)) = true := by decide +kernel
theorem witness_stale_admission :
    let x := { stage0 with nextStep := 6 }
    staged0.admitOn x = true ∧ staged0.lanesRoom x = true ∧ x.staleOk = false := by decide +kernel
theorem witness_notice_struck : ({ staged0 with notices := [] } : State).struck [⟨0x80, 8⟩] ⟨0, 0⟩ = { staged0 with notices := [] } := Sys2Proof.Laws.struck_clean _ _ rfl

theorem witness_allocation : (updating0.task 0 3).ventry = 0x100 ∧ (updating0.region 0).upd.queue = [(3, 5)] ∧
    updating0.engineMay 0 0x100 ventryBytes = true ∧ updating0.errorsIn [⟨0x100, ventryBytes⟩] = [] ∧
    retireSlots 8 (ventryAt updating0.mem 0x100) (updating0.stage 0).staleS.toNat 5 = (ventryAt updating0.mem 0x100, [], none) ∧
    updating0.slotOk (updating0.task 0 3) (ventryAt updating0.mem 0x100) 5 = true := by decide +kernel
theorem witness_publication : (built0.region 0).upd.doneTasks = [(3, 5, 0)] ∧ built0.flapinoUp = true ∧
    (ventryAt built0.mem 0x100).bldValid = true ∧ (built0.task 0 3).exportEn = false ∧ built0.errorsIn [⟨0x100, ventryBytes⟩] = [] := by decide +kernel
theorem witness_drain_answer : core0.fetchingVersion = false ∧
    (let s := (onBlock core0).ship (.drainMark b00 0x100)
    s.inflight.any (fun t => decide (t.item = .drainMark b00 0x100)) = true ∧ (s.arrive (fun i => decide (i = .drainMark b00 0x100))).isSome = true) := by decide

theorem witness_stage_commands : (staging 0x0203).carries (cmd0 0x0203) 0x0203 ((staging 0x0203).stageScope 0) = true ∧
    (staging 0x0208).carries (cmd0 0x0208) 0x0208 ((staging 0x0208).stageScope 0) = true ∧ ((staging 0x0208).stage 0).valid = true ∧
    ((staging 0x0208).stage 0).first = true ∧ (0 : BitVec 16).toNat < ((staging 0x0208).stage 0).mbPerStep.toNat := by decide +kernel
theorem witness_vtable : (staging 0x0210).carries (cmd0 0x0210) 0x0210 .own = true ∧ ((staging 0x0210).part 0).hasStacked 0x100 ventryBytes = true ∧
    (staging 0x0210).errorsIn [⟨0x100, ventryBytes⟩] = [] ∧
    anyOverlap (vtableAreas vtable0) = false ∧ ((vtableAreas vtable0).all fun a => ((staging 0x0210).part 0).hasStacked a.base a.len) = true := by
  decide +kernel
theorem witness_lring : (staging 0x0231).carries (cmd0 0x0231) 0x0231 .own = true ∧ (staging 0x0231).partHas 0 b00 = true ∧
    (staging 0x0231).ring 0 = none ∧ ((staging 0x0231).part 0).hasStacked 0 (8 * mib) = true ∧
    ({ staging 0x0232 with rings := [(0, ⟨0, 8, 0, 0, 0, [], [], []⟩)] } : State).ring 0 = some ⟨0, 8, 0, 0, 0, [], [], []⟩ := by decide +kernel

theorem witness_post : (planned0.plan 2).valid = true ∧ (planned0.plan 2).owner = b00 ∧ (planned0.plan 2).rbSrc = false ∧
    tGet 0 planned0.lastSteps 2 ≤ 1 ∧ (State.reset.plan 2).valid = false := by decide
theorem witness_instance_start : memByte planned0.mem ((planned0.plan 2).dst.toNat + 1) = 0 ∧ planned0.bursts = [] ∧ planned0.pieceCredits = [] ∧
    planned0.planAllowed instance0 (planned0.plan 2) = true ∧ instance0.running = false ∧ instance0.plan = 2 := by decide +kernel
theorem witness_instance : gathering0.instances = [instance1] ∧ instance1.running = true ∧ gathering0.mem.wf = true ∧
    (gathering0.expected instance1 (gathering0.plan 2) 1 piece0).isSome = true ∧ (gathering0.plan 2).normEn = false := by decide +kernel
theorem witness_instance_complete : instance2.arrived + instance2.gathered = (gathering0.recvs (gathering0.plan 2)).length ∧
    instance2.sent = (gathering0.sends (gathering0.plan 2)).length ∧ (gathering0.plan 2).amax = 0 ∧
    (({ gathering0 with bursts := [(0x1040 / 32, ⟨3, 0⟩)] } : State).readRanges
      (dstRanges (gathering0.plan 2) (gathering0.ownChunk (gathering0.plan 2)).1 (gathering0.ownChunk (gathering0.plan 2)).2)).2.isSome = true := by
  decide +kernel

theorem witness_scalar : treeChildren 3 0 = 2 ∧ treeChildren 4 1 = 1 ∧ scalar0.result = none ∧ scalar0.sentUp = false ∧ scalar0.children = 0 := by decide
theorem witness_norm : normed0.normPlans 0 = [2] ∧ (allRegions.filterMap fun r => tFind (normed0.region r).normSums (normStep 0 1)) = [0x40] ∧
    (tFind normed0.normDone (normKey 0 2 1)).isSome = true ∧ (normed0.group (normed0.job 0).group).valid = true := by decide +kernel
theorem witness_job_version : versioned0.flapinoUp = true ∧ versioned0.jobReady 0 = true ∧ versioned0.scalars = [] ∧ (versioned0.readRanges (versioned0.jobReads 0)).2 = none ∧
    (versioned0.group (versioned0.job 0).group).valid = true ∧ versioned0.jobHeld 0 < 5 := by decide +kernel
theorem witness_coll_commands : (staging 0x0246).carries (cmd0 0x0246) 0x0246 ((staging 0x0246).planScope 0) = true ∧
    ({ staging 0x0244 with groups := [(0, ⟨0, 1, 0, true⟩)] } : State).carries (cmd0 0x0244) 0x0244 .own = true ∧
    ((staging 0x0244).part 0).hasStacked 0x40 8 = true ∧ inStacked 0x40 8 = true := by decide

theorem witness_permute_start : ({ staging opPermute with stages := [], groups := [(0, ⟨0, 2, 0, true⟩)] } : State).carries (cmd0 opPermute) opPermute .own = true ∧
    ((staging opPermute).part 0).hasStacked 0x800 0 = true ∧ permTable (staging opPermute).mem 0x800 0 = [] := by decide +kernel
theorem witness_move : permuting0.findMove 1 2 = some (permute0, move0, .moving 0) ∧ move0.pos ≠ 1 ∧ move0.dstDev = permuting0.deviceId ∧
    permuting0.errorsIn [⟨permute0.target move0, 64⟩, ⟨0x100, 64⟩] = [] ∧
    waitingMove0.findMove 1 (3 - 1) = some ({ permute0 with entries := [(move0, .waiting)] }, move0, .waiting) ∧ move0.last = false ∧
    (permuting0.permutes.any fun x => x.entries.any fun e => e.1.cycle == 1 && e.1.srcDev == permuting0.deviceId && decide (e.2 ≠ .landed)) = true := by
  decide +kernel

theorem witness_update_start : (begun0.region 0).upd.queue = [(3, 5)] ∧ (begun0.region 0).upd.slotReady = some 3 ∧
    (ventryAt begun0.mem 0x100).curVersion = 5 ∧ begun0.taskAllowed (begun0.task 0 3) (ventryAt begun0.mem 0x100) = true ∧
    begun0.errorsIn (begun0.startReads (begun0.task 0 3)) = [] ∧
    (begun0.task 0 3).opt ≠ 3 ∧ (begun0.task 0 3).clipEn = false ∧ (begun0.task 0 3).countMode = false ∧
    memNat begun0.mem (begun0.taskHeader (begun0.task 0 3) + 12) 4 = 4 := by decide +kernel
theorem witness_update_group : slowTier run0.entry = false ∧ run0.entry.exportEn = false ∧ run0.group < (ventryAt built0.mem 0x100).groups ∧
    built0.errorsIn (built0.groupReads run0.entry (ventryAt built0.mem 0x100) 0) = [] ∧ run0.entry.scaleCount = 0 ∧
    (ventryAt built0.mem 0x100).groups ≤ ({ run0 with group := 1 } : RunTask).group := by decide +kernel
theorem witness_scale_step :
    let x : RunTask := { run0 with group := 1, entry := { task0 with scaleList := 0x600, scaleCount := 1 } }
    x.entry.scaleCount ≠ 0 ∧ ((built0.closeSeries x.entry (ventryAt built0.mem 0x100) x).scaleStep 0 x.entry).2 = true := by decide +kernel
theorem witness_update_commands : (staging 0x0254).carries (cmd0 0x0254) 0x0254 ((staging 0x0254).taskScope 0 3) = true ∧
    (staging 0x0803).carries (cmd0 0x0803) 0x0803 (.names 0) = true ∧ (staging 0x0803).stepStarted 0 9 = false := by decide +kernel
theorem witness_group_struck : built0.struck (built0.groupReads run0.entry (ventryAt built0.mem 0x100) 0) ⟨0, 0⟩ = built0 := Sys2Proof.Laws.struck_clean _ _ rfl

theorem witness_append : exRing0.fits (exportBytes record0) = true ∧ exRing0.padFor (exportBytes record0) = 0 ∧ record0.ofShard = false ∧
    ({ exRing0 with produced := 4096, cfg := { exRing0.cfg with dropPolicy := true } } : ExportRing).fits (exportBytes record0) = false ∧
    (exporting0.part 0).exportRing = some exRing0 ∧ exRing0.cfg.kind = .package ∧
    exporting0.errorsIn [⟨0x8000, 128⟩] = [] := by decide +kernel
theorem witness_room : ({ exRing0 with waiting := true } : ExportRing).fits (exportBytes record0) = true ∧
    (exporting0.regions.all fun e => e.2.upd.run.isNone) = true ∧ UpdateUnit.reset.run = none := by decide +kernel
theorem witness_span : 128 ≤ exRing0.cfg.spanMax.toNat ∧ exporting0.spanOut 0 = false := by decide +kernel
theorem witness_shard : (staging opExportShard).carries (cmd0 opExportShard) opExportShard ((staging opExportShard).taskScope 0 3) = true ∧
    (staging 0x0804).carries (cmd0 0x0804) 0x0804 (.names 0) = true ∧ (exportTask0.task 0 3).valid = true ∧ (exportTask0.task 0 3).exportEn = true ∧
    (exportTask0.part (exportTask0.task 0 3).partition).exportRing.isSome = true ∧
    exportTask0.carries (cmd0 opExportShard) opExportShard (exportTask0.taskScope 0 3) = true ∧
    exportTask0.errorsIn (shardReads (exportTask0.task 0 3) (ventryAt exportTask0.mem 0x100) false) = [] ∧
    ((({ exportTask0 with bursts := [(8, ⟨3, 0⟩)] } : State).taken).readRanges
      (shardReads (exportTask0.task 0 3) (ventryAt exportTask0.mem 0x100) false)).2.isSome = true := by decide +kernel

theorem witness_memory : inStacked 0x40 32 = true ∧ wiped0.memUp 0x40 = true ∧ wiped0.classA 0x40 = false ∧ stackOf 0x40 = 0 ∧
    (wiped0.stack 0).selfRefresh = false ∧ wiped0.reqActs .scrub = true ∧ wiped0.reqAllowed 0x40 32 .scrub = true ∧
    wiped0.reqLocked 0x40 32 .scrub = false ∧ (0x40 % 256 + 32 ≤ 256) ∧ wiped0.mem.wf = true ∧ State.reset.memUp 0x40 = false ∧
    (staged0.reqActs (.versionEntry 0) = true ∧ staged0.reqAllowed 0x40000000 32 (.versionEntry 0) = false) := by decide +kernel
theorem witness_bad_burst :
    let s : State := { wiped0 with bursts := [(2, ⟨3, 0⟩)] }
    ((((s.served 0x40 32).countBus 0x40 .ok false).upset 0x40 ⟨0, 0⟩).readBurst 0x40 ⟨0, 0⟩).2 = false ∧
    burstCheck false (errXor (((s.countBus 0x40 .ok false).upset 0x40 ⟨0, 0⟩).burst 0x40) ⟨0, 0⟩) (((s.countBus 0x40 .ok false).upset 0x40 ⟨0, 0⟩).burst 0x40) = .fails ∧
    burstCheck false ⟨1, 0⟩ ⟨1, 0⟩ = .single ∧ burstCheck false ⟨0, 0⟩ ⟨0, 0⟩ = .clean := by decide +kernel
theorem witness_memory_side :
    let m : MemSideOp := ⟨0x01, 0, 0, 0x40, 0, some 1, 4, 0, none, none, [], 0⟩
    let s : State := { owned with stackCtl := wiped0.stackCtl, msos := [m] }
    msoUnit m.op = some 4 ∧ s.msoWaits m 4 = false ∧ (msoTargets m 4 ++ msoSources m 4).all (s.msoMay m) = true ∧
    s.errorsIn (msoTargets m 4 ++ msoSources m 4) = [] := by decide +kernel
theorem witness_idle_stack : (wiped0.stack 0).wipeDone = true ∧ (wiped0.stack 0).held = [] ∧ wiped0.msos = [] := by decide
theorem witness_memory_side_struck (m : MemSideOp) :
    let s : State := { owned with stackCtl := wiped0.stackCtl, msos := [m] }
    (s.struck (msoSources m 4) ⟨0, 0⟩).struck (msoTargets m 4) ⟨0, 0⟩ = s := by
  intro s
  rw [Sys2Proof.Laws.struck_clean s (msoSources m 4) rfl]
  exact Sys2Proof.Laws.struck_clean s (msoTargets m 4) rfl

theorem witness_flits : ((linked0 port0).link 3).isUp = true ∧ (linked0 port0).link 3 = port0 ∧ port0.txSwitch = none ∧ port0.replaysInRow < 7 ∧
    port0.replaying = [] ∧ ({ port0 with replayBuf := [flit0] } : LinkState).replayBuf ≠ [] ∧
    ({ port0 with txBypass := [⟨packet0, 12, none, none⟩] } : LinkState).ready .bypass = true ∧ port0.linkDue = false := by decide
theorem witness_flit_bytes : ∃ (head : BitVec 42) (reserved : BitVec 54) (crc : BitVec 32),
    rxFlit false (flitBytes head reserved flit0.payload crc) = .data ⟨false, 0, false⟩ flit0 ∧ flit0.payload.length = 240 ∧ flit0.seq = port0.rxExpected := by
  have h := Sys2Proof.Laws.rxFlit_sealFlit false (flitHead 0x2 (channelCode flit0.vc) flit0.first flit0.seq flit0.npkt ⟨false, 0, false⟩) flit0.payload (by decide +kernel)
  rw [Sys2Proof.Laws.sealFlit_fields _ _ (by decide +kernel)] at h
  exact ⟨_, _, _, Eq.trans h (by decide +kernel), by decide +kernel, rfl⟩
theorem witness_bad_crc : ∃ crc : BitVec 32, crc ≠ crc32c ((flitBytes 0 0 flit0.payload crc).take 252) := by
  have h : ∀ crc : BitVec 32, (flitBytes 0 0 flit0.payload crc).take 252 = leBytes 12 ((0 : BitVec 54) ++ (0 : BitVec 42)).toNat ++ flit0.payload :=
    fun crc => List.take_left' (by decide +kernel)
  exact ⟨crc32c (leBytes 12 ((0 : BitVec 54) ++ (0 : BitVec 42)).toNat ++ flit0.payload) + 1, by rw [h]; simp⟩
theorem witness_unused_type : ∃ (head : BitVec 42) (reserved : BitVec 54) (crc : BitVec 32), rxFlit false (flitBytes head reserved (List.replicate 240 0) crc) = .unused := by
  have h := Sys2Proof.Laws.rxFlit_sealFlit false 0x3 (List.replicate 240 0) (by decide +kernel)
  rw [Sys2Proof.Laws.sealFlit_fields _ _ (by decide +kernel)] at h
  exact ⟨_, _, _, Eq.trans h (by decide +kernel)⟩

theorem witness_signal : ({ linked0 { port0 with mode := .disabled } with reset_ := { ResetState.reset with released := [.port 3] } } : State).linkReleased 3 = true ∧
    port0.cfg.enable = true := by decide
theorem witness_training : ({ port0 with mode := .training } : LinkState).trains = true ∧ ({ port0 with mode := .held, quick := true } : LinkState).trains = true ∧
    port0.wide = none ∧ port0.rxSwitch = none ∧ port0.discarded = [] ∧ (port0.ackTo 0).replaysInRow < 7 := by decide

theorem witness_lanes :
    let x : LinkState := { port0 with trainedLanes := 0xFF }
    x.acceptedReq ⟨0, 0x0F, 0⟩ = false ∧ badMask 3 x 0x0F = false ∧ badMask 3 { port0 with trainedLanes := 0x03 } 0x0F = true ∧
    (linked0 x).reqStands x = false ∧ ({ x with mode := .widthChange, rxSwitch := some ⟨0, 0x0F, 0⟩ } : LinkState).isUp = true ∧
    overLanes x [] = [] ∧ overLanes { x with laneOver := [(0, 2)] } [20000] = [(0, 3)] ∧ x.lanesActive.getLsbD 0 = true ∧ x.wide = none := by decide

theorem witness_route :
    let d : Descriptor := { desc0 with dst := 0x00070000 }
    let s : State := routed0.ship (.message d)
    QAddr.device d.dst = 7 ∧ s.inflight.map Transit.item = [.message d] ∧ s.candidates 7 = [3] ∧ (s.link 3).isUp = true ∧ s.idValid = true ∧
    (7 : BitVec 16) ≠ s.deviceId ∧ s.candidates 9 = [] ∧ s.inflight.take 0 = [] := by decide +kernel
theorem witness_forward : bypassHead false flit0 [] = .whole packet0 [] 1 ∧ routed0.isMine packet0 = false ∧ packet0.hops ≠ 0 ∧
    routed0.isMine (packetOf (flitPayload packet0 0) []) = false ∧ port0.cutReq = none ∧ port0.cutRsp = none := by decide +kernel
theorem witness_deliver :
    headPacket false .request [⟨.request, true, 0, 0, flitPayload { packet0 with dstDev := 0, kind := 1 } 0⟩] = .whole { packet0 with dstDev := 0, kind := 1 } [] 1 ∧
    headPacket false .bypass [⟨.bypass, false, 1, 0, bypassPayload [{ packet0 with dstDev := 0, kind := 8 }]⟩] = .whole { packet0 with dstDev := 0, kind := 8 } [] 1 ∧
    ringed0.ringOf ⟨0, 3⟩ = some 0 ∧ port0.cut .request = none := by decide +kernel
theorem witness_link_commands : (withCmd 0x0404).carries (cmd0 0x0404) 0x0404 .all = true ∧
    ({ withCmd 0x0405 with links := [(3, port0)] } : State).carries (cmd0 0x0405) 0x0405 .package = true ∧
    ({ withCmd 0x0406 with links := [(3, { port0 with mode := .held })] } : State).carries (cmd0 0x0406) 0x0406 .package = true := by decide

theorem witness_bundle :
    let s : State := fabric0.startBundle 0 12
    (s.bundle 0 12).mode = bdTraining ∧ (serviceBundle0.bundle 0 12).mode = bdInService ∧
    7 ≤ tGet 0 (serviceBundle0.bundle 0 12).ctlFails 5 ∧ tGet 0 (serviceBundle0.bundle 0 12).ctlFails 6 + 1 < 8 ∧
    beatFails ⟨1, 0⟩ = true ∧ beatFails ⟨0, 0⟩ = false ∧ serviceBundle0.onBundle 0 12 (.descriptor desc1) = true ∧
    (serviceBundle0.arrive fun i => decide (i = .message desc1)) = some serviceBundle0 := by decide +kernel
theorem witness_guest_bundle : ((({ State.reset with guest := { GuestState.reset with present := true } } : State).startGuestBundles).bundle 0 24).mode = bdTraining := by
  decide
theorem witness_crossing : State.reset.closed.contains (.region 0) = false ∧ State.reset.crossingUp (.region 0) = false ∧
    (let s : State := { fabric0 with closed := [.region 0], reset_ := { fabric0.reset_ with released := [.hubCrossbar] } }
    s.closed.contains (.region 0) = true ∧ s.crossingUp (.region 0) = true) ∧
    (withCmd 0x0611).carries (cmd0 0x0611) 0x0611 .all = true := by decide

theorem witness_guest :
    let s : State := { guest0 with stackCtl := [(1, { StackState.reset with wipeDone := true })], parts := owned.parts }
    s.guest.opened = true ∧ s.guest.waiting = [] ∧ s.guest.responses = [] ∧ 0 < s.guest.hdrCredits ∧ 1 ≤ s.guest.beatCredits ∧
    64 ≤ s.guest.byteBucket ∧ s.stacksUp 0x10000 64 = true ∧ s.allowed s.guest.partition 0x10000 64 = true ∧ s.errorsIn [⟨0x10000, 64⟩] = [] ∧
    s.inWindow guestReq0 (·.read) = true ∧ s.inWindow guestReq0 (·.write) = true ∧ s.inWindow guestReq0 (·.memop) = true ∧
    inCompanion 0x10000 64 = false ∧ (msoUnit 1).isSome = true ∧ guestOpLen 1 1 = 64 := by decide +kernel
theorem witness_guest_closed : State.reset.guest.opened = false ∧ State.reset.guest.responses = [] ∧ State.reset.guest.hdrCredits = 0 := by decide
theorem witness_guest_send : (guest0.sendEntry desc1).isSome = true ∧ desc1.relay = false ∧ 0 < guest0.guest.descBucket := by decide +kernel
theorem witness_guest_commands :
    ({ guest0 with fl := { Flapino.reset with current := some (cmd0 0x0711) } } : State).carries (cmd0 0x0711) 0x0711 .package = true ∧
    ({ guest0 with fl := { Flapino.reset with current := some (cmd0 0x0712) } } : State).carries (cmd0 0x0712) 0x0712 .own = true ∧
    ({ guest0 with fl := { Flapino.reset with current := some (cmd0 0x0713) } } : State).carries (cmd0 0x0713) 0x0713 .all = true ∧
    guest0.guest.present = true ∧ (cmd0 0x0712).part = guest0.guest.partition := by decide

theorem witness_shared : shared0.inShared 0x4000040 64 = true ∧ shared0.errorsIn [⟨0x4000040, 64⟩] = [] ∧ shared0.bursts = [] ∧ State.reset.inShared 0x40 64 = false ∧ shared0.lineState 0x4000040 = none ∧
    sharedM0.lineState 0x4000040 = some .m ∧ sharedM0.inShared 0x4000040 64 = true ∧ sharedM0.scl.snoops = [] := by decide
theorem witness_companion_answers : waits0.scl.reqs.find? (isRead 0 3) = some (companionReq0 []) ∧ waits0.fl.exports = [] ∧
    (companionReq0 []).use = .ld b00 ∧ (⟨0, 3, .ok, [1, 2, 3, 4, 5, 6, 7, 8]⟩ : RdDataMsg).data.length = (companionReq0 []).len := by decide
theorem witness_remount : (let u := sclUp0.takeFlitAck sclLink ⟨false, 0, false⟩
    u.scl.remountTx = none ∧ (u.link sclLink).isUp = true ∧ (u.link sclLink).trainedLanes.getLsbD 16 = true ∧
    (u.link sclLink).trainedLanes.getLsbD 31 = false) ∧
    (let v := remounting0.takeFlitAck sclLink ⟨false, 0, false⟩
    v.scl.remountTx.isSome = true ∧ v.scl.remountRx.isSome = true ∧ (v.link sclLink).isUp = true) ∧
    (remount0 .tx).accepted = false ∧ (remount0 .tx).attempts < 8 := by decide
theorem witness_lane_window : let x := hotLane0.link sclLink
    hotLane0.scl.widthRx.toNat = 16 ∧ 3 ≤ tGet 0 (overLanes x [20000]) (laneAt hotLane0.scl.mapRx 0) ∧
    (∀ i : Fin 16, i ≠ 0 → tGet 0 (overLanes x [20000]) (laneAt hotLane0.scl.mapRx i) < 3) ∧
    x.cfg.autoExclude = true ∧ x.excluded = 0 ∧ x.changing = false ∧ hotLane0.scl.remountRx = none ∧ x.isUp = true ∧
    spareLanes (x.trainedLanes &&& ~~~(putBit x.excluded 0 true)) hotLane0.scl.mapRx 16 ≠ [] ∧ laneAt hotLane0.scl.mapRx 0 = 0 ∧
    ∀ i : Fin 16, tGet 0 (overLanes x [5]) (laneAt hotLane0.scl.mapRx i) < 3 := by decide

theorem witness_session : State.reset.scl.mode = .none ∧ heldSession0.scl.mode = .held ∧ heldSession0.scl.heldByHeartbeat = true ∧
    (heldSession0.link sclLink).isUp = true ∧ attached0.scl.mode = .attached ∧ (attached0.link sclLink).replayBuf = [] ∧
    (attached0.link sclLink).txResponse = [] ∧ attached0.scl.heartbeatMs ≠ 0 := by decide
theorem witness_boot_image : boot4.reset_.active = true ∧ boot4.reset_.bootStage = 0x04 ∧ boot4.reset_.strap.getLsbD 3 = false := by decide
theorem witness_scl_commands : (sclCmd 0x0411).carries (cmd0 0x0411) 0x0411 .package = true ∧ (sclCmd 0x0412).carries (cmd0 0x0412) 0x0412 .all = true ∧
    (sclCmd 0x0411).scl.width .tx = 16 ∧ ((sclCmd 0x0411).spareLanesOf .tx).head?.isSome = true ∧
    (sclCmd 0x0411).scl.remount .tx = none ∧ ((sclCmd 0x0411).link sclLink).isUp = true := by decide

theorem witness_rings : reading0.partExists 0 = true ∧ headBad ({ (reading0.part 0).cmdRing with tail := countOf 4 } : RingRegs) = false ∧
    headBad ({ (reading0.part 0).cmdRing with tail := countOf 0x1000 } : RingRegs) = true ∧
    headBad ({ (reading0.part 0).cplRing with head := countOf 0 } : RingRegs) = false ∧
    headBad ({ (reading0.part 0).cplRing with head := countOf 1 } : RingRegs) = true ∧
    headBad ({ (reading0.part 0).evtRing with head := countOf 0 } : RingRegs) = false ∧
    headBad ({ (reading0.part 0).evtRing with head := countOf 1 } : RingRegs) = true := by decide
theorem witness_reading : reading0.readsRings = true ∧ reading0.fl.current = none ∧ reading0.turn = some 0 ∧
    tooLong (reading0.part 0).cmdRing (cmd0 0x0903).hdr.units.toNat = false ∧ tooLong (reading0.part 0).cmdRing 64 = true ∧
    (cmd0 0x0903).hdr.seqOk = true ∧ (cmd0 0x0903).hdr.crcOk = true ∧ reading0.bgFull 0 0x0903 = false ∧
    (rereading0 3).ringReady 0 = true ∧ (rereading0 64).ringReady 0 = true ∧ (rereading0 3).readsRings = true := by decide
theorem witness_record_acks : listedOpcodes.contains 0x0AFF = false ∧ (withCmd 0x0AFF).fl.current = some (cmd0 0x0AFF) ∧
    recorded0.scl.mode = .attached ∧ (recorded0.part 0).records.length = 1 ∧ recorded0.reset_.pendingReset = none ∧ (recorded0.part 0).errs.any (·.writing) = true ∧
    (recorded0.part 0).mbox = [] := by decide

theorem witness_events : (eventful0 evHitch).events ≠ [] ∧ eventClass evHitch ≠ clsCrimson ∧ (eventful0 evHitch).generalUsed < 928 ∧
    eventClass evUpdateFailed = clsCrimson ∧ ((eventful0 evUpdateFailed).part 0).mode = pRunning ∧
    (∃ c, (eventClass c = clsGrey ∨ eventClass c = clsAmber) ∧ ({ Partition.reset with mask := [c] } : Partition).mask.contains c = true) :=
  ⟨by decide, by decide, by decide, by decide, by decide, ⟨evHitch, by decide⟩⟩
theorem witness_completions : (collectOrder collecting0.collectNext).find? (fun q => !(collecting0.region q).fifo.isEmpty) = some 2 ∧
    16 ≤ (pending0 16 pRunning).pendingCpl.length ∧ (pending0 1 pFailed).pendingCpl ≠ [] ∧ (pending0 1 pFailed).mode ≠ pRunning ∧
    (pending0 0 pRunning).pendingCpl = [] ∧ ({ Partition.reset with held := true } : Partition).held = true := by decide
theorem witness_interference : reporting0.partExists 0 = true ∧ (reporting0.part 0).report.intervalMs ≠ 0 ∧ reporting0.faults.status.getLsbD 4 = false := by decide

theorem witness_draft_partitions : (staging 0x0101).acceptsDraft (cmd0 0x0101) 0x0101 .package (.partCreate create3) = true ∧
    drained3.acceptsDraft (cmd0 0x0102) 0x0102 .package (.partDestroy 3) = true ∧
    (draining3 0x0103).acceptsDraft (cmd0 0x0103) 0x0103 .package (.partQuads 3 2) = true ∧
    (staging 0x0104).acceptsDraft (cmd0 0x0104) 0x0104 .package (.partMem ⟨0, [(0, 1)], []⟩) = true ∧
    (staging 0x0105).acceptsDraft (cmd0 0x0105) 0x0105 .own (.partCheckMode 2) = true ∧
    (companion0 0x010E).acceptsDraft (cmd0 0x010E) 0x010E .own (.reportSet ⟨1000, 0x800000000000, 0, []⟩) = true := by decide +kernel
theorem witness_draft_stages : (emptyStage 0x0201).acceptsDraft (cmd0 0x0201) 0x0201 (.names 0) (.stageSet stageP0) = true ∧
    (staging 0x0202).acceptsDraft (cmd0 0x0202) 0x0202 ((staging 0x0202).stageScope 5) (.stageClear 5) = true ∧
    (staging 0x0230).acceptsDraft (cmd0 0x0230) 0x0230 (.names 0) (.queueConfig ⟨0, 0, List.replicate 128 16, 0, 20, 100⟩) = true := by decide +kernel
theorem witness_draft_collectives :
    (staging 0x0240).acceptsDraft (cmd0 0x0240) 0x0240 .own (.collGroupSet 0 0x90 1) = true ∧
    (staging 0x0241).acceptsDraft (cmd0 0x0241) 0x0241 (.names 0) (.collPlanSet 2 plan0) = true ∧
    (staging 0x0242).acceptsDraft (cmd0 0x0242) 0x0242 ((staging 0x0242).planScope 2) (.collPlanClear 2) = true ∧
    (grouped 0x0243).acceptsDraft (cmd0 0x0243) 0x0243 .own (.collJobSet 1 0 0x5000 1000) = true := by decide +kernel
theorem witness_draft_updates : (tasked 0x0250).acceptsDraft (cmd0 0x0250) 0x0250 (.names 0) (.updTaskSet 0 3 { task0 with plan := 2, momA := 0x2000, momB := 0x2800 }) = true ∧
    (staging 0x0251).acceptsDraft (cmd0 0x0251) 0x0251 ((staging 0x0251).taskScope 0 3) (.updTaskClear 0 3) = true ∧
    (staging 0x0252).acceptsDraft (cmd0 0x0252) 0x0252 .own (.updParamSet 0 1 paramWords0) = true ∧
    (staging 0x0253).acceptsDraft (cmd0 0x0253) 0x0253 .own (.updSchedSet 0 0 [⟨0, 0, 0, 10, 0⟩]) = true ∧
    (staging 0x0301).acceptsDraft (cmd0 0x0301) 0x0301 (.names 0) (.memClassSet 0 0 0 true) = false ∧
    drainedOwn.acceptsDraft (cmd0 0x0301) 0x0301 (.names 0) (.memClassSet 0 0 0 true) = true := by decide +kernel
theorem witness_draft_links :
    (staging 0x0401).acceptsDraft (cmd0 0x0401) 0x0401 .package (.linkConfig ⟨1, 10, 0xFF, 16, 20, true, true⟩) = true ∧
    (staging 0x0402).acceptsDraft (cmd0 0x0402) 0x0402 .package (.linkRouteSet 0 1 0x6000) = true ∧
    (staging 0x0403).acceptsDraft (cmd0 0x0403) 0x0403 .package (.linkIdSet 3 16) = true ∧
    (staging 0x0410).acceptsDraft (cmd0 0x0410) 0x0410 .package (.sclConfig ⟨0, 100, 16, 20, true, 0, false⟩) = true := by decide +kernel
theorem witness_draft_others : (staging 0x0602).acceptsDraft (cmd0 0x0602) 0x0602 .own (.eventMaskSet [evHitch]) = true ∧
    (staging 0x0604).acceptsDraft (cmd0 0x0604) 0x0604 .package (.powerLimitSet ⟨1000, false, 0, 1000⟩) = true ∧
    (withGuest 0x0710).acceptsDraft (cmd0 0x0710) 0x0710 .package (.guestFwSet ⟨true, 0, [], [], ⟨1, 64, 1⟩⟩) = true ∧
    (staging 0x0801).acceptsDraft (cmd0 0x0801) 0x0801 (.names 0) (.exportSet ⟨0, .none, 0, 0, 0, 0, 0, false⟩) = true ∧
    (staging 0x0905).acceptsDraft (cmd0 0x0905) 0x0905 .own (.batchSet ⟨0x1000, 2, 8, 1, 100, 1000, 16, 16, 0⟩) = true := by decide +kernel

theorem witness_draft_refusals : [0x0101, 0x0102, 0x0103, 0x0104, 0x0401, 0x0403, 0x0410, 0x0604, 0x0710].all
      (fun op => (staging op).carries (cmd0 op) op .package) = true ∧
    [0x0105, 0x010E, 0x0240, 0x0602, 0x0905, 0x0501, 0x0503, 0x0504].all (fun op => (staging op).carries (cmd0 op) op .own) = true ∧
    [0x0201, 0x0230, 0x0241, 0x0250, 0x0301].all (fun op => (staging op).carries (cmd0 op) op (.names 0)) = true := by decide
theorem witness_refused_objects : ((existing3 0x0101).draftMet (cmd0 0x0101) (.partCreate create3)).partExists 3 = true ∧
    (((existing3 0x0102).draftMet (cmd0 0x0102) (.partDestroy 3)).part 3).mode = pRunning ∧ (staging 0x0710).guest.present = false ∧
    eventClass evBlockFenced = clsUmber ∧ (existing3 0x0101).carries (cmd0 0x0101) 0x0101 .package = true := by decide +kernel
theorem witness_draft_checks : (staging 0x0501).taken.conflicts ((staging 0x0501).part 0).draft = [] ∧
    ((badDraft 0x0501).taken.conflicts ((badDraft 0x0501).part 0).draft).length = 1 ∧
    draftBig (putDraft ((fullDraft 0x0403).part 0).draft (draftedAs (cmd0 0x0403) 0x0403 .package (.linkIdSet 3 16))) = true ∧
    (fullDraft 0x0403).carries (cmd0 0x0403) 0x0403 .package = true := by decide +kernel

theorem witness_cinch : (staging 0x0502).cinchWaits = false ∧ ({ staging 0x0502 with fl := { (staging 0x0502).fl with
      waitingCinch := [⟨0, (cmd0 0x0502).hdr, 0⟩] } } : State).cinchWaits = true ∧
    staleHdr (cmd0 0x0502).hdr.epoch ((staging 0x0502).part 0).epoch = false ∧ staleHdr 1 ((epochTwo 0x0502).part 0).epoch = true ∧
    ((badDraft 0x0502).taken.conflicts ((badDraft 0x0502).part 0).draft).length = 1 ∧ (badDraft 0x0502).cinchWaits = false ∧
    (goodDraft 0x0502).taken.conflicts ((goodDraft 0x0502).part 0).draft = [] ∧ ((goodDraft 0x0502).part 0).draft ≠ [] := by decide +kernel
theorem witness_cut_start : startingCut.fl.cut = none ∧ startingCut.flapinoUp = true ∧ startingCut.preparing (startingCut.part 0).draft ≠ [] ∧
    startingCut.fl.fw = .idle ∧ ({ startingCut with fl := { startingCut.fl with waitingCinch := [] } } : State).conflicts (startingCut.part 0).draft = [] ∧
    staleHdr (cmd0 0x0502).hdr.epoch (startingCut.part 0).epoch = false := by decide +kernel
theorem witness_cut : (cut0 [.telemetry] [] []).prepared.contains .telemetry = true ∧ (cut0 [.telemetry] [] []).prepared.filter (fun j => j != .telemetry) = [] ∧
    (cut0 [.telemetry, .control] [] []).prepared.filter (fun j => j != .telemetry) ≠ [] ∧ (cut0 [] [.block b00] [.block b00]).unswitched.contains (.block b00) = true ∧
    (cut0 [] [.block b00] [.block b00]).unswitched.contains .hubCrossbar = false ∧ (cut0 [] [] [.control]).unacked.filter (fun j => j != .control) = [] ∧
    (cut0 [] [] [.control, .telemetry]).unacked.filter (fun j => j != .control) ≠ [] ∧ (cutting0 (cut0 [] [] [])).fl.cut = some (cut0 [] [] []) := by decide

theorem witness_program : ((inMode 0x010B pCreated).carries (cmd0 0x010B) 0x010B .own && (inMode 0x010B pCreated).allowed 0 0x1000 32
      && !inCompanion 0x1000 32 && ((inMode 0x010B pCreated).part 0).mode == pCreated && ((inMode 0x010B pCreated).maskBlocks 0 1).contains b00
      && !((inMode 0x010B pCreated).block b00).fenced) = true ∧
    ((parking 0x010C).carries (cmd0 0x010C) 0x010C .own && (parking 0x010C).partHas 0 b00 && ((parking 0x010C).block b00).core == .parked) = true ∧
    ((parking 0x010C).owner b00 == some 0 && (parking 0x010C).flapinoUp && ((parking 0x010C).block b00).lastStatus == stStaleConfig
      && ((parking 0x010C).block b00).pc == ((parking 0x010C).block b00).ghdrPc && ((parking 0x010C).part 0).mode == pRunning) = true := by decide +kernel
theorem witness_drain : ((inMode opPartDrain pRunning).carries (cmd0 opPartDrain) opPartDrain .own && ((inMode opPartDrain pRunning).partBlocks 0).contains b00
      && ((inMode opPartDrain pRunning).block b00).core == .inGroup && ((inMode opPartDrain pRunning).block b00).group.isSome
      && ((inMode opPartDrain pRunning).part 0).mode == pRunning) = true ∧
    (timingOut.part 0).mode = pDraining ∧ (timingOut.part 0).drainTimeout = true ∧ (timingOut.block b00).group.isSome = true ∧
    drainedNow.isDrained 0 = true ∧ (drainedNow.part 0).mode = pDraining ∧ drainedNow.bgOf 0 opPartDrain = some (cmd0 opPartDrain) := by decide +kernel
theorem witness_partition_commands : (inMode 0x0107 pDrained).carries (cmd0 0x0107) 0x0107 .own = true ∧ ((inMode 0x0107 pDrained).part 0).mode = pDrained ∧
    (inMode 0x0108 pRunning).carries (cmd0 0x0108) 0x0108 .own = true ∧ (inMode 0x0109 pRunning).carries (cmd0 0x0109) 0x0109 .own = true ∧
    (inMode opPartReset pDrained).carries (cmd0 opPartReset) opPartReset .own = true ∧ ((inMode opPartReset pDrained).part 0).mode = pDrained ∧
    (inMode opRegionReset pDrained).carries (cmd0 opRegionReset) opRegionReset .package = true ∧
    ((inMode opRegionReset pDrained).region 0).upd.run = none ∧ ((inMode opRegionReset pDrained).region 0).upd.queue = [] ∧
    ((inMode opRegionReset pDrained).partsOfRegion 0).all (fun k => ((inMode opRegionReset pDrained).part k).mode != pRunning &&
      ((inMode opRegionReset pDrained).part k).mode != pDraining) = true := by decide +kernel

theorem witness_sequences : (sequenced 0x0901).carries (cmd0 0x0901) 0x0901 .own = true ∧
    ((sequenced 0x0901).part 0).hasStacked 0x2000 (8 * 2) = true ∧ (List.range 2).find? (fun j => !(sequenced 0x0901).seqUsed 0 j) = some 1 ∧
    ((sequenced 0x0901).part 0).seqCount = 2 ∧ ((sequenced 0x0901).part 0).batch = none ∧ (sequenced 0x0902).seqUsed 0 0 = true ∧
    (sequenced 0x0902).carries (cmd0 0x0902) 0x0902 .own = true ∧ (sequenced 0x0903).carries (cmd0 0x0903) 0x0903 .own = true ∧
    (sequenced 0x0904).carries (cmd0 0x0904) 0x0904 .own = true := by decide +kernel
theorem witness_lists : (batching 0x0906).carries (cmd0 0x0906) 0x0906 .own = true ∧ ((batching 0x0906).part 0).batch.isSome = true ∧
    (sequenced 0x0907).carries (cmd0 0x0907) 0x0907 .own = true ∧ (sequenced 0x0302).carries (cmd0 0x0302) 0x0302 .package = true ∧
    (sequenced 0x0303).carries (cmd0 0x0303) 0x0303 .all = true := by decide
theorem witness_wipe : wiping7.reset_.active = true ∧ wiping7.reset_.bootStage = 0x07 ∧ wiping7.reset_.released.contains (.memSide 11) = true ∧
    (wiping7.stack 11).wipeDone = false ∧ (104 : BitVec 8).toInt < 105 ∧ (96 : BitVec 8).toInt > 95 := by decide

theorem witness_resets : State.reset.reset_.busy = true ∧ State.reset.reset_.kind = .powerOn ∧ (withCmd 0).reset_.active = false ∧
    (withCmd 0).reset_.busy = false ∧ State.reset.reset_.bootStage = 0 ∧ State.reset.reset_.tripped = false ∧ preserving0.reset_.busy = true ∧
    preserving0.reset_.kind = .warmPreserve := by decide
theorem witness_releases : (bootAt 0x03 []).mayRelease .security = true ∧ (bootAt 0x02 []).mayRelease .telemetry = true ∧
    (bootAt 0x03 [.security, .control, .hubCrossbar, .collector]).mayRelease .sceolink = true ∧ (bootAt 0x06 []).mayRelease (.regionFabric 0) = true ∧
    (bootAt 0x06 []).mayRelease (.memSide 11) = true ∧ (bootAt 0x09 []).mayRelease (.port 0) = true ∧
    ({ bootAt 0x08 [] with regions := [(0, { RegionState.reset with inReset := false })] } : State).mayRelease (.block b00) = true := by decide
theorem witness_boot : (bootAt 0x02 [.telemetry]).reset_.released.contains .telemetry = true ∧ (bootAt 0x0A []).reset_.active = true ∧
    ({ bootAt 0x04 [] with reset_ := { (bootAt 0x04 []).reset_ with strap := 8 } } : State).imageReady = true ∧
    ({ LifeCycle.reset with state := 0 } : LifeCycle).state = 0 ∧ poweredOff.power.domainsOff.getLsbD 68 = true ∧ poweredOff.domainUsed 68 = true := by decide

theorem witness_power : (bootAt 0x03 [.telemetry]).reset_.released.contains .telemetry = true ∧ State.reset.power.telemetryFault = false ∧
    (104 : BitVec 8).toInt < 110 ∧ 103 < (104 : BitVec 8).toInt ∧ 550 < State.reset.power.slewMhz.toNat ∧ (110 : BitVec 8).toInt ≥ 110 ∧
    slewing0.power.slewMhz ≠ slewing0.power.blockMhz ∧ slewing0.power.stretched = false := by decide
theorem witness_dips : (inMode 0 pRunning).power.stretched = false ∧ (inMode 0 pRunning).dipKills b00 = true ∧ stretched0.power.stretched = true := by
  decide +kernel
theorem witness_watchdog : (withCmd 0).reset_.active = false ∧ (withCmd 0).flapinoUp = true ∧ (withCmd 0).fl.fw = .idle ∧
    standby0.fl.standbyHealthy = true ∧ standby0.flapinoUp = true ∧ noStandby0.fl.standbyHealthy = false ∧ noStandby0.power.limit.wdtReset = true ∧
    (withCmd 0x0605).carries (cmd0 0x0605) 0x0605 .all = true := by decide

theorem witness_security : (withCmd 0x0701).carries (cmd0 0x0701) 0x0701 .all = true ∧ (withCmd 0x0701).lc.state = 2 ∧
    (withCmd opLcTransition).carries (cmd0 opLcTransition) opLcTransition .package = true ∧ (withCmd 0x0703).carries (cmd0 0x0703) 0x0703 .package = true ∧
    (withCmd 0x0704).carries (cmd0 0x0704) 0x0704 .package = true ∧ (withCmd 0x0704).lc.transition = false ∧ (withCmd 0x0704).preserveAllowed = true ∧
    (withCmd 0x0704).reset_.pendingReset = none ∧ (withCmd 0x0706).carries (cmd0 0x0706) 0x0706 .all = true := by decide
theorem witness_enrolment : (withCmd opLcTransition).lcRefusal enrol0 = none ∧ ((withCmd opLcTransition).lc.transitionTo enrol0).isSome = true ∧
    (withCmd opLcTransition).lc.ownerKeys.getLsbD enrol0.slot.toNat = false ∧ enrol0.target = 2 ∧ enrol0.action = 1 := by
  refine ⟨?_, by decide, by decide, rfl, rfl⟩
  simp [State.lcRefusal, firstReason, enrol0, State.othersRun, State.parts_, LifeCycle.returns_]
  decide
theorem witness_update : (updatable0.carries (cmd0 opFwUpdate) opFwUpdate .package && updatable0.fl.cut.isNone && updatable0.updateRange 0x1000 0x1000
      && updatable0.fl.standbyHealthy && !updatable0.lc.transition) = true ∧ updatable0.fl.fw = .idle ∧ (updating1 image0).fl.current = none ∧
    (updating1 image0).flapinoUp = true ∧ (updating1 image0).fl.fw = .started (cmd0 opFwUpdate) image0 ∧
    ({ (updating1 image0).fl with fw := .health (cmd0 opFwUpdate) image0 1, standbyHealthy := true } : Flapino).standbyHealthy = true := by decide

theorem witness_scope : (withCmd 0x0104).commandOf (.partMem ⟨0, [], []⟩) = some (0x0104, .package) ∧
    scopeOk { cmd0 0x0104 with part := 1 } .package = false ∧ scopeOk (cmd0 0x0104) .package = true ∧ staleHdr 1 2 = true ∧
    scopeOk { cmd0 0x0107 with part := 1 } (.names 2) = false ∧ (withCmd 0x0104).fl.current = some (cmd0 0x0104) := by decide
theorem witness_stale : (staleCmd 0x0107).fl.current = some (cmdOld 0x0107) ∧ scopeOk (cmdOld 0x0107) .own = true ∧
    staleHdr (cmdOld 0x0107).hdr.epoch ((staleCmd 0x0107).scopeEpoch (cmdOld 0x0107) .own) = true ∧ (staleCmd 0x0502).cinchWaits = false ∧
    staleCut.fl.cut = none ∧ staleCut.flapinoUp = true ∧ staleCut.fl.waitingCinch.length = 1 ∧ staleHdr 1 (staleCut.part 0).epoch = true := by decide
theorem witness_long_data : 1984 < 8 * (List.replicate 249 (0 : Word)).length ∧ (cmd0 0).hdr.resultAddr = 0 ∧
    ({ (cmd0 0).hdr with resultAddr := 64 } : CmdHeader).resultAddr ≠ 0 ∧ (0x04 : BitVec 8).getLsbD 2 = true := by decide +kernel

theorem witness_units : (Instr.wipeComplete 11).unitsExist = true ∧ (Instr.wipeComplete 12).unitsExist = false ∧
    (Instr.patrolScrubBurst 0x6BFFFFFFFF ⟨⟨0, 0⟩, ⟨0, 0⟩, .ok, false⟩).unitsExist = true ∧ (Instr.patrolScrubBurst 0x6C00000000 ⟨⟨0, 0⟩, ⟨0, 0⟩, .ok, false⟩).unitsExist = false := by decide

theorem witness_form : State.reset.Safe ∧ ({ State.reset with mem := [(0x40, 1), (0x41, 2)] } : State).Safe := by
  refine ⟨?_, ?_⟩ <;> (unfold State.Safe; decide)

theorem witness_round_trip : (Instr.li b00 3 7).wellFormed = true ∧ (encodeCommandWord (.li b00 3 7)).isSome = true := by decide

theorem witness_difference : (List.replicate 128 (1 : Byte)).length = 64 * 2 := by decide +kernel

theorem witness_a32 : (a32Add 0 1 0).2 = false ∧ ((a32Read 0).1.add (Dy.ofInt 1 (-46) false)).m ≠ 0 ∧
    ((a32Read 0).1.add (Dy.ofInt 0 (-46) false)).m = 0 ∧ 128 ≤ ((a32Read 0x7F7FFFFF).1.add (Dy.ofInt (2 ^ 46) 81 false)).top := by decide +kernel


/-! ## Ill-formed commands are refused, one for each check -/

theorem test_no_link : (Instr.replayRequest 25 ⟨0, 0, false⟩).wellFormed = false := by decide
theorem test_no_stack : (Instr.classSwitch 12).wellFormed = false := by decide
theorem test_no_port : (Instr.laneErrorWindow 24 []).wellFormed = false := by decide
theorem test_no_bundle : (Instr.controlEntryFail ⟨0, 28⟩ ⟨⟨0, 0⟩, 0⟩).wellFormed = false := by decide
theorem test_no_stacked_address : (Instr.patrolScrubBurst 0x6C00000000 ⟨⟨0, 0⟩, ⟨0, 0⟩, .ok, false⟩).wellFormed = false := by decide
theorem test_no_position : (Instr.startupTestComplete 0 68 true).wellFormed = false := by decide
theorem test_no_domain : (Instr.domainPowerOn 80).wellFormed = false := by decide
theorem test_no_island : (Instr.resetRelease (.memSide 12)).wellFormed = false := by decide
theorem test_not_own_row : (Instr.wrreg b00 1 0x0208).wellFormed = false := by decide
theorem test_no_unit_no_effect : exec (.classSwitch 12) State.reset = .next State.reset := rfl

/-! ## Words put together from Tables 4.2 to 4.8 -/

theorem test_decode_jmp : decodeCommandWord b00 (0x07 + 3 * 2 ^ 8 + 4 * 2 ^ 21 + 32 * 2 ^ 32) = .jmp b00 true true 4 32 := by decide
theorem test_decode_ld : decodeCommandWord b00 (0x04 + 31 * 2 ^ 16 + 1 * 2 ^ 21 + (2 ^ 64 - 8) * 2 ^ 64) = .ld b00 31 1 (-8) := by decide
theorem test_decode_park : decodeCommandWord b00 (0x0B + 0xABCD * 2 ^ 32) = .park b00 0xABCD := by decide
theorem test_decode_relay : decodeCommandWord b00 (0x2A + 1 * 2 ^ 8 + 9 * 2 ^ 21) = .relay b00 9 true := by decide
theorem test_no_table_word : decodeTableWord 32 0 = none := rfl

end Sys2Proof.Tests
end

namespace Sys2Proof.Laws

/-! SUPPORT for O55. Memory keeps its canonical form over every step. Each update of the state is of one of two kinds, and one `@[simp]` lemma per update says which:
it leaves memory as it is (`…_mem`, the most of them), or it writes and keeps the form (`…_wf`, by `memPut_wf`, `memWrite_wf` and the other laws of memory).
A command's lemma (`exec…_keepsForm`) puts those of its updates together; the operations that take a continuation (`core`, `cmd`, `onMsg`, `withReads`, …)
have a lemma that asks the continuation to keep the form. That an address that is not listed reads zero is log 5. -/

open Sys2Proof.Machine

/-! ## Branches and folds -/

theorem wf_of_ite {c : Prop} [Decidable c] {s t : State} (hs : s.mem.wf = true) (ht : t.mem.wf = true) : (if c then s else t).mem.wf = true := by
  split <;> assumption

@[simp] theorem ite_mem (c : Prop) [Decidable c] (s t : State) : (if c then s else t).mem = if c then s.mem else t.mem := apply_ite State.mem c s t
@[simp] theorem ite_wf (c : Prop) [Decidable c] (m n : Memory) : (if c then m else n).wf = if c then m.wf else n.wf := apply_ite Memory.wf c m n
/-- A fold of updates that leave memory as it is leaves memory as it is. -/
@[simp] theorem foldl_mem {α : Type} (f : State → α → State) (l : List α) (s : State) (h : ∀ t a, (f t a).mem = t.mem) :
    (l.foldl f s).mem = s.mem :=
  List.foldlRecOn (motive := fun t => t.mem = s.mem) l f rfl fun t e a _ => (h t a).trans e
/-- The same where the fold carries a value beside the state. -/
@[simp] theorem foldl_fst_mem {α β : Type} (f : State × β → α → State × β) (l : List α) (s : State × β) (h : ∀ t a, (f t a).1.mem = t.1.mem) :
    (l.foldl f s).1.mem = s.1.mem :=
  List.foldlRecOn (motive := fun t => t.1.mem = s.1.mem) l f rfl fun t e a _ => (h t a).trans e
/-- A fold of updates that keep the form keeps the form. -/
@[simp] theorem foldl_wf {α : Type} (f : State → α → State) (l : List α) (s : State) (h : ∀ t a, t.mem.wf = true → (f t a).mem.wf = true)
    (w : s.mem.wf = true) : (l.foldl f s).mem.wf = true :=
  List.foldlRecOn (motive := fun t => t.mem.wf = true) l f w fun t ht a _ => h t a ht
/-- The same where the fold carries a value beside the state. -/
@[simp] theorem foldl_fst_wf {α β : Type} (f : State × β → α → State × β) (l : List α) (s : State × β)
    (h : ∀ t a, t.1.mem.wf = true → (f t a).1.mem.wf = true) (w : s.1.mem.wf = true) : (l.foldl f s).1.mem.wf = true :=
  List.foldlRecOn (motive := fun t => t.1.mem.wf = true) l f w fun t ht a _ => h t a ht
/-- A fold of writes that keep the form keeps the form. -/
theorem foldl_memory_wf {α : Type} (f : Memory → α → Memory) (l : List α) (m : Memory) (h : ∀ n a, n.wf = true → (f n a).wf = true)
    (w : m.wf = true) : (l.foldl f m).wf = true :=
  List.foldlRecOn (motive := fun n => n.wf = true) l f w fun n hn a _ => h n a hn

/-- Whatever next state an outcome answers has memory in its form. -/
def KeepsForm (r : Res) : Prop := ∀ t, r = .next t → t.mem.wf = true

@[simp] theorem keepsForm_next (s : State) : KeepsForm (.next s) ↔ s.mem.wf = true :=
  ⟨fun h => h s rfl, fun h t e => by cases e; exact h⟩
@[simp] theorem keepsForm_ite (c : Prop) [Decidable c] (q r : Res) : KeepsForm (if c then q else r) ↔ if c then KeepsForm q else KeepsForm r := by
  split <;> rfl
@[simp] theorem keepsForm_when (c : Bool) (s t : State) (hs : s.mem.wf = true) (ht : t.mem.wf = true) : KeepsForm (when_ c s t) := by
  simp [when_, hs, ht]
@[simp] theorem keepsForm_whenHere (c : Bool) (s : State) (r : Res) (hs : s.mem.wf = true) (hr : KeepsForm r) : KeepsForm (whenHere c s r) := by
  simp [whenHere, hs, hr]

/-! ## Reports of errors and the guest's answers -/

@[simp] theorem raiseBlock_mem (s : State) (b : BlockId) (code : BitVec 16) (detail : BitVec 88) : (s.raiseBlock b code detail).mem = s.mem := by
  simp [State.raiseBlock]
@[simp] theorem raiseAll_mem (s : State) (ps : List PartId) (code : BitVec 16) (level : BitVec 3) (unit : BitVec 24) (detail : BitVec 88) :
    (s.raiseAll ps code level unit detail).mem = s.mem :=
  foldl_mem _ _ _ fun t a => by simp
@[simp] theorem pumpGuest_mem (s : State) : s.pumpGuest.mem = s.mem := by simp [State.pumpGuest]
@[simp] theorem toGuest_mem (s : State) (r : GuestResponse) : (s.toGuest r).mem = s.mem := by simp [State.toGuest]

/-! ## Operands and packed elements -/

@[simp] theorem writePacked_wf (m : Memory) (base w : Nat) (codes : List Nat) (h : m.wf = true) : (writePacked m base w codes).wf = true :=
  memPutNat_wf _ _ _ _ h
@[simp] theorem writeTensor_wf (m : Memory) (base : Nat) (c : BitVec 4) (n : Nat) (r : Conv) (h : m.wf = true) :
    (writeTensor m base c n r).wf = true :=
  memWrite_wf _ _ _ (writePacked_wf _ _ _ _ h)

/-! ## Bursts: the writers of stacked memory -/

@[simp] theorem countStack_mem (s : State) (a : Nat) (f : StackState → StackState) : (s.countStack a f).mem = s.mem := by simp [State.countStack]
@[simp] theorem raiseStack_mem (s : State) (a : Nat) (code : BitVec 16) (more : BitVec 88) : (s.raiseStack a code more).mem = s.mem := by
  simp [State.raiseStack]
@[simp] theorem cleanBurst_mem (s : State) (a : Nat) : (s.cleanBurst a).mem = s.mem := by simp [State.cleanBurst]
@[simp] theorem burstOk_mem (s : State) (a : Nat) (chk : BurstCheck) : (s.burstOk a chk).mem = s.mem := by
  simp only [State.burstOk]
  split <;> simp
@[simp] theorem burstFails_mem (s : State) (a : Nat) : (s.burstFails a).mem = s.mem := by simp [State.burstFails]
@[simp] theorem readBurst_mem (s : State) (a : Nat) (transient : BurstErr) : (s.readBurst a transient).1.mem = s.mem := by
  simp only [State.readBurst]
  split <;> simp
@[simp] theorem readRanges_mem (s : State) (rs : List Range) : (s.readRanges rs).1.mem = s.mem :=
  foldl_fst_mem _ _ _ fun _ _ => readBurst_mem _ _ _
@[simp] theorem upset_wf (s : State) (a : Nat) (e : BurstErr) (h : s.mem.wf = true) : (s.upset a e).mem.wf = true := by
  simp [State.upset, h, memPutNat_wf]
@[simp] theorem wroteBurst_wf (s : State) (old : Memory) (rs : List Range) (a : Nat) (h : s.mem.wf = true) :
    (s.wroteBurst old rs a).mem.wf = true := by
  simp [State.wroteBurst, h, memWrite_wf]
@[simp] theorem wrote_wf (s : State) (new : Memory) (rs : List Range) (h : new.wf = true) : (s.wrote new rs).mem.wf = true :=
  foldl_wf _ _ _ (fun t a w => wroteBurst_wf t s.mem rs a w) h
@[simp] theorem put_wf (s : State) (a : Nat) (bs : List Byte) (h : s.mem.wf = true) : (s.put a bs).mem.wf = true :=
  wrote_wf s _ _ (memWrite_wf bs s.mem a h)

/-! ## Paths inside the package -/

@[simp] theorem setBundle_mem (s : State) (r : RegionId) (b : Nat) (x : BundleState) : (s.setBundle r b x).mem = s.mem := by simp [State.setBundle]
@[simp] theorem unship_mem (s : State) (p : InFlight → Bool) : (s.unship p).mem = s.mem := by simp [State.unship]
@[simp] theorem onArrival_keepsForm (s : State) (p : InFlight → Bool) (k : State → Res) (h : s.mem.wf = true)
    (hk : ∀ t : State, t.mem.wf = true → KeepsForm (k t)) : KeepsForm (s.onArrival p k) := by
  unfold State.onArrival
  split
  next t e =>
    obtain rfl | ⟨l, -, rfl⟩ := arrive_some s t p e
    · exact hk _ h
    · exact hk _ h
  next => simpa using h

/-! ## What block core commands share -/

@[simp] theorem toScl_mem (s : State) (o : Output) : (s.toScl o).mem = s.mem := by
  simp only [State.toScl]
  split <;> simp
@[simp] theorem sendReq_mem (s : State) (r : CompanionReq) : (s.sendReq r).mem = s.mem := by
  simp only [State.sendReq]
  split <;> simp
@[simp] theorem companionReq_mem (s : State) (stream a n : Nat) (use : CompanionUse) (data : List Byte) :
    (s.companionReq stream a n use data).mem = s.mem := by
  simp [State.companionReq]
@[simp] theorem ucRead_mem (s : State) (stream a n : Nat) (use : CompanionUse) : (s.ucRead stream a n use).mem = s.mem := by simp [State.ucRead]
@[simp] theorem ucWrite_mem (s : State) (b : BlockId) (a : Nat) (data : List Byte) : (s.ucWrite b a data).mem = s.mem := by simp [State.ucWrite]
@[simp] theorem dropReqs_mem (s : State) (p : CompanionUse → Bool) : (s.dropReqs p).mem = s.mem := by simp [State.dropReqs]
@[simp] theorem signBlock_mem (s : State) (b : BlockId) (e : Nat) (bs : List Byte) : (s.signBlock b e bs).mem = s.mem := by
  simp only [State.signBlock]
  split <;> simp
@[simp] theorem store_wf (s : State) (b : BlockId) (e : Nat) (a : Nat) (bs : List Byte) (h : s.mem.wf = true) : (s.store b e a bs).mem.wf = true := by
  simp [State.store, h]
@[simp] theorem park_mem (s : State) (b : BlockId) (code : BitVec 16) : (s.park b code).mem = s.mem := by simp [State.park]
@[simp] theorem complete_mem (s : State) (b : BlockId) (checker : Bool) (tag : BitVec 32) (status flags : BitVec 8) :
    (s.complete b checker tag status flags).mem = s.mem := by
  simp [State.complete]
@[simp] theorem keeperWork_mem (s : State) (b : BlockId) : (s.keeperWork b).mem = s.mem := by
  simp only [State.keeperWork]
  split <;> simp
@[simp] theorem dropGroup_mem (s : State) (b : BlockId) : (s.dropGroup b).mem = s.mem := by simp [State.dropGroup]
@[simp] theorem rejectTag_mem (s : State) (b : BlockId) (tag : BitVec 32) : (s.rejectTag b tag).mem = s.mem := by simp [State.rejectTag]
@[simp] theorem reject_mem (s : State) (b : BlockId) : (s.reject b).mem = s.mem := by
  simp only [State.reject]
  split <;> simp
@[simp] theorem refuse_mem (s : State) (b : BlockId) (code : BitVec 16) : (s.refuse b code).mem = s.mem := by simp [State.refuse]
@[simp] theorem refuseAccess_mem (s : State) (b : BlockId) : (s.refuseAccess b).mem = s.mem := by simp [State.refuseAccess]
@[simp] theorem rerun_mem (s : State) (b : BlockId) (p : Snapshot) (f : BlockState → BlockState) : (s.rerun b p f).mem = s.mem := by
  simp [State.rerun]
@[simp] theorem killComplete_mem (s : State) (b : BlockId) (g : Group) (status : BitVec 8) (core : CoreState) :
    (s.killComplete b g status core).mem = s.mem := by
  simp [State.killComplete]
@[simp] theorem reportBlock_mem (s : State) (b : BlockId) : (s.reportBlock b).mem = s.mem := by simp [State.reportBlock]
@[simp] theorem killLost_mem (s : State) (b : BlockId) (g : Group) (raise : State → State) (h : ∀ t, (raise t).mem = t.mem) :
    (s.killLost b g raise).mem = s.mem := by
  simp only [State.killLost]
  split <;> simp [h]
@[simp] theorem killGroup_mem (s : State) (b : BlockId) (cause : KillCause) : (s.killGroup b cause).mem = s.mem := by
  simp only [State.killGroup]
  split
  · rfl
  · split
    case h_5 | h_7 => exact killLost_mem _ _ _ _ fun t => raiseBlock_mem _ _ _ _
    all_goals simp
@[simp] theorem resumeAt_mem (s : State) (b : BlockId) (pc : Addr) : (s.resumeAt b pc).mem = s.mem := by simp [State.resumeAt]
@[simp] theorem abortBlock_mem (s : State) (b : BlockId) : (s.abortBlock b).mem = s.mem := by
  simp only [State.abortBlock]
  split
  · split <;> simp
  · simp
  · split <;> simp
  · simp
  · simp
@[simp] theorem core_keepsForm (s : State) (b : BlockId) (k : State → BlockState → State) (h : s.mem.wf = true)
    (hk : ∀ (t : State) (x : BlockState), t.mem.wf = true → (k t x).mem.wf = true) : KeepsForm (s.core b k) := by
  simp [State.core, h, hk]
@[simp] theorem done_mem (s : State) (b : BlockId) (x : BlockState) : (s.done b x).mem = s.mem := by simp [State.done]

/-! ## Queues, sends and arrivals -/

@[simp] theorem enqueueAt_wf (s : State) (b : BlockId) (q : BitVec 7) (d : Descriptor) (h : s.mem.wf = true) : (s.enqueueAt b q d).mem.wf = true := by
  simp [State.enqueueAt, memWrite_wf, h]
@[simp] theorem enqueue_wf (s : State) (d : Descriptor) (h : s.mem.wf = true) : (s.enqueue d).mem.wf = true := by simp [State.enqueue, h]
@[simp] theorem deliver_wf (s : State) (d : Descriptor) (parityOk : Bool) (h : s.mem.wf = true) : (s.deliver d parityOk).1.mem.wf = true := by
  simp only [State.deliver]
  split <;> simp [h]
@[simp] theorem answer_mem (s : State) (d : Descriptor) (code : BitVec 8) : (s.answer d code).mem = s.mem := by simp [State.answer]
@[simp] theorem execDescriptorArrival_keepsForm (d : Descriptor) (parityOk : Bool) (s : State) (h : s.mem.wf = true) :
    KeepsForm (execDescriptorArrival d parityOk s) := by
  refine keepsForm_whenHere _ _ _ h ?_
  refine onArrival_keepsForm _ _ _ h fun t ht => ?_
  simp [ht]
@[simp] theorem openRelay_mem (s : State) (b : BlockId) (d : Descriptor) : (s.openRelay b d).mem = s.mem := by simp [State.openRelay]
@[simp] theorem transmit_mem (s : State) (b : BlockId) (e : SendEntry) : (s.transmit b e).mem = s.mem := by
  simp only [State.transmit]
  split
  · split <;> simp
  · simp
@[simp] theorem dispatchSends_mem (s : State) (b : BlockId) : (s.dispatchSends b).mem = s.mem := by simp [State.dispatchSends]
@[simp] theorem placeQueued_mem (s : State) (b : BlockId) : (s.placeQueued b).mem = s.mem := by
  simp only [State.placeQueued]
  split <;> simp
@[simp] theorem leave_mem (s : State) (m : MsgRef) : (s.leave m).mem = s.mem := by simp [State.leave]
@[simp] theorem updMsg_mem (s : State) (m : MsgRef) (f : SendEntry → SendEntry) : (s.updMsg m f).mem = s.mem := by simp [State.updMsg]
@[simp] theorem riderLost_mem (s : State) (b : BlockId) (d : Descriptor) : (s.riderLost b d).mem = s.mem := by simp [State.riderLost]
@[simp] theorem endRelay_mem (s : State) (r : RelayTx) : (s.endRelay r).mem = s.mem := by simp [State.endRelay]
@[simp] theorem dropMsg_mem (s : State) (m : MsgRef) (e : SendEntry) (reason : BitVec 8) : (s.dropMsg m e reason).mem = s.mem := by
  simp only [State.dropMsg]
  split <;> simp
@[simp] theorem resendVoid_mem (s : State) (m : MsgRef) (e : SendEntry) : (s.resendVoid m e).mem = s.mem := by simp [State.resendVoid]
@[simp] theorem finalNack_mem (s : State) (m : MsgRef) (e : SendEntry) (reason : BitVec 8) : (s.finalNack m e reason).mem = s.mem := by
  simp [State.finalNack]
@[simp] theorem shipHub_mem (s : State) (h : HubSend) : (s.shipHub h).mem = s.mem := by
  simp only [State.shipHub]
  split <;> simp
@[simp] theorem endSpan_mem (s : State) (p : PartId) (bytes : Nat) (first : BitVec 32) (n : Nat) (ok : Bool) :
    (s.endSpan p bytes first n ok).mem = s.mem := by
  simp only [State.endSpan]
  split <;> simp
@[simp] theorem endHubSend_mem (s : State) (h : HubSend) (code : BitVec 8) : (s.endHubSend h code).mem = s.mem := by
  simp only [State.endHubSend]
  split <;> simp
@[simp] theorem updHub_mem (s : State) (h g : HubSend) : (s.updHub h g).mem = s.mem := by simp [State.updHub]
@[simp] theorem hubAnswer_mem (s : State) (m : MsgRef) (code : BitVec 8) : (s.hubAnswer m code).mem = s.mem := by
  simp only [State.hubAnswer]
  split <;> simp
@[simp] theorem onMsg_keepsForm (s : State) (m : MsgRef) (code : BitVec 8) (k : State → SendEntry → State) (h : s.mem.wf = true)
    (hk : ∀ (t : State) (e : SendEntry), t.mem.wf = true → (k t e).mem.wf = true) : KeepsForm (s.onMsg m code k) := by
  refine onArrival_keepsForm _ _ _ h fun t ht => ?_
  split <;> simp [hk, ht]
@[simp] theorem execAnswerAccept_keepsForm (m : MsgRef) (s : State) (h : s.mem.wf = true) : KeepsForm (execAnswerAccept m s) := by
  refine onMsg_keepsForm _ _ _ _ h fun t e ht => ?_
  split <;> simp [ht]
@[simp] theorem backOff_mem (s : State) (m : MsgRef) (busy : Bool) : (s.backOff m busy).mem = s.mem := by simp [State.backOff]
@[simp] theorem execAnswerNackFull_keepsForm (m : MsgRef) (s : State) (h : s.mem.wf = true) : KeepsForm (execAnswerNackFull m s) := by
  simp [execAnswerNackFull, h]
@[simp] theorem execAnswerNackBusy_keepsForm (m : MsgRef) (s : State) (h : s.mem.wf = true) : KeepsForm (execAnswerNackBusy m s) := by
  simp [execAnswerNackBusy, h]
@[simp] theorem execAnswerNackCrc_keepsForm (m : MsgRef) (s : State) (h : s.mem.wf = true) : KeepsForm (execAnswerNackCrc m s) := by
  refine onMsg_keepsForm _ _ _ _ h fun t e ht => ?_
  split
  · simp [ht]
  · split <;> simp [ht]
@[simp] theorem execAnswerNackStale_keepsForm (m : MsgRef) (s : State) (h : s.mem.wf = true) : KeepsForm (execAnswerNackStale m s) := by
  simp [execAnswerNackStale, h]
@[simp] theorem execAnswerNackGone_keepsForm (m : MsgRef) (s : State) (h : s.mem.wf = true) : KeepsForm (execAnswerNackGone m s) := by
  simp [execAnswerNackGone, h]
@[simp] theorem execBackoffExpiry_keepsForm (m : MsgRef) (s : State) (h : s.mem.wf = true) : KeepsForm (execBackoffExpiry m s) := by
  simp only [execBackoffExpiry]
  split
  · simp [h]
  · split <;> simp [h]
@[simp] theorem execLossLimitExpiry_keepsForm (m : MsgRef) (s : State) (h : s.mem.wf = true) : KeepsForm (execLossLimitExpiry m s) := by
  simp only [execLossLimitExpiry]
  split
  · simp [h]
  · split <;> simp [h]
@[simp] theorem raiseStall_mem (s : State) (b : BlockId) (d : Descriptor) : (s.raiseStall b d).mem = s.mem := by simp [State.raiseStall]
@[simp] theorem execSendStallLimit_keepsForm (m : MsgRef) (s : State) (h : s.mem.wf = true) : KeepsForm (execSendStallLimit m s) := by
  simp only [execSendStallLimit]
  split <;> simp [h]
@[simp] theorem execStallPolicy_keepsForm (s : State) (h : s.mem.wf = true) : KeepsForm (execStallPolicy s) := by
  simp only [execStallPolicy]
  split <;> simp [h]
@[simp] theorem place_mem (s : State) (b : BlockId) (x : BlockState) (d : Descriptor) (isRelay : Bool) : (s.place b x d isRelay).mem = s.mem := by
  simp only [State.place]
  split <;> simp
@[simp] theorem execSend_keepsForm (b : BlockId) (sa : Reg) (byAddr : Bool) (s : State) (h : s.mem.wf = true) :
    KeepsForm (execSend b sa byAddr s) := by
  refine core_keepsForm _ _ _ h fun t x ht => ?_
  split
  · simp [ht]
  · split <;> simp [ht]
@[simp] theorem execRelay_keepsForm (b : BlockId) (sa : Reg) (byAddr : Bool) (s : State) (h : s.mem.wf = true) :
    KeepsForm (execRelay b sa byAddr s) := by
  refine core_keepsForm _ _ _ h fun t x ht => ?_
  split
  · simp [ht]
  · split <;> simp [ht]
@[simp] theorem holdNotice_mem (s : State) (b : BlockId) (q : BitVec 7) (d : Descriptor) : (s.holdNotice b q d).mem = s.mem := by
  simp only [State.holdNotice]
  split <;> simp
@[simp] theorem take_wf (s : State) (b : BlockId) (x : BlockState) (q : BitVec 7) (sd : Reg) (byAddr : Bool) (d : Descriptor)
    (h : s.mem.wf = true) : (s.take b x q sd byAddr d).mem.wf = true := by
  unfold State.take
  extract_lets v x1 x2 s1 s2
  have w1 : s1.mem.wf = true := h
  have w2 : s2.mem.wf = true := by
    unfold s2
    split
    · simp [memWrite_wf, w1]
    · exact w1
  split
  · simpa using w2
  · exact w2
@[simp] theorem execRecv_keepsForm (b : BlockId) (q : BitVec 7) (sd : Reg) (sb : Reg) (nonblock byAddr : Bool) (s : State) (h : s.mem.wf = true) :
    KeepsForm (execRecv b q sd sb nonblock byAddr s) := by
  refine core_keepsForm _ _ _ h fun t x ht => ?_
  split
  · simp [ht]
  · split
    · simp [ht]
    · split
      · simp [ht]
      · split <;> simp [ht]
@[simp] theorem execRecvWake_keepsForm (b : BlockId) (s : State) (h : s.mem.wf = true) : KeepsForm (execRecvWake b s) := by
  simp only [execRecvWake]
  split
  · split <;> simp [h]
  · simp [h]

/-! ## Relays and landings -/

@[simp] theorem settleRing_mem (s : State) (q : QAddr) (r : Ring) : (s.settleRing q r).mem = s.mem := by
  simp only [State.settleRing]
  split
  · exact foldl_mem _ _ _ fun t a => by simp
  · exact foldl_mem _ _ _ fun t a => by simp
@[simp] theorem releaseSegs_mem (s : State) (b : BlockId) (q : BitVec 7) (n : Nat) : (s.releaseSegs b q n).mem = s.mem := by
  simp only [State.releaseSegs]
  split
  · simp
  · split <;> simp
@[simp] theorem relayFails_mem (s : State) (d : Descriptor) : (s.relayFails d).mem = s.mem := by simp [State.relayFails]
@[simp] theorem execRelayOpen_keepsForm (o : RelayOpenMsg) (s : State) (h : s.mem.wf = true) : KeepsForm (execRelayOpen o s) := by
  refine keepsForm_whenHere _ _ _ h ?_
  refine onArrival_keepsForm _ _ _ h fun t ht => ?_
  split <;> simp [ht]
@[simp] theorem retire_mem (s : State) (q : QAddr) (r : Ring) (id : RelayId) : (s.retire q r id).mem = s.mem := by
  simp only [State.retire]
  split <;> simp
@[simp] theorem execRelaySegmentData_keepsForm (q : QAddr) (id : RelayId) (off : BitVec 32) (data : List Byte) (s : State) (h : s.mem.wf = true) :
    KeepsForm (execRelaySegmentData q id off data s) := by
  simp only [execRelaySegmentData]
  split
  · simp [h]
  · split
    · simp [h]
    · split
      · split
        · refine onArrival_keepsForm _ _ _ h fun t ht => ?_
          simp [ht]
        · simp [h]
      · simp [h]
@[simp] theorem execRelayDescriptorDelivery_keepsForm (q : QAddr) (id : RelayId) (s : State) (h : s.mem.wf = true) :
    KeepsForm (execRelayDescriptorDelivery q id s) := by
  simp only [execRelayDescriptorDelivery]
  split
  · simp [h]
  · split <;> simp [h]
@[simp] theorem execLandedUpdate_keepsForm (q : QAddr) (s : State) (h : s.mem.wf = true) : KeepsForm (execLandedUpdate q s) := by
  simp only [execLandedUpdate]
  split <;> simp [h]
@[simp] theorem abandon_mem (s : State) (q : QAddr) (r : Ring) (x : RelayRx) : (s.abandon q r x).mem = s.mem := by simp [State.abandon]
@[simp] theorem execRelayCancel_keepsForm (q : QAddr) (id : RelayId) (s : State) (h : s.mem.wf = true) : KeepsForm (execRelayCancel q id s) := by
  simp only [execRelayCancel]
  split
  · simp [h]
  · split <;> simp [h]
@[simp] theorem execRelaySegmentTimeout_keepsForm (q : QAddr) (id : RelayId) (s : State) (h : s.mem.wf = true) :
    KeepsForm (execRelaySegmentTimeout q id s) := by
  simp only [execRelaySegmentTimeout]
  split
  · simp [h]
  · split <;> simp [h]
@[simp] theorem cancelRelay_mem (s : State) (r : RelayTx) : (s.cancelRelay r).mem = s.mem := by simp [State.cancelRelay]
/-- The list of open relays is beside memory. Stated apart so that the kernel does not unfold the fold over the segments to see it. -/
theorem setRelays_wf (s : State) (l : List RelayTx) (h : s.mem.wf = true) : ({ s with relays := l } : State).mem.wf = true := h
/-- What is put on its way inside the package changes no byte of memory. -/
theorem shipEach_wf {α : Type} (g : State → α → InFlight) (l : List α) (s : State) (h : s.mem.wf = true) :
    (l.foldl (fun t p => t.ship (g t p)) s).mem.wf = true :=
  foldl_wf _ _ _ (fun _ _ w => w) h
@[simp] theorem execLandingCredit_keepsForm (num : BitVec 32) (hit : BurstErr) (s : State) (h : s.mem.wf = true) :
    KeepsForm (execLandingCredit num hit s) := by
  unfold execLandingCredit
  split
  · simpa using h
  · refine onArrival_keepsForm _ _ _ h fun t ht => ?_
    dsimp only
    split
    · simp [ht]
    · split
      · simp [struck_wf, ht]
      · rw [keepsForm_next, ite_mem, endRelay_mem, ite_self]
        exact setRelays_wf _ _ (shipEach_wf _ _ _ (by simp [struck_wf, ht]))

/-! ## Work lists -/

@[simp] theorem setSeq_mem (s : State) (p : PartId) (i : Nat) (e : SeqEntry) : (s.setSeq p i e).mem = s.mem := by simp [State.setSeq]
@[simp] theorem settlePages_mem (s : State) (p : PartId) : (s.settlePages p).mem = s.mem := by
  simp only [State.settlePages]
  split <;> simp
@[simp] theorem returnSeq_mem (s : State) (p : PartId) (i : Nat) (x : BitVec 32) (result : Byte) : (s.returnSeq p i x result).mem = s.mem := by
  simp [State.returnSeq]
@[simp] theorem returnList_mem (s : State) (b : BlockId) (slot : Nat) : (s.returnList b slot).mem = s.mem := by
  simp only [State.returnList]
  split
  · simp
  · split <;> simp
@[simp] theorem execWorklistBuild_keepsForm (p : PartId) (s : State) (h : s.mem.wf = true) : KeepsForm (execWorklistBuild p s) := by
  unfold execWorklistBuild
  split
  · simpa using h
  · split
    · simpa using h
    · refine keepsForm_when _ _ _ h ?_
      extract_lets x es s1 l bs s2 _ s3
      have w1 : s1.mem.wf = true := foldl_wf _ _ _ (fun _ _ w => w) h
      have w3 : s3.mem.wf = true := put_wf _ _ _ w1
      exact enqueue_wf _ _ w3
@[simp] theorem execBatchDeadlineExpiry_keepsForm (p : PartId) (s : State) (h : s.mem.wf = true) : KeepsForm (execBatchDeadlineExpiry p s) := by
  simp only [execBatchDeadlineExpiry]
  split <;> simp [h]

/-! ## Block core commands -/

@[simp] theorem postPlan_mem (s : State) (b : BlockId) (v : Word) : (s.postPlan b v).mem = s.mem := by simp [State.postPlan]
@[simp] theorem writeReg_mem (s : State) (b : BlockId) (off : BitVec 16) (v : Word) : (s.writeReg b off v).mem = s.mem := by simp [State.writeReg]
@[simp] theorem wrreg_mem (s : State) (b : BlockId) (x : BlockState) (sa : Reg) (off : BitVec 16) : (s.wrreg b x sa off).mem = s.mem := by
  simp [State.wrreg]
@[simp] theorem execNop_keepsForm (b : BlockId) (s : State) (h : s.mem.wf = true) : KeepsForm (execNop b s) :=
  core_keepsForm _ _ _ h fun t x ht => by simp [ht]
@[simp] theorem execLi_keepsForm (b : BlockId) (sd : Reg) (imm : Word) (s : State) (h : s.mem.wf = true) : KeepsForm (execLi b sd imm s) :=
  core_keepsForm _ _ _ h fun t x ht => by simp [ht]
@[simp] theorem alu_mem (s : State) (b : BlockId) (x : BlockState) (op : BitVec 4) (sd : Reg) (u v : Word) : (s.alu b x op sd u v).mem = s.mem := by
  simp only [State.alu]
  split <;> simp
@[simp] theorem execAlu_keepsForm (b : BlockId) (op : BitVec 4) (sd sa sb : Reg) (s : State) (h : s.mem.wf = true) :
    KeepsForm (execAlu b op sd sa sb s) := by
  simp [execAlu, h]
@[simp] theorem execAlui_keepsForm (b : BlockId) (op : BitVec 4) (sd sa : Reg) (imm : Word) (s : State) (h : s.mem.wf = true) :
    KeepsForm (execAlui b op sd sa imm s) := by
  simp [execAlui, h]
@[simp] theorem execBr_keepsForm (b : BlockId) (cond : BitVec 3) (sa sb : Reg) (offset : BitVec 32) (s : State) (h : s.mem.wf = true) :
    KeepsForm (execBr b cond sa sb offset s) := by
  refine core_keepsForm _ _ _ h fun t x ht => ?_
  split <;> simp [ht]
@[simp] theorem execJmp_keepsForm (b : BlockId) (call indirect : Bool) (sa : Reg) (offset : BitVec 32) (s : State) (h : s.mem.wf = true) :
    KeepsForm (execJmp b call indirect sa offset s) := by
  simp [execJmp, h]
@[simp] theorem execLoop_keepsForm (b : BlockId) (sd : Reg) (offset : BitVec 32) (s : State) (h : s.mem.wf = true) :
    KeepsForm (execLoop b sd offset s) := by
  simp [execLoop, h]
@[simp] theorem execRdreg_keepsForm (b : BlockId) (sd : Reg) (reg : BitVec 16) (s : State) (h : s.mem.wf = true) : KeepsForm (execRdreg b sd reg s) :=
  core_keepsForm _ _ _ h fun t x ht => by simp [ht]
@[simp] theorem execWrreg_keepsForm (b : BlockId) (sa : Reg) (reg : BitVec 16) (s : State) (h : s.mem.wf = true) :
    KeepsForm (execWrreg b sa reg s) := by
  simp [execWrreg, h]
@[simp] theorem execBlkSrSeedWrite_keepsForm (b : BlockId) (sa : Reg) (s : State) (h : s.mem.wf = true) : KeepsForm (execBlkSrSeedWrite b sa s) := by
  simp [execBlkSrSeedWrite, h]
@[simp] theorem execBlkLrReleaseWrite_keepsForm (b : BlockId) (sa : Reg) (s : State) (h : s.mem.wf = true) :
    KeepsForm (execBlkLrReleaseWrite b sa s) := by
  simp [execBlkLrReleaseWrite, h]
@[simp] theorem execBlkCollPostWrite_keepsForm (b : BlockId) (sa : Reg) (s : State) (h : s.mem.wf = true) :
    KeepsForm (execBlkCollPostWrite b sa s) := by
  simp [execBlkCollPostWrite, h]
@[simp] theorem execBlkWlDoneWrite_keepsForm (b : BlockId) (sa : Reg) (s : State) (h : s.mem.wf = true) : KeepsForm (execBlkWlDoneWrite b sa s) := by
  simp [execBlkWlDoneWrite, h]
@[simp] theorem execPark_keepsForm (b : BlockId) (code : BitVec 16) (s : State) (h : s.mem.wf = true) : KeepsForm (execPark b code s) := by
  simp [execPark, h]
@[simp] theorem execUnlistedCommand_keepsForm (b : BlockId) (s : State) (h : s.mem.wf = true) : KeepsForm (execUnlistedCommand b s) := by
  simp [execUnlistedCommand, h]
@[simp] theorem execLd_keepsForm (b : BlockId) (sd sa : Reg) (imm : Word) (s : State) (h : s.mem.wf = true) : KeepsForm (execLd b sd sa imm s) := by
  simp [execLd, h]
@[simp] theorem ldError_mem (s : State) (b : BlockId) (a : Nat) (classA : Bool) : (s.ldError b a classA).mem = s.mem := by
  simp only [State.ldError]
  split <;> simp
@[simp] theorem ldFails_mem (s : State) (b : BlockId) (a : Nat) : (s.ldFails b a).mem = s.mem := by simp [State.ldFails]
@[simp] theorem execLdDataReturn_keepsForm (b : BlockId) (hit : BurstErr) (s : State) (h : s.mem.wf = true) :
    KeepsForm (execLdDataReturn b hit s) := by
  simp only [execLdDataReturn]
  split
  · split
    · simp [h]
    · split <;> simp [struck_wf, h]
  · simp [h]
@[simp] theorem execSt_keepsForm (b : BlockId) (sa sb : Reg) (imm : Word) (s : State) (h : s.mem.wf = true) : KeepsForm (execSt b sa sb imm s) :=
  core_keepsForm _ _ _ h fun t x ht => by simp [ht]
@[simp] theorem execWait_keepsForm (b : BlockId) (mask : BitVec 4) (s : State) (h : s.mem.wf = true) : KeepsForm (execWait b mask s) := by
  simp [execWait, h]
@[simp] theorem execCommandFetchReturn_keepsForm (b : BlockId) (hit : BurstErr) (s : State) (h : s.mem.wf = true) :
    KeepsForm (execCommandFetchReturn b hit s) := by
  refine keepsForm_whenHere _ _ _ h ?_
  dsimp only
  split
  · simp [h]
  · split <;> simp [struck_wf, h]

/-! ## Groups: commit, kill, completion -/

@[simp] theorem execGhdr_keepsForm (b : BlockId) (sa : Reg) (n : BitVec 6) (tag : BitVec 32) (riderEn : Bool) (sb : Reg) (s : State) (h : s.mem.wf = true) :
    KeepsForm (execGhdr b sa n tag riderEn sb s) := by
  refine core_keepsForm _ _ _ h fun t x ht => ?_
  split
  · simp [ht]
  · split
    · split <;> simp [ht]
    · simp [ht]
@[simp] theorem execCommit_keepsForm (b : BlockId) (quiet : Bool) (s : State) (h : s.mem.wf = true) : KeepsForm (execCommit b quiet s) := by
  simp [execCommit, h]
@[simp] theorem rbRewrite_wf (m : Memory) (b : BlockId) (x : BlockState) (i : Nat) (o : Bool) (rider : Option (BitVec 32)) (h : m.wf = true) :
    (rbRewrite m b x i o rider).wf = true := by
  simp only [rbRewrite]
  split
  · exact h
  · split
    · exact memWrite_wf _ _ _ h
    · exact memPutNat_wf _ _ _ _ (memPutNat_wf _ _ _ _ (memWrite_wf _ _ _ h))
@[simp] theorem flips_wf (s : State) (b : BlockId) (g : Group) (h : s.mem.wf = true) : (s.flips b g).mem.wf = true := by
  simp only [State.flips]
  split
  · simp [h]
  · exact foldl_wf _ _ _ (fun t a ht => by simp [ht]) (by simp [h])
@[simp] theorem heldWrites_mem (s : State) (b : BlockId) (g : Group) : (s.heldWrites b g).mem = s.mem := by simp [State.heldWrites]
@[simp] theorem heldPosts_mem (s : State) (b : BlockId) (g : Group) : (s.heldPosts b g).mem = s.mem := by simp [State.heldPosts]
@[simp] theorem removals_mem (s : State) (b : BlockId) (g : Group) (notify : Bool) : (s.removals b g notify).mem = s.mem := by
  refine foldl_mem _ _ _ fun t q => ?_
  dsimp only
  split
  · split <;> simp
  · rfl
@[simp] theorem mergeOwn_wf (m : Memory) (b : BlockId) (g : Group) (h : m.wf = true) : (mergeOwn m b g).wf = true := by
  unfold mergeOwn
  split
  · exact h
  · refine foldl_memory_wf _ _ _ (fun t e w => ?_) h
    split
    · exact memPutNat_wf _ _ _ _ w
    · exact w
@[simp] theorem releaseNotice_mem (s : State) (b : BlockId) (d : Descriptor) : (s.releaseNotice b d).mem = s.mem := by
  simp only [State.releaseNotice]
  split <;> simp
@[simp] theorem releaseOne_mem (s : State) (b : BlockId) (seen : List SendEntry) (e : SendEntry) : (s.releaseOne b seen e).1.mem = s.mem := by
  simp only [State.releaseOne]
  split <;> simp
@[simp] theorem releaseHeld_mem (s : State) (b : BlockId) : (s.releaseHeld b).mem = s.mem := by
  simp only [State.releaseHeld, dispatchSends_mem, State.setBlock_mem]
  exact foldl_fst_mem _ _ _ fun t e => releaseOne_mem _ _ _ _
@[simp] theorem handOff_mem (s : State) (b : BlockId) (g : Group) : (s.handOff b g).mem = s.mem := by simp [State.handOff]
@[simp] theorem readback_mem (s : State) (b : BlockId) (use : CompanionUse) : (s.readback b use).mem = s.mem := by simp [State.readback]
@[simp] theorem pendCompletion_mem (s : State) (b : BlockId) (g : Group) : (s.pendCompletion b g).mem = s.mem := by simp [State.pendCompletion]
@[simp] theorem rerunEvent_mem (s : State) (b : BlockId) (x : BlockState) (tag : BitVec 32) : (s.rerunEvent b x tag).mem = s.mem := by
  simp only [State.rerunEvent]
  split <;> simp
@[simp] theorem commitFull_wf (s : State) (b : BlockId) (g : Group) (cycles : Word) (h : s.mem.wf = true) :
    (s.commitFull b g cycles).mem.wf = true := by
  simp [State.commitFull, h]
@[simp] theorem commitChecker_wf (s : State) (b : BlockId) (g : Group) (cycles : Word) (h : s.mem.wf = true) :
    (s.commitChecker b g cycles).mem.wf = true := by
  simp [State.commitChecker, h]
@[simp] theorem staleGroup_mem (s : State) (b : BlockId) : (s.staleGroup b).mem = s.mem := by
  simp only [State.staleGroup]
  split <;> simp
@[simp] theorem killPair_mem (s : State) (b : BlockId) (cause : KillCause) : (s.killPair b cause).mem = s.mem := by simp [State.killPair]
@[simp] theorem execGroupCommit_keepsForm (b : BlockId) (cycles : Word) (s : State) (h : s.mem.wf = true) :
    KeepsForm (execGroupCommit b cycles s) := by
  unfold execGroupCommit
  extract_lets pair
  split
  next => simpa using h
  next g _ =>
    refine keepsForm_when _ _ _ h ?_
    split
    · simp [h]
    · split
      · have w := commitFull_wf s b g cycles h
        split
        · exact commitChecker_wf _ _ _ _ w
        · exact w
      · split <;> simp [h]
@[simp] theorem execGroupCompletionPost_keepsForm (b : BlockId) (s : State) (h : s.mem.wf = true) : KeepsForm (execGroupCompletionPost b s) := by
  simp only [execGroupCompletionPost]
  split <;> simp [h]
@[simp] theorem execAtomic_keepsForm (b : BlockId) (sd sa sb : Reg) (op : BitVec 24) (s : State) (h : s.mem.wf = true) :
    KeepsForm (execAtomic b sd sa sb op s) := by
  refine core_keepsForm _ _ _ h fun t x ht => ?_
  split <;> simp [ht]
@[simp] theorem countGrey_mem (s : State) (b : BlockId) : (s.countGrey b).mem = s.mem := by simp [State.countGrey]
@[simp] theorem causeRead_mem (s : State) (k : KillCause) : (s.causeRead k).mem = s.mem := by
  simp only [State.causeRead]
  split <;> simp
@[simp] theorem execGroupKill_keepsForm (b : BlockId) (cause : KillCause) (s : State) (h : s.mem.wf = true) :
    KeepsForm (execGroupKill b cause s) := by
  simp [execGroupKill, h]
@[simp] theorem execBlockAbort_keepsForm (b : BlockId) (s : State) (h : s.mem.wf = true) : KeepsForm (execBlockAbort b s) := by
  simp [execBlockAbort, h]
@[simp] theorem startFence_mem (n : Nat) (b : BlockId) (s : State) : (startFence n b s).mem = s.mem := by
  induction n generalizing s with
  | zero => rfl
  | succ n ih =>
    simp only [startFence]
    split
    · split <;> simp [ih]
    · rfl
@[simp] theorem execFenceReadback_keepsForm (b : BlockId) (s : State) (h : s.mem.wf = true) : KeepsForm (execFenceReadback b s) := by
  simp [execFenceReadback, h]
@[simp] theorem fenceFails_mem (s : State) : s.fenceFails.mem = s.mem := by simp [State.fenceFails]
@[simp] theorem endReadback_mem (s : State) (b : BlockId) (c : PendingCpl) (ok : Bool) : (s.endReadback b c ok).mem = s.mem := by
  simp [State.endReadback]
@[simp] theorem execReadbackReturn_keepsForm (b : BlockId) (st : RespStatus) (s : State) (h : s.mem.wf = true) :
    KeepsForm (execReadbackReturn b st s) := by
  simp only [execReadbackReturn]
  split <;> simp [h]

/-! ## What commands of a partition share -/

@[simp] theorem writeLines_mem (s : State) (p : PartId) (event : Bool) (a : Nat) (bs : List Byte) : (s.writeLines p event a bs).mem = s.mem := by
  simp [State.writeLines]
@[simp] theorem writeRing_mem (s : State) (p : PartId) (event : Bool) (r : RingRegs) (units : Nat) (f : BitVec 32 → List Byte) :
    (s.writeRing p event r units f).mem = s.mem := by
  simp [State.writeRing]
@[simp] theorem emitRecord_mem (s : State) (p : PartId) (r : CplRecord) : (s.emitRecord p r).mem = s.mem := by
  simp only [State.emitRecord]
  refine (foldl_mem _ _ _ fun t a => ?_).trans ?_
  · simp
  · split <;> simp
@[simp] theorem emitEvent_mem (s : State) (p : PartId) (e : ErrorRecord) : (s.emitEvent p e).mem = s.mem := by simp [State.emitEvent]
@[simp] theorem pumpCpl_mem (s : State) (p : PartId) : (s.pumpCpl p).mem = s.mem := by
  simp only [State.pumpCpl]
  split <;> simp
@[simp] theorem storeRecord_mem (s : State) (p : PartId) (r : CplRecord) : (s.storeRecord p r).mem = s.mem := by simp [State.storeRecord]
@[simp] theorem pumpMbox_mem (s : State) (p : PartId) : (s.pumpMbox p).mem = s.mem := by
  simp only [State.pumpMbox]
  split <;> simp
@[simp] theorem pumpEvt_mem (s : State) (p : PartId) : (s.pumpEvt p).mem = s.mem := by
  simp only [State.pumpEvt]
  split <;> simp
@[simp] theorem placeEvent_mem (s : State) (e : EventReq) : (s.placeEvent e).mem = s.mem := by simp [State.placeEvent]
@[simp] theorem cmdDone_mem (s : State) (r : Running) (status reason flags : BitVec 8) (data : List Word) :
    (s.cmdDone r status reason flags data).mem = s.mem := by
  simp [State.cmdDone]
@[simp] theorem ok_mem (s : State) (r : Running) : (s.ok r).mem = s.mem := by simp [State.ok]
@[simp] theorem okData_mem (s : State) (r : Running) (data : List Word) : (s.okData r data).mem = s.mem := by simp [State.okData]
@[simp] theorem rejected_mem (s : State) (r : Running) (reason : BitVec 8) : (s.rejected r reason).mem = s.mem := by simp [State.rejected]
@[simp] theorem failed_mem (s : State) (r : Running) (reason : BitVec 8) : (s.failed r reason).mem = s.mem := by simp [State.failed]
@[simp] theorem unless_wf (s : State) (r : Running) (why : Option (BitVec 8)) (k : State) (h : s.mem.wf = true) (hk : k.mem.wf = true) :
    (s.unless r why k).mem.wf = true := by
  cases why <;> simp [State.unless, h, hk]
@[simp] theorem cmd_keepsForm (s : State) (op : BitVec 16) (sc : Scope) (k : State → Running → State) (h : s.mem.wf = true)
    (hk : ∀ (t : State) (r : Running), t.mem.wf = true → (k t r).mem.wf = true) : KeepsForm (s.cmd op sc k) := by
  simp only [State.cmd]
  split <;> simp [h, hk]
@[simp] theorem startBg_mem (s : State) (r : Running) : (s.startBg r).mem = s.mem := by simp [State.startBg]
@[simp] theorem dropBg_mem (s : State) (p : PartId) (op : BitVec 16) : (s.dropBg p op).mem = s.mem := by simp [State.dropBg]
@[simp] theorem endBg_wf (s : State) (p : PartId) (op : BitVec 16) (k : State → Running → State) (h : s.mem.wf = true)
    (hk : ∀ (t : State) (r : Running), t.mem.wf = true → (k t r).mem.wf = true) : (s.endBg p op k).mem.wf = true := by
  simp only [State.endBg]
  split <;> simp [h, hk]
@[simp] theorem endBg_mem (s : State) (p : PartId) (op : BitVec 16) (k : State → Running → State) (hk : ∀ t r, (k t r).mem = t.mem) :
    (s.endBg p op k).mem = s.mem := by
  simp only [State.endBg]
  split <;> simp [hk]
@[simp] theorem exportRecord_mem (s : State) (p : PartId) (e : ExportRec) : (s.export_ p e).mem = s.mem := by
  simp only [State.export_]
  split <;> simp
@[simp] theorem setUpd_mem (s : State) (r : RegionId) (u : UpdateUnit) : (s.setUpd r u).mem = s.mem := by simp [State.setUpd]
@[simp] theorem engineRead_mem (s : State) (p : PartId) (a n : Nat) : (s.engineRead p a n).1.mem = s.mem := by
  simp only [State.engineRead]
  split <;> simp
@[simp] theorem readEntry_mem (s : State) (p : PartId) (a : Nat) : (s.readEntry p a).1.mem = s.mem := by simp [State.readEntry]
@[simp] theorem putEntry_wf (s : State) (a : Nat) (v : VEntry) (h : s.mem.wf = true) : (s.putEntry a v).mem.wf = true := by simp [State.putEntry, h]
@[simp] theorem freeBuilding_wf (s : State) (p : PartId) (a : Nat) (h : s.mem.wf = true) : (s.freeBuilding p a).mem.wf = true := by
  simp [State.freeBuilding, h]
@[simp] theorem updateCrimson_mem (s : State) (r : RegionId) (t : RunTask) (c : UpdCause) : (s.updateCrimson r t c).mem = s.mem := by
  simp only [State.updateCrimson]
  split <;> simp
@[simp] theorem interruptUpdate_wf (s : State) (r : RegionId) (c : UpdCause) (h : s.mem.wf = true) : (s.interruptUpdate r c).mem.wf = true := by
  simp only [State.interruptUpdate]
  split <;> simp [h]
@[simp] theorem requeueTasks_mem (s : State) (pick : TaskEntry → Bool → Bool) : (s.requeueTasks pick).mem = s.mem := by simp [State.requeueTasks]
@[simp] theorem syncJobs_mem (s : State) : s.syncJobs.mem = s.mem := by simp [State.syncJobs]
@[simp] theorem setPartMode_mem (s : State) (p : PartId) (m : BitVec 4) : (s.setPartMode p m).mem = s.mem := by simp [State.setPartMode]
@[simp] theorem abortPart_wf (s : State) (p : PartId) (h : s.mem.wf = true) : (s.abortPart p).mem.wf = true := by
  unfold State.abortPart
  refine foldl_wf _ _ _ (fun t r w => ?_) (by simpa using h)
  split
  · exact wf_of_ite (interruptUpdate_wf _ _ _ w) w
  · exact w
@[simp] theorem failPart_wf (s : State) (p : PartId) (h : s.mem.wf = true) : (s.failPart p).mem.wf = true := by simp [State.failPart, h]

/-! ## Memory controllers -/

@[simp] theorem served_mem (s : State) (a n : Nat) : (s.served a n).mem = s.mem := by simp [State.served]
@[simp] theorem countBus_mem (s : State) (a : Nat) (bus : BusCheck) (onDie : Bool) : (s.countBus a bus onDie).mem = s.mem := by simp [State.countBus]
@[simp] theorem busFails_mem (s : State) (a : Nat) : (s.busFails a).mem = s.mem := by simp [State.busFails]
@[simp] theorem msoApply_wf (s : State) (m : MemSideOp) (h : s.mem.wf = true) : (s.msoApply m).1.wf = true := by
  simp only [State.msoApply]
  split
  case h_3 => exact memPut_wf _ _ _ (memWrite_wf _ _ _ h)
  all_goals exact memPutNat_wf _ _ _ _ h
@[simp] theorem msoFlags_mem (s : State) (m : MemSideOp) (invalid saturated : Bool) : (s.msoFlags m invalid saturated).mem = s.mem := by
  simp only [State.msoFlags]
  split <;> simp
@[simp] theorem amaxLost_mem (s : State) (m : MemSideOp) : (s.amaxLost m).mem = s.mem := by
  simp only [State.amaxLost]
  split <;> simp
@[simp] theorem msoDrop_mem (s : State) (m : MemSideOp) (classA : Bool) : (s.msoDrop m classA).mem = s.mem := by simp [State.msoDrop]
@[simp] theorem msoRefuse_mem (s : State) (m : MemSideOp) : (s.msoRefuse m).mem = s.mem := by
  simp only [State.msoRefuse]
  split <;> simp
@[simp] theorem msoDone_mem (s : State) (m : MemSideOp) : (s.msoDone m).mem = s.mem := by
  simp only [State.msoDone]
  split <;> simp
@[simp] theorem msoUnitRun_wf (s : State) (m : MemSideOp) (u : Nat) (h : s.mem.wf = true) : (s.msoUnitRun m u).mem.wf = true := by
  simp only [State.msoUnitRun]
  split
  · simp [h]
  · split
    · simp [h]
    · split <;> simp [h]
@[simp] theorem msoNext_mem (s : State) (m : MemSideOp) (u : Nat) : (s.msoNext m u).mem = s.mem := by simp [State.msoNext]
@[simp] theorem execMemorySideOperation_keepsForm (srcHit dstHit : BurstErr) (s : State) (h : s.mem.wf = true) :
    KeepsForm (execMemorySideOperation srcHit dstHit s) := by
  unfold execMemorySideOperation
  split
  · simpa using h
  · exact keepsForm_when _ _ _ h (by simpa using msoUnitRun_wf _ _ _ (struck_wf _ _ _ (struck_wf _ _ _ h)))
@[simp] theorem scrubFails_mem (s : State) (a : Nat) : (s.scrubFails a).mem = s.mem := by simp [State.scrubFails]
@[simp] theorem execPatrolScrubBurst_keepsForm (addr : Addr) (fault : BurstFault) (s : State) (h : s.mem.wf = true) :
    KeepsForm (execPatrolScrubBurst addr fault s) := by
  simp [execPatrolScrubBurst, h]
@[simp] theorem free256_mem (s : State) : (s.free256).2.mem = s.mem := by simp [State.free256]
@[simp] theorem undefineBurst_wf (s : State) (a : Nat) (h : s.mem.wf = true) : (s.undefineBurst a).mem.wf = true := by
  simp [State.undefineBurst, memPutNat_wf, h]
@[simp] theorem execClassSwitch_keepsForm (stack : Nat) (s : State) (h : s.mem.wf = true) : KeepsForm (execClassSwitch stack s) :=
  keepsForm_when _ _ _ h (foldl_wf _ _ _ (fun _ _ w => undefineBurst_wf _ _ w) h)
@[simp] theorem execSelfRefreshEntry_keepsForm (stack : Nat) (s : State) (h : s.mem.wf = true) : KeepsForm (execSelfRefreshEntry stack s) := by
  simp [execSelfRefreshEntry, h]
@[simp] theorem execRefreshManagementRequest_keepsForm (stack : Nat) (s : State) (h : s.mem.wf = true) :
    KeepsForm (execRefreshManagementRequest stack s) := by
  simp [execRefreshManagementRequest, h]
@[simp] theorem execPerBankRefresh_keepsForm (stack : Nat) (s : State) (h : s.mem.wf = true) : KeepsForm (execPerBankRefresh stack s) := by
  simp [execPerBankRefresh, h]

/-! ## Stages and versions -/

@[simp] theorem engineRefused_mem (s : State) : s.engineRefused.mem = s.mem := by simp [State.engineRefused]
@[simp] theorem noticeEntry_wf (s : State) (p : PartId) (n : Notice) (a : Nat) (h : s.mem.wf = true) : (s.noticeEntry p n a).1.mem.wf = true := by
  simp only [State.noticeEntry]
  split
  · simp [h]
  · split
    · simp [h]
    · split <;> simp [h]
@[simp] theorem noticeShard_wf (s : State) (p : PartId) (n : Notice) (word : Nat) (h : s.mem.wf = true) :
    (s.noticeShard p n word).1.mem.wf = true := by
  simp only [State.noticeShard]
  split
  · simp [h]
  · split <;> simp [h]
@[simp] theorem acctErr_mem (s : State) (n : Notice) : (s.acctErr n).mem = s.mem := by simp [State.acctErr]
@[simp] theorem engineMismatch_mem (s : State) (p : PartId) (unit idx : Nat) : (s.engineMismatch p unit idx).mem = s.mem := by
  simp [State.engineMismatch]
@[simp] theorem applyNotice_wf (s : State) (n : Notice) (mismatch : Bool) (h : s.mem.wf = true) : (s.applyNotice n mismatch).mem.wf = true := by
  unfold State.applyNotice
  extract_lets e under e1 r
  have wr : r.1.mem.wf = true := foldl_fst_wf _ _ _ (fun t i w => noticeShard_wf _ _ _ _ w) h
  split
  · simp [h]
  · split
    · simp [h]
    · split <;> simp [wr]
@[simp] theorem shardsStruck_wf (s : State) (n : Notice) (hit : BurstErr) (h : s.mem.wf = true) : (s.shardsStruck n hit).mem.wf = true := by
  simp only [State.shardsStruck]
  simp [struck_wf, h]
@[simp] theorem execHoldNotice_keepsForm (mismatch : Bool) (hit : BurstErr) (s : State) (h : s.mem.wf = true) :
    KeepsForm (execHoldNotice mismatch hit s) := by
  unfold execHoldNotice
  split
  · simpa using h
  · exact keepsForm_when _ _ _ h (applyNotice_wf _ _ _ (shardsStruck_wf _ _ _ h))
@[simp] theorem execReleaseNotice_keepsForm (mismatch : Bool) (hit : BurstErr) (s : State) (h : s.mem.wf = true) :
    KeepsForm (execReleaseNotice mismatch hit s) := by
  unfold execReleaseNotice
  split
  · simpa using h
  · exact keepsForm_when _ _ _ h (applyNotice_wf _ _ _ (shardsStruck_wf _ _ _ h))
@[simp] theorem staleWait_mem (s : State) : s.staleWait.mem = s.mem := by simp [State.staleWait]
@[simp] theorem postAdmission_wf (s : State) (e : StageId) (h : s.mem.wf = true) : (s.postAdmission e).mem.wf = true :=
  foldl_wf _ _ _ (fun t a ht => by simp [ht]) (by simp [h])
@[simp] theorem execAdmissionPost_keepsForm (e : StageId) (mismatch : Bool) (s : State) (h : s.mem.wf = true) :
    KeepsForm (execAdmissionPost e mismatch s) := by
  simp [execAdmissionPost, h]
@[simp] theorem pinnedEvent_mem (s : State) (p : PartId) (a : Nat) (o : Option (BitVec 32)) : (s.pinnedEvent p a o).mem = s.mem := by
  simp only [State.pinnedEvent]
  split <;> simp
@[simp] theorem startDrain_mem (s : State) (p : PartId) (a : Nat) (slots : List Nat) (whole : Bool) : (s.startDrain p a slots whole).mem = s.mem :=
  foldl_mem _ _ _ fun t a => by simp
@[simp] theorem retireAt_wf (s : State) (p : PartId) (a : Nat) (v : VEntry) (stale c : Nat) (h : s.mem.wf = true) :
    (s.retireAt p a v stale c).mem.wf = true := by
  simp [State.retireAt, h]
@[simp] theorem allocateFor_wf (s : State) (region : RegionId) (t : TaskEntry) (k : Nat) (c : BitVec 32) (h : s.mem.wf = true) :
    (s.allocateFor region t k c).mem.wf = true := by
  simp [State.allocateFor, h]
@[simp] theorem execSlotAllocation_keepsForm (region : RegionId) (task : BitVec 8) (s : State) (h : s.mem.wf = true) :
    KeepsForm (execSlotAllocation region task s) := by
  unfold execSlotAllocation
  extract_lets u
  split
  · simpa using h
  · refine keepsForm_when _ _ _ h ?_
    extract_lets t a d
    have wd : d.1.mem.wf = true := by simp [d, h]
    split
    · simp [h]
    · exact wf_of_ite (allocateFor_wf _ _ _ _ _ (retireAt_wf _ _ _ _ _ _ wd)) wd
@[simp] theorem publishTask_wf (s : State) (region : RegionId) (t : TaskEntry) (k : Nat) (c : BitVec 32) (n : Nat) (h : s.mem.wf = true) :
    (s.publishTask region t k c n).mem.wf = true := by
  simp [State.publishTask, h]
@[simp] theorem execPublication_keepsForm (region : RegionId) (task : BitVec 8) (s : State) (h : s.mem.wf = true) :
    KeepsForm (execPublication region task s) := by
  simp only [execPublication]
  split <;> simp [h]
@[simp] theorem execDrainMarkAnswer_keepsForm (b : BlockId) (ventry : Addr) (s : State) (h : s.mem.wf = true) :
    KeepsForm (execDrainMarkAnswer b ventry s) := by
  simp [execDrainMarkAnswer, h]
@[simp] theorem execVersionDrainComplete_keepsForm (ventry : Addr) (s : State) (h : s.mem.wf = true) :
    KeepsForm (execVersionDrainComplete ventry s) := by
  simp only [execVersionDrainComplete]
  split <;> simp [h]
@[simp] theorem execStageQuery_keepsForm (index : BitVec 8) (s : State) (h : s.mem.wf = true) : KeepsForm (execStageQuery index s) :=
  cmd_keepsForm _ _ _ _ h fun t r ht => by simp [ht]
@[simp] theorem execAdmitStart_keepsForm (index : BitVec 8) (step : BitVec 32) (mb : BitVec 16) (s : State) (h : s.mem.wf = true) :
    KeepsForm (execAdmitStart index step mb s) :=
  cmd_keepsForm _ _ _ _ h fun t r ht => by simp [ht]
@[simp] theorem execAdmitStop_keepsForm (index : BitVec 8) (s : State) (h : s.mem.wf = true) : KeepsForm (execAdmitStop index s) :=
  cmd_keepsForm _ _ _ _ h fun t r ht => by simp [ht]
@[simp] theorem execVtableInit_keepsForm (x : VTableP) (s : State) (h : s.mem.wf = true) : KeepsForm (execVtableInit x s) :=
  cmd_keepsForm _ _ _ _ h fun t r ht => by simp [ht]
@[simp] theorem execVtableQuery_keepsForm (addr : Addr) (s : State) (h : s.mem.wf = true) : KeepsForm (execVtableQuery addr s) :=
  cmd_keepsForm _ _ _ _ h fun t r ht => by simp [ht]
@[simp] theorem execVersionPin_keepsForm (index : BitVec 8) (s : State) (h : s.mem.wf = true) : KeepsForm (execVersionPin index s) :=
  cmd_keepsForm _ _ _ _ h fun t r ht => by simp [ht]
@[simp] theorem execVersionUnpin_keepsForm (index : BitVec 8) (s : State) (h : s.mem.wf = true) : KeepsForm (execVersionUnpin index s) :=
  cmd_keepsForm _ _ _ _ h fun t r ht => by simp [ht]
@[simp] theorem execLringBind_keepsForm (q : QAddr) (base : Addr) (segments : BitVec 32) (s : State) (h : s.mem.wf = true) :
    KeepsForm (execLringBind q base segments s) :=
  cmd_keepsForm _ _ _ _ h fun t r ht => by simp [ht]
@[simp] theorem execLringUnbind_keepsForm (q : QAddr) (s : State) (h : s.mem.wf = true) : KeepsForm (execLringUnbind q s) := by
  refine cmd_keepsForm _ _ _ _ h fun t r ht => ?_
  split <;> simp [ht]

/-! ## Collectives -/

@[simp] theorem putBlock_wf (s : State) (base e b : Nat) (codes : List Nat) (scale : Byte) (h : s.mem.wf = true) :
    (s.putBlock base e b codes scale).mem.wf = true := by
  simp [State.putBlock, h]
@[simp] theorem setInstance_mem (s : State) (i : Instance) : (s.setInstance i).mem = s.mem := by simp [State.setInstance]
@[simp] theorem unlockRead_mem (s : State) (i : Instance) : (s.unlockRead i).mem = s.mem := by simp [State.unlockRead]
@[simp] theorem putNorm_wf (s : State) (job : BitVec 16) (step : BitVec 32) (sumsq : BitVec 32) (state : Byte) (h : s.mem.wf = true) :
    (s.putNorm job step sumsq state).mem.wf = true := by
  simp [State.putNorm, h]
@[simp] theorem failNorm_wf (s : State) (job : BitVec 16) (step : BitVec 32) (h : s.mem.wf = true) : (s.failNorm job step).mem.wf = true := by
  simp [State.failNorm, h]
@[simp] theorem undefine_wf (s : State) (a n : Nat) (h : s.mem.wf = true) : (s.undefine a n).mem.wf = true :=
  foldl_wf _ _ _ (fun t i w => by simp [memPut_wf, w]) h
@[simp] theorem undefineBlocks_wf (s : State) (base e first n : Nat) (h : s.mem.wf = true) : (s.undefineBlocks base e first n).mem.wf = true :=
  foldl_wf _ _ _ (fun t a ht => by simp [ht]) (by simp [h])
@[simp] theorem collFailed_mem (s : State) (p : PartId) (idx : Nat) (step : BitVec 32) (planId : BitVec 16) (cause : Nat) :
    (s.collFailed p idx step planId cause).mem = s.mem := by
  simp [State.collFailed]
@[simp] theorem dropInstance_mem (s : State) (i : Instance) : (s.dropInstance i).mem = s.mem := by simp [State.dropInstance]
@[simp] theorem failInstance_wf (s : State) (i : Instance) (cause : Nat) (notify : Bool) (h : s.mem.wf = true) :
    (s.failInstance i cause notify).mem.wf = true := by
  unfold State.failInstance
  extract_lets p s2 s3 s4
  have w2 : s2.mem.wf = true := by simp [s2, h]
  have w3 : s3.mem.wf = true := wf_of_ite (failNorm_wf _ _ _ w2) w2
  simp [s4, w3]
@[simp] theorem withReads_wf (s : State) (i : Instance) (rs : List Range) (k : State → State) (h : s.mem.wf = true)
    (hk : ∀ t : State, t.mem.wf = true → (k t).mem.wf = true) : (s.withReads i rs k).mem.wf = true := by
  simp [State.withReads, h, hk]
@[simp] theorem pumpPieces_wf (fuel : Nat) (k : PlanId) (s : State) (h : s.mem.wf = true) : (pumpPieces fuel k s).mem.wf = true := by
  induction fuel generalizing s with
  | zero => exact h
  | succ fuel ih =>
    simp only [pumpPieces]
    split
    · exact h
    · split
      · exact h
      · split
        · exact wf_of_ite (failInstance_wf _ _ _ _ (by simp [h])) (ih _ (by simp [h]))
        · exact h
@[simp] theorem execCollectivePost_keepsForm (s : State) (h : s.mem.wf = true) : KeepsForm (execCollectivePost s) := by
  simp only [execCollectivePost]
  split <;> simp [h]
@[simp] theorem placeOwn_wf (s : State) (k : PlanId) (i : Instance) (p : PlanEntry) (h : s.mem.wf = true) : (s.placeOwn k i p).mem.wf = true := by
  simp only [State.placeOwn]
  split
  · exact foldl_wf _ _ _ (fun t a ht => by simp [ht]) (by simp [h])
  · split
    · split
      · exact foldl_wf _ _ _ (fun t a ht => by simp [ht]) (by simp [h])
      · simp [h]
    · split
      · exact foldl_wf _ _ _ (fun t a ht => by simp [ht]) (by simp [h])
      · simp [h]
@[simp] theorem encodeWs_wf (s : State) (i : Instance) (p : PlanEntry) (h : s.mem.wf = true) : (s.encodeWs i p).mem.wf = true :=
  foldl_wf _ _ _ (fun t a ht => by simp [ht]) (by simp [h])
@[simp] theorem finishDirect_wf (s : State) (i : Instance) (p : PlanEntry) (h : s.mem.wf = true) : (s.finishDirect i p).mem.wf = true :=
  wf_of_ite (withReads_wf _ _ _ _ h fun _ ht => encodeWs_wf _ _ _ ht) h
@[simp] theorem runInstance_wf (s : State) (at_ : Nat) (i : Instance) (p : PlanEntry) (h : s.mem.wf = true) :
    (s.runInstance at_ i p).mem.wf = true := by
  unfold State.runInstance
  extract_lets j s1 s2 s3
  have w1 : s1.mem.wf = true := put_wf _ _ _ h
  have w2 : s2.mem.wf = true := foldl_wf _ _ _ (fun _ _ w => w) w1
  have w3 : s3.mem.wf = true := by simp [s3, w2]
  exact pumpPieces_wf _ _ _ (by simp [w3])
@[simp] theorem execInstanceStart_keepsForm (plan : PlanId) (s : State) (h : s.mem.wf = true) : KeepsForm (execInstanceStart plan s) := by
  unfold execInstanceStart
  split
  · simpa using h
  · exact keepsForm_when _ _ _ h
      (wf_of_ite (failInstance_wf _ _ _ _ (by simpa using h)) (withReads_wf _ _ _ _ h fun t ht => runInstance_wf _ _ _ _ ht))
@[simp] theorem ringSum_wf (s : State) (k : PlanId) (i : Instance) (p : PlanEntry) (x : Piece) (h : s.mem.wf = true) :
    (s.ringSum k i p x).mem.wf = true :=
  foldl_wf _ _ _ (fun t a ht => by simp [ht]) (by simp [h])
@[simp] theorem directSum_wf (s : State) (p : PlanEntry) (x : Piece) (h : s.mem.wf = true) : (s.directSum p x).mem.wf = true :=
  foldl_wf _ _ _ (fun t a ht => by simp [ht]) (by simp [h])
@[simp] theorem gather_wf (s : State) (p : PlanEntry) (x : Piece) (h : s.mem.wf = true) : (s.gather p x).mem.wf = true := by
  simp only [State.gather]
  split
  · exact foldl_wf _ _ _ (fun t a ht => by simp [ht]) (by simp [h])
  · exact foldl_wf _ _ _ (fun t a ht => by simp [ht]) (by simp [h])
@[simp] theorem takePiece_wf (s : State) (i : Instance) (p : PlanEntry) (place : Nat) (x : Piece) (h : s.mem.wf = true) :
    (s.takePiece i p place x).mem.wf = true := by
  simp [State.takePiece, h]
@[simp] theorem execCollectivePiece_keepsForm (inst : InstanceId) (rank : BitVec 12) (x : Piece) (s : State) (h : s.mem.wf = true) :
    KeepsForm (execCollectivePiece inst rank x s) := by
  simp only [execCollectivePiece]
  split
  · simpa using h
  · split
    · simpa using h
    · exact (keepsForm_next _).mpr (withReads_wf _ _ _ _ h fun t ht => takePiece_wf _ _ _ _ _ ht)
@[simp] theorem takeControl_mem (s : State) (planId : BitVec 16) : (s.takeControl planId).mem = s.mem := by
  simp only [State.takeControl]
  split <;> simp
@[simp] theorem execCollectiveCredit_keepsForm (inst : InstanceId) (rank : BitVec 12) (s : State) (h : s.mem.wf = true) :
    KeepsForm (execCollectiveCredit inst rank s) := by
  simp only [execCollectiveCredit]
  split <;> simp [h]
@[simp] theorem execCollectiveAbortNotice_keepsForm (planId : BitVec 16) (step : BitVec 32) (s : State) (h : s.mem.wf = true) :
    KeepsForm (execCollectiveAbortNotice planId step s) := by
  simp only [execCollectiveAbortNotice]
  split <;> simp [h]
@[simp] theorem queueTasks_mem (s : State) (r : RegionId) (k : PlanId) (step : BitVec 32) : (s.queueTasks r k step).mem = s.mem := by
  simp [State.queueTasks]
@[simp] theorem addNorm_mem (s : State) (p : PlanEntry) (i : Instance) (sq : BitVec 32) : (s.addNorm p i sq).mem = s.mem := by simp [State.addNorm]
@[simp] theorem scatterRest_wf (s : State) (p : PlanEntry) (h : s.mem.wf = true) : (s.scatterRest p).mem.wf = true := by simp [State.scatterRest, h]
@[simp] theorem endInstance_wf (s : State) (i : Instance) (p : PlanEntry) (h : s.mem.wf = true) : (s.endInstance i p).mem.wf = true := by
  simp [State.endInstance, h]
@[simp] theorem execInstanceComplete_keepsForm (plan : PlanId) (s : State) (h : s.mem.wf = true) : KeepsForm (execInstanceComplete plan s) := by
  unfold execInstanceComplete
  split
  · simpa using h
  · exact keepsForm_when _ _ _ h (withReads_wf _ _ _ _ h fun t ht => endInstance_wf _ _ _ ht)
@[simp] theorem scalarResult_wf (s : State) (r : Running) (a : Addr) (v : Word) (h : s.mem.wf = true) : (s.scalarResult r a v).mem.wf = true := by
  simp [State.scalarResult, h]
@[simp] theorem endScalar_wf (s : State) (x : Scalar) (v : Word) (h : s.mem.wf = true) : (s.endScalar x v).mem.wf = true := by
  unfold State.endScalar
  extract_lets s1 s2
  have w2 : s2.mem.wf = true := foldl_wf _ _ _ (fun t k ht => by simpa using ht) h
  split <;> simp [w2]
@[simp] theorem runScalar_wf (s : State) (x : Scalar) (h : s.mem.wf = true) : (s.runScalar x).mem.wf = true := by simp [State.runScalar, h]
@[simp] theorem startScalar_wf (s : State) (g : BitVec 6) (use : ScalarUse) (op : ScalarOp) (v : Word) (cmd : Option (Running × Addr)) (h : s.mem.wf = true) :
    (s.startScalar g use op v cmd).mem.wf = true := by
  simp [State.startScalar, h]
@[simp] theorem execScalarValue_keepsForm (group : BitVec 6) (use : ScalarUse) (value : Word) (down : Bool) (s : State) (h : s.mem.wf = true) :
    KeepsForm (execScalarValue group use value down s) := by
  simp only [execScalarValue]
  split <;> simp [h]
@[simp] theorem execNormComplete_keepsForm (job : BitVec 16) (step : BitVec 32) (s : State) (h : s.mem.wf = true) :
    KeepsForm (execNormComplete job step s) := by
  unfold execNormComplete
  refine keepsForm_when _ _ _ h ?_
  extract_lets chip s0 s1
  have w : s1.mem.wf = true := foldl_wf _ _ _ (fun _ _ w => w) h
  simp [w]
@[simp] theorem execJobVersionCheck_keepsForm (job : BitVec 16) (s : State) (h : s.mem.wf = true) : KeepsForm (execJobVersionCheck job s) := by
  simp [execJobVersionCheck, h]
@[simp] theorem setJobVersion_mem (s : State) (job : BitVec 16) (v : BitVec 32) : (s.setJobVersion job v).mem = s.mem := by
  simp only [State.setJobVersion]
  refine (foldl_mem _ _ _ fun t a => ?_).trans ?_
  · simp
  · exact foldl_mem _ _ _ fun t a => by simp
@[simp] theorem execJobVersionAgreed_keepsForm (job : BitVec 16) (version : BitVec 32) (s : State) (h : s.mem.wf = true) :
    KeepsForm (execJobVersionAgreed job version s) := by
  simp [execJobVersionAgreed, h]
@[simp] theorem failScalar_wf (s : State) (x : Scalar) (h : s.mem.wf = true) : (s.failScalar x).mem.wf = true := by
  simp only [State.failScalar]
  split <;> simp [h]
@[simp] theorem execCollQuery_keepsForm (index : BitVec 16) (s : State) (h : s.mem.wf = true) : KeepsForm (execCollQuery index s) :=
  cmd_keepsForm _ _ _ _ h fun t r ht => by simp [ht]
@[simp] theorem execCollScalar_keepsForm (group : BitVec 8) (op : ScalarOp) (value : Word) (result : Addr) (s : State) (h : s.mem.wf = true) :
    KeepsForm (execCollScalar group op value result s) :=
  cmd_keepsForm _ _ _ _ h fun t r ht => by simp [ht]

/-! ## Engines of a block -/

@[simp] theorem issue_wf (s : State) (b : BlockId) (x : BlockState) (g : Group) (e : EngineId) (ok : Bool) (reads writes : List Range)
    (c : EngineCmd) (start : State → State) (h : s.mem.wf = true) (hk : ∀ t : State, t.mem.wf = true → (start t).mem.wf = true) :
    (s.issue b x g e ok reads writes c start).mem.wf = true := by
  simp [State.issue, h, hk]
@[simp] theorem startVec_mem (s : State) (b : BlockId) : (s.startVec b).mem = s.mem := by
  simp only [State.startVec]
  split <;> simp
@[simp] theorem vecMem_wf (s : State) (x : BlockState) (h : s.mem.wf = true) : (s.vecMem x).wf = true :=
  foldl_memory_wf _ _ _ (fun _ _ w => memWrite_wf _ _ _ w) h
@[simp] theorem vecIssue_keepsForm (s : State) (b : BlockId) (f : VecFields) (cv : Bool) (h : s.mem.wf = true) : KeepsForm (s.vecIssue b f cv) := by
  refine core_keepsForm _ _ _ h fun t x ht => ?_
  split
  · simp [ht]
  · exact issue_wf _ _ _ _ _ _ _ _ _ _ ht fun u hu => wf_of_ite (by simpa using hu) hu
@[simp] theorem execVec_keepsForm (b : BlockId) (f : VecFields) (s : State) (h : s.mem.wf = true) : KeepsForm (execVec b f s) := by simp [execVec, h]
@[simp] theorem execConvert_keepsForm (b : BlockId) (f : VecFields) (s : State) (h : s.mem.wf = true) : KeepsForm (execConvert b f s) := by
  simp [execConvert, h]
@[simp] theorem moveTensor_wf (m : Memory) (dst src : Nat) (c : BitVec 4) (n : Nat) (h : m.wf = true) : (moveTensor m dst src c n).wf = true :=
  memWrite_wf _ _ _ (writePacked_wf _ _ _ _ h)
@[simp] theorem startFetch_mem (s : State) (b : BlockId) : (s.startFetch b).mem = s.mem := by
  simp only [State.startFetch]
  split
  · split <;> simp
  · simp
@[simp] theorem startIfHead_mem (s : State) (b : BlockId) : (s.startIfHead b).mem = s.mem := by simp [State.startIfHead]
@[simp] theorem execFetch_keepsForm (b : BlockId) (f : FetchFields) (s : State) (h : s.mem.wf = true) : KeepsForm (execFetch b f s) := by
  refine core_keepsForm _ _ _ h fun t x ht => ?_
  split <;> simp [ht]
@[simp] theorem execCopy_keepsForm (b : BlockId) (f : FetchFields) (s : State) (h : s.mem.wf = true) : KeepsForm (execCopy b f s) := by
  refine core_keepsForm _ _ _ h fun t x ht => ?_
  split <;> simp [ht]
theorem lateRange_wf (s : State) (b : BlockId) (x : BlockState) (f : FetchFields) (dst n : Nat) (g : State → State)
    (e : s.lateRange b x f dst n = some g) (t : State) (h : t.mem.wf = true) : (g t).mem.wf = true := by
  simp only [State.lateRange] at e
  split at e
  · cases e
  · split at e
    · cases e; simp [h]
    · split at e
      · cases e; simp [h]
      · cases e
@[simp] theorem execVersionEntryRead_keepsForm (b : BlockId) (hit : BurstErr) (s : State) (h : s.mem.wf = true) :
    KeepsForm (execVersionEntryRead b hit s) := by
  unfold execVersionEntryRead
  extract_lets x
  split
  · refine keepsForm_when _ _ _ h ?_
    extract_lets +onlyGivenNames q
    have wq : q.1.mem.wf = true := by simpa [q] using struck_wf _ _ _ h
    clear_value q
    dsimp only
    split
    · simp [wq]
    · split
      · simp [wq]
      · split
        next k hk => exact lateRange_wf _ _ _ _ _ _ _ hk _ wq
        next =>
          split
          · simp [wq]
          · split
            · exact wq
            · split
              · simp [wq]
              · split <;> simp [wq]
  · simpa using h
@[simp] theorem finishFetch_wf (s : State) (b : BlockId) (f : FetchFields) (src dst len no : Nat) (h : s.mem.wf = true) :
    (s.finishFetch b f src dst len no).mem.wf = true := by
  simp [State.finishFetch, h]
@[simp] theorem finishCopy_wf (s : State) (b : BlockId) (src dst len : Nat) (h : s.mem.wf = true) : (s.finishCopy b src dst len).mem.wf = true := by
  simp [State.finishCopy, h]
@[simp] theorem finishVec_wf (s : State) (b : BlockId) (f : VecFields) (cv : Bool) (a rb c d : Nat) (scalar : BitVec 32) (h : s.mem.wf = true) :
    (s.finishVec b f cv a rb c d scalar).mem.wf = true := by
  simp only [State.finishVec]
  split <;> simp [h]
@[simp] theorem retireCmd_mem (s : State) (b : BlockId) (e : EngineId) : (s.retireCmd b e).mem = s.mem := by
  simp only [State.retireCmd]
  split <;> simp
@[simp] theorem finish_wf (s : State) (b : BlockId) (e : EngineId) (c : EngineCmd) (hit : BurstErr) (f : State → State) (h : s.mem.wf = true)
    (hf : ∀ t : State, t.mem.wf = true → (f t).mem.wf = true) : (s.finish b e c hit f).mem.wf = true := by
  simp only [State.finish]
  split
  · simp [h]
  · split <;> simp [h, hf, struck_wf]
@[simp] theorem execEngineCommandFinish_keepsForm (b : BlockId) (e : EngineId) (hit : BurstErr) (s : State) (h : s.mem.wf = true) :
    KeepsForm (execEngineCommandFinish b e hit s) := by
  unfold execEngineCommandFinish
  extract_lets x live
  split
  · simp [h]
  · split
    · exact keepsForm_when _ _ _ h (finish_wf _ _ _ _ _ _ h fun t ht => ht)
    · simpa using h
  · exact keepsForm_when _ _ _ h (finish_wf _ _ _ _ _ _ h fun t ht => finishVec_wf _ _ _ _ _ _ _ _ _ ht)
  · exact keepsForm_when _ _ _ h (finish_wf _ _ _ _ _ _ h fun t ht => finishFetch_wf _ _ _ _ _ _ _ ht)
  · exact keepsForm_when _ _ _ h (finish_wf _ _ _ _ _ _ h fun t ht => finishCopy_wf _ _ _ _ _ ht)
  · simpa using h

/-! ## Updates -/

@[simp] theorem startTask_mem (s : State) (r : RegionId) (k : Nat) (c : BitVec 32) (t : Sys2Proof.TaskEntry) (v : VEntry) :
    (s.startTask r k c t v).mem = s.mem := by
  simp [State.startTask]
@[simp] theorem progFails_wf (s : State) (r : RegionId) (k : Nat) (c : BitVec 32) (t : Sys2Proof.TaskEntry) (w : Option Nat) (h : s.mem.wf = true) :
    (s.progFails r k c t w).mem.wf = true := by
  simp [State.progFails, h]
@[simp] theorem updRefused_mem (s : State) (r : RegionId) : (s.updRefused r).mem = s.mem := by simp [State.updRefused]
@[simp] theorem beginTask_wf (s : State) (r : RegionId) (k : Nat) (c : BitVec 32) (t : Sys2Proof.TaskEntry) (v : VEntry) (h : s.mem.wf = true) :
    (s.beginTask r k c t v).mem.wf = true := by
  simp only [State.beginTask]
  split
  · simp [h]
  · split
    · simp [h]
    · split <;> simp [h]
@[simp] theorem execUpdateTaskStart_keepsForm (region : RegionId) (s : State) (h : s.mem.wf = true) : KeepsForm (execUpdateTaskStart region s) := by
  simp only [execUpdateTaskStart]
  split <;> simp [h]
@[simp] theorem writeGroup_wf (s : State) (r : RegionId) (t : Sys2Proof.TaskEntry) (v : VEntry) (x : RunTask) (h : s.mem.wf = true) :
    (s.writeGroup r t v x).mem.wf = true := by
  simp [State.writeGroup, h]
@[simp] theorem runGroup_wf (s : State) (r : RegionId) (t : Sys2Proof.TaskEntry) (v : VEntry) (x : RunTask) (firstMatch secondMatch : Bool)
    (h : s.mem.wf = true) :
    (s.runGroup r t v x firstMatch secondMatch).mem.wf = true := by
  simp [State.runGroup, h]
@[simp] theorem execUpdateGroup_keepsForm (region : RegionId) (firstMatch secondMatch : Bool) (hit : BurstErr) (s : State) (h : s.mem.wf = true) :
    KeepsForm (execUpdateGroup region firstMatch secondMatch hit s) := by
  simp only [execUpdateGroup]
  split
  · simpa using h
  · refine keepsForm_when _ _ _ h ?_
    split
    · exact h
    · split
      · exact foldl_wf _ _ _ (fun w a hw => by simpa using hw) (by simpa using h)
      · exact wf_of_ite h (wf_of_ite (by simp [struck_wf, h]) (by simp [struck_wf, h]))
@[simp] theorem scaleEntry_wf (s : State) (r : RegionId) (t : Sys2Proof.TaskEntry) (a : Nat) (h : s.mem.wf = true) :
    (s.scaleEntry r t a).1.mem.wf = true := by
  simp only [State.scaleEntry]
  split
  · simp [h]
  · split
    · simp [h]
    · split
      · simp [h]
      · split <;> simp [h]
@[simp] theorem scaleStep_wf (s : State) (r : RegionId) (t : Sys2Proof.TaskEntry) (h : s.mem.wf = true) : (s.scaleStep r t).1.mem.wf = true := by
  refine foldl_fst_wf _ _ _ (fun v i w => ?_) h
  split <;> simp [w]
@[simp] theorem closeSeries_wf (s : State) (t : Sys2Proof.TaskEntry) (v : VEntry) (x : RunTask) (h : s.mem.wf = true) :
    (s.closeSeries t v x).mem.wf = true := by
  unfold State.closeSeries
  extract_lets s1
  have w1 : s1.mem.wf = true := wf_of_ite h (foldl_wf _ _ _ (fun u p hu => put_wf _ _ _ hu) h)
  split <;> simp [w1]
@[simp] theorem postTask_wf (s : State) (r : RegionId) (t : Sys2Proof.TaskEntry) (x : RunTask) (h : s.mem.wf = true) :
    (s.postTask r t x).mem.wf = true := by
  simp [State.postTask, h]
@[simp] theorem finishTask_wf (s : State) (r : RegionId) (t : Sys2Proof.TaskEntry) (v : VEntry) (x : RunTask) (h : s.mem.wf = true) :
    (s.finishTask r t v x).mem.wf = true := by
  simp [State.finishTask, h]
@[simp] theorem execUpdateTaskComplete_keepsForm (region : RegionId) (coderOk : Bool) (s : State) (h : s.mem.wf = true) :
    KeepsForm (execUpdateTaskComplete region coderOk s) := by
  simp only [execUpdateTaskComplete]
  split <;> simp [h]
@[simp] theorem execUpdateInterrupt_keepsForm (region : RegionId) (cause : UpdCause) (s : State) (h : s.mem.wf = true) :
    KeepsForm (execUpdateInterrupt region cause s) := by
  simp [execUpdateInterrupt, h]
@[simp] theorem execUpdQuery_keepsForm (region : RegionId) (index : BitVec 16) (s : State) (h : s.mem.wf = true) :
    KeepsForm (execUpdQuery region index s) :=
  cmd_keepsForm _ _ _ _ h fun t r ht => by simp [ht]
@[simp] theorem execCheckpointMark_keepsForm (partition : PartId) (step : BitVec 32) (s : State) (h : s.mem.wf = true) :
    KeepsForm (execCheckpointMark partition step s) :=
  cmd_keepsForm _ _ _ _ h fun t r ht => by simp [ht]

/-! ## Accesses to addresses -/

@[simp] theorem reqRefused_wf (s : State) (req : Requester) (h : s.mem.wf = true) : (s.reqRefused req).mem.wf = true := by
  simp only [State.reqRefused]
  split
  · simp [h]
  · simp [h]
  · split <;> simp [h]
  · split <;> simp [h]
  · split <;> simp [h]
  · simp [h]
  · simp [h]
  · simp [h]
@[simp] theorem reqFails_wf (s : State) (a : Nat) (classA : Bool) (req : Requester) (h : s.mem.wf = true) :
    (s.reqFails a classA req).mem.wf = true := by
  simp only [State.reqFails]
  split
  · simp [h]
  · simp [h]
  · split <;> simp [h]
  · split <;> simp [h]
  · split <;> simp [h]
  · simp [h]
  · simp [h]
  · simp [h]
@[simp] theorem serveRead_wf (s : State) (a : Nat) (req : Requester) (f : BurstFault) (h : s.mem.wf = true) :
    (s.serveRead a req f).mem.wf = true := by
  simp [State.serveRead, h]
@[simp] theorem serveWrite_wf (s : State) (a : Nat) (bs : List Byte) (req : Requester) (bus : BusCheck) (h : s.mem.wf = true) :
    (s.serveWrite a bs req bus).mem.wf = true := by
  simp [State.serveWrite, h]
@[simp] theorem serve_wf (s : State) (m : MemAccess) (h : s.mem.wf = true) : (s.serve m).mem.wf = true := by
  simp only [State.serve]
  split <;> simp [h]
@[simp] theorem access_wf (s : State) (a : Nat) (m : MemAccess) (h : s.mem.wf = true) : (s.access a m).mem.wf = true := by simp [State.access, h]
@[simp] theorem serveHeld_wf (s : State) (stack : Nat) (h : s.mem.wf = true) : (s.serveHeld stack).mem.wf = true :=
  foldl_wf _ _ _ (fun t a ht => by simp [ht]) (by simp [h])
@[simp] theorem execMemoryRead_keepsForm (addr : Addr) (req : Requester) (fault : BurstFault) (s : State) (h : s.mem.wf = true) :
    KeepsForm (execMemoryRead addr req fault s) := by
  simp [execMemoryRead, h]
@[simp] theorem execMemoryWrite_keepsForm (addr : Addr) (data : WriteData) (req : Requester) (s : State) (h : s.mem.wf = true) :
    KeepsForm (execMemoryWrite addr data req s) := by
  simp [execMemoryWrite, h]

/-! ## The array of blocks -/

@[simp] theorem execMatmul_keepsForm (b : BlockId) (f : MatmulFields) (s : State) (h : s.mem.wf = true) : KeepsForm (execMatmul b f s) := by
  refine core_keepsForm _ _ _ h fun t x ht => ?_
  split <;> simp [ht]
@[simp] theorem tileLoaded_mem (s : State) (b : BlockId) (f : MatmulFields) (rb ssB strideB : Nat) (r : ArrayRun) :
    (s.tileLoaded b f rb ssB strideB r).mem = s.mem := by
  simp [State.tileLoaded]
@[simp] theorem takenLoaded_mem (s : State) (b : BlockId) (l : ShadowLoad) (r : ArrayRun) : (s.takenLoaded b l r).mem = s.mem := by
  simp [State.takenLoaded]
@[simp] theorem execShadowLoadComplete_keepsForm (b : BlockId) (s : State) (h : s.mem.wf = true) : KeepsForm (execShadowLoadComplete b s) := by
  refine keepsForm_whenHere _ _ _ h ?_
  split
  · split
    · simp [h]
    · split <;> simp [h]
  · simp [h]
@[simp] theorem putSums_wf (m : Memory) (b : BlockId) (x : BlockState) (f : MatmulFields) (r : ArrayRun) (cells : Tab (BitVec 32)) (h : m.wf = true) :
    (putSums m b x f r cells).wf = true :=
  foldl_memory_wf _ _ _ (fun _ _ w => memPutNat_wf _ _ _ _ w) h
@[simp] theorem putElem_wf (m : Memory) (base w i code : Nat) (h : m.wf = true) : (putElem m base w i code).wf = true :=
  memPutNat_wf _ _ _ _ h
@[simp] theorem cWrite_wf (f : MatmulFields) (c strideC : Nat) (m : Memory) (ps : List (Nat × Nat)) (codes : List Nat) (scales : List Byte)
    (h : m.wf = true) : (cWrite f c strideC m ps codes scales).wf = true := by
  have w := foldl_memory_wf (fun m e => putElem m (cPlace f c strideC e.1.1 e.1.2).1 (fmtBits f.fmtC) (cPlace f c strideC e.1.1 e.1.2).2.1 e.2)
    (ps.zip codes) m (fun _ _ w => putElem_wf _ _ _ _ _ w) h
  simp only [cWrite]
  split
  · exact memPut_wf _ _ _ w
  · exact w
theorem mmOutBlock_wf (f : MatmulFields) (fault : ArrayFault) (c z strideC : Nat) (zregs : Tab (Nat × Option Byte)) (src : Memory)
    (acc : Nat → Nat → BitVec 32) (o : StageOut) (ps : List (Nat × Nat)) (h : o.out.mem.wf = true) :
    (mmOutBlock f fault c z strideC zregs src acc o ps).out.mem.wf = true :=
  cWrite_wf _ _ _ _ _ _ _ h
@[simp] theorem passEffect_wf (s : State) (b : BlockId) (f : MatmulFields) (fault : ArrayFault) (ra rc rz ssA ssB strideA strideC : Nat)
    (take : Option ShadowLoad) (r : ArrayRun) (h : s.mem.wf = true) : (s.passEffect b f fault ra rc rz ssA ssB strideA strideC take r).1.mem.wf = true := by
  unfold State.passEffect
  extract_lets x w zr p busy x1 acc o keep signed
  split
  · exact putSums_wf _ _ _ _ _ _ h
  · have wo : o.out.mem.wf = true :=
      List.foldlRecOn (motive := fun o => o.out.mem.wf = true) _ _ h fun (o : StageOut) ho ps _ => mmOutBlock_wf _ _ _ _ _ _ _ _ _ _ ho
    simp only [State.setBlock_mem]
    exact wf_of_ite h (wrote_wf _ _ _ wo)
@[simp] theorem arrayPass_wf (s : State) (b : BlockId) (f : MatmulFields) (fault : ArrayFault) (ra rc rz ssA ssB strideA strideC : Nat)
    (take : Option ShadowLoad) (r : ArrayRun) (h : s.mem.wf = true) :
    (s.arrayPass b f fault ra rc rz ssA ssB strideA strideC take r).mem.wf = true := by
  simp only [State.arrayPass]
  split
  · split <;> simp [h]
  · simp [h]
@[simp] theorem execArrayPass_keepsForm (b : BlockId) (fault : ArrayFault) (s : State) (h : s.mem.wf = true) :
    KeepsForm (execArrayPass b fault s) := by
  simp only [execArrayPass]
  split
  · refine keepsForm_whenHere _ _ _ h ?_
    split <;> simp [h]
  · simp [h]
@[simp] theorem execKeeperFillExpiry_keepsForm (b : BlockId) (s : State) (h : s.mem.wf = true) : KeepsForm (execKeeperFillExpiry b s) := by
  simp [execKeeperFillExpiry, h]
@[simp] theorem execKeeperRampStep_keepsForm (b : BlockId) (s : State) (h : s.mem.wf = true) : KeepsForm (execKeeperRampStep b s) := by
  simp only [execKeeperRampStep]
  split <;> simp [h]

/-! ## Reset of islands -/

@[simp] theorem sendSetpoint_mem (s : State) : s.sendSetpoint.mem = s.mem := by simp [State.sendSetpoint]
@[simp] theorem restartHub_wf (s : State) (k : ResetKind) (sources : BitVec 10) (count : BitVec 32) (stage : BitVec 8) (h : s.mem.wf = true) :
    (s.restartHub k sources count stage).mem.wf = true := by
  simp only [State.restartHub]
  split
  · exact filter_wf _ _ h
  · rfl
@[simp] theorem assertReset_wf (s : State) (k : ResetKind) (source : Nat) (h : s.mem.wf = true) : (s.assertReset k source).mem.wf = true := by
  simp [State.assertReset, h]
@[simp] theorem resetAfter_wf (s : State) (r : CplRecord) (h : s.mem.wf = true) : (s.resetAfter r).mem.wf = true := by
  simp only [State.resetAfter]
  split <;> simp [h]

/-! ## Records of the control complex -/

@[simp] theorem putCount_mem (s : State) (p : PartId) (r : RingRegs) (f : Partition → Partition) : (s.putCount p r f).mem = s.mem := by
  simp [State.putCount]
@[simp] theorem writeCmdTail_mem (s : State) (p : PartId) (v : Word) : (s.writeCmdTail p v).mem = s.mem := by simp [State.writeCmdTail]
@[simp] theorem writeCplHead_mem (s : State) (p : PartId) (v : Word) : (s.writeCplHead p v).mem = s.mem := by simp [State.writeCplHead]
@[simp] theorem writeEvtHead_mem (s : State) (p : PartId) (v : Word) : (s.writeEvtHead p v).mem = s.mem := by simp [State.writeEvtHead]
@[simp] theorem writePStatus_mem (s : State) (p : PartId) (v : Word) : (s.writePStatus p v).mem = s.mem := by simp [State.writePStatus]
@[simp] theorem windowWrite_mem (s : State) (p : PartId) (off : Nat) (v : Word) : (s.windowWrite p off v).mem = s.mem := by
  simp only [State.windowWrite]
  split <;> simp
@[simp] theorem execFmpPCmdTailWrite_keepsForm (p : PartId) (value : Word) (s : State) (h : s.mem.wf = true) :
    KeepsForm (execFmpPCmdTailWrite p value s) := by
  simp [execFmpPCmdTailWrite, h]
@[simp] theorem execFmpPCplHeadWrite_keepsForm (p : PartId) (value : Word) (s : State) (h : s.mem.wf = true) :
    KeepsForm (execFmpPCplHeadWrite p value s) := by
  simp [execFmpPCplHeadWrite, h]
@[simp] theorem execFmpPEvtHeadWrite_keepsForm (p : PartId) (value : Word) (s : State) (h : s.mem.wf = true) :
    KeepsForm (execFmpPEvtHeadWrite p value s) := by
  simp [execFmpPEvtHeadWrite, h]
@[simp] theorem execHeadErrClear_keepsForm (p : PartId) (value : Word) (s : State) (h : s.mem.wf = true) :
    KeepsForm (execHeadErrClear p value s) := by
  simp [execHeadErrClear, h]
@[simp] theorem cacheLines_mem (s : State) (ls : List (BitVec 47)) : (s.cacheLines ls).mem = s.mem := by simp [State.cacheLines]
@[simp] theorem readRecord_wf (s : State) (p : PartId) (c : CmdHeader) (again : State → State) (h : s.mem.wf = true)
    (ha : ∀ t : State, t.mem.wf = true → (again t).mem.wf = true) : (s.readRecord p c again).mem.wf = true := by
  simp [State.readRecord, h, ha]
@[simp] theorem execCommandRecordRead_keepsForm (p : PartId) (c : CmdHeader) (s : State) (h : s.mem.wf = true) :
    KeepsForm (execCommandRecordRead p c s) :=
  keepsForm_when _ _ _ h (readRecord_wf _ _ _ _ h fun _ ht => ht)
@[simp] theorem parkStale_mem (s : State) (p : PartId) : (s.parkStale p).mem = s.mem := by simp [State.parkStale]
@[simp] theorem execRingReread_keepsForm (p : PartId) (h : CmdHeader) (s : State) (w : s.mem.wf = true) : KeepsForm (execRingReread p h s) := by
  simp [execRingReread, w]
@[simp] theorem execUnknown_keepsForm (s : State) (h : s.mem.wf = true) : KeepsForm (execUnknown s) := by
  simp only [execUnknown]
  split <;> simp [h]
@[simp] theorem settleHold_mem (s : State) (p : PartId) : (s.settleHold p).mem = s.mem := by simp [State.settleHold]
@[simp] theorem ackRecord_wf (s : State) (p : PartId) (event : Bool) (h : s.mem.wf = true) : (s.ackRecord p event).mem.wf = true := by
  simp only [State.ackRecord]
  split <;> split <;> simp [h]
@[simp] theorem execDeviceRecordAck_keepsForm (p : PartId) (event : Bool) (s : State) (h : s.mem.wf = true) :
    KeepsForm (execDeviceRecordAck p event s) := by
  simp [execDeviceRecordAck, h]
@[simp] theorem takeEvent_wf (s : State) (e : EventReq) (h : s.mem.wf = true) : (s.takeEvent e).mem.wf = true := by simp [State.takeEvent, h]
@[simp] theorem execEventRaise_keepsForm (s : State) (h : s.mem.wf = true) : KeepsForm (execEventRaise s) := by
  simp only [execEventRaise]
  split <;> simp [h]
@[simp] theorem execCompletionCollect_keepsForm (s : State) (h : s.mem.wf = true) : KeepsForm (execCompletionCollect s) := by
  simp only [execCompletionCollect]
  split
  · simp [h]
  · split <;> simp [h]
@[simp] theorem writeGroupDone_mem (s : State) (p : PartId) : (s.writeGroupDone p).mem = s.mem := by simp [State.writeGroupDone]
@[simp] theorem execGroupDoneWrite_keepsForm (p : PartId) (s : State) (h : s.mem.wf = true) : KeepsForm (execGroupDoneWrite p s) := by
  simp [execGroupDoneWrite, h]
@[simp] theorem execCoalescingWaitExpiry_keepsForm (p : PartId) (s : State) (h : s.mem.wf = true) : KeepsForm (execCoalescingWaitExpiry p s) := by
  simp [execCoalescingWaitExpiry, h]
@[simp] theorem execCompletionHold_keepsForm (p : PartId) (cycles : Word) (s : State) (h : s.mem.wf = true) :
    KeepsForm (execCompletionHold p cycles s) := by
  simp [execCompletionHold, h]
@[simp] theorem execReportIntervalEnd_keepsForm (p : PartId) (s : State) (h : s.mem.wf = true) : KeepsForm (execReportIntervalEnd p s) := by
  simp [execReportIntervalEnd, h]

/-! ## Configuration drafts -/

@[simp] theorem putPart_mem (s : State) (p : PartId) (x : Partition) : (s.putPart p x).mem = s.mem := by simp [State.putPart]
@[simp] theorem idleBlock_mem (s : State) (b : BlockId) : (s.idleBlock b).mem = s.mem := by simp [State.idleBlock]
@[simp] theorem idleQuads_mem (s : State) (mask : BitVec 64) : (s.idleQuads mask).mem = s.mem := by simp [State.idleQuads]
@[simp] theorem hubSet_mem (c : DraftCmd) (s : State) : (hubSet c s).mem = s.mem := by
  simp only [hubSet]
  split <;> simp
@[simp] theorem updSet_mem (r : RegionId) (c : DraftCmd) (s : State) : (updSet r c s).mem = s.mem := by
  simp only [updSet]
  split <;> simp
@[simp] theorem telemetrySet_mem (c : DraftCmd) (s : State) : (telemetrySet c s).mem = s.mem := by
  simp only [telemetrySet]
  split <;> simp
@[simp] theorem draftStep_mem (s : State) (c : DraftCmd) : (draftStep s c).mem = s.mem := by simp [draftStep]
@[simp] theorem draftState_mem (s : State) (cs : List DraftCmd) : (draftState s cs).mem = s.mem := by simp [draftState]
@[simp] theorem stageCmd_keepsForm (s : State) (op : BitVec 16) (sc : State → Scope) (d : DraftSetting) (h : s.mem.wf = true) :
    KeepsForm (s.stageCmd op sc d) := by
  refine cmd_keepsForm _ _ _ _ h fun t r ht => ?_
  dsimp only
  split <;> simp [ht]
@[simp] theorem execPartCreate_keepsForm (x : PartCreateP) (s : State) (h : s.mem.wf = true) : KeepsForm (execPartCreate x s) := by
  simp [execPartCreate, h]
@[simp] theorem execPartDestroy_keepsForm (index : BitVec 8) (s : State) (h : s.mem.wf = true) : KeepsForm (execPartDestroy index s) := by
  simp [execPartDestroy, h]
@[simp] theorem execPartQuads_keepsForm (index : BitVec 8) (mask : BitVec 64) (s : State) (h : s.mem.wf = true) :
    KeepsForm (execPartQuads index mask s) := by
  simp [execPartQuads, h]
@[simp] theorem execPartMem_keepsForm (x : PartMemP) (s : State) (h : s.mem.wf = true) : KeepsForm (execPartMem x s) := by simp [execPartMem, h]
@[simp] theorem execPartCheckMode_keepsForm (mode : BitVec 2) (s : State) (h : s.mem.wf = true) : KeepsForm (execPartCheckMode mode s) := by
  simp [execPartCheckMode, h]
@[simp] theorem execReportSet_keepsForm (x : ReportP) (s : State) (h : s.mem.wf = true) : KeepsForm (execReportSet x s) := by simp [execReportSet, h]
@[simp] theorem execStageSet_keepsForm (x : StageP) (s : State) (h : s.mem.wf = true) : KeepsForm (execStageSet x s) := by simp [execStageSet, h]
@[simp] theorem execStageClear_keepsForm (index : BitVec 8) (s : State) (h : s.mem.wf = true) : KeepsForm (execStageClear index s) := by
  simp [execStageClear, h]
@[simp] theorem execQueueConfig_keepsForm (x : QueueConfigP) (s : State) (h : s.mem.wf = true) : KeepsForm (execQueueConfig x s) := by
  simp [execQueueConfig, h]
@[simp] theorem execCollGroupSet_keepsForm (index : BitVec 8) (list : Addr) (count : BitVec 13) (s : State) (h : s.mem.wf = true) :
    KeepsForm (execCollGroupSet index list count s) := by
  simp [execCollGroupSet, h]
@[simp] theorem execCollPlanSet_keepsForm (index : BitVec 16) (x : PlanEntry) (s : State) (h : s.mem.wf = true) :
    KeepsForm (execCollPlanSet index x s) := by
  simp [execCollPlanSet, h]
@[simp] theorem execCollPlanClear_keepsForm (index : BitVec 16) (s : State) (h : s.mem.wf = true) : KeepsForm (execCollPlanClear index s) := by
  simp [execCollPlanClear, h]
@[simp] theorem execCollJobSet_keepsForm (job : BitVec 16) (group : BitVec 8) (norm : Addr) (timeoutMs : BitVec 32) (s : State) (h : s.mem.wf = true) :
    KeepsForm (execCollJobSet job group norm timeoutMs s) := by
  simp [execCollJobSet, h]
@[simp] theorem execUpdTaskSet_keepsForm (region : RegionId) (index : BitVec 8) (x : Sys2Proof.TaskEntry) (s : State) (h : s.mem.wf = true) :
    KeepsForm (execUpdTaskSet region index x s) := by
  simp [execUpdTaskSet, h]
@[simp] theorem execUpdTaskClear_keepsForm (region : RegionId) (index : BitVec 8) (s : State) (h : s.mem.wf = true) :
    KeepsForm (execUpdTaskClear region index s) := by
  simp [execUpdTaskClear, h]
@[simp] theorem execUpdParamSet_keepsForm (region : RegionId) (index : BitVec 5) (words : BitVec 512) (s : State) (h : s.mem.wf = true) :
    KeepsForm (execUpdParamSet region index words s) := by
  simp [execUpdParamSet, h]
@[simp] theorem execUpdSchedSet_keepsForm (region : RegionId) (first : BitVec 8) (segs : List SchedSeg) (s : State) (h : s.mem.wf = true) :
    KeepsForm (execUpdSchedSet region first segs s) := by
  simp [execUpdSchedSet, h]
@[simp] theorem execMemClassSet_keepsForm (partition : PartId) (first count : BitVec 16) (classA : Bool) (s : State) (h : s.mem.wf = true) :
    KeepsForm (execMemClassSet partition first count classA s) := by
  simp [execMemClassSet, h]
@[simp] theorem execLinkConfig_keepsForm (x : LinkConfigP) (s : State) (h : s.mem.wf = true) : KeepsForm (execLinkConfig x s) := by
  simp [execLinkConfig, h]
@[simp] theorem execLinkRouteSet_keepsForm (first : BitVec 16) (count : BitVec 32) (addr : Addr) (s : State) (h : s.mem.wf = true) :
    KeepsForm (execLinkRouteSet first count addr s) := by
  simp [execLinkRouteSet, h]
@[simp] theorem execLinkIdSet_keepsForm (device : BitVec 16) (hopLimit : BitVec 8) (s : State) (h : s.mem.wf = true) :
    KeepsForm (execLinkIdSet device hopLimit s) := by
  simp [execLinkIdSet, h]
@[simp] theorem execSclConfig_keepsForm (x : SclConfigP) (s : State) (h : s.mem.wf = true) : KeepsForm (execSclConfig x s) := by
  simp [execSclConfig, h]
@[simp] theorem execEventMaskSet_keepsForm (codes : List (BitVec 16)) (s : State) (h : s.mem.wf = true) : KeepsForm (execEventMaskSet codes s) := by
  simp [execEventMaskSet, h]
@[simp] theorem execPowerLimitSet_keepsForm (x : PowerLimitP) (s : State) (h : s.mem.wf = true) : KeepsForm (execPowerLimitSet x s) := by
  simp [execPowerLimitSet, h]
@[simp] theorem execGuestFwSet_keepsForm (x : GuestFwP) (s : State) (h : s.mem.wf = true) : KeepsForm (execGuestFwSet x s) := by
  simp [execGuestFwSet, h]
@[simp] theorem execExportSet_keepsForm (x : ExportP) (s : State) (h : s.mem.wf = true) : KeepsForm (execExportSet x s) := by simp [execExportSet, h]
@[simp] theorem execBatchSet_keepsForm (x : BatchP) (s : State) (h : s.mem.wf = true) : KeepsForm (execBatchSet x s) := by simp [execBatchSet, h]
@[simp] theorem execCheck_keepsForm (s : State) (h : s.mem.wf = true) : KeepsForm (execCheck s) := by
  refine cmd_keepsForm _ _ _ _ h fun t r ht => ?_
  split <;> simp [ht]
@[simp] theorem execDraftDiscard_keepsForm (s : State) (h : s.mem.wf = true) : KeepsForm (execDraftDiscard s) := by simp [execDraftDiscard, h]
@[simp] theorem execDraftQuery_keepsForm (s : State) (h : s.mem.wf = true) : KeepsForm (execDraftQuery s) := by simp [execDraftQuery, h]

/-! ## Permutes -/

@[simp] theorem storePermute_mem (s : State) (x : Permute) : (s.storePermute x).mem = s.mem := by
  simp only [State.storePermute]
  split
  · refine (endBg_mem _ _ _ _ fun t r => ?_).trans rfl
    split <;> simp
  · rfl
@[simp] theorem failCycle_wf (s : State) (x : Permute) (cycle : BitVec 32) (h : s.mem.wf = true) : (s.failCycle x cycle).1.mem.wf = true := by
  simp only [State.failCycle, State.raise_mem, State.count_mem]
  exact foldl_wf _ _ _ (fun t e w => wf_of_ite (undefine_wf _ _ _ (wf_of_ite (undefine_wf _ _ _ w) w)) (wf_of_ite (undefine_wf _ _ _ w) w)) h
@[simp] theorem startMove_wf (s : State) (x : Permute) (e : PermEntry) (h : s.mem.wf = true) : (s.startMove x e).1.mem.wf = true := by
  simp only [State.startMove]
  split <;> simp [h]
@[simp] theorem landMove_wf (s : State) (x : Permute) (e : PermEntry × PermState) (at_ : Nat) (data : List Byte) (h : s.mem.wf = true) :
    (s.landMove x e at_ data).1.mem.wf = true := by
  simp [State.landMove, h]
@[simp] theorem landEarly_wf (s : State) (x : Permute) (h : s.mem.wf = true) : (s.landEarly x).1.mem.wf = true := by
  refine foldl_fst_wf _ _ _ (fun t d w => ?_) h
  split
  · simp [w]
  · exact w
@[simp] theorem putPermute_wf (s : State) (x : Permute) (h : s.mem.wf = true) : (s.putPermute x).mem.wf = true := by
  simp only [State.putPermute, storePermute_mem]
  exact foldl_fst_wf _ _ _ (fun t e w => startMove_wf _ _ _ w) (landEarly_wf _ _ h)
@[simp] theorem vacated_wf (s : State) (x : Permute) (cycle : BitVec 32) (pos : BitVec 16) (h : s.mem.wf = true) :
    (s.vacated x cycle pos).1.mem.wf = true := by
  simp only [State.vacated]
  split
  · simp [h]
  · split <;> simp [h]
@[simp] theorem copyBack_wf (s : State) (x : Permute) (e : PermEntry) (h : s.mem.wf = true) : (s.copyBack x e).1.mem.wf = true := by
  simp only [State.copyBack]
  split
  · simp [h]
  · split <;> simp [h]
@[simp] theorem execPermuteMoveLanded_keepsForm (cycle : BitVec 32) (pos : BitVec 16) (s : State) (h : s.mem.wf = true) :
    KeepsForm (execPermuteMoveLanded cycle pos s) := by
  unfold execPermuteMoveLanded
  split
  · extract_lets s1 s2 y r
    have w2 : s2.mem.wf = true := wf_of_ite (put_wf _ _ _ h) h
    have wr : r.1.mem.wf = true := by
      unfold r
      split
      · exact copyBack_wf _ _ _ w2
      · exact vacated_wf _ _ _ _ w2
    simp [wr]
  · simpa using h
@[simp] theorem execVacateNotice_keepsForm (cycle : BitVec 32) (pos : BitVec 16) (s : State) (h : s.mem.wf = true) :
    KeepsForm (execVacateNotice cycle pos s) := by
  unfold execVacateNotice
  split
  · exact keepsForm_when _ _ _ h (putPermute_wf _ _ (startMove_wf _ _ _ (by simpa using h)))
  · simpa using h
@[simp] theorem moveData_wf (s : State) (cycle : BitVec 32) (dev : BitVec 16) (off : Nat) (data : List Byte) (h : s.mem.wf = true) :
    (s.moveData cycle dev off data).mem.wf = true := by
  simp only [State.moveData]
  split
  · simp [h]
  · split <;> simp [h]
@[simp] theorem execPermuteStart_keepsForm (group : BitVec 8) (table : Addr) (count : BitVec 32) (staging : Addr) (size : BitVec 64) (s : State)
    (h : s.mem.wf = true) :
    KeepsForm (execPermuteStart group table count staging size s) :=
  cmd_keepsForm _ _ _ _ h fun t r ht => by simp [ht]
@[simp] theorem execColTimeoutExpiry_keepsForm (w : ColWait) (s : State) (h : s.mem.wf = true) : KeepsForm (execColTimeoutExpiry w s) := by
  simp only [execColTimeoutExpiry]
  split <;> split <;> simp [h]

/-! ## Companion sessions -/

@[simp] theorem setScl_mem (s : State) (f : SclState → SclState) : (s.setScl f).mem = s.mem := by simp [State.setScl]
@[simp] theorem holdSession_mem (s : State) (heartbeat : Bool) : (s.holdSession heartbeat).mem = s.mem := by simp [State.holdSession]
@[simp] theorem rewriteRecords_mem (s : State) (p : PartId) : (s.rewriteRecords p).mem = s.mem := by
  simp only [State.rewriteRecords, pumpCpl_mem, pumpEvt_mem]
  cases (s.part p).records with
  | nil => split <;> simp
  | cons r l =>
    dsimp only
    split <;> simp
@[simp] theorem attach_mem (s : State) : s.attach.mem = s.mem := by simp [State.attach]
@[simp] theorem resumeSession_mem (s : State) : s.resumeSession.mem = s.mem := by simp [State.resumeSession]
@[simp] theorem exportLost_mem (s : State) (p : PartId) : (s.exportLost p).mem = s.mem := by
  simp only [State.exportLost]
  split
  · split <;> simp
  · simp
@[simp] theorem writeLost_mem (s : State) (b : BlockId) (committed : Bool) : (s.writeLost b committed).mem = s.mem := by
  simp only [State.writeLost]
  split
  · split <;> simp
  · simp
@[simp] theorem readLost_mem (s : State) (r : CompanionReq) (b : BlockId) (ofGroup : Bool) : (s.readLost r b ofGroup).mem = s.mem := by
  simp [State.readLost]
@[simp] theorem flushReq_wf (s : State) (r : CompanionReq) (later : List CompanionReq) (h : s.mem.wf = true) :
    (s.flushReq r later).mem.wf = true := by
  simp only [State.flushReq]
  split <;> simp [h]
@[simp] theorem flushReqs_wf (s : State) (l : List CompanionReq) (h : s.mem.wf = true) : (s.flushReqs l).mem.wf = true := by
  induction l generalizing s with
  | nil => exact h
  | cons r rest ih => exact ih _ (flushReq_wf s r rest h)
@[simp] theorem endSnoop_wf (s : State) (w : SnoopWait) (h : s.mem.wf = true) : (s.endSnoop w).mem.wf = true := by
  simp only [State.endSnoop]
  split <;> simp [h]
@[simp] theorem sessionFlush_wf (s : State) (flits : Nat) (h : s.mem.wf = true) : (s.sessionFlush flits).mem.wf = true := by
  refine foldl_wf _ _ _ (fun t a ht => ?_) ?_
  · simp [ht]
  · exact foldl_wf _ _ _ (fun t a ht => by simp [ht]) (by simp [h])

/-! ## Links -/

@[simp] theorem settleDetach_mem (s : State) : s.settleDetach.mem = s.mem := by simp [State.settleDetach]
@[simp] theorem putAcked_mem (s : State) (l : LinkId) (x : LinkState) : (s.putAcked l x).mem = s.mem := by simp [State.putAcked]
@[simp] theorem onLink_keepsForm (l : LinkId) (s : State) (r : State → LinkState → Res) (h : s.mem.wf = true)
    (hr : ∀ x : LinkState, KeepsForm (r s x)) : KeepsForm (onLink l s r) :=
  keepsForm_whenHere _ _ _ h (hr _)
@[simp] theorem sendRecs_mem (s : State) (l : LinkId) (rs : List LinkRec) : (s.sendRecs l rs).mem = s.mem := by simp [State.sendRecs]
@[simp] theorem noticeLoss_wf (s : State) (i : InFlight) (h : s.mem.wf = true) : (s.noticeLoss i).mem.wf = true := by
  simp only [State.noticeLoss]
  split
  · split <;> simp [h]
  · split
    · split <;> simp [h]
    · simp [h]
  · split <;> simp [h]
  · split <;> simp [h]
  · split <;> simp [h]
  · split <;> simp [h]
  · split <;> simp [h]
  · split <;> simp [h]
  · simp [h]
@[simp] theorem flushLink_wf (s : State) (l : LinkId) (h : s.mem.wf = true) : (s.flushLink l).mem.wf = true := by
  simp only [State.flushLink]
  split
  · simp [h]
  · exact foldl_wf _ _ _ (fun t a ht => by simp [ht]) (by simp [h])
@[simp] theorem graceFlush_wf (s : State) (l : LinkId) (h : s.mem.wf = true) : (s.graceFlush l).mem.wf = true := by simp [State.graceFlush, h]
@[simp] theorem loseTraining_wf (s : State) (l : LinkId) (h : s.mem.wf = true) : (s.loseTraining l).mem.wf = true := by simp [State.loseTraining, h]
@[simp] theorem hitch_wf (s : State) (l : LinkId) (h : s.mem.wf = true) : (s.hitch l).mem.wf = true := by simp [State.hitch, h]
@[simp] theorem replay_wf (s : State) (l : LinkId) (h : s.mem.wf = true) : (s.replay l).mem.wf = true := by simp [State.replay, h]
@[simp] theorem takeFlitAck_wf (s : State) (l : LinkId) (a : FlitAck) (h : s.mem.wf = true) : (s.takeFlitAck l a).mem.wf = true := by
  simp [State.takeFlitAck, h]
@[simp] theorem execReplayRequest_keepsForm (l : LinkId) (ack : FlitAck) (s : State) (h : s.mem.wf = true) :
    KeepsForm (execReplayRequest l ack s) := by
  simp [execReplayRequest, h]
@[simp] theorem execAckTimeoutExpiry_keepsForm (timer : AckTimer) (s : State) (h : s.mem.wf = true) : KeepsForm (execAckTimeoutExpiry timer s) :=
  onLink_keepsForm _ _ _ h fun x => by simp [h]
@[simp] theorem execAckFlitDue_keepsForm (l : LinkId) (s : State) (h : s.mem.wf = true) : KeepsForm (execAckFlitDue l s) := by
  simp [execAckFlitDue, h]
@[simp] theorem takeCredit_mem (s : State) (l : LinkId) (c : CreditRec) : (s.takeCredit l c).mem = s.mem := by simp [State.takeCredit]
@[simp] theorem sendNew_mem (s : State) (l : LinkId) (x : LinkState) (vc : Channel) (first : Bool) (npkt : Nat) (payload : List Byte) :
    (s.sendNew l x vc first npkt payload).mem = s.mem := by
  simp [State.sendNew]
@[simp] theorem askWidth_mem (s : State) (l : LinkId) (mask : BitVec 8) (cause : BitVec 4) : (s.askWidth l mask cause).mem = s.mem := by
  simp [State.askWidth]
@[simp] theorem wantWidth_mem (s : State) (l : LinkId) : (s.wantWidth l).mem = s.mem := by
  simp only [State.wantWidth]
  split
  · simp
  · split <;> simp
@[simp] theorem countSpares_mem (s : State) : s.countSpares.mem = s.mem := by simp [State.countSpares]
@[simp] theorem setTxLanes_mem (s : State) (l : LinkId) (m : BitVec 8) : (s.setTxLanes l m).mem = s.mem := by simp [State.setTxLanes]
@[simp] theorem sendSwitch_mem (s : State) (l : LinkId) (x : LinkState) (r : LaneRec) : (s.sendSwitch l x r).mem = s.mem := by simp [State.sendSwitch]
@[simp] theorem execSignalDetect_keepsForm (l : LinkId) (s : State) (h : s.mem.wf = true) : KeepsForm (execSignalDetect l s) := by
  simp [execSignalDetect, h]
@[simp] theorem trainingEnds_mem (s : State) (l : LinkId) (x : LinkState) (lanes : BitVec 18) : (s.trainingEnds l x lanes).mem = s.mem := by
  simp [State.trainingEnds]
@[simp] theorem execTrainingComplete_keepsForm (l : LinkId) (lanes : BitVec 18) (s : State) (h : s.mem.wf = true) :
    KeepsForm (execTrainingComplete l lanes s) := by
  refine onLink_keepsForm _ _ _ h fun x => ?_
  split <;> simp [h]
@[simp] theorem execQuickRetrainFail_keepsForm (l : LinkId) (s : State) (h : s.mem.wf = true) : KeepsForm (execQuickRetrainFail l s) := by
  simp [execQuickRetrainFail, h]
@[simp] theorem endForward_mem (s : State) (c : Option CutThrough) (v : Nat) : (s.endForward c v).mem = s.mem := by
  simp only [State.endForward]
  split <;> simp
@[simp] theorem startFresh_wf (s : State) (l : LinkId) (i : IdentRec) (h : s.mem.wf = true) : (s.startFresh l i).mem.wf = true := by
  simp [State.startFresh, h]
@[simp] theorem takeIdent_wf (s : State) (l : LinkId) (i : IdentRec) (h : s.mem.wf = true) : (s.takeIdent l i).mem.wf = true := by
  simp [State.takeIdent, h]
@[simp] theorem takeResume_wf (s : State) (l : LinkId) (r : ResumeRec) (h : s.mem.wf = true) : (s.takeResume l r).mem.wf = true := by
  simp [State.takeResume, h]
@[simp] theorem execSignalLost_keepsForm (l : LinkId) (s : State) (h : s.mem.wf = true) : KeepsForm (execSignalLost l s) := by
  simp [execSignalLost, h]
@[simp] theorem execGraceExpiry_keepsForm (l : LinkId) (s : State) (h : s.mem.wf = true) : KeepsForm (execGraceExpiry l s) :=
  onLink_keepsForm _ _ _ h fun x => by simp [h]
@[simp] theorem execUncorrectableCodeword_keepsForm (l : LinkId) (flits windowCount : Nat) (s : State) (h : s.mem.wf = true) :
    KeepsForm (execUncorrectableCodeword l flits windowCount s) :=
  onLink_keepsForm _ _ _ h fun x => by simp [h]
@[simp] theorem setRxLanes_mem (s : State) (l : LinkId) (m : BitVec 8) : (s.setRxLanes l m).mem = s.mem := by simp [State.setRxLanes]
@[simp] theorem takeSwitch_mem (s : State) (l : LinkId) (r : LaneRec) : (s.takeSwitch l r).mem = s.mem := by simp [State.takeSwitch]
@[simp] theorem laneReq_mem (s : State) (l : LinkId) (r : LaneRec) : (s.laneReq l r).mem = s.mem := by simp [State.laneReq]
@[simp] theorem openRemount_mem (s : State) (dir : SclDir) (logical physFrom physTo : Nat) (cause : BitVec 4) :
    (s.openRemount dir logical physFrom physTo cause).mem = s.mem := by
  simp [State.openRemount]
@[simp] theorem moveOffFailed_mem (s : State) (width : Nat) : (s.moveOffFailed width).mem = s.mem := by
  simp only [State.moveOffFailed]
  split <;> simp
@[simp] theorem narrowRx_wf (s : State) (phys : Nat) (h : s.mem.wf = true) : (s.narrowRx phys).mem.wf = true := by simp [State.narrowRx, h]
@[simp] theorem fixLanes_wf (s : State) (h : s.mem.wf = true) : s.fixLanes.mem.wf = true := by
  simp only [State.fixLanes]
  split
  · simp [h]
  · split
    · simp [h]
    · split
      · simp [h]
      · split
        · simp [h]
        · split <;> simp [h]
@[simp] theorem remounted_mem (s : State) (r : RemountRec) : (s.remounted r).mem = s.mem := by simp [State.remounted]
@[simp] theorem endRemountRx_wf (s : State) (r : RemountRec) (h : s.mem.wf = true) : (s.endRemountRx r).mem.wf = true := by
  simp [State.endRemountRx, h]
@[simp] theorem switchTx_mem (s : State) (r : RemountRec) : (s.switchTx r).mem = s.mem := by simp [State.switchTx]
@[simp] theorem remountReq_mem (s : State) (r : RemountRec) : (s.remountReq r).mem = s.mem := by
  simp only [State.remountReq]
  split <;> simp
@[simp] theorem remountAccept_mem (s : State) (dir : SclDir) (cmd : BitVec 8) : (s.remountAccept dir cmd).mem = s.mem := by
  simp only [State.remountAccept]
  split
  · split
    · split <;> simp
    · simp
  · simp
@[simp] theorem remountRefuse_mem (s : State) (dir : SclDir) (cmd : BitVec 8) : (s.remountRefuse dir cmd).mem = s.mem := by
  simp only [State.remountRefuse]
  split <;> simp
@[simp] theorem remountSwitch_wf (s : State) (dir : SclDir) (cmd : BitVec 8) (h : s.mem.wf = true) : (s.remountSwitch dir cmd).mem.wf = true := by
  simp only [State.remountSwitch]
  split <;> simp [h]
@[simp] theorem execFlitSend_send_mem (l : LinkId) (s : State) (x : LinkState) : (execFlitSend.send l s x).mem = s.mem := by
  unfold execFlitSend.send
  split
  · simp
  · split
    · simp
    · repeat' split
      all_goals simp
@[simp] theorem execFlitSend_keepsForm (l : LinkId) (s : State) (h : s.mem.wf = true) : KeepsForm (execFlitSend l s) := by
  refine onLink_keepsForm _ _ _ h fun x => keepsForm_when _ _ _ h ?_
  split
  · simp [h]
  · split <;> simp [h]
  · simp [h]
@[simp] theorem laneAccept_wf (s : State) (l : LinkId) (cmd : BitVec 8) (h : s.mem.wf = true) : (s.laneAccept l cmd).mem.wf = true := by
  simp only [State.laneAccept]
  split <;> simp [h]
@[simp] theorem laneRefuse_mem (s : State) (l : LinkId) (cmd : BitVec 8) : (s.laneRefuse l cmd).mem = s.mem := by
  simp only [State.laneRefuse]
  split <;> simp
@[simp] theorem laneSwitch_mem (s : State) (l : LinkId) (cmd : BitVec 8) : (s.laneSwitch l cmd).mem = s.mem := by
  simp only [State.laneSwitch]
  split <;> simp
@[simp] theorem execLaneReqTimeout_keepsForm (l : LinkId) (s : State) (h : s.mem.wf = true) : KeepsForm (execLaneReqTimeout l s) := by
  refine onLink_keepsForm _ _ _ h fun x => ?_
  split <;> simp [h]
@[simp] theorem execLaneErrorWindow_keepsForm (l : LinkId) (counts : List Nat) (s : State) (h : s.mem.wf = true) :
    KeepsForm (execLaneErrorWindow l counts s) := by
  refine keepsForm_whenHere _ _ _ h (keepsForm_when _ _ _ h ?_)
  refine wf_of_ite (by simpa using h) ?_
  extract_lets ex good m s1
  have w1 : s1.mem.wf = true := (congrArg Memory.wf (foldl_mem _ _ _ fun _ _ => raiseAll_mem _ _ _ _ _ _)).trans h
  split
  · exact w1
  · simpa using w1
@[simp] theorem execFecLockLost_keepsForm (l : LinkId) (s : State) (h : s.mem.wf = true) : KeepsForm (execFecLockLost l s) := by
  refine onLink_keepsForm _ _ _ h fun x => ?_
  split
  · simp [h]
  · split <;> simp [h]
@[simp] theorem takeRec_wf (s : State) (l : LinkId) (r : LinkRec) (h : s.mem.wf = true) : (s.takeRec l r).mem.wf = true := by
  simp only [State.takeRec]
  split
  · simp [h]
  · simp [h]
  · simp [h]
  · split <;> simp [h]
  · split <;> simp [h]
@[simp] theorem execDataFlitReceived_keepsForm (l : LinkId) (head : BitVec 42) (reserved : BitVec 54) (payload : List Byte) (crc : BitVec 32) (s : State)
    (h : s.mem.wf = true) : KeepsForm (execDataFlitReceived l head reserved payload crc s) := by
  refine onLink_keepsForm _ _ _ h fun x => (keepsForm_next _).mpr ?_
  split
  · split <;> simp [h]
  · split <;> simp [h]
  · exact foldl_wf _ _ _ (fun t r w => takeRec_wf _ _ _ w) (takeFlitAck_wf _ _ _ h)
  · split <;> simp [h]
@[simp] theorem withRec_keepsForm (l : LinkId) (ack : FlitAck) (r : LinkRec) (s : State) (h : s.mem.wf = true) : KeepsForm (withRec l ack r s) :=
  onLink_keepsForm _ _ _ h fun _ => (keepsForm_next _).mpr (takeRec_wf _ _ _ (takeFlitAck_wf _ _ _ h))
@[simp] theorem execCredit_keepsForm (l : LinkId) (c : Carried CreditRec) (s : State) (h : s.mem.wf = true) : KeepsForm (execCredit l c s) := by
  simp [execCredit, h]
@[simp] theorem execIdent_keepsForm (l : LinkId) (i : Carried IdentRec) (s : State) (h : s.mem.wf = true) : KeepsForm (execIdent l i s) := by
  simp [execIdent, h]
@[simp] theorem execResume_keepsForm (l : LinkId) (r : Carried ResumeRec) (s : State) (h : s.mem.wf = true) : KeepsForm (execResume l r s) := by
  simp [execResume, h]
@[simp] theorem execLaneReq_keepsForm (l : LinkId) (ack : FlitAck) (r : LaneRec) (s : State) (h : s.mem.wf = true) :
    KeepsForm (execLaneReq l ack r s) := by
  simp [execLaneReq, h]
@[simp] theorem execLaneAccept_keepsForm (l : LinkId) (cmd : Carried (BitVec 8)) (s : State) (h : s.mem.wf = true) :
    KeepsForm (execLaneAccept l cmd s) := by
  simp [execLaneAccept, h]
@[simp] theorem execLaneRefuse_keepsForm (l : LinkId) (cmd : Carried (BitVec 8)) (s : State) (h : s.mem.wf = true) :
    KeepsForm (execLaneRefuse l cmd s) := by
  simp [execLaneRefuse, h]
@[simp] theorem execLaneSwitch_keepsForm (l : LinkId) (cmd : Carried (BitVec 8)) (s : State) (h : s.mem.wf = true) :
    KeepsForm (execLaneSwitch l cmd s) := by
  simp [execLaneSwitch, h]
@[simp] theorem toPort_mem (s : State) (l : LinkId) (p : TxPacket) : (s.toPort l p).mem = s.mem := by simp [State.toPort]
@[simp] theorem noRoute_mem (s : State) (p : TxPacket) (part : Option PartId) : (s.noRoute p part).mem = s.mem := by
  simp only [State.noRoute]
  split <;> simp
@[simp] theorem route_mem (s : State) (p : TxPacket) (part : Option PartId) : (s.route p part).1.mem = s.mem := by
  simp only [State.route]
  split <;> simp
@[simp] theorem countLink_mem (s : State) (p : Packet) (part : Option PartId) : (s.countLink p part).mem = s.mem := by
  simp only [State.countLink]
  split <;> simp
@[simp] theorem sendPacket_mem (s : State) (i : InFlight) (p : Packet) : (s.sendPacket i p).mem = s.mem := by simp [State.sendPacket]
@[simp] theorem execPacketRoute_keepsForm (p : Outgoing) (s : State) (h : s.mem.wf = true) : KeepsForm (execPacketRoute p s) := by
  simp only [execPacketRoute]
  split <;> simp [h]
@[simp] theorem fromScl_mem (s : State) (vc : Channel) (kind : BitVec 8) : (s.fromScl vc kind).mem = s.mem := by
  simp only [State.fromScl]
  split <;> simp
@[simp] theorem forward_mem (s : State) (p : TxPacket) (parityOk : Bool) : (s.forward p parityOk).1.mem = s.mem := by
  simp only [State.forward]
  split
  · simp
  · split <;> simp
@[simp] theorem forwardFirst_mem (s : State) (l : LinkId) (vc : Channel) (f : Flit) (rest : List Flit) (parityOk : Bool) :
    (s.forwardFirst l vc f rest parityOk).mem = s.mem := by
  simp [State.forwardFirst]
@[simp] theorem forwardNext_mem (s : State) (l : LinkId) (vc : Channel) (c : CutThrough) (f : Flit) (rest : List Flit) (parityOk : Bool) :
    (s.forwardNext l vc c f rest parityOk).mem = s.mem := by
  simp only [State.forwardNext]
  split <;> simp
@[simp] theorem forwardShort_mem (s : State) (l : LinkId) (vc : Channel) (rest : List Flit) (n : Nat) : (s.forwardShort l vc rest n).mem = s.mem := by
  simp [State.forwardShort]
@[simp] theorem execPacketForward_keepsForm (l : LinkId) (vc : Channel) (parityOk : Bool) (s : State) (h : s.mem.wf = true) :
    KeepsForm (execPacketForward l vc parityOk s) := by
  refine keepsForm_whenHere _ _ _ h ?_
  dsimp only
  split
  · simp [h]
  · split <;> simp [h]
  · split <;> simp [h]
@[simp] theorem deliverPacket_wf (s : State) (p : Packet) (h : s.mem.wf = true) : (s.deliverPacket p).mem.wf = true := by
  simp only [State.deliverPacket]
  split
  · simp [h]
  · simp [h]
  · simp [h]
  · split <;> simp [h]
  · simp [h]
  · simp [h]
  · simp [h]
  · simp [h]
@[simp] theorem execPacketDeliver_keepsForm (l : LinkId) (vc : Channel) (s : State) (h : s.mem.wf = true) : KeepsForm (execPacketDeliver l vc s) := by
  refine keepsForm_whenHere _ _ _ h ?_
  extract_lets x
  split
  · simpa using h
  · split
    · exact keepsForm_when _ _ _ h (deliverPacket_wf _ _ (by simpa using h))
    · simpa using h
    · simpa using h
@[simp] theorem execLinkQuery_keepsForm (mask : BitVec 24) (s : State) (h : s.mem.wf = true) : KeepsForm (execLinkQuery mask s) := by
  simp [execLinkQuery, h]
@[simp] theorem execLinkRetrain_keepsForm (port : Nat) (s : State) (h : s.mem.wf = true) : KeepsForm (execLinkRetrain port s) :=
  cmd_keepsForm _ _ _ _ h fun t r ht => by simp [ht]
@[simp] theorem execLinkFlush_keepsForm (port : Nat) (s : State) (h : s.mem.wf = true) : KeepsForm (execLinkFlush port s) :=
  cmd_keepsForm _ _ _ _ h fun t r ht => by simp [ht]
@[simp] theorem portSet_wf (s : State) (c : LinkConfigP) (l : LinkId) (h : s.mem.wf = true) : (s.portSet c l).mem.wf = true := by
  simp [State.portSet, h]
@[simp] theorem sclSet_mem (s : State) (c : SclConfigP) : (s.sclSet c).mem = s.mem := by simp [State.sclSet]

/-! ## Sceolink -/

@[simp] theorem assertFault_mem (s : State) : s.assertFault.mem = s.mem := by simp [State.assertFault]
@[simp] theorem bootStop_mem (s : State) (code : BitVec 8) : (s.bootStop code).mem = s.mem := by simp [State.bootStop]
@[simp] theorem writeBootImage_mem (s : State) (v : Word) : (s.writeBootImage v).mem = s.mem := by simp [State.writeBootImage]
@[simp] theorem execFmpBootImageWrite_keepsForm (value : Word) (s : State) (h : s.mem.wf = true) : KeepsForm (execFmpBootImageWrite value s) := by
  simp [execFmpBootImageWrite, h]
@[simp] theorem attachFails_mem (s : State) : s.attachFails.mem = s.mem := by simp [State.attachFails]
@[simp] theorem newSession_mem (s : State) (p : PartId) : (s.newSession p).mem = s.mem := by simp [State.newSession]
@[simp] theorem attachNew_mem (s : State) (n : BitVec 32) : (s.attachNew n).mem = s.mem := by simp [State.attachNew]
@[simp] theorem attachResume_mem (s : State) (n : BitVec 32) : (s.attachResume n).mem = s.mem := by simp [State.attachResume]
@[simp] theorem detach_mem (s : State) : s.detach.mem = s.mem := by simp [State.detach]
@[simp] theorem writeAttach_mem (s : State) (v : Word) : (s.writeAttach v).mem = s.mem := by
  simp only [State.writeAttach]
  split <;> simp
@[simp] theorem execSclAttachNew_keepsForm (number : BitVec 32) (s : State) (h : s.mem.wf = true) : KeepsForm (execSclAttachNew number s) := by
  simp [execSclAttachNew, h]
@[simp] theorem execSclAttachResume_keepsForm (number : BitVec 32) (s : State) (h : s.mem.wf = true) : KeepsForm (execSclAttachResume number s) := by
  simp [execSclAttachResume, h]
@[simp] theorem execSclAttachDetach_keepsForm (s : State) (h : s.mem.wf = true) : KeepsForm (execSclAttachDetach s) := by
  simp [execSclAttachDetach, h]
@[simp] theorem execSclHeartbeatWrite_keepsForm (_value : Word) (s : State) (h : s.mem.wf = true) : KeepsForm (execSclHeartbeatWrite _value s) := by
  simp [execSclHeartbeatWrite, h]
@[simp] theorem execHeartbeatExpiry_keepsForm (s : State) (h : s.mem.wf = true) : KeepsForm (execHeartbeatExpiry s) := by
  simp [execHeartbeatExpiry, h]
@[simp] theorem execSessionFlush_keepsForm (fresh : Option IdentRec) (s : State) (h : s.mem.wf = true) : KeepsForm (execSessionFlush fresh s) := by
  unfold execSessionFlush
  split
  · refine keepsForm_when _ _ _ h ?_
    split <;> simp [h]
  · exact keepsForm_when _ _ _ h (by simp [h])
@[simp] theorem setLine_mem (s : State) (a : Nat) (v : Option LineState) : (s.setLine a v).mem = s.mem := by simp [State.setLine]
@[simp] theorem sharedAccess_wf (s : State) (a : Nat) (write : Option (List Byte)) (h : s.mem.wf = true) :
    (s.sharedAccess a write).mem.wf = true := by
  simp only [State.sharedAccess]
  split
  · split
    · simp [h]
    · split <;> simp [h]
  · simp [h]
  · split
    · simp [h]
    · split <;> simp [h]
@[simp] theorem execSharedWindowAccess_keepsForm (line : Addr) (write : Option (List Byte)) (s : State) (h : s.mem.wf = true) :
    KeepsForm (execSharedWindowAccess line write s) := by
  simp [execSharedWindowAccess, h]
@[simp] theorem execSnpAck_keepsForm (line : Addr) (data : Option (List Byte)) (s : State) (h : s.mem.wf = true) :
    KeepsForm (execSnpAck line data s) := by
  unfold execSnpAck
  have hs : (s.fromScl .bypass 0x31).mem.wf = true := by simpa using h
  refine keepsForm_when _ _ _ hs ?_
  extract_lets s1 ws s2
  have w1 : s1.mem.wf = true := by
    unfold s1
    split
    · exact put_wf _ _ _ hs
    · exact hs
  exact foldl_wf _ _ _ (fun t w ht => endSnoop_wf _ _ ht) (by simpa [s2] using w1)
@[simp] theorem dData_mem (s : State) (tag : BitVec 16) (st : RespStatus) (bs : List Byte) : (s.dData tag st bs).mem = s.mem := by simp [State.dData]
@[simp] theorem refuseC_mem (s : State) : s.refuseC.mem = s.mem := by simp [State.refuseC]
@[simp] theorem execCRd_keepsForm (addr : Addr) (len : BitVec 12) (tag : BitVec 16) (s0 : State) (h : s0.mem.wf = true) :
    KeepsForm (execCRd addr len tag s0) := by
  simp only [execCRd]
  split
  · simp [h]
  · split <;> simp [h]
@[simp] theorem deviceWrite_mem (s : State) (off : Nat) (v : Word) : (s.deviceWrite off v).mem = s.mem := by
  simp only [State.deviceWrite]
  split <;> simp
@[simp] theorem execCWr_keepsForm (addr : Addr) (data : List Byte) (s0 : State) (h : s0.mem.wf = true) : KeepsForm (execCWr addr data s0) := by
  simp only [execCWr]
  split
  · simp [h]
  · split <;> simp [h]
@[simp] theorem execCsnpInv_keepsForm (line : BitVec 47) (s : State) (h : s.mem.wf = true) : KeepsForm (execCsnpInv line s) := by
  simp [execCsnpInv, h]
@[simp] theorem execSceolinkPacketDrop_keepsForm (kind : BitVec 8) (tag : BitVec 16) (s : State) (h : s.mem.wf = true) :
    KeepsForm (execSceolinkPacketDrop kind tag s) := by
  simp [execSceolinkPacketDrop, h]
@[simp] theorem freeBytes_mem (s : State) (n : Nat) : (s.freeBytes n).2.mem = s.mem := by
  induction n with
  | zero => rfl
  | succ n ih => exact ih
@[simp] theorem confirmExport_wf (s : State) (p : PartId) (h : s.mem.wf = true) : (s.confirmExport p).mem.wf = true := by
  simp only [State.confirmExport]
  split
  · split <;> simp [h]
  · simp [h]
@[simp] theorem updateData_wf (s : State) (q : RegionId) (a : Addr) (st : RespStatus) (bs : List Byte) (h : s.mem.wf = true) :
    (s.updateData q a st bs).mem.wf = true := by
  simp only [State.updateData]
  split <;> simp [h]
@[simp] theorem guestData_mem (s : State) (tag : BitVec 16) (a : Nat) (ok : Bool) (bs : List Byte) : (s.guestData tag a ok bs).mem = s.mem := by
  simp only [State.guestData]
  split <;> simp
@[simp] theorem shardFails_wf (s : State) (q : RegionId) (k : Nat) (h : s.mem.wf = true) : (s.shardFails q k).mem.wf = true := by
  simp only [State.shardFails]
  split
  · exact h
  · exact endBg_wf _ _ _ _ (by simpa using h) fun t r ht => by simpa using ht
@[simp] theorem deliverData_wf (s : State) (r : CompanionReq) (st : RespStatus) (bs : List Byte) (h : s.mem.wf = true) :
    (s.deliverData r st bs).mem.wf = true := by
  cases hu : r.use <;> simp only [State.deliverData, hu, State.setBlock_mem, h]
  case update q => exact updateData_wf _ _ _ _ _ h
  case exportBlock p => exact wf_of_ite (confirmExport_wf _ _ h) (by simpa using h)
  case shard q k => exact wf_of_ite (shardFails_wf _ _ _ h) h
  case guest tag => simpa using h
  case bootImage => exact wf_of_ite h (by simpa using h)
@[simp] theorem takeData_wf (s : State) (q : CompanionReq) (r : RdDataMsg) (h : s.mem.wf = true) : (s.takeData q r).mem.wf = true := by
  simp [State.takeData, h]
@[simp] theorem execWrAck_keepsForm (tag : BitVec 16) (s0 : State) (h : s0.mem.wf = true) : KeepsForm (execWrAck tag s0) := by
  simp only [execWrAck]
  split
  · simp [h]
  · split <;> simp [h]
@[simp] theorem remountRec_keepsForm (ack : FlitAck) (s : State) (k : State → State) (h : s.mem.wf = true)
    (hk : ∀ t : State, t.mem.wf = true → (k t).mem.wf = true) : KeepsForm (remountRec ack s k) := by
  simp [remountRec, h, hk]
@[simp] theorem execRemountReq_keepsForm (ack : FlitAck) (r : RemountRec) (s : State) (h : s.mem.wf = true) : KeepsForm (execRemountReq ack r s) := by
  simp [execRemountReq, h]
@[simp] theorem execRemountAccept_keepsForm (dir : SclDir) (cmd : Carried (BitVec 8)) (s : State) (h : s.mem.wf = true) :
    KeepsForm (execRemountAccept dir cmd s) := by
  simp [execRemountAccept, h]
@[simp] theorem execRemountRefuse_keepsForm (dir : SclDir) (cmd : Carried (BitVec 8)) (s : State) (h : s.mem.wf = true) :
    KeepsForm (execRemountRefuse dir cmd s) := by
  simp [execRemountRefuse, h]
@[simp] theorem execRemountSwitch_keepsForm (dir : SclDir) (cmd : Carried (BitVec 8)) (s : State) (h : s.mem.wf = true) :
    KeepsForm (execRemountSwitch dir cmd s) :=
  remountRec_keepsForm _ _ _ h fun t ht => by simp [ht]
@[simp] theorem execRemountTimeout_keepsForm (dir : SclDir) (s : State) (h : s.mem.wf = true) : KeepsForm (execRemountTimeout dir s) := by
  simp only [execRemountTimeout]
  split <;> simp [h]
@[simp] theorem execSclRemount_keepsForm (dir : SclDir) (logical : BitVec 4) (s : State) (h : s.mem.wf = true) :
    KeepsForm (execSclRemount dir logical s) := by
  refine cmd_keepsForm _ _ _ _ h fun t r ht => ?_
  refine unless_wf _ _ _ _ ht ?_
  split <;> simp [ht]
@[simp] theorem execSceolinkLaneWindow_keepsForm (dir : SclDir) (counts : List Nat) (s : State) (h : s.mem.wf = true) :
    KeepsForm (execSceolinkLaneWindow dir counts s) := by
  simp [execSceolinkLaneWindow, h]
@[simp] theorem execSclQuery_keepsForm (s : State) (h : s.mem.wf = true) : KeepsForm (execSclQuery s) := by simp [execSclQuery, h]

/-! ## Exports -/

@[simp] theorem putRing_wf (s : State) (p : PartId) (g : ExportRing) (bs : List Byte) (n : Nat) (seq : BitVec 32) (pad : Bool) (h : s.mem.wf = true) :
    (s.putRing p g bs n seq pad).mem.wf = true := by
  simp [State.putRing, h]
@[simp] theorem layRecord_wf (s : State) (p : PartId) (e : ExportRec) (h : s.mem.wf = true) : (s.layRecord p e).mem.wf = true := by
  simp [State.layRecord, h]
@[simp] theorem setExportRing_mem (s : State) (p : PartId) (f : ExportRing → ExportRing) : (s.setRing_ p f).mem = s.mem := by simp [State.setRing_]
@[simp] theorem layLoss_wf (s : State) (p : PartId) (h : s.mem.wf = true) : (s.layLoss p).mem.wf = true := by
  simp only [State.layLoss]
  split <;> simp [h]
@[simp] theorem endShard_mem (s : State) (e : ExportRec) : (s.endShard e).mem = s.mem := by
  simp only [State.endShard]
  split
  · split
    · exact endBg_mem _ _ _ _ fun _ _ => by simp
    · rfl
  · rfl
@[simp] theorem execExportRecordAppend_keepsForm (p : PartId) (s : State) (h : s.mem.wf = true) : KeepsForm (execExportRecordAppend p s) := by
  refine keepsForm_whenHere _ _ _ h ?_
  split
  · simp [h]
  · split <;> simp [h]
@[simp] theorem countExportWait_mem (s : State) (p : PartId) : (s.countExportWait p).mem = s.mem := by
  refine foldl_mem _ _ _ fun t r => ?_
  dsimp only
  split
  · split <;> simp
  · rfl
@[simp] theorem execExportRoom_keepsForm (p : PartId) (s : State) (h : s.mem.wf = true) : KeepsForm (execExportRoom p s) := by
  simp [execExportRoom, h]
@[simp] theorem execExportSpanSend_keepsForm (p : PartId) (s : State) (h : s.mem.wf = true) : KeepsForm (execExportSpanSend p s) := by
  refine keepsForm_whenHere _ _ _ h ?_
  dsimp only
  split <;> simp [h]
@[simp] theorem shardTail_mem (s : State) (x : ShardExport) (moments : Bool) : (s.shardTail x moments).mem = s.mem := by simp [State.shardTail]
@[simp] theorem execExportShard_keepsForm (region : RegionId) (index : BitVec 8) (moments : Bool) (s : State) (h : s.mem.wf = true) :
    KeepsForm (execExportShard region index moments s) :=
  cmd_keepsForm _ _ _ _ h fun t r ht => by simp [ht]
@[simp] theorem settleShards_mem (s : State) : s.settleShards.mem = s.mem := by simp [State.settleShards]
@[simp] theorem execRdData_keepsForm (r : RdDataMsg) (s0 : State) (h : s0.mem.wf = true) : KeepsForm (execRdData r s0) := by
  simp only [execRdData]
  split <;> simp [h]
@[simp] theorem execExportQuery_keepsForm (partition : PartId) (s : State) (h : s.mem.wf = true) : KeepsForm (execExportQuery partition s) := by
  simp [execExportQuery, h]

/-! ## Fences -/

@[simp] theorem loadBlock_mem (s : State) (b : BlockId) : (s.loadBlock b).mem = s.mem := by simp [State.loadBlock]
@[simp] theorem resetBlock_wf (s : State) (b : BlockId) (h : s.mem.wf = true) : (s.resetBlock b).mem.wf = true := by
  simp [State.resetBlock, memClear_wf, h]
@[simp] theorem fenceCore_wf (s : State) (b : BlockId) (swap : Bool) (h : s.mem.wf = true) : (s.fenceCore b swap).mem.wf = true := by
  simp only [State.fenceCore]
  refine wf_of_ite h (memClear_wf _ _ _ ?_)
  split <;> simp [h]
@[simp] theorem stateLost_mem (s : State) (b : BlockId) : (s.stateLost b).mem = s.mem := by
  simp only [State.stateLost]
  split
  · split <;> simp
  · simp
@[simp] theorem fenceQuad_wf (s : State) (r : RegionId) (q : Nat) (h : s.mem.wf = true) : (s.fenceQuad r q).mem.wf = true := by
  simp only [State.fenceQuad]
  refine wf_of_ite h ?_
  rw [stateLost_mem, State.raise_mem, State.setRegion_mem]
  exact foldl_wf _ _ _ (fun t b ht => by simp [ht]) h
@[simp] theorem swapEnded_mem (s : State) (b : BlockId) (spare : Nat) : (s.swapEnded b spare).mem = s.mem := by
  unfold State.swapEnded
  extract_lets +onlyGivenNames _ s1
  have e : s1.mem = s.mem := by
    unfold s1
    split
    · exact endBg_mem _ _ _ _ fun t r => by simp
    · rfl
  split
  · exact e
  · split <;> exact e
@[simp] theorem nextSpare_wf (r : RegionId) (n : Nat) (s : State) (h : s.mem.wf = true) : (State.nextSpare r n s).mem.wf = true := by
  induction n generalizing s with
  | zero => exact h
  | succ n ih =>
    simp only [State.nextSpare]
    split
    · exact h
    · split
      · exact h
      · split
        · exact h
        · exact ih _ (by simp [h])
@[simp] theorem fenceBlock_wf (s : State) (b : BlockId) (h : s.mem.wf = true) : (s.fenceBlock b).mem.wf = true := by simp [State.fenceBlock, h]
@[simp] theorem takeSpare_mem (s : State) (b : BlockId) (phys : Nat) : (s.takeSpare b phys).mem = s.mem := by simp [State.takeSpare]
@[simp] theorem marginFail_mem (s : State) (r : RegionId) (e : MarginResult × Nat) : (s.marginFail r e).mem = s.mem := by
  simp only [State.marginFail]
  split <;> simp
@[simp] theorem settleMargin_mem (s : State) : s.settleMargin.mem = s.mem := by
  simp only [State.settleMargin]
  split
  · rfl
  · split
    · rfl
    · exact (endBg_mem _ _ _ _ fun t r => by simp).trans (foldl_mem _ _ _ fun t e => by simp)
@[simp] theorem endReturn_wf (s : State) (r : RegionId) (q : Nat) (os : List (Nat × Bool)) (h : s.mem.wf = true) :
    (s.endReturn r q os).mem.wf = true := by
  simp only [State.endReturn]
  split
  · refine endBg_wf _ _ _ _ ?_ fun t c ht => by simpa using ht
    exact foldl_wf _ _ _ (fun t b ht => by simp [ht]) h
  · exact endBg_wf _ _ _ _ h fun t c ht => by simpa using ht
@[simp] theorem endPairTest_wf (s : State) (b : BlockId) (os : List (Nat × Bool)) (h : s.mem.wf = true) : (s.endPairTest b os).mem.wf = true := by
  simp [State.endPairTest, h]
@[simp] theorem execStartupTestComplete_keepsForm (region : RegionId) (phys : Nat) (pass : Bool) (s : State) (h : s.mem.wf = true) :
    KeepsForm (execStartupTestComplete region phys pass s) := by
  refine keepsForm_whenHere _ _ _ h ?_
  extract_lets +onlyGivenNames x y
  split
  · refine keepsForm_when _ _ _ h ?_
    rw [settleMargin_mem]
    exact nextSpare_wf _ _ _ (wf_of_ite (by simp [h]) (by simpa using h))
  · split
    · simpa using h
    · exact keepsForm_when _ _ _ h (wf_of_ite (by simp [h]) (by simpa using h))
  · split
    · simpa using h
    · exact keepsForm_when _ _ _ h (wf_of_ite (by simp [h]) (by simpa using h))
  · exact keepsForm_when _ _ _ h (by simpa using h)
@[simp] theorem execBlockReport_keepsForm (b : BlockId) (s : State) (h : s.mem.wf = true) : KeepsForm (execBlockReport b s) := by
  simp [execBlockReport, h]
@[simp] theorem execFenceDrainTimeout_keepsForm (b : BlockId) (s : State) (h : s.mem.wf = true) : KeepsForm (execFenceDrainTimeout b s) := by
  simp [execFenceDrainTimeout, h]
@[simp] theorem fenceRegion_wf (s : State) (r : RegionId) (h : s.mem.wf = true) : (s.fenceRegion r).mem.wf = true := by
  simp only [State.fenceRegion]
  split
  · simp [h]
  · refine foldl_wf _ _ _ (fun t a ht => ?_) ?_
    · simp [ht]
    · exact foldl_wf _ _ _ (fun t a ht => by simp [ht]) (by simp [h])
@[simp] theorem fencePart_wf (s : State) (p : PartId) (h : s.mem.wf = true) : (s.fencePart p).mem.wf = true := by
  simp only [State.fencePart]
  split
  · exact foldl_wf _ _ _ (fun t a ht => by simp [ht]) (by simp [h])
  · exact foldl_wf _ _ _ (fun t a ht => by simp [ht]) (by simp [h])
@[simp] theorem execQuadRepair_keepsForm (region : RegionId) (quad : BitVec 4) (action : BitVec 8) (block : BitVec 2) (s : State) (h : s.mem.wf = true) :
    KeepsForm (execQuadRepair region quad action block s) :=
  cmd_keepsForm _ _ _ _ h fun t r ht => by simp [ht]
@[simp] theorem execMarginTest_keepsForm (x : MarginP) (s : State) (h : s.mem.wf = true) : KeepsForm (execMarginTest x s) := by
  refine cmd_keepsForm _ _ _ _ h fun t r ht => unless_wf _ _ _ _ ht ?_
  exact wf_of_ite (by simpa using ht) (foldl_wf _ _ _ (fun t b hb => by simp [hb]) (by simpa using ht))
@[simp] theorem execMarginTestComplete_keepsForm (results : List MarginResult) (s : State) (h : s.mem.wf = true) :
    KeepsForm (execMarginTestComplete results s) := by
  unfold execMarginTestComplete
  split
  · simpa using h
  · refine keepsForm_when _ _ _ h ?_
    rw [settleMargin_mem]
    refine foldl_wf _ _ _ (fun t w ht => fenceBlock_wf _ _ ht) ?_
    exact wf_of_ite (foldl_wf _ _ _ (fun t e ht => by simpa using ht) h) h

/-! ## Faults of the hub -/

@[simp] theorem blockOff_wf (s : State) (b : BlockId) (h : s.mem.wf = true) : (s.blockOff b).mem.wf = true :=
  memClear_wf _ _ _ h
@[simp] theorem settleDomain_wf (s : State) (d : Nat) (h : s.mem.wf = true) : (s.settleDomain d).mem.wf = true := by
  simp only [State.settleDomain]
  split
  · simp [h]
  · exact foldl_wf _ _ _ (fun t a ht => by simp [ht]) (by simp [h])
@[simp] theorem settleDomains_wf (s : State) (h : s.mem.wf = true) : s.settleDomains.mem.wf = true :=
  foldl_wf _ _ _ (fun t a ht => by simp [ht]) (by simp [h])
@[simp] theorem advance_mem (n : Nat) (s : State) : (State.advance n s).mem = s.mem := by
  induction n generalizing s with
  | zero => rfl
  | succ n ih =>
    simp only [State.advance]
    split
    · exact ih _
    · rfl
@[simp] theorem regionBack_mem (s : State) (r : RegionId) : (s.regionBack r).mem = s.mem := by
  simp only [State.regionBack]
  split
  · exact endBg_mem _ _ _ _ fun t c => by simp
  · rfl
@[simp] theorem settleBoot_mem (s : State) : s.settleBoot.mem = s.mem := by simp [State.settleBoot]
@[simp] theorem setFault_mem (s : State) (bit : Nat) : (s.setFault bit).mem = s.mem := by simp [State.setFault]
@[simp] theorem fatalFault_mem (s : State) (bit unit : Nat) : (s.fatalFault bit unit).mem = s.mem := by simp [State.fatalFault]
@[simp] theorem unitDegraded_mem (s : State) (bit unit : Nat) : (s.unitDegraded bit unit).mem = s.mem := by simp [State.unitDegraded]
@[simp] theorem unitFails_mem (s : State) (bit unit : Nat) : (s.unitFails bit unit).mem = s.mem := by simp [State.unitFails]
@[simp] theorem securityDegraded_mem (s : State) : s.securityDegraded.mem = s.mem := by simp [State.securityDegraded]
@[simp] theorem telemetryDegraded_mem (s : State) : s.telemetryDegraded.mem = s.mem := by simp [State.telemetryDegraded]
@[simp] theorem exportFails_mem (s : State) (p : PartId) : (s.exportFails p).mem = s.mem := by
  simp only [State.exportFails]
  split
  · split <;> simp
  · simp
@[simp] theorem hubFault_wf (s : State) (k : HubFaultKind) (h : s.mem.wf = true) : (s.hubFault k).mem.wf = true := by
  simp only [State.hubFault]
  split
  · simp [h]
  · simp [h]
  · simp [h]
  · simp [h]
  · simp [h]
  · split <;> simp [h]
  · simp [h]
  · split <;> simp [h]
  · simp [h]
  · simp [h]
  · simp [h]
@[simp] theorem execHubFault_keepsForm (k : HubFaultKind) (s : State) (h : s.mem.wf = true) : KeepsForm (execHubFault k s) := by
  simp [execHubFault, h]
@[simp] theorem execRegionReport_keepsForm (rep : ChipReport) (s : State) (h : s.mem.wf = true) : KeepsForm (execRegionReport rep s) := by
  simp only [execRegionReport]
  split <;> simp [h]
@[simp] theorem dropCurrent_mem (s : State) : s.dropCurrent.mem = s.mem := by
  simp only [State.dropCurrent]
  split <;> simp
@[simp] theorem takeBack_mem (s : State) (r : Running) (old : BitVec 32) : (s.takeBack r old).mem = s.mem := by simp [State.takeBack]
@[simp] theorem takeOver_mem (s : State) : s.takeOver.mem = s.mem := by simp [State.takeOver]
@[simp] theorem controlStops_mem (s : State) : s.controlStops.mem = s.mem := by simp [State.controlStops]
@[simp] theorem controlFails_mem (s : State) : s.controlFails.mem = s.mem := by
  simp only [State.controlFails]
  split <;> simp
@[simp] theorem execControlFailover_keepsForm (s : State) (h : s.mem.wf = true) : KeepsForm (execControlFailover s) := by
  simp [execControlFailover, h]
@[simp] theorem execErrQuery_keepsForm (partition : BitVec 8) (s : State) (h : s.mem.wf = true) : KeepsForm (execErrQuery partition s) :=
  cmd_keepsForm _ _ _ _ h fun t r ht => by simp [ht]

/-! ## CINCH -/

@[simp] theorem hubSwitch_mem (s : State) (cs : List DraftCmd) (e : Epoch) : (s.hubSwitch cs e).mem = s.mem := by simp [State.hubSwitch]
@[simp] theorem measureFw_mem (s : State) (cs : List DraftCmd) : (s.measureFw cs).mem = s.mem := by simp [State.measureFw]
@[simp] theorem switchBank_wf (s : State) (cs : List DraftCmd) (e : Epoch) (i : Island) (h : s.mem.wf = true) :
    (s.switchBank cs e i).mem.wf = true := by
  cases i <;> simp only [State.switchBank, State.setBlock_mem, h]
  case memSide k => exact wf_of_ite (foldl_wf _ _ _ (fun t c ht => by simpa using ht) h) h
  case port p => exact foldl_wf _ _ _ (fun t c ht => by split <;> simp [ht]) h
  case sceolink => exact foldl_wf _ _ _ (fun t c ht => by split <;> simp [ht]) h
  case hubCrossbar => simpa using h
  case telemetry => exact foldl_wf _ _ _ (fun t c ht => by simpa using ht) h
@[simp] theorem switchIdle_wf (s : State) (cs : List DraftCmd) (e : Epoch) (h : s.mem.wf = true) : (s.switchIdle cs e).mem.wf = true :=
  foldl_wf _ _ _ (fun t a ht => by simp [ht]) (by simp [h])
@[simp] theorem putCut_mem (s : State) (c : Cut) : (s.putCut c).mem = s.mem := by simp [State.putCut]
@[simp] theorem sendCut_wf (s : State) (c : Cut) (h : s.mem.wf = true) : (s.sendCut c).mem.wf = true := by simp [State.sendCut, h]
@[simp] theorem startCut_wf (s : State) (r : Running) (h : s.mem.wf = true) : (s.startCut r).mem.wf = true := by simp [State.startCut, h]
@[simp] theorem tryCinch_wf (s : State) (r : Running) (go : State) (h : s.mem.wf = true) (hg : go.mem.wf = true) :
    (s.tryCinch r go).mem.wf = true := by
  simp only [State.tryCinch]
  split
  · simp [h]
  · split <;> simp [h, hg]
@[simp] theorem execCinch_keepsForm (s : State) (h : s.mem.wf = true) : KeepsForm (execCinch s) := by
  simp only [execCinch]
  split <;> simp [h]
@[simp] theorem execCutStart_keepsForm (s : State) (h : s.mem.wf = true) : KeepsForm (execCutStart s) := by
  unfold execCutStart
  split
  · simpa using h
  · exact keepsForm_when _ _ _ h (tryCinch_wf _ _ _ h (startCut_wf _ _ h))
@[simp] theorem execPrepared_keepsForm (i : Island) (s : State) (h : s.mem.wf = true) : KeepsForm (execPrepared i s) := by
  simp only [execPrepared]
  split <;> simp [h]
@[simp] theorem switchIsland_wf (s : State) (c : Cut) (i : Island) (h : s.mem.wf = true) : (s.switchIsland c i).mem.wf = true := by
  simp [State.switchIsland, h]
@[simp] theorem execCutReceived_keepsForm (i : Island) (s : State) (h : s.mem.wf = true) : KeepsForm (execCutReceived i s) := by
  simp only [execCutReceived]
  split <;> simp [h]
@[simp] theorem execMarkerReceived_keepsForm (i source : Island) (s : State) (h : s.mem.wf = true) : KeepsForm (execMarkerReceived i source s) := by
  simp only [execMarkerReceived]
  split <;> simp [h]
@[simp] theorem endCut_wf (s : State) (c : Cut) (flags : BitVec 8) (h : s.mem.wf = true) : (s.endCut c flags).mem.wf = true := by
  simp [State.endCut, h]
@[simp] theorem execCutAck_keepsForm (i : Island) (s : State) (h : s.mem.wf = true) : KeepsForm (execCutAck i s) := by
  simp only [execCutAck]
  split <;> simp [h]
@[simp] theorem fenceIsland_wf (s : State) (i : Island) (h : s.mem.wf = true) : (s.fenceIsland i).mem.wf = true := by
  simp only [State.fenceIsland]
  split <;> simp [h]
@[simp] theorem cinchFence_wf (s : State) (e : Epoch) (i : Island) (h : s.mem.wf = true) : (s.cinchFence e i).mem.wf = true := by
  simp [State.cinchFence, h]
@[simp] theorem execCutTimeout_keepsForm (s : State) (h : s.mem.wf = true) : KeepsForm (execCutTimeout s) := by
  unfold execCutTimeout
  split
  · simpa using h
  · refine keepsForm_when _ _ _ h ?_
    extract_lets cs s1
    have w1 : s1.mem.wf = true := foldl_wf _ _ _ (fun t i ht => switchBank_wf _ _ _ _ ht) h
    exact endCut_wf _ _ _ (foldl_wf _ _ _ (fun t i ht => cinchFence_wf _ _ _ ht) w1)

/-! ## Partitions -/

@[simp] theorem startBlock_mem (s : State) (pc : Addr) (vals : List Word) (b : BlockId) : (s.startBlock pc vals b).mem = s.mem := by
  simp [State.startBlock]
@[simp] theorem execProgramStart_keepsForm (mask : BitVec 64) (pc : Addr) (vals : List Word) (s : State) (h : s.mem.wf = true) :
    KeepsForm (execProgramStart mask pc vals s) :=
  cmd_keepsForm _ _ _ _ h fun t r ht => by simp [ht]
@[simp] theorem execBlockResume_keepsForm (b : BlockId) (pc : Addr) (s : State) (h : s.mem.wf = true) : KeepsForm (execBlockResume b pc s) :=
  cmd_keepsForm _ _ _ _ h fun t r ht => by simp [ht]
@[simp] theorem execStaleBlockResume_keepsForm (b : BlockId) (s : State) (h : s.mem.wf = true) : KeepsForm (execStaleBlockResume b s) := by
  simp [execStaleBlockResume, h]
@[simp] theorem drainBlock_mem (s : State) (b : BlockId) : (s.drainBlock b).mem = s.mem := by
  simp only [State.drainBlock]
  split <;> simp
@[simp] theorem execPartDrain_keepsForm (timeoutMs : BitVec 32) (s : State) (h : s.mem.wf = true) : KeepsForm (execPartDrain timeoutMs s) :=
  cmd_keepsForm _ _ _ _ h fun t r ht => by simp [ht]
@[simp] theorem execDrainTimeout_keepsForm (p : PartId) (s : State) (h : s.mem.wf = true) : KeepsForm (execDrainTimeout p s) := by
  simp [execDrainTimeout, h]
@[simp] theorem execPartitionDrained_keepsForm (p : PartId) (s : State) (h : s.mem.wf = true) : KeepsForm (execPartitionDrained p s) := by
  simp [execPartitionDrained, h]
@[simp] theorem execPartResume_keepsForm (s : State) (h : s.mem.wf = true) : KeepsForm (execPartResume s) :=
  cmd_keepsForm _ _ _ _ h fun t r ht => by simp [ht]
@[simp] theorem execPartAbort_keepsForm (s : State) (h : s.mem.wf = true) : KeepsForm (execPartAbort s) :=
  cmd_keepsForm _ _ _ _ h fun t r ht => by simp [ht]
@[simp] theorem execPartQuery_keepsForm (s : State) (h : s.mem.wf = true) : KeepsForm (execPartQuery s) := by simp [execPartQuery, h]
@[simp] theorem holdBlock_wf (s : State) (b : BlockId) (h : s.mem.wf = true) : (s.holdBlock b).mem.wf = true := by simp [State.holdBlock, h]
@[simp] theorem settleReset_mem (s : State) (p : PartId) : (s.settleReset p).mem = s.mem := by
  simp only [State.settleReset]
  split
  · exact (endBg_mem _ _ _ _ fun t r => by simp).trans (setPartMode_mem _ _ _)
  · rfl
@[simp] theorem dropTasks_mem (s : State) (p : PartId) (r : RegionId) : (s.dropTasks p r).mem = s.mem := by simp [State.dropTasks]
@[simp] theorem dropInstances_wf (s : State) (p : PartId) (h : s.mem.wf = true) : (s.dropInstances p).mem.wf = true :=
  foldl_wf _ _ _ (fun t a ht => by simp [ht]) (by simp [h])
@[simp] theorem execPartReset_keepsForm (wipeMem : Bool) (s : State) (h : s.mem.wf = true) : KeepsForm (execPartReset wipeMem s) := by
  refine cmd_keepsForm _ _ _ _ h fun t r ht => unless_wf _ _ _ _ ht ?_
  extract_lets s1 s2 s3 _ s4
  have w2 : s2.mem.wf = true := foldl_wf _ _ _ (fun u q hu => by simpa using hu) (by simp [s1, ht])
  have w3 : s3.mem.wf = true := by
    unfold s3
    dsimp only
    split
    · exact foldl_memory_wf _ _ _ (fun m g hm => memClear_wf _ _ _ hm) w2
    · exact w2
  rw [settleReset_mem]
  exact foldl_wf _ _ _ (fun u b hu => holdBlock_wf _ _ hu) (by simpa [s4] using w3)
@[simp] theorem closeBundles_mem (s : State) (r : RegionId) (first : Nat) : (s.closeBundles r first).mem = s.mem := by simp [State.closeBundles]
@[simp] theorem holdRegion_wf (s : State) (r : RegionId) (h : s.mem.wf = true) : (s.holdRegion r).mem.wf = true := by
  refine foldl_wf _ _ _ (fun t a ht => ?_) ?_
  · simp [ht]
  · exact foldl_wf _ _ _ (fun t a ht => by simp [ht]) (by simp [h])
@[simp] theorem execRegionReset_keepsForm (region : RegionId) (s : State) (h : s.mem.wf = true) : KeepsForm (execRegionReset region s) :=
  cmd_keepsForm _ _ _ _ h fun t r ht => by simp [ht]
@[simp] theorem execSeqAdd_keepsForm (x : SeqAddP) (s : State) (h : s.mem.wf = true) : KeepsForm (execSeqAdd x s) := by
  refine cmd_keepsForm _ _ _ _ h fun t r ht => ?_
  dsimp only
  split
  · simp [ht]
  · split <;> simp [ht]
@[simp] theorem execSeqUpdate_keepsForm (x : SeqUpdateP) (s : State) (h : s.mem.wf = true) : KeepsForm (execSeqUpdate x s) := by
  simp [execSeqUpdate, h]
@[simp] theorem execSeqRemove_keepsForm (index : BitVec 32) (s : State) (h : s.mem.wf = true) : KeepsForm (execSeqRemove index s) := by
  simp [execSeqRemove, h]
@[simp] theorem execSeqQuery_keepsForm (first count : BitVec 32) (s : State) (h : s.mem.wf = true) : KeepsForm (execSeqQuery first count s) := by
  simp [execSeqQuery, h]
@[simp] theorem execWorklistStart_keepsForm (s : State) (h : s.mem.wf = true) : KeepsForm (execWorklistStart s) :=
  cmd_keepsForm _ _ _ _ h fun t r ht => by simp [ht]
@[simp] theorem execWorklistStop_keepsForm (s : State) (h : s.mem.wf = true) : KeepsForm (execWorklistStop s) := by simp [execWorklistStop, h]

/-! ## Bundles, crossings and the guest -/

@[simp] theorem raiseBundle_mem (s : State) (r : RegionId) (b : Nat) (code : BitVec 16) (detail : BitVec 88) :
    (s.raiseBundle r b code detail).mem = s.mem := by
  simp [State.raiseBundle]
@[simp] theorem countBundle_mem (s : State) (r : RegionId) (b : Nat) (f : RegionState → RegionState) : (s.countBundle r b f).mem = s.mem := by
  simp [State.countBundle]
@[simp] theorem spareMoves_mem (s : State) (r : RegionId) (b : Nat) (c : Nat × BitVec 7) : (s.spareMoves r b c).mem = s.mem := by
  simp [State.spareMoves]
@[simp] theorem trained_mem (s : State) (r : RegionId) (b : Nat) (t : TrainResult) : (s.trained r b t).mem = s.mem := by
  simp only [State.trained]
  split <;> simp
@[simp] theorem guestTrained_mem (s : State) : s.guestTrained.mem = s.mem := by simp [State.guestTrained]
@[simp] theorem execBundleTraining_keepsForm (region : RegionId) (bundle : Nat) (r : TrainResult) (s : State) (h : s.mem.wf = true) :
    KeepsForm (execBundleTraining region bundle r s) := by
  simp [execBundleTraining, h]
@[simp] theorem startBundle_mem (s : State) (r : RegionId) (b : Nat) : (s.startBundle r b).mem = s.mem := by simp [State.startBundle]
@[simp] theorem startBundles_mem (s : State) (r : RegionId) : (s.startBundles r).mem = s.mem := by simp [State.startBundles]
@[simp] theorem startGuestBundles_mem (s : State) : s.startGuestBundles.mem = s.mem := by simp [State.startGuestBundles]
@[simp] theorem rerouteControl_mem (s : State) (r : RegionId) (b : Nat) : (s.rerouteControl r b).mem = s.mem := by simp [State.rerouteControl]
@[simp] theorem bundleOut_wf (s : State) (r : RegionId) (b : Nat) (h : s.mem.wf = true) : (s.bundleOut r b).mem.wf = true := by
  simp [State.bundleOut, h]
@[simp] theorem execControlEntryFail_keepsForm (at_ : BundleEnd) (e : OnBeat Nat) (s : State) (h : s.mem.wf = true) :
    KeepsForm (execControlEntryFail at_ e s) :=
  keepsForm_whenHere _ _ _ h (keepsForm_when _ _ _ h (wf_of_ite (by simpa using h) (by simp [h])))
@[simp] theorem planDataFails_wf (s : State) (k : PlanId) (h : s.mem.wf = true) : (s.planDataFails k).mem.wf = true := by
  simp only [State.planDataFails]
  split <;> simp [h]
@[simp] theorem landingFails_mem (s : State) (q : QAddr) (id : RelayId) : (s.landingFails q id).mem = s.mem := by
  simp only [State.landingFails]
  split
  · split <;> simp
  · simp
@[simp] theorem relayReadFails_mem (s : State) (num : BitVec 32) : (s.relayReadFails num).mem = s.mem := by
  simp only [State.relayReadFails]
  split <;> simp
@[simp] theorem parityData_wf (s : State) (d : BundleData) (h : s.mem.wf = true) : (s.parityData d).mem.wf = true := by
  cases d <;> simp only [State.parityData]
  case descriptor d =>
    split
    next t e => obtain rfl | ⟨l, -, rfl⟩ := arrive_some s t _ e <;> simpa using h
    next => exact h
  case guestRequest type tag => split <;> simp [h]
  all_goals simp [h]
@[simp] theorem execBundleParityFail_keepsForm (region : RegionId) (bundle : Nat) (d : OnBeat BundleData) (inWindow : Nat) (s : State) (h : s.mem.wf = true) :
    KeepsForm (execBundleParityFail region bundle d inWindow s) :=
  keepsForm_whenHere _ _ _ h (keepsForm_when _ _ _ h (parityData_wf _ _ (wf_of_ite (by simpa using h) (by simpa using h))))
@[simp] theorem countDiscard_mem (s : State) (n : Nat) (c : Crossing) : (s.countDiscard n c).mem = s.mem := by
  simp only [State.countDiscard]
  split <;> simp
@[simp] theorem execFifoClose_keepsForm (c : Crossing) (entries : Nat) (s : State) (h : s.mem.wf = true) : KeepsForm (execFifoClose c entries s) := by
  simp [execFifoClose, h]
@[simp] theorem execFifoReopen_keepsForm (c : Crossing) (s : State) (h : s.mem.wf = true) : KeepsForm (execFifoReopen c s) := by
  simp [execFifoReopen, h]
@[simp] theorem setGuest_mem (s : State) (f : GuestState → GuestState) : (s.setGuest f).mem = s.mem := by simp [State.setGuest]
@[simp] theorem guestRefuse_mem (s : State) (type : BitVec 8) (name : Nat) (tag : BitVec 16) (resp : Option (BitVec 8)) :
    (s.guestRefuse type name tag resp).mem = s.mem := by
  simp only [State.guestRefuse]
  split <;> split <;> simp
@[simp] theorem guestMemRefuse_mem (s : State) (g : GuestReq) (resp : BitVec 8) : (s.guestMemRefuse g resp).mem = s.mem := by
  simp [State.guestMemRefuse]
@[simp] theorem guestDoRead_mem (s : State) (g : GuestReq) : (s.guestDoRead g).mem = s.mem := by simp [State.guestDoRead]
@[simp] theorem guestDoWrite_wf (s : State) (g : GuestReq) (h : s.mem.wf = true) : (s.guestDoWrite g).mem.wf = true := by simp [State.guestDoWrite, h]
@[simp] theorem guestDoMemop_mem (s : State) (g : GuestReq) : (s.guestDoMemop g).mem = s.mem := by simp [State.guestDoMemop]
@[simp] theorem guestDoSend_mem (s : State) (g : GuestReq) (d : Descriptor) : (s.guestDoSend g d).mem = s.mem := by
  simp only [State.guestDoSend]
  split
  · simp
  · split <;> simp
@[simp] theorem guestCreditBack_mem (s : State) (beats : Nat) : (s.guestCreditBack beats).mem = s.mem := by simp [State.guestCreditBack]
theorem guestPass_wf (s t : State) (h : s.mem.wf = true) (e : s.guestPass = some t) : t.mem.wf = true := by
  simp only [State.guestPass] at e
  split at e <;> simp only [Option.ite_none_right_eq_some, Option.some.injEq, reduceCtorEq] at e
  all_goals
    obtain ⟨-, rfl⟩ := e
    simp [h]
@[simp] theorem guestDrain_wf (n : Nat) (s : State) (h : s.mem.wf = true) : (State.guestDrain n s).mem.wf = true := by
  induction n generalizing s with
  | zero => exact h
  | succ n ih =>
    simp only [State.guestDrain]
    split
    next t e => exact ih _ (guestPass_wf s t h e)
    next => exact h
@[simp] theorem guestQueue_wf (s : State) (w : GuestWaiting) (h : s.mem.wf = true) : (s.guestQueue w).mem.wf = true := by simp [State.guestQueue, h]
@[simp] theorem execGuestRead_keepsForm (g : GuestReq) (s : State) (h : s.mem.wf = true) : KeepsForm (execGuestRead g s) := by simp [execGuestRead, h]
@[simp] theorem execGuestWrite_keepsForm (g : GuestReq) (s : State) (h : s.mem.wf = true) : KeepsForm (execGuestWrite g s) := by
  simp [execGuestWrite, h]
@[simp] theorem execGuestMemop_keepsForm (g : GuestReq) (s : State) (h : s.mem.wf = true) : KeepsForm (execGuestMemop g s) := by
  simp [execGuestMemop, h]
@[simp] theorem execGuestSend_keepsForm (g : GuestReq) (d : Descriptor) (s : State) (h : s.mem.wf = true) : KeepsForm (execGuestSend g d s) := by
  simp [execGuestSend, h]
@[simp] theorem execMboxUp_keepsForm (data : List Byte) (s : State) (h : s.mem.wf = true) : KeepsForm (execMboxUp data s) := by simp [execMboxUp, h]
@[simp] theorem execGuestCredit_keepsForm (hdrs beats : BitVec 16) (s : State) (h : s.mem.wf = true) : KeepsForm (execGuestCredit hdrs beats s) := by
  simp [execGuestCredit, h]
@[simp] theorem execGuestUnknownPacket_keepsForm (type : BitVec 8) (s : State) (h : s.mem.wf = true) : KeepsForm (execGuestUnknownPacket type s) := by
  simp [execGuestUnknownPacket, h]
@[simp] theorem execTokenBucketRefill_keepsForm (tokens : Tokens) (window : Bool) (s : State) (h : s.mem.wf = true) :
    KeepsForm (execTokenBucketRefill tokens window s) := by
  simp [execTokenBucketRefill, h]
@[simp] theorem execGuestReset_keepsForm (discarded : Nat) (s : State) (h : s.mem.wf = true) : KeepsForm (execGuestReset discarded s) :=
  cmd_keepsForm _ _ _ _ h fun t r ht => by simp [ht]
@[simp] theorem execGuestMsg_keepsForm (data : List Byte) (s : State) (h : s.mem.wf = true) : KeepsForm (execGuestMsg data s) :=
  cmd_keepsForm _ _ _ _ h fun t r ht => by simp [ht]
@[simp] theorem execGuestQuery_keepsForm (s : State) (h : s.mem.wf = true) : KeepsForm (execGuestQuery s) := by simp [execGuestQuery, h]
@[simp] theorem execBundleQuery_keepsForm (mask : BitVec 4) (s : State) (h : s.mem.wf = true) : KeepsForm (execBundleQuery mask s) := by
  simp [execBundleQuery, h]

/-! ## Reset and power -/

@[simp] theorem execPorstNAssert_keepsForm (supply : Bool) (s : State) (h : s.mem.wf = true) : KeepsForm (execPorstNAssert supply s) := by
  simp [execPorstNAssert, h]
@[simp] theorem execPorstNRelease_keepsForm (cfgsel : BitVec 4) (s : State) (h : s.mem.wf = true) : KeepsForm (execPorstNRelease cfgsel s) := by
  simp [execPorstNRelease, h]
@[simp] theorem execSysrstNAssert_keepsForm (s : State) (h : s.mem.wf = true) : KeepsForm (execSysrstNAssert s) := by simp [execSysrstNAssert, h]
@[simp] theorem trip_wf (s : State) (h : s.mem.wf = true) : s.trip.mem.wf = true := by simp [State.trip, h]
@[simp] theorem execThermalTrip_keepsForm (s : State) (h : s.mem.wf = true) : KeepsForm (execThermalTrip s) := by simp [execThermalTrip, h]
@[simp] theorem markReleased_mem (s : State) (i : Island) : (s.markReleased i).mem = s.mem := by simp [State.markReleased]
@[simp] theorem releaseBlock_mem (s : State) (b : BlockId) : (s.releaseBlock b).mem = s.mem := by
  simp only [State.releaseBlock]
  split <;> simp
@[simp] theorem release_wf (s : State) (i : Island) (h : s.mem.wf = true) : (s.release i).mem.wf = true := by
  simp only [State.release]
  split <;> simp [h]
@[simp] theorem execResetRelease_keepsForm (i : Island) (s : State) (h : s.mem.wf = true) : KeepsForm (execResetRelease i s) :=
  keepsForm_whenHere _ _ _ h (keepsForm_when _ _ _ h (release_wf _ _ h))
@[simp] theorem execRegulatorAck_keepsForm (ack : Bool) (s : State) (h : s.mem.wf = true) : KeepsForm (execRegulatorAck ack s) := by
  simp [execRegulatorAck, h]
@[simp] theorem execWipeComplete_keepsForm (stack : Nat) (s : State) (h : s.mem.wf = true) : KeepsForm (execWipeComplete stack s) :=
  keepsForm_whenHere _ _ _ h (keepsForm_when _ _ _ h (by simp [h]))
@[simp] theorem execBootComplete_keepsForm (s : State) (h : s.mem.wf = true) : KeepsForm (execBootComplete s) := by simp [execBootComplete, h]
@[simp] theorem execDomainPowerOn_keepsForm (domain : Nat) (s : State) (h : s.mem.wf = true) : KeepsForm (execDomainPowerOn domain s) :=
  keepsForm_whenHere _ _ _ h (keepsForm_when _ _ _ h (foldl_wf _ _ _ (fun t b ht => wf_of_ite (by simpa using ht) ht) h))
@[simp] theorem execPowerControlInterval_keepsForm (x : PowerSample) (s : State) (h : s.mem.wf = true) :
    KeepsForm (execPowerControlInterval x s) := by
  simp [execPowerControlInterval, h]
@[simp] theorem execClockSlew_keepsForm (mhz : BitVec 12) (s : State) (h : s.mem.wf = true) : KeepsForm (execClockSlew mhz s) := by
  simp [execClockSlew, h]
@[simp] theorem execPmbusPoll_keepsForm (x : PmbusReading) (s : State) (h : s.mem.wf = true) : KeepsForm (execPmbusPoll x s) := by
  simp [execPmbusPoll, h]
@[simp] theorem execStackTemperatureRead_keepsForm (stack : Nat) (temp : BitVec 8) (s : State) (h : s.mem.wf = true) :
    KeepsForm (execStackTemperatureRead stack temp s) := by
  simp [execStackTemperatureRead, h]
@[simp] theorem execCoreDroopStart_keepsForm (s : State) (h : s.mem.wf = true) : KeepsForm (execCoreDroopStart s) := by simp [execCoreDroopStart, h]
@[simp] theorem raiseDip_mem (s : State) (low dur : Nat) (set : Bool) (p : PartId) : (s.raiseDip low dur set p).mem = s.mem := by
  simp [State.raiseDip]
@[simp] theorem execCoreDroopEnd_keepsForm (lowMv duration : BitVec 16) (s : State) (h : s.mem.wf = true) :
    KeepsForm (execCoreDroopEnd lowMv duration s) := by
  simp [execCoreDroopEnd, h]
@[simp] theorem execDipLimitExpiry_keepsForm (s : State) (h : s.mem.wf = true) : KeepsForm (execDipLimitExpiry s) := by simp [execDipLimitExpiry, h]
@[simp] theorem execWatchdogWrite_keepsForm (s : State) (h : s.mem.wf = true) : KeepsForm (execWatchdogWrite s) := by simp [execWatchdogWrite, h]
@[simp] theorem execWatchdogExpiry_keepsForm (s : State) (h : s.mem.wf = true) : KeepsForm (execWatchdogExpiry s) := by simp [execWatchdogExpiry, h]
@[simp] theorem execTelemetryQuery_keepsForm (s : State) (h : s.mem.wf = true) : KeepsForm (execTelemetryQuery s) := by simp [execTelemetryQuery, h]
@[simp] theorem execMemScrubSet_keepsForm (hours : BitVec 16) (s : State) (h : s.mem.wf = true) : KeepsForm (execMemScrubSet hours s) :=
  cmd_keepsForm _ _ _ _ h fun t r ht => by simp [ht]
@[simp] theorem execMemQuery_keepsForm (mask : BitVec 12) (s : State) (h : s.mem.wf = true) : KeepsForm (execMemQuery mask s) := by
  simp [execMemQuery, h]
@[simp] theorem execMgtBlockRead_keepsForm (cmd : BitVec 8) (s : State) (h : s.mem.wf = true) : KeepsForm (execMgtBlockRead cmd s) := by
  simp [execMgtBlockRead, h]

/-! ## Boot, lifecycle and firmware -/

@[simp] theorem bootImage_mem (s : State) (i : Image) (recovery : Bool) : (s.bootImage i recovery).mem = s.mem := by simp [State.bootImage]
@[simp] theorem execBootImageVerify_keepsForm (found : Bool) (image : Image) (recoverySlot selfTestOk : Bool) (s : State) (h : s.mem.wf = true) :
    KeepsForm (execBootImageVerify found image recoverySlot selfTestOk s) := by
  simp [execBootImageVerify, h]
@[simp] theorem execAttest_keepsForm (nonce : BitVec 256) (flags : BitVec 8) (s : State) (h : s.mem.wf = true) :
    KeepsForm (execAttest nonce flags s) :=
  cmd_keepsForm _ _ _ _ h fun t r ht => by simp [ht]
@[simp] theorem execLcTransition_keepsForm (p : LcP) (readBackOk : Bool) (s : State) (h : s.mem.wf = true) :
    KeepsForm (execLcTransition p readBackOk s) := by
  refine cmd_keepsForm _ _ _ _ h fun t r ht => ?_
  refine unless_wf _ _ _ _ ht ?_
  split <;> simp [ht]
@[simp] theorem execJtagTestTransition_keepsForm (secret : BitVec 256) (certificate : List Byte) (s : State) (h : s.mem.wf = true) :
    KeepsForm (execJtagTestTransition secret certificate s) := by
  simp [execJtagTestTransition, h]
@[simp] theorem execPreserveArm_keepsForm (token : Option Token) (s : State) (h : s.mem.wf = true) : KeepsForm (execPreserveArm token s) := by
  refine cmd_keepsForm _ _ _ _ h fun t r ht => ?_
  split <;> simp [ht]
@[simp] theorem execDeviceReset_keepsForm (kind : BitVec 8) (s : State) (h : s.mem.wf = true) : KeepsForm (execDeviceReset kind s) :=
  cmd_keepsForm _ _ _ _ h fun t r ht => by simp [ht]
@[simp] theorem execFwUpdate_keepsForm (addr : Addr) (length : BitVec 32) (image : Image) (selfTestOk : Bool) (s : State) (h : s.mem.wf = true) :
    KeepsForm (execFwUpdate addr length image selfTestOk s) := by
  simp only [execFwUpdate]
  split
  · simp [h]
  · refine cmd_keepsForm _ _ _ _ h fun t r ht => ?_
    simp [ht]
@[simp] theorem execFwHandover_keepsForm (s : State) (h : s.mem.wf = true) : KeepsForm (execFwHandover s) := by
  simp only [execFwHandover]
  split <;> simp [h]
@[simp] theorem execHealthWindowEnd_keepsForm (ok : Bool) (s : State) (h : s.mem.wf = true) : KeepsForm (execHealthWindowEnd ok s) := by
  simp only [execHealthWindowEnd]
  split <;> simp [h]
@[simp] theorem execFwQuery_keepsForm (s : State) (h : s.mem.wf = true) : KeepsForm (execFwQuery s) := by simp [execFwQuery, h]

/-! ## The step -/

/-- Each constructor of `Instr` runs one `exec…` function, whose lemma above is in the simp set. -/
theorem exec_keepsForm (c : Instr) (s : State) (h : s.mem.wf = true) : KeepsForm (exec c s) := by
  cases c <;> simp [exec, h]

/-- Settles O55: an empty queue leaves the state as it is, and the command at the front keeps the form (`exec_keepsForm`). -/
theorem memoryKeepsItsForm : Obligations.MemoryKeepsItsForm := by
  intro s t h e
  unfold step at e
  split at e
  · cases e
    exact h
  · exact exec_keepsForm _ _ (by exact h) t e
end Sys2Proof.Laws

namespace Sys2Proof.Laws

/-! SUPPORT for O13, O17, O18 and O20. What the operations that kills, fences, spares and hub faults share leave in a block, in a region and in the event list:
one lemma per operation and field, so that the proofs of the obligations do not unfold them. -/

open Sys2Proof.Machine

/-! ## Folds -/

/-- A fold of updates that leave a value as it is leaves it as it is. -/
theorem foldl_keeps {σ α γ : Type} (g : σ → γ) (f : σ → α → σ) (l : List α) (s : σ) (h : ∀ t a, g (f t a) = g t) :
    g (l.foldl f s) = g s :=
  List.foldlRecOn (motive := fun t => g t = g s) l f rfl fun t e a _ => (h t a).trans e
/-- A fold in which no element of the list changes anything. -/
theorem foldl_eq_self {σ α : Type} (f : σ → α → σ) (l : List α) (s : σ) (h : ∀ t, ∀ a ∈ l, f t a = t) : l.foldl f s = s :=
  (List.foldl_ext f (fun t _ => t) s h).trans (List.foldl_fixed l)
/-- Where a step brings `P` about for its own element, and no step ends it for any element, a fold brings it about for all. -/
theorem foldl_establishes {σ α : Type} (P : α → σ → Prop) (f : σ → α → σ) (hset : ∀ t a, P a (f t a)) (hkeep : ∀ t a c, P c t → P c (f t a))
    (l : List α) (s : σ) : ∀ c ∈ l, P c (l.foldl f s) := by
  induction l generalizing s with
  | nil => simp
  | cons a l ih =>
    intro c hc
    obtain rfl | hc := List.mem_cons.mp hc
    · exact List.foldlRecOn l f (hset s c) fun t ht a _ => hkeep t a c ht
    · exact ih (f s a) c hc

/-! ## Bits -/

/-- A bit of a mask with one bit set. -/
theorem getLsbD_putBit_true {n : Nat} (m : BitVec n) (i j : Nat) :
    (putBit m i true).getLsbD j = (m.getLsbD j || (decide (j < n) && decide (j = i))) := by
  rw [putBit, if_pos rfl, bitMask, BitVec.getLsbD_or, BitVec.getLsbD_shiftLeft]
  grind

/-! ## Cleared memory -/

/-- A byte of a cleared range reads zero. -/
theorem memByte_memClear_inside (m : Memory) (base len a : Nat) (h1 : base ≤ a) (h2 : a < base + len) : memByte (memClear m base len) a = 0 := by
  induction m with
  | nil => rfl
  | cons e r ih =>
    obtain ⟨k, v⟩ := e
    by_cases hk : k < base ∨ base + len ≤ k
    · have hne : k ≠ a := by omega
      simpa [memClear, hk, memByte, hne] using ih
    · simpa [memClear, hk] using ih

/-! ## Blocks and regions -/

theorem mem_allBlocks (b : BlockId) : b ∈ allBlocks := by
  have h1 := b.region.isLt
  have h2 := b.block.isLt
  refine List.mem_map.mpr ⟨b.idx, by simp only [List.mem_range, BlockId.idx]; omega, blockId_ext _ _ ?_⟩
  simp only [BlockId.idx, BitVec.toNat_ofNat]
  omega

@[simp] theorem region_setBlock (s : State) (b : BlockId) (x : BlockState) (r : RegionId) : (s.setBlock b x).region r = s.region r := rfl
@[simp] theorem block_setRegion (s : State) (r : RegionId) (x : RegionState) (b : BlockId) : (s.setRegion r x).block b = s.block b := rfl
theorem region_setRegion_other (s : State) (r q : RegionId) (x : RegionState) (h : q ≠ r) : (s.setRegion r x).region q = s.region q := by
  simp only [State.region, State.setRegion]
  exact tGet_tSet_other _ _ _ _ _ fun e => h (BitVec.eq_of_toNat_eq e)
/-- Memory alone changed leaves the blocks and the regions as they are. -/
@[simp] theorem block_withMem (s : State) (m : Memory) (b : BlockId) : ({ s with mem := m } : State).block b = s.block b := rfl
@[simp] theorem region_withMem (s : State) (m : Memory) (r : RegionId) : ({ s with mem := m } : State).region r = s.region r := rfl
/-- A region set twice holds the later value. -/
@[simp] theorem setRegion_setRegion (s : State) (r : RegionId) (x y : RegionState) : (s.setRegion r x).setRegion r y = s.setRegion r y := by
  simp only [State.setRegion, tSet_tSet]

/-! ## Events -/

@[simp] theorem raise_block (s : State) (p : PartId) (c : BitVec 16) (l : BitVec 3) (u : BitVec 24) (d : BitVec 88) (b : BlockId) :
    (s.raise p c l u d).block b = s.block b := rfl
@[simp] theorem raise_region (s : State) (p : PartId) (c : BitVec 16) (l : BitVec 3) (u : BitVec 24) (d : BitVec 88) (r : RegionId) :
    (s.raise p c l u d).region r = s.region r := rfl
@[simp] theorem raiseBlock_block (s : State) (b : BlockId) (c : BitVec 16) (d : BitVec 88) (e : BlockId) : (s.raiseBlock b c d).block e = s.block e := rfl
@[simp] theorem raiseBlock_region (s : State) (b : BlockId) (c : BitVec 16) (d : BitVec 88) (r : RegionId) :
    (s.raiseBlock b c d).region r = s.region r := rfl
@[simp] theorem raiseBlock_fl (s : State) (b : BlockId) (c : BitVec 16) (d : BitVec 88) : (s.raiseBlock b c d).fl = s.fl := rfl

/-- One event goes to each partition of the list, to partition 0 where the list is empty (R372). -/
theorem raiseAll_events (s : State) (ps : List PartId) (c : BitVec 16) (l : BitVec 3) (u : BitVec 24) (d : BitVec 88) :
    (s.raiseAll ps c l u d).events = s.events ++ (if ps.isEmpty then [0#5] else ps).map fun p => ⟨c, u, l, p, d⟩ := by
  simp only [State.raiseAll]
  generalize (if ps.isEmpty then [0#5] else ps) = qs
  induction qs generalizing s with
  | nil => simp
  | cons q qs ih => simp [ih]
@[simp] theorem raiseAll_lc (s : State) (ps : List PartId) (c : BitVec 16) (l : BitVec 3) (u : BitVec 24) (d : BitVec 88) :
    (s.raiseAll ps c l u d).lc = s.lc := foldl_keeps State.lc _ _ _ fun _ _ => rfl
@[simp] theorem raiseAll_faults (s : State) (ps : List PartId) (c : BitVec 16) (l : BitVec 3) (u : BitVec 24) (d : BitVec 88) :
    (s.raiseAll ps c l u d).faults = s.faults := foldl_keeps State.faults _ _ _ fun _ _ => rfl
@[simp] theorem raiseAll_reset (s : State) (ps : List PartId) (c : BitVec 16) (l : BitVec 3) (u : BitVec 24) (d : BitVec 88) :
    (s.raiseAll ps c l u d).reset_ = s.reset_ := foldl_keeps State.reset_ _ _ _ fun _ _ => rfl
@[simp] theorem raiseAll_closed (s : State) (ps : List PartId) (c : BitVec 16) (l : BitVec 3) (u : BitVec 24) (d : BitVec 88) :
    (s.raiseAll ps c l u d).closed = s.closed := foldl_keeps State.closed _ _ _ fun _ _ => rfl
@[simp] theorem raiseAll_fl (s : State) (ps : List PartId) (c : BitVec 16) (l : BitVec 3) (u : BitVec 24) (d : BitVec 88) :
    (s.raiseAll ps c l u d).fl = s.fl := foldl_keeps State.fl _ _ _ fun _ _ => rfl

/-! ## A group dropped, and a completion held -/

@[simp] theorem dropGroup_block_same (s : State) (b : BlockId) : (s.dropGroup b).block b = (s.block b).dropGroup := block_setBlock_same _ _ _
theorem dropGroup_block_other (s : State) (b c : BlockId) (h : c ≠ b) : (s.dropGroup b).block c = s.block c := block_setBlock_other _ _ _ _ h
@[simp] theorem dropGroup_region (s : State) (b : BlockId) (r : RegionId) : (s.dropGroup b).region r = s.region r := rfl
theorem complete_block_other (s : State) (b c : BlockId) (checker : Bool) (tag : BitVec 32) (st fl : BitVec 8) (h : c ≠ b) :
    (s.complete b checker tag st fl).block c = s.block c := block_setBlock_other _ _ _ _ h

/-- A group dropped leaves no group, and of the send buffer the released messages (R102 steps 1 to 5). -/
@[simp] theorem dropGroup_group (x : BlockState) : x.dropGroup.group = none := by
  simp only [BlockState.dropGroup, BlockState.keeperIdle]; split <;> rfl
@[simp] theorem dropGroup_sendBuf (x : BlockState) : x.dropGroup.sendBuf = x.sendBuf.filter (·.released) := by
  simp only [BlockState.dropGroup, BlockState.keeperIdle]; split <;> rfl
@[simp] theorem dropGroup_kills (x : BlockState) : x.dropGroup.kills = x.kills := by
  simp only [BlockState.dropGroup, BlockState.keeperIdle]; split <;> rfl
@[simp] theorem dropGroup_epoch (x : BlockState) : x.dropGroup.epoch = x.epoch := by
  simp only [BlockState.dropGroup, BlockState.keeperIdle]; split <;> rfl
@[simp] theorem dropGroup_cpls (x : BlockState) : x.dropGroup.cpls = x.cpls := by
  simp only [BlockState.dropGroup, BlockState.keeperIdle]; split <;> rfl

/-! ## A block fenced (R376) -/

theorem fenceCore_of_fenced (s : State) (b : BlockId) (w : Bool) (h : (s.block b).fenced = true) : s.fenceCore b w = s := by
  simp [State.fenceCore, h]
/-- Steps 1 to 3 of R376 leave the block fenced, its core stopped. -/
theorem fenceCore_block_same (s : State) (b : BlockId) (w : Bool) (h : (s.block b).fenced = false) :
    ((s.fenceCore b w).block b).fenced = true ∧ ((s.fenceCore b w).block b).swapping = w ∧ ((s.fenceCore b w).block b).core = .stopped := by
  simp only [State.fenceCore, h, Bool.false_eq_true, if_false]
  rw [block_withMem, block_setBlock_same]
  exact ⟨rfl, rfl, rfl⟩
theorem fenceCore_block_other (s : State) (b c : BlockId) (w : Bool) (h : c ≠ b) : (s.fenceCore b w).block c = s.block c := by
  simp only [State.fenceCore]
  split
  · rfl
  · rw [block_withMem, block_setBlock_other _ _ _ _ h, block_setRegion, dropGroup_block_other _ _ _ h]
    split
    · exact complete_block_other _ _ _ _ _ _ _ h
    · rfl
/-- The fence of a block changes of a region only the count of its lost descriptors. -/
theorem fenceCore_region (s : State) (b : BlockId) (w : Bool) (r : RegionId) :
    ∃ n, (s.fenceCore b w).region r = { s.region r with fenceDesc := n } := by
  simp only [State.fenceCore]
  split
  · exact ⟨_, rfl⟩
  · generalize hu : (if (s.block b).group.isSome then _ else s : State) = u
    have e : ∀ q, u.region q = s.region q := fun q => by subst hu; split <;> rfl
    rw [region_withMem, region_setBlock]
    by_cases h : r = b.region
    · subst h
      exact ⟨_, by rw [region_setRegion_same, dropGroup_region, e]⟩
    · exact ⟨_, by rw [region_setRegion_other _ _ _ _ h, dropGroup_region, e]⟩
/-- The scratchpad of a block reads zero once it is fenced (R376). -/
theorem fenceCore_spad (s : State) (b : BlockId) (w : Bool) (h : (s.block b).fenced = false) (a : Nat) (h1 : spadBase b ≤ a)
    (h2 : a < spadBase b + slotBytes) : memByte (s.fenceCore b w).mem a = 0 := by
  simp only [State.fenceCore, h, Bool.false_eq_true, if_false]
  exact memByte_memClear_inside _ _ _ _ h1 h2

@[simp] theorem stateLost_block (s : State) (b c : BlockId) : (s.stateLost b).block c = s.block c := by
  simp only [State.stateLost]; split
  · split <;> rfl
  · rfl
@[simp] theorem stateLost_region (s : State) (b : BlockId) (r : RegionId) : (s.stateLost b).region r = s.region r := by
  simp only [State.stateLost]; split
  · split <;> rfl
  · rfl
@[simp] theorem stateLost_fl (s : State) (b : BlockId) : (s.stateLost b).fl = s.fl := by
  simp only [State.stateLost]; split
  · split <;> rfl
  · rfl
end Sys2Proof.Laws

namespace Sys2Proof.Laws

/-! SUPPORT for O13. What a kill of the open group and an abort leave of the block. -/

open Sys2Proof.Machine

/-! ## A killed group (R102) -/

/-- A group that reruns at once: its snapshot is restored, the core is in the open state, and the kill is counted. -/
theorem rerun_block (s : State) (b : BlockId) (p : Snapshot) (f : BlockState → BlockState) :
    (s.rerun b p f).block b = f { (s.block b).dropGroup.restore p with core := .openState, kills := inc (s.block b).kills } := by
  rw [State.rerun, block_setBlock_same, dropGroup_block_same, ← dropGroup_kills (s.block b)]
  rfl
/-- A group that ends at its GHDR with a status: the same snapshot, and its completion held unless a checker ran it. -/
theorem killComplete_block (s : State) (b : BlockId) (g : Group) (status : BitVec 8) (core : CoreState) :
    (s.killComplete b g status core).block b = { (s.block b).dropGroup.restore g.snap with
      core := core, kills := inc (s.block b).kills, reran := none, dipRerun := false, stopAtGhdr := false, groupTag := g.tag, lastStatus := status
      cpls := if s.isChecker b then (s.block b).cpls else (s.block b).cpls ++ [⟨g.tag, status, 0, 0, false, false⟩] } := by
  rw [State.killComplete, State.complete, block_setBlock_same, block_setBlock_same, dropGroup_block_same,
    ← dropGroup_kills (s.block b), ← dropGroup_cpls (s.block b)]
  rfl

theorem killGroup_first_check (s : State) (b : BlockId) (g : Group) (c : CellCheck) (hg : (s.block b).group = some g)
    (hr : (s.block b).reran = none) : s.killGroup b (.check c) = s.rerun b g.snap fun y => { y with reran := some (checkCode c) } := by
  simp [State.killGroup, hg, hr]
/-- A dip counts the kill for its partition, and marks the rerun; it is held during a stretch. -/
theorem killGroup_dip_block (s : State) (b : BlockId) (g : Group) (hg : (s.block b).group = some g) :
    (s.killGroup b .dip).block b = { (s.block b).dropGroup.restore g.snap with
      core := .openState, kills := inc (s.block b).kills, dipRerun := true, rerunHeld := s.power.stretched } := by
  simp only [State.killGroup, hg]
  exact rerun_block _ _ _ _
theorem killGroup_abort (s : State) (b : BlockId) (g : Group) (hg : (s.block b).group = some g) :
    s.killGroup b .abort = s.killComplete b g stKilled .stopped := by
  simp only [State.killGroup, hg]

/-- Block b of t is back at the snapshot that group g took in s: no group, one kill more, the messages of the group gone, epoch and memory as they were. -/
def RolledBack (s : State) (b : BlockId) (g : Group) (t : State) : Prop :=
  (t.block b).pc = g.snap.pc ∧ (t.block b).regs = g.snap.regs ∧ (t.block b).ppSel = g.snap.ppSel ∧
  (t.block b).laneSeed = g.snap.laneSeed ∧ (t.block b).lanes = g.snap.lanes ∧ (t.block b).group = none ∧
  (t.block b).kills = inc (s.block b).kills ∧ (t.block b).epoch = (s.block b).epoch ∧ t.mem = s.mem ∧
  (t.block b).sendBuf = (s.block b).sendBuf.filter (fun e => e.released)
theorem rolledBack_first_check (s : State) (b : BlockId) (g : Group) (c : CellCheck) (hg : (s.block b).group = some g)
    (hr : (s.block b).reran = none) : RolledBack s b g (s.killGroup b (.check c)) := by
  rw [killGroup_first_check s b g c hg hr]
  simp [RolledBack, rerun_block, BlockState.restore]
theorem rolledBack_dip (s : State) (b : BlockId) (g : Group) (hg : (s.block b).group = some g) : RolledBack s b g (s.killGroup b .dip) := by
  simp [RolledBack, killGroup_dip_block s b g hg, BlockState.restore]
theorem rolledBack_abort (s : State) (b : BlockId) (g : Group) (hg : (s.block b).group = some g) : RolledBack s b g (s.killGroup b .abort) := by
  rw [killGroup_abort s b g hg]
  simp [RolledBack, killComplete_block, BlockState.restore]

/-! ## GROUP_KILL (R19, R102) -/

theorem killPair_of_alone (s : State) (b : BlockId) (cause : KillCause) (h1 : s.isChecker b = false) (h2 : s.isChecker (pairOf b) = false) :
    s.killPair b cause = s.killGroup b cause := by
  simp [State.killPair, h1, h2]
/-- A check kills the group only where the group's mode runs it (R66). -/
theorem causeArises_check (s : State) (b : BlockId) (g : Group) (c : CellCheck) (hg : (s.block b).group = some g) :
    s.causeArises b (.check c) = checkRuns g.mode c := by
  simp only [State.causeArises, hg]
theorem groupKill_of_not_arises (s : State) (b : BlockId) (cause : KillCause) (h : s.causeArises b cause = false) :
    execGroupKill b cause s = .next s := by
  simp [execGroupKill, h]

section
variable (s : State) (b : BlockId) (cause : KillCause) (hin : (s.block b).inGroup = true) (hf : (s.block b).fenced = false)
  (hreset : (s.block b).inReset = false) (hrep : (s.block b).report = false) (h1 : s.isChecker b = false) (h2 : s.isChecker (pairOf b) = false)
include hin hf hreset hrep h1 h2

/-- Outside a pair a cause that arises, that corrects nothing and comes from no failed read kills the group of the block alone. -/
theorem groupKill_kills (ha : s.causeArises b cause = true) (hc : killCorrects cause = false) (hread : s.causeRead cause = s) :
    execGroupKill b cause s = .next (s.killGroup b cause) := by
  simp [execGroupKill, hin, hf, hreset, hrep, ha, hc, hread, killPair_of_alone s b cause h1 h2]

end

/-! ## BLOCK_ABORT (R104) -/

theorem blockAbort_runs (s : State) (b : BlockId) (hr : (s.block b).running = true) (hf : (s.block b).fenced = false)
    (hreset : (s.block b).inReset = false) : execBlockAbort b s = .next (s.abortBlock b) := by
  simp [execBlockAbort, hr, hf, hreset]
theorem abortBlock_open (s : State) (b : BlockId) (hc : (s.block b).core = .openState) (hs : (s.block b).stall = .none) :
    s.abortBlock b = s.setBlock b { s.block b with stopAtGhdr := true } := by
  simp only [State.abortBlock, hc, hs]
theorem abortBlock_recv (s : State) (b : BlockId) (q : BitVec 7) (sd : Reg) (byAddr : Bool) (hc : (s.block b).core = .openState)
    (hs : (s.block b).stall = .recv q sd byAddr) : s.abortBlock b = s.setBlock b { s.block b with core := .stopped, stall := .none } := by
  simp only [State.abortBlock, hc, hs]
theorem abortBlock_posted (s : State) (b : BlockId) (hc : (s.block b).core = .inCommit) (hp : (s.block b).cpls = []) :
    s.abortBlock b = s.setBlock b { s.block b with stopAtGhdr := true } := by
  simp only [State.abortBlock, hc, hp, List.getLast?_nil]
theorem abortBlock_inGroup (s : State) (b : BlockId) (g : Group) (hc : (s.block b).core = .inGroup) (hg : (s.block b).group = some g) :
    s.abortBlock b = s.killComplete b g stKilled .stopped := by
  simp only [State.abortBlock, hc, killGroup_abort s b g hg]
/-- The newest completion takes the late abort. -/
theorem lateAbortLast_getLast? (l : List PendingCpl) (h : l ≠ []) : ∃ c, (lateAbortLast l).getLast? = some c ∧ c.status = stLateAbort := by
  induction l with
  | nil => exact absurd rfl h
  | cons c r ih =>
    cases r with
    | nil => exact ⟨_, rfl, rfl⟩
    | cons d r =>
      obtain ⟨e, he, hs⟩ := ih (List.cons_ne_nil d r)
      exact ⟨e, by simp [lateAbortLast, List.getLast?_cons, he], hs⟩
/-- An abort in commit, before the completion is posted, stops the core. -/
theorem abortBlock_inCommit (s : State) (b : BlockId) (hc : (s.block b).core = .inCommit) (hp : (s.block b).cpls ≠ []) :
    (s.abortBlock b).block b =
      { s.block b with core := .stopped, lastStatus := stLateAbort, cpls := lateAbortLast (s.block b).cpls } := by
  obtain ⟨c, e⟩ := Option.isSome_iff_exists.mp (List.getLast?_isSome.mpr hp)
  simp only [State.abortBlock, hc, e]
  split
  · rw [raiseBlock_block, block_setBlock_same]
  · rw [block_setBlock_same]

/-- Settles O13: a kill by a check, by a dip and by an abort, and an abort in each state of the core;
the state between a commit and the post of its completion is log 27. -/
theorem killsAndAborts : Obligations.KillsAndAborts := by
  refine ⟨fun s b g cause hg hin hf hreset hrep h1 h2 => ?_, fun s b hrun hf hreset => ?_⟩
  · have kills := groupKill_kills s b cause hin hf hreset hrep h1 h2
    refine ⟨fun hcause hr => ?_, fun hcause => ?_, ?_, ?_⟩
    · obtain ⟨c, rfl, hmode, hcorr⟩ : ∃ c, cause = .check c ∧ checkRuns g.mode c = true ∧ killCorrects (.check c) = false := by
        obtain rfl | ⟨rfl, hm⟩ | ⟨rfl, hm⟩ := hcause
        · exact ⟨.parity, rfl, rfl, rfl⟩
        · exact ⟨.residue, rfl, by obtain hm | hm := hm <;> simp [checkRuns, hm], rfl⟩
        · exact ⟨.range, rfl, by simp [checkRuns, hm], rfl⟩
      refine ⟨_, kills (by rwa [causeArises_check s b g c hg]) hcorr rfl, rolledBack_first_check s b g c hg hr, ?_⟩
      rw [killGroup_first_check s b g c hg hr, rerun_block]
      exact ⟨rfl, dropGroup_cpls _⟩
    · refine groupKill_of_not_arises s b cause ?_
      obtain ⟨rfl, hm⟩ | ⟨rfl, hm⟩ := hcause
      · simp [causeArises_check s b g _ hg, checkRuns, hm]
      · simpa [causeArises_check s b g _ hg, checkRuns] using hm
    · rintro rfl hs
      refine ⟨_, kills rfl rfl rfl, rolledBack_dip s b g hg, ?_⟩
      rw [killGroup_dip_block s b g hg]
      exact ⟨rfl, rfl, hs, dropGroup_cpls _⟩
    · rintro rfl
      refine ⟨_, kills rfl rfl rfl, rolledBack_abort s b g hg, ?_⟩
      rw [killGroup_abort s b g hg, killComplete_block, h1]
      exact ⟨rfl, rfl, rfl⟩
  · have runs := blockAbort_runs s b hrun hf hreset
    refine ⟨fun hc hs => ?_, fun q sd byAddr hc hs => ?_, fun hc hp => ?_, fun hc hp => ?_, fun g hc hg => ?_⟩
    · exact runs.trans (congrArg _ (abortBlock_open s b hc hs))
    · exact runs.trans (congrArg _ (abortBlock_recv s b q sd byAddr hc hs))
    · obtain ⟨c, hlast, hst⟩ := lateAbortLast_getLast? (s.block b).cpls hp
      refine ⟨_, c, runs, ?_⟩
      rw [abortBlock_inCommit s b hc hp]
      exact ⟨rfl, rfl, hlast, hst⟩
    · exact runs.trans (congrArg _ (abortBlock_posted s b hc hp))
    · refine ⟨_, runs, ?_⟩
      rw [abortBlock_inGroup s b g hc hg, killComplete_block]
      exact ⟨rfl, rfl, rfl⟩
end Sys2Proof.Laws

namespace Sys2Proof.Laws

/-! SUPPORT for O17. What the end of a shadow load and the keeper's steps leave of the block. -/

open Sys2Proof.Machine

/-! ## A shadow load that ends (R16, R53, R54) -/

theorem live_iff (x : BlockState) : x.live = true ↔ x.fenced = false ∧ x.inReset = false ∧ x.report = false := by
  simp [BlockState.live, and_assoc]

/-- A load stop adds to BLK_SHADOW_STALL the load cycles that the loader had not had (log 40). -/
theorem loadStop_shadowStall (x : BlockState) (lead : Nat) : (x.loadStop lead).shadowStall = satAdd x.shadowStall (128 - lead) := by
  simp only [BlockState.loadStop, BlockState.dummies, loadCycles]
  split <;> rfl
theorem loadStop_arrayQ (x : BlockState) (lead : Nat) : (x.loadStop lead).arrayQ = x.arrayQ := by
  simp only [BlockState.loadStop, BlockState.dummies]
  split <;> rfl

section
variable (s : State) (b : BlockId)

theorem takenLoaded_block (l : ShadowLoad) (r : ArrayRun) : (s.takenLoaded b l r).block b = { (s.block b).loadStop r.lead with
    shadow := l.regSet, arrayQ := (s.block b).arrayQ.head?.toList.map (·.mapTake loadDone) ++ (s.block b).arrayQ.drop 1 } :=
  block_setBlock_same _ _ _
theorem tileLoaded_block (f : MatmulFields) (rb ssB sB : Nat) (r : ArrayRun) : (s.tileLoaded b f rb ssB sB r).block b = { (s.block b).loadStop r.lead with
    shadow := ⟨.ofGroup, tileRegs s.mem f rb sB (r.k0 f) r.n0, tileScales s.mem f ssB (r.k0 f) r.n0⟩, run := some { r with loaded := true } } :=
  block_setBlock_same _ _ _

/-- The load that the running MATMUL took ends while the array waits for it. -/
theorem shadowLoadComplete_taken (f : MatmulFields) (a rb c z ssA ssB sA sC sB : Nat) (take : Option ShadowLoad) (q : List EngineCmd) (r : ArrayRun)
    (l : ShadowLoad) (hlive : (s.block b).live = true) (hq : (s.block b).arrayQ = .matmul f a rb c z ssA ssB sA sC sB take :: q)
    (hr : (s.block b).run = some r) (hover : r.over f = false) (hl : r.takes take = some l) (hf : l.fetched = true) (hc : l.complete = false) :
    execShadowLoadComplete b s = .next (s.takenLoaded b l r) := by
  obtain ⟨h1, h2, h3⟩ := (live_iff _).mp hlive
  simp [execShadowLoadComplete, h1, h2, h3, hq, hr, hover, hl, hf, hc]
/-- The load of a tile that the MATMUL loads itself ends. -/
theorem shadowLoadComplete_tile (f : MatmulFields) (a rb c z ssA ssB sA sC sB : Nat) (take : Option ShadowLoad) (q : List EngineCmd) (r : ArrayRun)
    (hlive : (s.block b).live = true) (hq : (s.block b).arrayQ = .matmul f a rb c z ssA ssB sA sC sB take :: q)
    (hr : (s.block b).run = some r) (hover : r.over f = false) (hl : r.takes take = none) (hn : r.loaded = false) :
    execShadowLoadComplete b s = .next (s.tileLoaded b f rb ssB sB r) := by
  obtain ⟨h1, h2, h3⟩ := (live_iff _).mp hlive
  simp [execShadowLoadComplete, h1, h2, h3, hq, hr, hover, hl, hn]
/-- With an idle array the untaken load ends, and no stall is counted. -/
theorem shadowLoadComplete_untaken (l : ShadowLoad) (hlive : (s.block b).live = true) (hq : (s.block b).arrayQ = [])
    (hu : (s.block b).untaken = some l) (hf : l.fetched = true) (hc : l.complete = false) :
    execShadowLoadComplete b s = .next (s.setBlock b { s.block b with untaken := some (loadDone l), shadow := l.regSet }) := by
  obtain ⟨h1, h2, h3⟩ := (live_iff _).mp hlive
  simp [execShadowLoadComplete, h1, h2, h3, hq, BlockState.untakenLoaded, hu, hf, hc]

end

/-- The load that a pass takes is the one of its command. -/
theorem eq_some_of_takes (r : ArrayRun) (take : Option ShadowLoad) (l : ShadowLoad) (h : r.takes take = some l) : take = some l := by
  simp only [ArrayRun.takes, Option.ite_none_right_eq_some] at h
  exact h.2

/-! ## The keeper's steps (R69 to R71) -/

theorem dummies_of_enabled (x : BlockState) (n : Nat) (h : x.keeperEn = true) : x.dummies n = { x with keeperFill := satAdd x.keeperFill n } := by
  simp [BlockState.dummies, h]

section
variable (s : State) (b : BlockId) (hen : (s.block b).keeperEn = true) (hreset : (s.block b).inReset = false)
include hen hreset

/-- The whole fill of an idle array is counted, and the ramp down starts (R70). -/
theorem keeperFillExpiry_rampsDown (hq : (s.block b).arrayQ = []) (hk : (s.block b).keeperState = .busy ∨ (s.block b).keeperState = .fill) :
    execKeeperFillExpiry b s =
      .next (s.setBlock b { s.block b with keeperState := .rampDown, keeperFill := satAdd (s.block b).keeperFill 2200 }) := by
  obtain hk | hk := hk <;> simp [execKeeperFillExpiry, hen, hreset, hq, hk, dummies_of_enabled _ _ hen, keeperFillCycles]
theorem keeperRampStep_down (hk : (s.block b).keeperState = .rampDown) :
    execKeeperRampStep b s = .next (s.setBlock b { s.block b with
      keeperDuty := (s.block b).keeperDuty - 1, keeperState := if (s.block b).keeperDuty - 1 = 0 then .gated else .rampDown
      keeperFill := satAdd (s.block b).keeperFill (1100 * (s.block b).keeperDuty / 16) }) := by
  simp [execKeeperRampStep, hk, hen, hreset, dummies_of_enabled _ _ hen, keeperStepCycles]
/-- A step of the ramp up with work holds the array back. -/
theorem keeperRampStep_up_work (hk : (s.block b).keeperState = .rampUp) (hq : (s.block b).arrayQ ≠ []) :
    execKeeperRampStep b s = .next (s.setBlock b { s.block b with
      keeperDuty := (s.block b).keeperDuty + 1, keeperState := if 16 ≤ (s.block b).keeperDuty + 1 then .busy else .rampUp
      rampHold := satAdd (s.block b).rampHold (1100 - 1100 * (s.block b).keeperDuty / 16) }) := by
  simp [execKeeperRampStep, hk, hen, hreset, List.isEmpty_eq_false_iff.mpr hq, keeperStepCycles]
/-- A step of the ramp up without work issues dummy vectors (log 109). -/
theorem keeperRampStep_up_idle (hk : (s.block b).keeperState = .rampUp) (hq : (s.block b).arrayQ = []) :
    execKeeperRampStep b s = .next (s.setBlock b { s.block b with
      keeperDuty := (s.block b).keeperDuty + 1, keeperState := if 16 ≤ (s.block b).keeperDuty + 1 then .fill else .rampUp
      keeperFill := satAdd (s.block b).keeperFill (1100 * (s.block b).keeperDuty / 16) }) := by
  simp [execKeeperRampStep, hk, hen, hreset, hq, dummies_of_enabled _ _ hen, keeperStepCycles]

end

/-- Settles O17: the three ways in which a shadow load ends, and the four steps of the keeper; the load's 128 cycles are log 40, a ramp up without work is log 109. -/
theorem shadowAndKeeper : Obligations.ShadowAndKeeper := by
  refine ⟨fun s b f a rb c z ssA ssB sA sC sB take q r hlive hq hr hover => ⟨fun l hl hf hc => ?_, fun hl hn => ?_⟩,
    fun s b l hlive hq hu hf hc => shadowLoadComplete_untaken s b l hlive hq hu hf hc, fun s b hen hreset => ⟨?_, ?_, ?_, ?_⟩⟩
  · refine ⟨_, shadowLoadComplete_taken s b f a rb c z ssA ssB sA sC sB take q r l hlive hq hr hover hl hf hc, ?_⟩
    rw [takenLoaded_block, hq, eq_some_of_takes r take l hl]
    exact ⟨rfl, rfl, loadStop_shadowStall _ _, rfl⟩
  · refine ⟨_, shadowLoadComplete_tile s b f a rb c z ssA ssB sA sC sB take q r hlive hq hr hover hl hn, ?_⟩
    rw [tileLoaded_block]
    exact ⟨rfl, rfl, loadStop_arrayQ _ _, loadStop_shadowStall _ _, rfl⟩
  · exact keeperFillExpiry_rampsDown s b hen hreset
  · exact keeperRampStep_down s b hen hreset
  · exact keeperRampStep_up_work s b hen hreset
  · exact keeperRampStep_up_idle s b hen hreset
end Sys2Proof.Laws

namespace Sys2Proof.Laws

/-! SUPPORT for O18. The search for a spare, a spare taken, and the end of a fenced block's drain. -/

open Sys2Proof.Machine

/-! ## The search for a spare (R22 step 3) -/

/-- A fenced block waits for a spare. -/
def awaitsSpare (s : State) (b : BlockId) : Bool := (s.block b).fenced && (s.block b).swapping

/-- The only element of a list that satisfies a predicate is the first one. -/
theorem find?_eq_some_of_only {α : Type} (p : α → Bool) (l : List α) (a : α) (ha : a ∈ l) (hp : p a = true) (h : ∀ c ∈ l, c ≠ a → p c = false) :
    l.find? p = some a := by
  obtain ⟨c, hc⟩ := Option.isSome_iff_exists.mp (List.find?_isSome.mpr ⟨a, ha, hp⟩)
  by_cases e : c = a
  · exact e ▸ hc
  · exact absurd (List.find?_some hc) (by simp [h c (List.mem_of_find?_eq_some hc) e])

/-- The one block of the region that waits for a spare gets the first free one under test. -/
theorem nextSpare_tests (s : State) (r : RegionId) (n : Nat) (b : BlockId) (i : Nat) (rest : List Nat) (hr : b.region = r)
    (ht : (s.region r).testing = none) (hw : awaitsSpare s b = true)
    (ho : ∀ c : BlockId, c ≠ b → c.region = r → awaitsSpare s c = false) (hf : freeSpares (s.region r) = i :: rest) :
    State.nextSpare r (n + 1) s = s.setRegion r { s.region r with testing := some (64 + i, b) } := by
  have hb : (allBlocks.filter fun c => c.region == r).find? (awaitsSpare s) = some b := by
    refine find?_eq_some_of_only _ _ _ ?_ hw fun c hc hne => ho c hne ?_
    · simp [mem_allBlocks, hr]
    · simpa [mem_allBlocks] using hc
  simp only [State.nextSpare, ht, Option.isSome_none, Bool.false_eq_true, if_false]
  rw [show (fun c => (s.block c).fenced && (s.block c).swapping) = awaitsSpare s from rfl, hb]
  simp only [hf]

/-- Where no block of the region waits for a spare, none goes under test. -/
theorem nextSpare_of_none (s : State) (r : RegionId) (n : Nat) (ho : ∀ c : BlockId, c.region = r → awaitsSpare s c = false) :
    State.nextSpare r n s = s := by
  cases n with
  | zero => rfl
  | succ n =>
    have hb : (allBlocks.filter fun c => c.region == r).find? (awaitsSpare s) = none := by
      simpa [mem_allBlocks] using ho
    simp only [State.nextSpare]
    rw [show (fun c => (s.block c).fenced && (s.block c).swapping) = awaitsSpare s from rfl, hb]
    split <;> rfl

/-! ## Repairs and margin tests that nothing runs -/

theorem swapEnded_of_none (s : State) (b : BlockId) (n : Nat) (hr : s.fl.repair = none) (hm : s.fl.margin = none) : s.swapEnded b n = s := by
  simp [State.swapEnded, hr, hm]
theorem settleMargin_of_none (s : State) (hm : s.fl.margin = none) : s.settleMargin = s := by
  simp [State.settleMargin, hm]

/-! ## A spare taken (R376 step 4) -/

@[simp] theorem loadBlock_fl (s : State) (b : BlockId) : (s.loadBlock b).fl = s.fl := rfl
@[simp] theorem loadBlock_region (s : State) (b : BlockId) (r : RegionId) : (s.loadBlock b).region r = s.region r := rfl
theorem loadBlock_block_other (s : State) (b c : BlockId) (h : c ≠ b) : (s.loadBlock b).block c = s.block c := block_setBlock_other _ _ _ _ h
/-- The settings that a block loads leave its position, its fence and its core as they are. -/
theorem loadBlock_block_same (s : State) (b : BlockId) : ((s.loadBlock b).block b).phys = (s.block b).phys ∧
    ((s.loadBlock b).block b).fenced = (s.block b).fenced ∧ ((s.loadBlock b).block b).core = (s.block b).core := by
  simp only [State.loadBlock, block_setBlock_same, and_self]

/-- Void copies put back into a block's queues. -/
def refill (x : BlockState) (copies : List (Nat × Descriptor)) : BlockState :=
  copies.foldl (fun z d => z.setQueue (BitVec.ofNat 7 d.1)
    { z.queue (BitVec.ofNat 7 d.1) with entries := (z.queue (BitVec.ofNat 7 d.1)).entries ++ [d.2] }) x
/-- A block as the spare at a position takes it: parked, its void copies in its queues. -/
def onSpare (x : BlockState) (phys : Nat) : BlockState :=
  refill { x.fresh with phys := some phys, fenced := false, core := .parked, parkCode := pkSpare } x.voidCopies
theorem onSpare_keeps {γ : Type} (g : BlockState → γ) (hg : ∀ x q v, g (x.setQueue q v) = g x) (x : BlockState) (phys : Nat) :
    g (onSpare x phys) = g { x.fresh with phys := some phys, fenced := false, core := .parked, parkCode := pkSpare } :=
  foldl_keeps g _ _ _ fun _ _ => hg _ _ _
theorem onSpare_phys (x : BlockState) (phys : Nat) : (onSpare x phys).phys = some phys := onSpare_keeps (·.phys) (fun _ _ _ => rfl) x phys
theorem onSpare_fenced (x : BlockState) (phys : Nat) : (onSpare x phys).fenced = false := onSpare_keeps (·.fenced) (fun _ _ _ => rfl) x phys
theorem onSpare_core (x : BlockState) (phys : Nat) : (onSpare x phys).core = .parked := onSpare_keeps (·.core) (fun _ _ _ => rfl) x phys

/-- The events of a swap: BLOCK_FENCED, and BLOCK_STATE_LOST where a stage depends on the block. -/
def swapEvents (s : State) (b : BlockId) (phys : Nat) : State :=
  (s.raiseBlock b evBlockFenced (det 168 phys ||| det 176 (s.block b).voidCopies.length ||| det 192 (s.block b).fenceDropped)).stateLost b
@[simp] theorem swapEvents_block (s : State) (b c : BlockId) (phys : Nat) : (swapEvents s b phys).block c = s.block c := by simp [swapEvents]
@[simp] theorem swapEvents_region (s : State) (b : BlockId) (r : RegionId) (phys : Nat) : (swapEvents s b phys).region r = s.region r := by
  simp [swapEvents]
@[simp] theorem swapEvents_fl (s : State) (b : BlockId) (phys : Nat) : (swapEvents s b phys).fl = s.fl := by simp [swapEvents]

/-- A spare taken while no repair and no margin test waits for it. -/
theorem takeSpare_eq (s : State) (b : BlockId) (phys : Nat) (hr : s.fl.repair = none) (hm : s.fl.margin = none) :
    s.takeSpare b phys = (((swapEvents s b phys).setRegion b.region { s.region b.region with
      testing := none, spareUsed := putBit (s.region b.region).spareUsed (phys - 64) true }).setBlock b (onSpare (s.block b) phys)).loadBlock b := by
  rw [← swapEvents_region s b b.region phys]
  refine swapEnded_of_none _ _ _ ?_ ?_
  · simpa using hr
  · simpa using hm
section
variable (s : State) (b c : BlockId) (phys : Nat) (hr : s.fl.repair = none) (hm : s.fl.margin = none)
include hr hm

theorem takeSpare_fl : (s.takeSpare b phys).fl = s.fl := by simp [takeSpare_eq s b phys hr hm]
theorem takeSpare_region : (s.takeSpare b phys).region b.region = { s.region b.region with
    testing := none, spareUsed := putBit (s.region b.region).spareUsed (phys - 64) true } := by
  simp [takeSpare_eq s b phys hr hm]
theorem takeSpare_block_other (h : c ≠ b) : (s.takeSpare b phys).block c = s.block c := by
  simp [takeSpare_eq s b phys hr hm, loadBlock_block_other _ _ _ h, block_setBlock_other _ _ _ _ h]
/-- The block has the spare's position, is no longer fenced, and is parked until BLOCK_RESUME. -/
theorem takeSpare_block_same : ((s.takeSpare b phys).block b).phys = some phys ∧ ((s.takeSpare b phys).block b).fenced = false ∧
    ((s.takeSpare b phys).block b).core = .parked := by
  rw [takeSpare_eq s b phys hr hm]
  simp only [loadBlock_block_same, block_setBlock_same, onSpare_phys, onSpare_fenced, onSpare_core, and_self]

end

/-! ## The end of a start-up test (R389) -/

/-- The test of a spare for a fenced block whose messages have left ends. -/
theorem startupTest_ends (s : State) (b : BlockId) (phys : Nat) (pass : Bool) (hp : phys < 68)
    (ht : (s.region b.region).testing = some (phys, b)) (hs : (s.block b).sendBuf = []) :
    execStartupTestComplete b.region phys pass s = .next (State.nextSpare b.region 64
      (if pass then s.takeSpare b phys
        else s.setRegion b.region { (if pass then s.region b.region else (s.region b.region).failSpare phys) with testing := none })).settleMargin := by
  simp [execStartupTestComplete, hp, ht, hs]

/-- A pass puts the spare in service. -/
theorem startupTest_pass (s : State) (b : BlockId) (phys : Nat) (hp : phys < 68) (ht : (s.region b.region).testing = some (phys, b))
    (hs : (s.block b).sendBuf = []) (hr : s.fl.repair = none) (hm : s.fl.margin = none)
    (ho : ∀ c : BlockId, c ≠ b → c.region = b.region → awaitsSpare s c = false) :
    execStartupTestComplete b.region phys true s = .next (s.takeSpare b phys) := by
  have hnone : ∀ c : BlockId, c.region = b.region → awaitsSpare (s.takeSpare b phys) c = false := fun c hc => by
    by_cases e : c = b
    · simp [e, awaitsSpare, takeSpare_block_same s b phys hr hm]
    · simpa only [awaitsSpare, takeSpare_block_other s b c phys hr hm e] using ho c e hc
  rw [startupTest_ends s b phys true hp ht hs, if_pos rfl, nextSpare_of_none _ _ _ hnone, settleMargin_of_none _ (takeSpare_fl s b phys hr hm ▸ hm)]

/-- A failure counts the spare and puts the next free one under test. -/
theorem startupTest_fail (s : State) (b : BlockId) (phys j : Nat) (rest : List Nat) (hp : phys < 68) (ht : (s.region b.region).testing = some (phys, b))
    (hs : (s.block b).sendBuf = []) (hm : s.fl.margin = none) (hw : awaitsSpare s b = true)
    (ho : ∀ c : BlockId, c ≠ b → c.region = b.region → awaitsSpare s c = false) (hf : freeSpares ((s.region b.region).failSpare phys) = j :: rest) :
    execStartupTestComplete b.region phys false s =
      .next (s.setRegion b.region { (s.region b.region).failSpare phys with testing := some (64 + j, b) }) := by
  have e := nextSpare_tests (s.setRegion b.region { (s.region b.region).failSpare phys with testing := none }) b.region 63 b j rest rfl
    (by simp) hw ho (by rw [region_setRegion_same]; exact hf)
  rw [startupTest_ends s b phys false hp ht hs, if_neg Bool.false_ne_true, if_neg Bool.false_ne_true, e, setRegion_setRegion,
    region_setRegion_same]
  exact congrArg _ (settleMargin_of_none _ hm)

/-! ## A block reports (R22) -/

/-- The fence of a reporting block puts the first free spare under test for it, where it alone waits. -/
theorem fenceBlock_tests (s : State) (b : BlockId) (i : Nat) (rest : List Nat) (hn : (s.block b).fenced = false)
    (ht : (s.region b.region).testing = none) (hf : freeSpares (s.region b.region) = i :: rest)
    (ho : ∀ c : BlockId, c ≠ b → c.region = b.region → awaitsSpare s c = false) :
    s.fenceBlock b = (s.fenceCore b true).setRegion b.region
      { (s.fenceCore b true).region b.region with testing := some (64 + i, b) } := by
  obtain ⟨n, e⟩ := fenceCore_region s b true b.region
  obtain ⟨hfenced, hswap, -⟩ := fenceCore_block_same s b true hn
  rw [State.fenceBlock, hn, if_neg Bool.false_ne_true]
  refine nextSpare_tests _ b.region 63 b i rest rfl ?_ ?_ (fun c hc hreg => ?_) ?_
  · rw [e, ht]
  · rw [awaitsSpare, hfenced, hswap]; rfl
  · simpa only [awaitsSpare, fenceCore_block_other s b c true hc] using ho c hc hreg
  · rw [e]; exact hf

theorem blockReport_fences (s : State) (b : BlockId) (hr : (s.block b).report = true) (hn : (s.block b).fenced = false)
    (h1 : s.isChecker b = false) (h2 : s.isChecker (pairOf b) = false) : execBlockReport b s = .next (s.fenceBlock b) := by
  simp [execBlockReport, hr, hn, h1, h2]

/-! ## The end of a fenced block's drain (R376 step 2) -/

/-- Without a Relay and without a Rider the messages are dropped and counted, and nothing else happens. -/
theorem fenceDrainTimeout_drops (s : State) (b : BlockId) (hf : (s.block b).fenced = true) (hs : (s.block b).sendBuf ≠ [])
    (hr : ∀ e ∈ (s.block b).sendBuf, e.desc.rider = false) (hl : ∀ r ∈ s.relays, r.block ≠ b) :
    execFenceDrainTimeout b s = .next ((s.setRegion b.region { s.region b.region with
        fenceDesc := satAdd (s.region b.region).fenceDesc (s.block b).sendBuf.length }).setBlock b { s.block b with
      sendBuf := [], fenceDropped := (s.block b).fenceDropped + (s.block b).sendBuf.length }) := by
  have hrelays (p : RelayTx → Bool) : (s.relays.filter fun t => t.block == b && p t) = [] := by
    simpa using fun r h e => absurd e (hl r h)
  simp only [execFenceDrainTimeout, hf, List.isEmpty_eq_false_iff.mpr hs, Bool.not_false, Bool.and_true, when_true, State.setBlock_relays,
    State.setRegion_relays, hrelays, List.foldl_nil]
  rw [foldl_eq_self _ _ _ fun t e he => by simp [hr e he]]

/-- Settles O18: a fence with its search for a spare, a drain that ends, and a start-up test that passes or fails. -/
theorem fencesAndSpares : Obligations.FencesAndSpares := by
  refine ⟨fun s b i rest hrep hn hg h1 h2 ht hf ho => ?_, fun s b hf hs hr hl => ?_, fun s b phys hp ht hs hr hm ho => ⟨?_, fun j rest hn hw hf => ?_⟩⟩
  · obtain ⟨hfenced, -, hcore⟩ := fenceCore_block_same s b true hn
    refine ⟨s.fenceBlock b, blockReport_fences s b hrep hn h1 h2, ?_⟩
    rw [fenceBlock_tests s b i rest hn ht hf ho]
    exact ⟨hfenced, hcore, fenceCore_spad s b true hn, by simp⟩
  · exact ⟨_, fenceDrainTimeout_drops s b hf hs hr hl, by simp, by simp, by simp⟩
  · obtain ⟨hphys, hfenced, hcore⟩ := takeSpare_block_same s b phys hr hm
    refine ⟨s.takeSpare b phys, startupTest_pass s b phys hp ht hs hr hm ho, hphys, hfenced, hcore, ?_⟩
    rw [takeSpare_region s b phys hr hm]
    exact ⟨rfl, rfl⟩
  · exact startupTest_fail s b phys j rest hp ht hs hm (by simp [awaitsSpare, hn, hw]) ho hf
end Sys2Proof.Laws

namespace Sys2Proof.Laws

/-! SUPPORT for O20. The fence of a quad, the degradation and the failure of a hub unit, the takeover by the standby pair, and ERR_QUERY. -/

open Sys2Proof.Machine

/-! ## A quad fenced (R22 step 4) -/

/-- One block of a quad fenced without a search for a spare. -/
def fenceForQuad (t : State) (b : BlockId) : State :=
  (t.fenceCore b false).setBlock b { (t.fenceCore b false).block b with swapping := false }
/-- A block is fenced and waits for no spare. -/
def FencedForGood (b : BlockId) (s : State) : Prop := (s.block b).fenced = true ∧ (s.block b).swapping = false

theorem fenceForQuad_same (t : State) (b : BlockId) : FencedForGood b (fenceForQuad t b) := by
  cases h : (t.block b).fenced with
  | true => simp [FencedForGood, fenceForQuad, fenceCore_of_fenced _ _ _ h, h]
  | false => simp [FencedForGood, fenceForQuad, fenceCore_block_same _ _ _ h]
theorem fenceForQuad_keeps (t : State) (b c : BlockId) (h : FencedForGood c t) : FencedForGood c (fenceForQuad t b) := by
  by_cases e : c = b
  · exact e ▸ fenceForQuad_same t b
  · simpa only [FencedForGood, fenceForQuad, block_setBlock_other _ _ _ _ e, fenceCore_block_other _ _ _ _ e] using h
theorem fenceForQuad_fencedQuads (t : State) (b : BlockId) (r : RegionId) :
    ((fenceForQuad t b).region r).fencedQuads = (t.region r).fencedQuads := by
  obtain ⟨n, e⟩ := fenceCore_region t b false r
  simp [fenceForQuad, e]

/-- A quad that is not fenced yet: its blocks are fenced one after the other, then the quad is marked and reported. -/
theorem fenceQuad_eq (s : State) (r : RegionId) (q : Nat) (h : (s.region r).fencedQuads.getLsbD q = false) :
    s.fenceQuad r q =
      ((((quadBlocks r q).foldl fenceForQuad s).setRegion r { ((quadBlocks r q).foldl fenceForQuad s).region r with
        fencedQuads := putBit (((quadBlocks r q).foldl fenceForQuad s).region r).fencedQuads q true }).raise
        (s.ownerOr0 ⟨r, BitVec.ofNat 6 (4 * q)⟩) evQuadFenced 2 (unitRegion r 4 0) (det 168 q)).stateLost ⟨r, BitVec.ofNat 6 (4 * q)⟩ := by
  simp only [State.fenceQuad, h, Bool.false_eq_true, if_false]
  rfl
theorem fenceQuad_fencedQuads (s : State) (r : RegionId) (q : Nat) (h : (s.region r).fencedQuads.getLsbD q = false) :
    ((s.fenceQuad r q).region r).fencedQuads = putBit (s.region r).fencedQuads q true := by
  rw [fenceQuad_eq s r q h, stateLost_region, raise_region, region_setRegion_same]
  rw [foldl_keeps (fun t : State => (t.region r).fencedQuads) fenceForQuad _ _ fun t b => fenceForQuad_fencedQuads t b r]
theorem fenceQuad_fences (s : State) (r : RegionId) (q : Nat) (h : (s.region r).fencedQuads.getLsbD q = false) (b : BlockId)
    (hb : b ∈ quadBlocks r q) : FencedForGood b (s.fenceQuad r q) := by
  have e := foldl_establishes FencedForGood fenceForQuad fenceForQuad_same fenceForQuad_keeps (quadBlocks r q) s b hb
  rw [fenceQuad_eq s r q h]
  simpa only [FencedForGood, stateLost_block, raise_block, block_setRegion] using e

/-! ## Units of the hub that fail (R379, Table 15.6) -/

theorem setFault_status (s : State) (bit : Nat) : (s.setFault bit).faults.status = putBit s.faults.status bit true := rfl
/-- UNIT_DEGRADED goes to every partition that exists, to partition 0 where none does. -/
theorem unitDegraded_events (s : State) (bit unit : Nat) :
    (s.unitDegraded bit unit).events.map EventReq.code =
      s.events.map EventReq.code ++ if s.parts_ = [] then [evUnitDegraded] else s.parts_.map fun _ => evUnitDegraded := by
  rw [State.unitDegraded, raiseAll_events]
  cases s.parts_ with
  | nil => simp [State.setFault]
  | cons p ps => simp [State.setFault, Function.comp_def]
theorem unitDegraded_status (s : State) (bit unit : Nat) : (s.unitDegraded bit unit).faults.status = putBit s.faults.status bit true := by
  rw [State.unitDegraded, raiseAll_faults, setFault_status]
theorem securityDegraded_fault (s : State) : s.securityDegraded.lc.securityFault = true := by
  rw [State.securityDegraded, State.unitDegraded, raiseAll_lc]
  rfl

/-- A unit that fails has its bit set, FAULT_N asserted and the hub's crossings closed. -/
theorem unitFails_status (s : State) (bit unit : Nat) (h : bit < 64) : (s.unitFails bit unit).faults.status.getLsbD bit = true := by
  rw [State.unitFails, raiseAll_faults]
  simp [State.fatalFault, State.assertFault, State.setFault, getLsbD_putBit_true, h]
theorem unitFails_faultN (s : State) (bit unit : Nat) : (s.unitFails bit unit).reset_.faultN = true := by
  rw [State.unitFails, raiseAll_reset]
  rfl
theorem unitFails_closed (s : State) (bit unit : Nat) : (s.unitFails bit unit).closed.contains .hub = true := by
  rw [State.unitFails, raiseAll_closed]
  change (if s.closed.contains .hub then s.closed else s.closed ++ [.hub]).contains .hub = true
  cases h : s.closed.contains .hub with
  | true => simpa using h
  | false => simp

/-! ## The standby pair takes over -/

theorem dropCurrent_of_none (s : State) (h : s.fl.current = none) : s.dropCurrent = s := by simp [State.dropCurrent, h]
theorem takeOver_fl (s : State) (h : s.fl.current = none) :
    s.takeOver.fl = { s.fl with activePair := !s.fl.activePair, standbyHealthy := false } := by
  rw [State.takeOver, raiseAll_fl, dropCurrent_of_none]
  · rfl
  · exact h
theorem takeOver_status (s : State) (h : s.fl.current = none) : s.takeOver.faults.status = putBit (putBit s.faults.status 6 true) 7 true := by
  rw [State.takeOver, raiseAll_faults, dropCurrent_of_none]
  · rfl
  · exact h
theorem controlFailover_takesOver (s : State) (hact : s.reset_.active = false) (hup : s.flapinoUp = true)
    (hstandby : s.fl.standbyHealthy = true) (hfw : s.fl.fw = .idle) : execControlFailover s = .next s.takeOver := by
  simp [execControlFailover, hact, hup, State.controlFails, hfw, hstandby]

/-! ## ERR_QUERY (R393) -/

/-- The entries of a partition that are not written, and the follow-ons, as the words of an answer. -/
def unwrittenWords (es : List ErrEntry) : List Word :=
  ((entriesInOrder es.length es).flatMap fun e =>
    (if e.writing then [] else [e.record]) ++ (match e.follow with | some f => [f] | none => [])).flatMap errorWords
theorem errQuery_answers (s : State) (r : Running) (p : BitVec 8) (hc : s.carries r 0x0601 .all = true) (hp : p.toNat < 32)
    (hscope : p.setWidth 5 = r.part ∨ r.part = 0) :
    execErrQuery p s = .next (s.taken.okData r
      (s.errCounters (p.setWidth 5) ++ [s.faults.status, s.faults.last] ++ unwrittenWords (s.part (p.setWidth 5)).errs)) := by
  have hff : p ≠ 0xFF#8 := by rintro rfl; simp at hp
  have hle : ¬ 31 < p.toNat := by omega
  rw [execErrQuery, cmd_of_carries s r _ _ _ hc]
  have hsc : (p.setWidth 5 != r.part && r.part != 0#5) = false := by
    obtain h | h := hscope <;> simp [h]
  simp only [hff, if_false, hle, hsc, firstReason, State.unless, decide_false, Bool.and_false, Bool.false_eq_true]
  rfl

/-- Settles O20, a named operation for each clause; the words of the answer are log 24, and the failed pair is no healthy standby by log 61. -/
theorem hubFaultsAndFailover : Obligations.HubFaultsAndFailover := by
  refine ⟨fun s => ?_, fun s => ?_, fun s r q h => ?_, fun s hact hup hstandby hfw hcur => ?_, fun s r p hc hp hscope => ?_⟩
  · exact ⟨s.securityDegraded, rfl, securityDegraded_fault s, unitDegraded_status _ 5 0x03, unitDegraded_events _ 5 0x03⟩
  · exact ⟨s.unitFails 1 0x00, rfl, unitFails_status s 1 0x00 (by omega), unitFails_faultN s 1 0x00, unitFails_closed s 1 0x00, unitFails_mem s 1 0x00⟩
  · exact ⟨s.fenceQuad r q.toNat, rfl, fenceQuad_fencedQuads s r _ h, fenceQuad_fences s r _ h⟩
  · exact ⟨s.takeOver, controlFailover_takesOver s hact hup hstandby hfw, takeOver_fl s hcur, takeOver_status s hcur⟩
  · refine ⟨unwrittenWords (s.part (p.setWidth 5)).errs, errQuery_answers s r p hc hp hscope, fun h => ?_⟩
    rw [h]
    rfl
end Sys2Proof.Laws

namespace Sys2Proof.Laws

/-! SUPPORT for O60. An addition into the accumulator writes the exact sum as an A32 word (`a32Write`): the sum's 24 leading bits (`truncated24`)
lie between 2^23 and 2^24, so the fraction below the hidden bit never reaches the exponent field, and every word written has the form `a32Word` with
an exponent field of at most 254. -/

open Sys2Proof.Machine

/-! ## Words put together from their fields -/

/-- The A32 word of a sign, an exponent field and a fraction (R38). -/
def a32Word (neg : Bool) (field frac : Nat) : BitVec 32 := BitVec.ofNat 32 (fmtFP32.signed neg ((field <<< 23) + frac))

theorem a32Word_toNat (neg : Bool) (field frac : Nat) (hfield : field < 256) (hfrac : frac < 2 ^ 23) :
    (a32Word neg field frac).toNat = (if neg then 2 ^ 31 else 0) + field * 2 ^ 23 + frac := by
  rw [a32Word, BitVec.toNat_ofNat, Nat.shiftLeft_eq]
  cases neg <;> simp [FpFmt.signed, fmtFP32] <;> omega
theorem a32Word_field (neg : Bool) (field frac : Nat) (hfield : field < 256) (hfrac : frac < 2 ^ 23) :
    (a32Word neg field frac).extractLsb' 23 8 = BitVec.ofNat 8 field := by
  apply BitVec.eq_of_toNat_eq
  rw [BitVec.extractLsb'_toNat, a32Word_toNat neg field frac hfield hfrac, Nat.shiftRight_eq_div_pow, BitVec.toNat_ofNat]
  split <;> omega
theorem a32Word_fraction (neg : Bool) (field frac : Nat) (hfield : field < 256) (hfrac : frac < 2 ^ 23) :
    (a32Word neg field frac).extractLsb' 0 23 = BitVec.ofNat 23 frac := by
  apply BitVec.eq_of_toNat_eq
  rw [BitVec.extractLsb'_toNat, a32Word_toNat neg field frac hfield hfrac, Nat.shiftRight_eq_div_pow, BitVec.toNat_ofNat]
  split <;> omega

/-- Neither an infinity nor a NaN nor a subnormal: the exponent field is not all ones, and is zero only with a zero fraction. -/
def A32Normal (w : BitVec 32) : Prop := w.extractLsb' 23 8 ≠ 0xFF ∧ (w.extractLsb' 23 8 = 0 → w.extractLsb' 0 23 = 0)

theorem a32Normal_word (neg : Bool) (field frac : Nat) (hfield : field < 255) (hfrac : frac < 2 ^ 23) (hsub : field = 0 → frac = 0) :
    A32Normal (a32Word neg field frac) := by
  rw [A32Normal, a32Word_field neg field frac (by omega) hfrac, a32Word_fraction neg field frac (by omega) hfrac]
  refine ⟨fun h => ?_, fun h => ?_⟩
  · have hones : field % 256 = 255 := congrArg BitVec.toNat h
    omega
  · have hzero : field % 256 = 0 := congrArg BitVec.toNat h
    rw [hsub (by omega)]
    rfl

/-! ## The truncation of R60 -/

/-- The magnitude of a value truncated to its 24 leading bits, as `a32Add` takes it. -/
def truncated24 (d : Dy) : Nat :=
  let lsb := d.top - 23
  if lsb ≤ d.e then d.m <<< (d.e - lsb).toNat else d.m >>> (lsb - d.e).toNat

theorem dyTop_eq_log2 (d : Dy) (h : d.m ≠ 0) : d.top = d.e + d.m.log2 := by
  simp [Dy.top, bitLen, h]
  omega
/-- A nonzero value keeps exactly 24 bits, the leading one among them. -/
theorem truncated24_bounds (d : Dy) (h : d.m ≠ 0) : 2 ^ 23 ≤ truncated24 d ∧ truncated24 d < 2 ^ 24 := by
  have hlow : 2 ^ d.m.log2 ≤ d.m := Nat.log2_self_le h
  have hhigh : d.m < 2 ^ (d.m.log2 + 1) := Nat.lt_log2_self
  simp only [truncated24, dyTop_eq_log2 d h]
  split
  next hle =>
    have hk : (d.e - (d.e + d.m.log2 - 23)).toNat = 23 - d.m.log2 := by omega
    rw [hk, Nat.shiftLeft_eq, ← Nat.pow_sub_mul_pow 2 (show d.m.log2 ≤ 23 by omega), ← Nat.pow_sub_mul_pow 2 (show d.m.log2 + 1 ≤ 24 by omega),
      show 24 - (d.m.log2 + 1) = 23 - d.m.log2 by omega, Nat.mul_comm d.m]
    exact ⟨Nat.mul_le_mul_left _ hlow, Nat.mul_lt_mul_of_pos_left hhigh (by positivity)⟩
  next hgt =>
    have hk : (d.e + d.m.log2 - 23 - d.e).toNat = d.m.log2 - 23 := by omega
    rw [hk, Nat.shiftRight_eq_div_pow, Nat.le_div_iff_mul_le (by positivity), Nat.div_lt_iff_lt_mul (by positivity), ← pow_add, ← pow_add,
      show 23 + (d.m.log2 - 23) = d.m.log2 by omega, show 24 + (d.m.log2 - 23) = d.m.log2 + 1 by omega]
    exact ⟨hlow, hhigh⟩

/-! ## The word written for an exact value, a lemma for each rule of R60 -/

/-- The A32 word of an exact value and whether it saturated (R60). -/
def a32Write (d : Dy) : BitVec 32 × Bool :=
  if d.m = 0 then (0, false)
  else if d.top + 127 > 254 then (a32Word d.neg 254 (2 ^ 23 - 1), true)
  else if d.top + 127 ≤ 0 then (a32Word d.neg 0 0, false)
  else (a32Word d.neg (d.top + 127).toNat (truncated24 d - 2 ^ 23), false)

theorem a32Add_eq_write (acc : BitVec 32) (s e : Int) : a32Add acc s e = a32Write ((a32Read acc).1.add (Dy.ofInt s (e - 46) false)) := rfl

theorem a32Write_zero (d : Dy) (h : d.m = 0) : a32Write d = (0, false) := if_pos h
theorem a32Write_overflow (d : Dy) (h : d.m ≠ 0) (ht : 128 ≤ d.top) : a32Write d = (a32Word d.neg 254 (2 ^ 23 - 1), true) := by
  rw [a32Write, if_neg h, if_pos (by omega)]
theorem a32Write_underflow (d : Dy) (h : d.m ≠ 0) (ht : d.top ≤ -127) : a32Write d = (a32Word d.neg 0 0, false) := by
  rw [a32Write, if_neg h, if_neg (by omega), if_pos (by omega)]
theorem a32Write_inRange (d : Dy) (h : d.m ≠ 0) (hlow : -127 < d.top) (hhigh : d.top < 128) :
    a32Write d = (a32Word d.neg (d.top + 127).toNat (truncated24 d - 2 ^ 23), false) := by
  rw [a32Write, if_neg h, if_neg (by omega), if_neg (by omega)]

theorem a32Write_saturates_iff (d : Dy) (h : d.m ≠ 0) : (a32Write d).2 = true ↔ 128 ≤ d.top := by
  obtain ht | ht := le_or_gt 128 d.top
  · simp [a32Write_overflow d h ht, ht]
  · obtain hlow | hlow := le_or_gt d.top (-127)
    · simp [a32Write_underflow d h hlow, ht]
    · simp [a32Write_inRange d h hlow ht, ht]
theorem a32Write_saturated (d : Dy) (h : (a32Write d).2 = true) : (a32Write d).1 = 0x7F7FFFFF ∨ (a32Write d).1 = 0xFF7FFFFF := by
  have hm : d.m ≠ 0 := fun hm => by simp [a32Write_zero d hm] at h
  rw [a32Write_overflow d hm ((a32Write_saturates_iff d hm).mp h)]
  cases d.neg
  · exact .inl rfl
  · exact .inr rfl
theorem a32Write_normal (d : Dy) : A32Normal (a32Write d).1 := by
  by_cases h : d.m = 0
  · rw [a32Write_zero d h]
    exact a32Normal_word false 0 0 (by omega) (by omega) fun _ => rfl
  · obtain hlow | hlow := le_or_gt d.top (-127)
    · rw [a32Write_underflow d h hlow]
      exact a32Normal_word _ 0 0 (by omega) (by omega) fun _ => rfl
    · obtain ht | ht := le_or_gt 128 d.top
      · rw [a32Write_overflow d h ht]
        exact a32Normal_word _ 254 _ (by omega) (by omega) (by omega)
      · obtain ⟨-, hbits⟩ := truncated24_bounds d h
        rw [a32Write_inRange d h hlow ht]
        exact a32Normal_word _ _ _ (by omega) (by omega) (by omega)

/-- Settles O60: each clause is a rule of `a32Write`, applied to the exact sum. -/
theorem accumulationStaysFinite : Obligations.AccumulationStaysFinite := by
  intro acc s e
  simp only [a32Add_eq_write]
  obtain ⟨hfinite, hsubnormal⟩ := a32Write_normal ((a32Read acc).1.add (Dy.ofInt s (e - 46) false))
  exact ⟨hfinite, hsubnormal, a32Write_saturated _, a32Write_saturates_iff _, a32Write_zero _⟩
end Sys2Proof.Laws

namespace Sys2Proof.Laws

/-! SUPPORT for O16. What the reads and the write of an engine's command leave as they are, what a pass leaves of its block, and the next command's start. -/

open Sys2Proof.Machine

/-! ## Reads of an engine: bits turned over and bursts checked -/

/-- Bits that turn over change memory and the bursts' errors alone. -/
theorem struck_eq (s : State) (rs : List Range) (hit : BurstErr) : ∃ m e, s.struck rs hit = { s with mem := m, bursts := e } := by
  unfold State.struck
  split
  · exact ⟨_, _, rfl⟩
  · exact ⟨s.mem, s.bursts, rfl⟩

/-- A burst's check counts at its stack and raises events, and changes nothing else. -/
theorem readBurst_eq (s : State) (a : Nat) (tr : BurstErr) : ∃ k v, (s.readBurst a tr).1 = { s with stackCtl := k, events := v } := by
  unfold State.readBurst
  split
  · simp only [State.burstFails]
    split <;> exact ⟨_, _, rfl⟩
  · unfold State.burstOk
    split <;> exact ⟨_, _, rfl⟩
theorem readRanges_eq (s : State) (rs : List Range) : ∃ k v, (s.readRanges rs).1 = { s with stackCtl := k, events := v } :=
  List.foldlRecOn (motive := fun p : State × Option Nat => ∃ k v, p.1 = { s with stackCtl := k, events := v }) _ _ ⟨_, _, rfl⟩
    fun p ⟨_, _, e⟩ a _ => by
      obtain ⟨k, v, h⟩ := readBurst_eq p.1 a errZero
      exact ⟨k, v, by rw [h, e]⟩

@[simp] theorem struck_block (s : State) (rs : List Range) (hit : BurstErr) (b : BlockId) : (s.struck rs hit).block b = s.block b := by
  simp only [State.block, State.struck_blocks]
@[simp] theorem readRanges_block (s : State) (rs : List Range) (b : BlockId) : (s.readRanges rs).1.block b = s.block b := by
  obtain ⟨k, v, e⟩ := readRanges_eq s rs
  rw [e]; rfl
@[simp] theorem readRanges_errorsIn (s : State) (rs qs : List Range) : (s.readRanges rs).1.errorsIn qs = s.errorsIn qs := by
  obtain ⟨k, v, e⟩ := readRanges_eq s rs
  rw [e]; rfl
@[simp] theorem readRanges_isChecker (s : State) (rs : List Range) (b : BlockId) : (s.readRanges rs).1.isChecker b = s.isChecker b := by
  obtain ⟨k, v, e⟩ := readRanges_eq s rs
  rw [e]; rfl
@[simp] theorem struck_isChecker (s : State) (rs : List Range) (hit : BurstErr) (b : BlockId) : (s.struck rs hit).isChecker b = s.isChecker b := by
  obtain ⟨m, e, h⟩ := struck_eq s rs hit
  rw [h]; rfl
@[simp] theorem struck_blockAllowed (s : State) (rs : List Range) (hit : BurstErr) : (s.struck rs hit).blockAllowed = s.blockAllowed := by
  obtain ⟨m, e, h⟩ := struck_eq s rs hit
  rw [h]; rfl
@[simp] theorem struck_ringWaits (s : State) (rs : List Range) (hit : BurstErr) : (s.struck rs hit).ringWaits = s.ringWaits := by
  obtain ⟨m, e, h⟩ := struck_eq s rs hit
  rw [h]; rfl
@[simp] theorem struck_ringAbandoned (s : State) (rs : List Range) (hit : BurstErr) : (s.struck rs hit).ringAbandoned = s.ringAbandoned := by
  obtain ⟨m, e, h⟩ := struck_eq s rs hit
  rw [h]; rfl

/-! ## The write of an engine's result -/

@[simp] theorem memRead_length (m : Memory) (a n : Nat) : (memRead m a n).length = n := by
  induction n generalizing a with
  | zero => rfl
  | succ n ih => simp [memRead, ih]

theorem signBlock_errorsIn (s : State) (b : BlockId) (e : Nat) (bs : List Byte) (rs : List Range) :
    (s.signBlock b e bs).errorsIn rs = s.errorsIn rs := by
  unfold State.signBlock
  split
  · split <;> rfl
  · rfl
theorem signBlock_vectorQ (s : State) (b : BlockId) (e : Nat) (bs : List Byte) : ((s.signBlock b e bs).block b).vectorQ = (s.block b).vectorQ := by
  unfold State.signBlock
  split
  · split
    · rw [block_setBlock_same]
    · rfl
  · rfl

/-- A block that is no checker writes its bytes to memory where no burst holds an error and no companion memory lies. -/
theorem store_eq (s : State) (b : BlockId) (e a : Nat) (bs : List Byte) (hck : s.isChecker b = false) (hcomp : inCompanion a bs.length = false)
    (herr : s.errorsIn [⟨a, bs.length⟩] = []) :
    s.store b e a bs = { s.signBlock b e (sigWrite b a bs) with mem := memWrite s.mem a bs } := by
  have herr' : (s.signBlock b e (sigWrite b a bs)).errorsIn [⟨a, bs.length⟩] = [] := by rw [signBlock_errorsIn, herr]
  simp [State.store, hck, hcomp, put_clean _ _ _ herr']

theorem blockMode_eq (s : State) (b : BlockId) :
    s.blockMode b = ((s.block b).group.map (·.mode)).or ((s.owner b).map fun p => (s.part p).checkMode) := by
  cases h : (s.block b).group with
  | none => simp only [State.blockMode, h, Option.map_none, Option.none_or]
  | some g => simp only [State.blockMode, h, Option.map_some, Option.some_or]
/-- Whether a block is a checker depends on its partition and on the mode of its group. -/
theorem isChecker_setBlock (s : State) (b : BlockId) (y : BlockState) (h : y.group.map (·.mode) = (s.block b).group.map (·.mode)) :
    (s.setBlock b y).isChecker b = s.isChecker b := by
  have hmode : (s.setBlock b y).blockMode b = s.blockMode b := by
    rw [blockMode_eq, blockMode_eq, block_setBlock_same, h]
    rfl
  simp only [State.isChecker, hmode]
theorem flagGroup_mode (x : BlockState) (sat inv amaxEn : Bool) (idx : BitVec 3) (amax : BitVec 32) :
    (x.flagGroup sat inv amaxEn idx amax).group.map (·.mode) = x.group.map (·.mode) := by
  simp [BlockState.flagGroup, BlockState.mapGroup, Function.comp_def]

/-! ## The draws of an output stage -/

/-- Roundings draw from the lanes, and leave the rest of the block. -/
theorem roundings_block (sr : Bool) (ls : List Nat) (x : BlockState) : ∃ v, (roundings sr ls x).2 = { x with lanes := v } := by
  induction ls generalizing x with
  | nil => exact ⟨_, rfl⟩
  | cons l ls ih =>
    cases sr with
    | false => exact ih x
    | true => exact ih (drawLane x l).2
theorem vecOutput_block (mem : Memory) (f : VecFields) (cv : Bool) (o : Vop) (a b c d : Nat) (sc : BitVec 32) (x : BlockState) :
    ∃ v, (vecOutput mem f cv o a b c d sc x).x = { x with lanes := v } := by
  simp only [vecOutput]
  split
  · exact ⟨_, rfl⟩
  · split
    · exact ⟨_, rfl⟩
    · exact roundings_block _ _ _
theorem mmOutBlocks_block (f : MatmulFields) (fault : ArrayFault) (c z strideC : Nat) (zregs : Tab (Nat × Option Byte)) (src : Memory)
    (acc : Nat → Nat → BitVec 32) (l : List (List (Nat × Nat))) (o : StageOut) :
    ∃ v, (l.foldl (mmOutBlock f fault c z strideC zregs src acc) o).out.x = { o.out.x with lanes := v } :=
  List.foldlRecOn (motive := fun p : StageOut => ∃ v, p.out.x = { o.out.x with lanes := v }) _ _ ⟨_, rfl⟩
    fun p ⟨_, e⟩ ps _ => by
      obtain ⟨v, h⟩ := roundings_block (f.roundSr && !(mmExact f && isA32 f.fmtC)) (ps.map fun p => p.2 % 128) p.out.x
      exact ⟨v, h.trans (by rw [e])⟩

/-! ## A pass of the array (R16, R55, R62) -/

section
variable (s : State) (b : BlockId) (f : MatmulFields) (ra rc rz ssA ssB sA sC : Nat) (take : Option ShadowLoad) (r : ArrayRun)

theorem dummies_eq (x : BlockState) (n : Nat) : ∃ k, x.dummies n = { x with keeperFill := k } := by
  unfold BlockState.dummies
  split
  · exact ⟨_, rfl⟩
  · exact ⟨_, rfl⟩

/-- The block after a pass, the last of its tile or another: the registers have swapped, the run has advanced, and the rows are counted. -/
theorem passEffect_block (fault : ArrayFault) : ∃ fill lanes group zr cycles,
    (s.passEffect b f fault ra rc rz ssA ssB sA sC take r).1.block b = { s.block b with
      arrayBusy := satAdd (s.block b).arrayBusy (passBusy f r), active := s.swapSet (s.block b) f ssB r take, shadow := WeightSet.empty
      run := some (({ r with zregs := zr } : ArrayRun).advance f cycles), keeperFill := fill, lanes := lanes, group := group } := by
  unfold State.passEffect
  extract_lets x w zr p busy x1 acc o keep signed
  obtain ⟨fill, hfill⟩ : ∃ k, x1 = _ := dummies_eq _ _
  split
  · refine ⟨fill, x.lanes, (x1.flagGroup p.sat p.inv false 0 0).group, zr, passCycles f r, ?_⟩
    rw [block_setBlock_same, BlockState.flagGroup, BlockState.mapGroup, hfill]
  · obtain ⟨lanes, hlanes⟩ : ∃ v, o.out.x = { x1 with lanes := v } := mmOutBlocks_block _ _ _ _ _ _ _ _ _ _
    refine ⟨fill, lanes, (((o.out.x.flagGroup o.out.sat o.out.inv f.amaxEn f.amaxIdx o.out.amax).mapGroup fun g => g.sign sigArray signed).group),
      zr, passCycles f r, ?_⟩
    rw [block_setBlock_same, BlockState.flagGroup, BlockState.mapGroup, BlockState.mapGroup, hlanes, hfill]

/-- A pass that is not the last of its tile writes the partial sums alone. -/
theorem passEffect_mem (h : r.kp + 1 < passes f) : (s.passEffect b f .none ra rc rz ssA ssB sA sC take r).1.mem =
    putSums s.mem b (s.block b) f r (mmPass s.mem b (s.block b) (s.swapSet (s.block b) f ssB r take) f .none ra ssA sA r).cells := by
  simp only [State.passEffect, if_pos h]
  rfl
theorem advance_within_tile (cycles : Nat) (h : r.kp + 1 < passes f) :
    r.advance f cycles = { r with loaded := false, lead := cycles, kp := r.kp + 1 } := if_pos h
theorem passBusy_eq : passBusy f r = (tileRows f r.mt).length * (if fmtBits f.fmtA = 16 ∨ fmtBits f.fmtB = 16 then 2 else 1) := by
  simp [passBusy, sixteenBit]

/-- A pass without a fault in which no check fails has its effect, whole. -/
theorem arrayPass_passes (h : (s.passEffect b f .none ra rc rz ssA ssB sA sC take r).2.check (s.block b).mode = .pass) :
    s.arrayPass b f .none ra rc rz ssA ssB sA sC take r = (s.passEffect b f .none ra rc rz ssA ssB sA sC take r).1 := by
  simp [State.arrayPass, faultPath, killCorrects, h]

end

/-! ## A command leaves its queue (R84) -/

/-- A command whose reads return data has its effect, and the next one takes its place. -/
theorem finish_of_read (s : State) (b : BlockId) (e : EngineId) (c : EngineCmd) (hit : BurstErr) (f : State → State)
    (ha : s.cmdAbandoned b c = none) (hr : ((s.struck c.reads hit).readRanges c.reads).2 = none) :
    s.finish b e c hit f = (f ((s.struck c.reads hit).readRanges c.reads).1).retireCmd b e := by
  simp only [State.finish, ha, hr]

/-- A stall that ends moves the core on, and leaves the engines. -/
theorem wake_eq (x : BlockState) : ∃ pc st, x.wake = { x with pc := pc, stall := st } := by
  unfold BlockState.wake
  split
  · split <;> exact ⟨_, _, rfl⟩
  · split <;> exact ⟨_, _, rfl⟩
  · exact ⟨_, _, rfl⟩
@[simp] theorem wake_arrayQ (x : BlockState) : x.wake.arrayQ = x.arrayQ := by
  obtain ⟨pc, st, e⟩ := wake_eq x
  rw [e]
@[simp] theorem wake_vectorQ (x : BlockState) : x.wake.vectorQ = x.vectorQ := by
  obtain ⟨pc, st, e⟩ := wake_eq x
  rw [e]
@[simp] theorem keeperIdle_arrayQ (x : BlockState) : x.keeperIdle.arrayQ = x.arrayQ := by
  unfold BlockState.keeperIdle
  split <;> rfl

@[simp] theorem toScl_blocks (s : State) (o : Output) : (s.toScl o).blocks = s.blocks := by
  unfold State.toScl
  split <;> rfl
@[simp] theorem sendReq_blocks (s : State) (r : CompanionReq) : (s.sendReq r).blocks = s.blocks := by
  unfold State.sendReq
  split
  case h_3 | h_4 => split <;> simp
  all_goals simp
@[simp] theorem companionReq_blocks (s : State) (stream a n : Nat) (use : CompanionUse) (data : List Byte) :
    (s.companionReq stream a n use data).blocks = s.blocks := by
  unfold State.companionReq
  split
  · exact sendReq_blocks _ _
  · rfl
@[simp] theorem ucRead_blocks (s : State) (stream a n : Nat) (use : CompanionUse) : (s.ucRead stream a n use).blocks = s.blocks :=
  foldl_keeps State.blocks _ _ _ fun _ _ => companionReq_blocks _ _ _ _ _ _

/-- The vector unit's start sends reads, and forgets what earlier ones returned. -/
@[simp] theorem startVec_block (s : State) (b : BlockId) : (s.startVec b).block b = { s.block b with vecData := [] } := by
  have hblocks : (s.startVec b).blocks = (s.setBlock b { s.block b with vecData := [] }).blocks := by
    simp only [State.startVec]
    split
    · exact foldl_keeps State.blocks _ _ _ fun _ _ => ucRead_blocks _ _ _ _ _
    · rfl
  rw [State.block, hblocks]
  exact block_setBlock_same _ _ _

theorem retireCmd_arrayQ (s : State) (b : BlockId) : ((s.retireCmd b .array).block b).arrayQ = (s.block b).arrayQ.drop 1 := by
  simp [State.retireCmd, BlockState.nextRun, BlockState.pop]
theorem retireCmd_vectorQ (s : State) (b : BlockId) : ((s.retireCmd b .vector).block b).vectorQ = (s.block b).vectorQ.drop 1 := by
  simp [State.retireCmd, BlockState.pop]

/-! ## The effects of a VEC, a CONVERT and a COPY (R40, R88, R93) -/

/-- A VEC or CONVERT writes its output to its destination, and leaves the queue to its retirement. -/
theorem finishVec_effect (s : State) (b : BlockId) (f : VecFields) (cv : Bool) (o : Vop) (a rb c d : Nat) (sc : BitVec 32)
    (ho : (if cv then some .copy else vopOf f.vop) = some o) (hck : s.isChecker b = false)
    (hcomp : inCompanion d (tensorBytes f.fmtD (vecOut f o)) = false) (herr : s.errorsIn [⟨d, tensorBytes f.fmtD (vecOut f o)⟩] = []) :
    (s.finishVec b f cv a rb c d sc).mem = memWrite s.mem d
        (memRead (vecOutput (s.vecMem (s.block b)) f cv o a rb c d sc (s.block b)).mem d (tensorBytes f.fmtD (vecOut f o))) ∧
      ((s.finishVec b f cv a rb c d sc).block b).vectorQ = (s.block b).vectorQ := by
  obtain ⟨v, hv⟩ := vecOutput_block (s.vecMem (s.block b)) f cv o a rb c d sc (s.block b)
  simp only [State.finishVec, ho]
  generalize vecOutput (s.vecMem (s.block b)) f cv o a rb c d sc (s.block b) = out at hv ⊢
  generalize hy : out.x.flagGroup out.sat out.inv f.amaxEn f.amaxIdx out.amax = y
  have hmode : y.group.map (·.mode) = (s.block b).group.map (·.mode) := by rw [← hy, flagGroup_mode, hv]
  have hq : y.vectorQ = (s.block b).vectorQ := by rw [← hy, BlockState.flagGroup, BlockState.mapGroup, hv]
  rw [store_eq _ _ _ _ _ ((isChecker_setBlock s b y hmode).trans hck) (by simpa using hcomp) (by rw [memRead_length]; exact herr)]
  exact ⟨rfl, by rw [block_withMem, signBlock_vectorQ, block_setBlock_same, hq]⟩

/-- A COPY between places outside companion memory writes the bytes of its source. -/
theorem finishCopy_mem (s : State) (b : BlockId) (src dst len : Nat) (hck : s.isChecker b = false) (hsrc : inCompanion src len = false)
    (hdst : inCompanion dst len = false) (herr : s.errorsIn [⟨dst, len⟩] = []) :
    (s.finishCopy b src dst len).mem = memWrite s.mem dst (memRead s.mem src len) := by
  rw [State.finishCopy, hsrc, State.fetchBytes, if_neg Bool.false_ne_true, store_eq _ _ _ _ _ hck (by simpa using hdst) (by simpa using herr)]

/-! ## The events: a pass runs, a command ends, a version's entry is read -/

section
variable (s : State) (b : BlockId)

theorem arrayPass_runs (f : MatmulFields) (a rb c z ssA ssB sA sC sB : Nat) (take : Option ShadowLoad) (q : List EngineCmd) (r : ArrayRun)
    (hq : (s.block b).arrayQ = .matmul f a rb c z ssA ssB sA sC sB take :: q) (hrun : (s.block b).run = some r)
    (hin : (s.block b).inGroup = true) (hf : (s.block b).fenced = false) (hreset : (s.block b).inReset = false)
    (hab : s.cmdAbandoned b (.matmul f a rb c z ssA ssB sA sC sB take) = none) (hover : r.over f = false) (hready : r.ready take = true)
    (hw : s.cmdWaits b (.matmul f a rb c z ssA ssB sA sC sB take) = false)
    (hck : (s.passEffect b f .none a c z ssA ssB sA sC take r).2.check (s.block b).mode = .pass) :
    execArrayPass b .none s = .next (s.passEffect b f .none a c z ssA ssB sA sC take r).1 := by
  simp [execArrayPass, hq, hrun, hin, hf, hreset, hover, hready, hw, when_, hab, arrayPass_passes s b f a c z ssA ssB sA sC take r hck]
theorem engineCommandFinish_matmul (f : MatmulFields) (a rb c z ssA ssB sA sC sB : Nat) (take : Option ShadowLoad) (q : List EngineCmd) (r : ArrayRun)
    (hit : BurstErr) (hlive : (s.block b).live = true) (hq : (s.block b).arrayQ = .matmul f a rb c z ssA ssB sA sC sB take :: q)
    (hrun : (s.block b).run = some r) (hover : r.over f = true) :
    execEngineCommandFinish b .array hit s = .next (s.finish b .array (.matmul f a rb c z ssA ssB sA sC sB take) hit id) := by
  obtain ⟨h1, h2, h3⟩ := (live_iff _).mp hlive
  simp [execEngineCommandFinish, BlockState.engineQ, h1, h2, h3, hq, hrun, hover]
theorem engineCommandFinish_vec (f : VecFields) (cv : Bool) (a rb c d : Nat) (sc : BitVec 32) (q : List EngineCmd) (hit : BurstErr)
    (hlive : (s.block b).live = true) (hq : (s.block b).vectorQ = .vec f cv a rb c d sc :: q) (hreq : s.hasReq (fun u => u == .vec b) = false)
    (hw : s.cmdWaits b (.vec f cv a rb c d sc) = false) (hses : s.sessionFor (.vec f cv a rb c d sc) = true) :
    execEngineCommandFinish b .vector hit s =
      .next (s.finish b .vector (.vec f cv a rb c d sc) hit fun t => t.finishVec b f cv a rb c d sc) := by
  obtain ⟨h1, h2, h3⟩ := (live_iff _).mp hlive
  simp [execEngineCommandFinish, BlockState.engineQ, h1, h2, h3, hq, hreq, hw, hses]
theorem engineCommandFinish_copy (src dst len : Nat) (q : List EngineCmd) (hit : BurstErr) (hlive : (s.block b).live = true)
    (hq : (s.block b).fetchQ = .copy src dst len :: q) (hready : s.fetchReady b (.copy src dst len) = true)
    (hw : s.cmdWaits b (.copy src dst len) = false) (hses : s.sessionFor (.copy src dst len) = true) :
    execEngineCommandFinish b .fetch hit s = .next (s.finish b .fetch (.copy src dst len) hit fun t => t.finishCopy b src dst len) := by
  obtain ⟨h1, h2, h3⟩ := (live_iff _).mp hlive
  simp [execEngineCommandFinish, BlockState.engineQ, h1, h2, h3, hq, hready, hw, hses]
/-- The entry of a version that the block may read, its slots landed and free of errors, leaves the version's bytes with the engine (R163). -/
theorem versionEntryRead_fetches (f : FetchFields) (src dst len ea no : Nat) (v : BitVec 32) (q : List EngineCmd) (chain : List VSlot)
    (bs : List Byte) (hit : BurstErr) (u : State) (hu : u = s.struck [⟨ea, ventryBytes⟩] hit)
    (hq : (s.block b).fetchQ = .fetch f src dst len ea v no :: q) (hver : f.versionEn = true) (hdata : (s.block b).fetchData = [])
    (hf : (s.block b).fenced = false) (hreset : (s.block b).inReset = false) (hchain : versionChain (ventryAt u.mem ea) v = some chain)
    (hlate : u.lateRange b (s.block b) f dst ((ventryAt u.mem ea).shardBytes / 4) = none) (hentry : u.errorsIn [⟨ea, ventryBytes⟩] = [])
    (hslots : u.errorsIn (versionReads (ventryAt u.mem ea) chain) = [])
    (hallow : (nonEmpty (versionReads (ventryAt u.mem ea) chain)).all (fun r => s.blockAllowed b r.base r.len) = true)
    (hwaits : (versionReads (ventryAt u.mem ea) chain).any (fun r => s.ringWaits b r.base r.len) = false)
    (hab : ((versionReads (ventryAt u.mem ea) chain).filterMap fun r => s.ringAbandoned b r.base r.len) = [])
    (hbytes : versionBytes u.mem (ventryAt u.mem ea) chain = some bs) :
    execVersionEntryRead b hit s = .next (u.setBlock b { s.block b with fetchData := bs }) := by
  rw [← struck_blockAllowed s [⟨ea, ventryBytes⟩] hit, ← hu] at hallow
  rw [← struck_ringWaits s [⟨ea, ventryBytes⟩] hit, ← hu] at hwaits
  rw [← struck_ringAbandoned s [⟨ea, ventryBytes⟩] hit, ← hu] at hab
  simp only [execVersionEntryRead, hq, ← hu, readRanges_clean u _ hentry, hchain, hlate, hallow, hwaits, hab, readRanges_clean u _ hslots, hbytes]
  simp [hver, hdata, hf, hreset]

end

/-- Settles O16: a pass with its swap and its advance, the end of a MATMUL, a VEC or CONVERT and a COPY, and the read of a version's entry;
the rows counted twice in sixteen-bit mode are log 108, the place of the partial sums is log 105, the bits that turn over are log 139. -/
theorem enginesFinish : Obligations.EnginesFinish := by
  refine ⟨fun s b f a rb c z ssA ssB sA sC sB take q r hq hrun hin hf hreset hab => ⟨fun hover hready hw hck => ?_, fun hit hover hrep hread => ?_⟩,
    fun s b f cv a rb c d sc q o hit => ?_,
    fun s b src dst len q hit hq hlive hready hw hab hsrc hdst hck hses hread herr => ?_,
    fun s b f src dst len ea no v q chain bs hit hq hver hdata hf hreset hchain hlate hentry hslots hallow hwaits hab hbytes =>
      versionEntryRead_fetches s b f src dst len ea no v q chain bs hit _ rfl hq hver hdata hf hreset hchain hlate hentry hslots hallow hwaits hab hbytes⟩
  · refine ⟨_, arrayPass_runs s b f a rb c z ssA ssB sA sC sB take q r hq hrun hin hf hreset hab hover hready hw hck, ?_⟩
    obtain ⟨fill, lanes, group, zr, cycles, hblock⟩ := passEffect_block s b f a c z ssA ssB sA sC take r .none
    rw [hblock]
    refine ⟨rfl, rfl, fun hk => ⟨passEffect_mem s b f a c z ssA ssB sA sC take r hk, rfl, ?_, by rw [← passBusy_eq]⟩⟩
    exact ⟨_, congrArg some (advance_within_tile f _ cycles hk), rfl, rfl, rfl, rfl⟩
  · refine ⟨_, engineCommandFinish_matmul s b f a rb c z ssA ssB sA sC sB take q r hit ((live_iff _).mpr ⟨hf, hreset, hrep⟩) hq hrun hover, ?_⟩
    rw [finish_of_read s b .array _ hit id hab hread, id, retireCmd_arrayQ, readRanges_block, struck_block, hq, retireCmd_mem, readRanges_mem]
    exact ⟨rfl, rfl⟩
  · intro x m u n hq hlive hreq hw hab hck hses hread herr hcomp ho
    refine ⟨_, engineCommandFinish_vec s b f cv a rb c d sc q hit hlive hq hreq hw hses, ?_⟩
    obtain ⟨hmem, hqueue⟩ := finishVec_effect (u.readRanges m.reads).1 b f cv o a rb c d sc ho (by simpa [u] using hck) hcomp (by simpa using herr)
    rw [State.vecMem, readRanges_mem, readRanges_block, struck_block] at hmem
    rw [finish_of_read s b .vector m hit _ hab hread, retireCmd_vectorQ, retireCmd_mem, hqueue, readRanges_block, struck_block, hq]
    exact ⟨rfl, hmem⟩
  · refine ⟨_, engineCommandFinish_copy s b src dst len q hit hlive hq hready hw hses, ?_⟩
    rw [finish_of_read s b .fetch _ hit _ hab hread, retireCmd_mem, finishCopy_mem _ b src dst len (by simpa using hck) hsrc hdst (by simpa using herr),
      readRanges_mem]
end Sys2Proof.Laws

namespace Sys2Proof.Laws

/-! SUPPORT for O57 and O58. A packed word stays below two to the sum of its fields' widths, and every command that the encoder spells is read back. -/

/-- A packed word stays within its fields. -/
theorem packWord_lt (l : List (Nat × Nat)) : packWord l < 2 ^ (l.map Prod.fst).sum := by
  induction l with
  | nil => simp [packWord]
  | cons e l ih =>
    obtain ⟨n, v⟩ := e
    have hv : v % 2 ^ n < 2 ^ n := Nat.mod_lt _ (Nat.two_pow_pos n)
    calc packWord ((n, v) :: l) < 2 ^ n + 2 ^ n * packWord l := Nat.add_lt_add_right hv _
      _ = 2 ^ n * (packWord l + 1) := by ring
      _ ≤ 2 ^ n * 2 ^ (l.map Prod.fst).sum := Nat.mul_le_mul_left _ ih
      _ = 2 ^ (((n, v) :: l).map Prod.fst).sum := by rw [← Nat.pow_add]; rfl

/-- A word whose fields have at most 256 bits in all stays within 256 bits. -/
theorem packWord_lt_256 (l : List (Nat × Nat)) (h : (l.map Prod.fst).sum ≤ 256) : packWord l < 2 ^ 256 :=
  (packWord_lt l).trans_le (Nat.pow_le_pow_right Nat.two_pos h)
theorem scalarWord_lt (op flags : Nat) (sd sa sb : Reg) (opa : BitVec 32) (imm : Word) : scalarWord op flags sd sa sb opa imm < 2 ^ 256 :=
  packWord_lt_256 _ (by simp)
theorem matmulWord_lt (f : MatmulFields) : matmulWord f < 2 ^ 256 := packWord_lt_256 _ (by simp)
theorem vecWord_lt (op : Nat) (f : VecFields) : vecWord op f < 2 ^ 256 := packWord_lt_256 _ (by simp)
theorem fetchWord_lt (op : Nat) (f : FetchFields) : fetchWord op f < 2 ^ 256 := packWord_lt_256 _ (by simp)

/-- The word of a command has one of the four layouts (Tables 4.2, 4.6, 4.7, 4.8), each within 256 bits. -/
theorem encodeCommandWord_lt (i : Instr) (w : Nat) (h : encodeCommandWord i = some w) : w < 2 ^ 256 := by
  unfold encodeCommandWord at h
  split at h
  case h_30 => cases h
  all_goals obtain rfl := Option.some.inj h
  case h_20 => exact matmulWord_lt _
  case h_21 | h_22 => exact vecWord_lt _ _
  case h_23 | h_24 => exact fetchWord_lt _ _
  all_goals exact scalarWord_lt _ _ _ _ _ _ _

/-- Each command that the encoder spells is read back, by its own lemma of `WordRoundTrip`. -/
theorem decode_encodeCommandWord (i : Instr) : WordRoundTrip.Statement i := by
  intro hwf w h
  have henc := h
  unfold encodeCommandWord at h
  split at h
  · exact WordRoundTrip.nop _ hwf w henc
  · exact WordRoundTrip.li _ _ _ hwf w henc
  · exact WordRoundTrip.alu _ _ _ _ _ hwf w henc
  · exact WordRoundTrip.alui _ _ _ _ _ hwf w henc
  · exact WordRoundTrip.ld _ _ _ _ hwf w henc
  · exact WordRoundTrip.st _ _ _ _ hwf w henc
  · exact WordRoundTrip.br _ _ _ _ _ hwf w henc
  · exact WordRoundTrip.jmp _ _ _ _ _ hwf w henc
  · exact WordRoundTrip.loop _ _ _ hwf w henc
  · exact WordRoundTrip.rdreg _ _ _ hwf w henc
  · exact WordRoundTrip.wrreg _ _ _ hwf w henc
  · exact WordRoundTrip.blkSrSeedWrite _ _ hwf w henc
  · exact WordRoundTrip.blkLrReleaseWrite _ _ hwf w henc
  · exact WordRoundTrip.blkCollPostWrite _ _ hwf w henc
  · exact WordRoundTrip.blkWlDoneWrite _ _ hwf w henc
  · exact WordRoundTrip.park _ _ hwf w henc
  · exact WordRoundTrip.ghdr _ _ _ _ _ _ hwf w henc
  · exact WordRoundTrip.commit _ _ hwf w henc
  · exact WordRoundTrip.wait _ _ hwf w henc
  · exact WordRoundTrip.matmul _ _ hwf w henc
  · exact WordRoundTrip.vec _ _ hwf w henc
  · exact WordRoundTrip.convert _ _ hwf w henc
  · exact WordRoundTrip.fetch _ _ hwf w henc
  · exact WordRoundTrip.copy _ _ hwf w henc
  · exact WordRoundTrip.send _ _ _ hwf w henc
  · exact WordRoundTrip.recv _ _ _ _ _ _ hwf w henc
  · exact WordRoundTrip.relay _ _ _ hwf w henc
  · exact WordRoundTrip.atomic _ _ _ _ _ hwf w henc
  · exact WordRoundTrip.fenceReadback _ hwf w henc
  · cases h

/-- Settles O57: the bound from the layout of the word, the command from its own round trip. -/
theorem commandWordsRoundTrip : Obligations.CommandWordsRoundTrip :=
  fun i w hwf h => ⟨encodeCommandWord_lt i w h, decode_encodeCommandWord i hwf w h⟩

/-- Settles O58: each word is a numeral, and its fields are those of Tables 4.2 to 4.8. -/
theorem spelledWordsDecode : Obligations.SpelledWordsDecode := by
  intro b
  exact ⟨rfl, rfl, rfl, rfl, rfl, rfl, rfl, rfl, rfl, rfl, rfl, rfl, rfl, rfl⟩
end Sys2Proof.Laws

namespace Sys2Proof.Laws

/-! SUPPORT for O2 to O6, O8 and O9. What decode hands to a command of the block core, what a refusal leaves, and the rules of the scalar commands. -/

open Sys2Proof.Machine

/-! ## Decode -/

theorem decodesOpen_iff (s : State) (b : BlockId) : s.decodesOpen b = true ↔ s.decodes b = true ∧ (s.block b).inGroup = false := by
  simp [State.decodesOpen]
theorem decodesIn_iff (s : State) (b : BlockId) (g : Group) :
    s.decodesIn b g = true ↔ s.decodes b = true ∧ (s.block b).inGroup = true ∧ (s.block b).group = some g := by
  simp [State.decodesIn, and_assoc]
/-- In a group no commit has ended. -/
theorem endCommit_of_inGroup (x : BlockState) (h : x.inGroup = true) : x.endCommit = x := by
  have hcore : x.core = .inGroup := by simpa [BlockState.inGroup] using h
  simp [BlockState.endCommit, hcore]

/-- A command that a block decodes in its open group runs on the block as it is. -/
theorem core_of_decodesIn {s : State} {b : BlockId} {g : Group} (k : State → BlockState → State) (h : s.decodesIn b g = true) :
    s.core b k = .next (k (s.setBlock b (s.block b)) (s.block b)) := by
  obtain ⟨hdec, hin, -⟩ := (decodesIn_iff s b g).mp h
  rw [core_of_decodes s b k hdec, endCommit_of_inGroup _ hin]

@[simp] theorem setBlock_blockAllowed (s : State) (b : BlockId) (x : BlockState) : (s.setBlock b x).blockAllowed = s.blockAllowed := rfl
@[simp] theorem setBlock_errorsIn (s : State) (b : BlockId) (x : BlockState) : (s.setBlock b x).errorsIn = s.errorsIn := rfl

/-! ## A command that cannot run (R80, R83, R108) -/

/-- The core parks with its code; the program counter stays. -/
@[simp] theorem park_block (s : State) (b : BlockId) (code : BitVec 16) :
    (s.park b code).block b = { s.block b with core := .parked, parkCode := code, stall := .none } := by
  rw [State.park, raiseBlock_block, block_setBlock_same]
theorem raiseBlock_events (s : State) (b : BlockId) (code : BitVec 16) (d : BitVec 88) :
    ∃ e, (s.raiseBlock b code d).events = s.events ++ [e] ∧ e.code = code := ⟨_, rfl, rfl⟩
theorem park_events (s : State) (b : BlockId) (code : BitVec 16) : ∃ e, (s.park b code).events = s.events ++ [e] ∧ e.code = evBlockParked :=
  raiseBlock_events _ _ _ _

@[simp] theorem dropGroup_rejects (x : BlockState) : x.dropGroup.rejects = x.rejects := by
  simp only [BlockState.dropGroup, BlockState.keeperIdle]; split <;> rfl
/-- A group that ends REJECTED is dropped, its end is counted, and the core parks. -/
theorem rejectTag_block (s : State) (b : BlockId) (tag : BitVec 32) : (s.rejectTag b tag).block b = { (s.block b).dropGroup with
    rejects := inc (s.block b).rejects, reran := none, dipRerun := false, groupTag := tag, lastStatus := stRejected
    cpls := if s.isChecker b then (s.block b).cpls else (s.block b).cpls ++ [⟨tag, stRejected, 0, 0, false, false⟩]
    core := .parked, parkCode := pkRejected, stall := .none } := by
  rw [State.rejectTag, park_block, State.complete, block_setBlock_same, block_setBlock_same, dropGroup_block_same, ← dropGroup_rejects (s.block b),
    ← dropGroup_cpls (s.block b)]

theorem reject_of_group (s : State) (b : BlockId) (g : Group) (h : (s.block b).group = some g) : s.reject b = s.rejectTag b g.tag := by
  simp only [State.reject, h]
theorem refuse_of_open (s : State) (b : BlockId) (code : BitVec 16) (h : (s.block b).inGroup = false) : s.refuse b code = s.park b code := by
  simp [State.refuse, h]
theorem refuse_of_inGroup (s : State) (b : BlockId) (code : BitVec 16) (h : (s.block b).inGroup = true) : s.refuse b code = s.reject b := by
  simp [State.refuse, h]

/-- The core of block b is parked with a code at the program counter that it had, and one event more is raised. -/
def Parks (s : State) (b : BlockId) (code : BitVec 16) (r : Res) : Prop :=
  ∃ t, r = .next t ∧ (t.block b).core = .parked ∧ (t.block b).parkCode = code ∧ (t.block b).pc = (s.block b).pc ∧ t.events.length = s.events.length + 1
/-- The core of block b is parked, and its group g has ended REJECTED and is counted. -/
def Rejects (s : State) (b : BlockId) (g : Group) (r : Res) : Prop :=
  ∃ t, r = .next t ∧ (t.block b).core = .parked ∧ (t.block b).parkCode = 0xFFFD ∧ (t.block b).group = none ∧
    (t.block b).lastStatus = 0x06 ∧ (t.block b).groupTag = g.tag ∧ (t.block b).rejects = inc (s.block b).rejects
/-- A command ends by R80 with a code. -/
def Refuses (s : State) (b : BlockId) (code : BitVec 16) (r : Res) : Prop := r = .next ((s.setBlock b (s.block b).endCommit).refuse b code)

section
variable {s : State} {b : BlockId} {r : Res}

theorem parks_of_refuses {code : BitVec 16} (h : s.decodesOpen b = true) (hr : Refuses s b code r) : Parks s b code r := by
  obtain ⟨-, hin⟩ := (decodesOpen_iff s b).mp h
  rw [Refuses, refuse_of_open _ _ _ (by rwa [block_setBlock_same, endCommit_inGroup])] at hr
  obtain ⟨e, he, -⟩ := park_events (s.setBlock b (s.block b).endCommit) b code
  refine ⟨_, hr, ?_⟩
  simp [he]
theorem rejects_of_reject {g : Group} (h : s.decodesIn b g = true) (hr : r = .next ((s.setBlock b (s.block b).endCommit).reject b)) :
    Rejects s b g r := by
  obtain ⟨-, -, hg⟩ := (decodesIn_iff s b g).mp h
  rw [reject_of_group _ _ g (by rwa [block_setBlock_same, BlockState.endCommit_group])] at hr
  refine ⟨_, hr, ?_⟩
  rw [rejectTag_block, block_setBlock_same]
  exact ⟨rfl, rfl, dropGroup_group _, rfl, rfl, by rw [BlockState.endCommit_rejects]⟩
theorem rejects_of_refuses {code : BitVec 16} {g : Group} (h : s.decodesIn b g = true) (hr : Refuses s b code r) : Rejects s b g r := by
  obtain ⟨-, hin, -⟩ := (decodesIn_iff s b g).mp h
  rw [Refuses, refuse_of_inGroup _ _ _ (by rwa [block_setBlock_same, endCommit_inGroup])] at hr
  exact rejects_of_reject h hr

end

/-! ## Results and jumps (R77, R81, Table 4.4) -/

/-- Settles O3. -/
theorem scalarRegisterZero : Obligations.ScalarRegisterZero :=
  fun x r v => ⟨reg_zero x, setReg_zero x v, reg_setReg_same x r v, fun q => reg_setReg_other x r q v⟩

/-- An operation code beyond 0xC has no result. -/
theorem aluOp_unlisted (op : BitVec 4) (u v : Word) (h : 0xD ≤ op.toNat) : aluOp op u v = none := by
  have hlt := op.isLt
  obtain h | h | h : op.toNat = 0xD ∨ op.toNat = 0xE ∨ op.toNat = 0xF := by omega
  all_goals simp only [aluOp, h]
theorem brCond_unlisted (c : BitVec 3) (u v : Word) (h : 6 ≤ c.toNat) : brCond c u v = none := by
  have hlt := c.isLt
  obtain h | h : c.toNat = 6 ∨ c.toNat = 7 := by omega
  all_goals simp only [brCond, h]
/-- The shift amount is the low six bits of its operand. -/
theorem lowSix_toNat (v : Word) : (v.extractLsb' 0 6).toNat = v.toNat % 64 := by simp

section
variable {s : State} {b : BlockId} (h : s.decodes b = true)
include h

theorem alu_result {op : BitVec 4} {sd sa sb : Reg} {w : Word} (hw : aluOp op ((s.block b).endCommit.reg sa) ((s.block b).endCommit.reg sb) = some w) :
    exec (.alu b op sd sa sb) s = .next (s.setBlock b ((s.block b).endCommit.setReg sd w).next) := by
  simp only [exec, execAlu, core_of_decodes _ _ _ h, State.alu, hw, done_eq, setBlock_setBlock]
/-- An immediate takes the place of the second register. -/
theorem alui_eq_alu (op : BitVec 4) (sd sa sb : Reg) : exec (.alui b op sd sa ((s.block b).endCommit.reg sb)) s = exec (.alu b op sd sa sb) s := by
  simp only [exec, execAlu, execAlui, core_of_decodes _ _ _ h]
theorem br_goes {c : BitVec 3} {sa sb : Reg} {off : BitVec 32} {q : Bool}
    (hq : brCond c ((s.block b).endCommit.reg sa) ((s.block b).endCommit.reg sb) = some q) :
    exec (.br b c sa sb off) s = .next (s.setBlock b { (s.block b).endCommit with
      pc := if q then jumpTo (s.block b).endCommit.pc off else (s.block b).endCommit.pc + 32 }) := by
  simp only [exec, execBr, core_of_decodes _ _ _ h, hq]
  cases q with
  | false => simp only [done_eq, setBlock_setBlock]; rfl
  | true => simp only [setBlock_setBlock]; rfl

end

/-- Settles O2: each operation code of Table 4.4 in turn. -/
theorem scalarResults : Obligations.ScalarResults := by
  intro s b h x put
  refine ⟨?_, fun sd imm => ?_, fun sd sa sb u v hu hv => ?_, fun op sd sa sb imm _ himm => himm ▸ alui_eq_alu h op sd sa sb⟩
  · simp only [exec, execNop, core_of_decodes _ _ _ h, done_eq, setBlock_setBlock, x]
  · simp only [exec, execLi, core_of_decodes _ _ _ h, done_eq, setBlock_setBlock, put, x]
  · subst hu hv
    refine ⟨alu_result h rfl, alu_result h rfl, alu_result h rfl, alu_result h rfl, alu_result h rfl, alu_result h ?_, alu_result h ?_, alu_result h ?_,
      alu_result h rfl, alu_result h ?_, alu_result h ?_, alu_result h ?_, alu_result h ?_⟩
    case refine_1 | refine_2 | refine_3 => rw [← lowSix_toNat]; rfl
    case refine_7 => simp [aluOp, BitVec.ult, x]
    all_goals simp [aluOp, BitVec.slt, x]

/-- Settles O4: each condition of R81 in turn, and the two targets of LOOP and of JMP; that a JMP reads its register before s1 is written is log 51. -/
theorem controlFlow : Obligations.ControlFlow := by
  intro s b h x target
  refine ⟨fun sa sb off u v hu hv => ?_, fun sd off => ?_, fun call sa off => ?_⟩
  · subst hu hv
    refine ⟨br_goes h rfl, br_goes h rfl, br_goes h rfl, br_goes h ?_, br_goes h rfl, br_goes h ?_⟩
    · exact congrArg some (by rw [BitVec.slt, ← decide_not, decide_eq_decide]; exact not_lt)
    · exact congrArg some (by rw [BitVec.ult, ← decide_not, decide_eq_decide]; exact not_lt)
  · intro y
    simp only [exec, execLoop, core_of_decodes _ _ _ h]
    by_cases hy : y.reg sd = 0
    · rw [if_pos hy, if_pos hy, done_eq, setBlock_setBlock]
      rw [BlockState.next, BlockState.setReg_pc]
    · rw [if_neg hy, if_neg hy, setBlock_setBlock]
      rfl
  · intro y
    refine ⟨?_, fun ha => ?_⟩
    · simp only [exec, execJmp, core_of_decodes _ _ _ h, Bool.false_and, Bool.false_eq_true, if_false, setBlock_setBlock]
      rfl
    · have hal : (true && ((s.block b).endCommit.reg sa).toNat % 32 != 0) = false := by simpa [x] using ha
      simp only [exec, execJmp, core_of_decodes _ _ _ h, hal, Bool.false_eq_true, if_false, if_true, setBlock_setBlock]
      rfl

/-! ## Refusals of the scalar commands (R80, R81) -/

section
variable {s : State} {b : BlockId} (h : s.decodes b = true)
include h

theorem unlistedCommand_refuses : Refuses s b pkUnlisted (exec (.unlistedCommand b) s) := by
  simp only [Refuses, exec, execUnlistedCommand, core_of_decodes _ _ _ h]
theorem alu_refuses (op : BitVec 4) (sd sa sb : Reg) (hop : 0xD ≤ op.toNat) : Refuses s b pkUnlisted (exec (.alu b op sd sa sb) s) := by
  simp only [Refuses, exec, execAlu, core_of_decodes _ _ _ h, State.alu, aluOp_unlisted _ _ _ hop]
theorem alui_refuses (op : BitVec 4) (sd sa : Reg) (imm : Word) (hop : 0xD ≤ op.toNat) : Refuses s b pkUnlisted (exec (.alui b op sd sa imm) s) := by
  simp only [Refuses, exec, execAlui, core_of_decodes _ _ _ h, State.alu, aluOp_unlisted _ _ _ hop]
theorem br_refuses (c : BitVec 3) (sa sb : Reg) (off : BitVec 32) (hc : 6 ≤ c.toNat) : Refuses s b pkUnlisted (exec (.br b c sa sb off) s) := by
  simp only [Refuses, exec, execBr, core_of_decodes _ _ _ h, brCond_unlisted _ _ _ hc]
theorem commit_refuses (quiet : Bool) (hin : (s.block b).inGroup = false) : Refuses s b pkUnlisted (exec (.commit b quiet) s) := by
  simp [Refuses, exec, execCommit, core_of_decodes _ _ _ h, hin]
theorem ld_refuses (sd sa : Reg) (imm : Word) (ha : ((s.block b).reg sa + imm).toNat % 8 ≠ 0) : Refuses s b pkUnaligned (exec (.ld b sd sa imm) s) := by
  simp only [Refuses, exec, execLd, core_of_decodes _ _ _ h, endCommit_reg, if_pos ha]
theorem st_refuses (sa sb : Reg) (imm : Word) (ha : ((s.block b).reg sa + imm).toNat % 8 ≠ 0) : Refuses s b pkUnaligned (exec (.st b sa sb imm) s) := by
  simp only [Refuses, exec, execSt, core_of_decodes _ _ _ h, endCommit_reg, if_pos ha]
theorem jmp_refuses (call : Bool) (sa : Reg) (off : BitVec 32) (ha : ((s.block b).reg sa).toNat % 32 ≠ 0) :
    Refuses s b pkUnaligned (exec (.jmp b call true sa off) s) := by
  simp [Refuses, exec, execJmp, core_of_decodes _ _ _ h, ha]

end

/-- Settles O5: every command refuses alike in both states; what a refusal is depends on the state. -/
theorem scalarRefusals : Obligations.ScalarRefusals := by
  intro s b
  refine ⟨fun h => ?_, fun g h => ?_⟩
  · obtain ⟨hdec, hin⟩ := (decodesOpen_iff s b).mp h
    exact ⟨parks_of_refuses h (unlistedCommand_refuses hdec), fun op sd sa sb hop => parks_of_refuses h (alu_refuses hdec op sd sa sb hop),
      fun op sd sa imm hop => parks_of_refuses h (alui_refuses hdec op sd sa imm hop), fun c sa sb off hc => parks_of_refuses h (br_refuses hdec c sa sb off hc),
      fun quiet => parks_of_refuses h (commit_refuses hdec quiet hin), fun sd sa imm ha => parks_of_refuses h (ld_refuses hdec sd sa imm ha),
      fun sa sb imm ha => parks_of_refuses h (st_refuses hdec sa sb imm ha), fun call sa off ha => parks_of_refuses h (jmp_refuses hdec call sa off ha)⟩
  · obtain ⟨hdec, hin, -⟩ := (decodesIn_iff s b g).mp h
    refine ⟨rejects_of_refuses h (unlistedCommand_refuses hdec), fun op sd sa sb hop => rejects_of_refuses h (alu_refuses hdec op sd sa sb hop),
      fun c sa sb off hc => rejects_of_refuses h (br_refuses hdec c sa sb off hc), fun code => rejects_of_reject h ?_,
      fun sd sa imm ha => rejects_of_refuses h (ld_refuses hdec sd sa imm ha), fun sa sb imm ha => rejects_of_refuses h (st_refuses hdec sa sb imm ha),
      fun call sa off ha => rejects_of_refuses h (jmp_refuses hdec call sa off ha)⟩
    simp [exec, execPark, core_of_decodes _ _ _ hdec, hin]
end Sys2Proof.Laws

namespace Sys2Proof.Laws

/-! SUPPORT for O6, O8 and O9. LD and ST, WAIT, the command cache, and the registers of a block. -/

open Sys2Proof.Machine

/-! ## LD and ST (R81, R85, R103) -/

/-- LD whose checks pass, which waits for no ring: the own scratchpad answers at once, any other address stalls decode. -/
theorem ld_passes {s : State} {b : BlockId} {sd sa : Reg} {imm : Word} {a : Nat} (h : s.decodes b = true)
    (ha : a = ((s.block b).endCommit.reg sa + imm).toNat) (hal : a % 8 = 0) (hr : readOk b (s.block b).endCommit a 8 = true)
    (hallow : s.blockAllowed b a 8 = true) (habn : (s.setBlock b (s.block b).endCommit).ringAbandoned b a 8 = none)
    (hw : (s.setBlock b (s.block b).endCommit).ringWaits b a 8 = false) :
    exec (.ld b sd sa imm) s = .next (if inOwn b a 8 then s.setBlock b ((s.block b).endCommit.setReg sd (BitVec.ofNat 64 (memNat s.mem a 8))).next
      else
        let s1 := s.setBlock b { (s.block b).endCommit with stall := .load sd (BitVec.ofNat 48 a) (inCompanion a 8), ldData := [] }
        if inCompanion a 8 then s1.ucRead b.idx a 8 (.ld b) else s1) := by
  simp only [exec, execLd, core_of_decodes _ _ _ h, ← ha, hal, hr, setBlock_blockAllowed, hallow, habn, hw, done_eq, setBlock_setBlock]
  simp

/-- Bytes stored at an address outside the companion window that touches no burst with an error: they stand there, signed in a pair's group. -/
theorem store_clean (s : State) (b : BlockId) (e a : Nat) (bs : List Byte) (hck : s.isChecker b = true → inOwn b a bs.length = true)
    (hcomp : inCompanion a bs.length = false) (herr : s.errorsIn [⟨a, bs.length⟩] = []) :
    s.store b e a bs = { s.signBlock b e (sigWrite b a bs) with mem := memWrite s.mem a bs } := by
  have hpass : (s.isChecker b && !inOwn b a bs.length) = false := by
    cases hc : s.isChecker b with
    | false => rfl
    | true => simp [hck hc]
  have hclean : (s.signBlock b e (sigWrite b a bs)).errorsIn [⟨a, bs.length⟩] = [] := by rw [signBlock_errorsIn, herr]
  simp only [State.store, hpass, hcomp, put_clean _ _ _ hclean, signBlock_mem]
  rfl

/-- ST whose checks pass, as the store of its eight bytes after the step to the next word. -/
theorem st_passes {s : State} {b : BlockId} {sa sb : Reg} {imm : Word} {a : Nat} (h : s.decodes b = true)
    (ha : a = ((s.block b).endCommit.reg sa + imm).toNat) (hal : a % 8 = 0) (hr : writeOk b (s.block b).endCommit a 8 = true)
    (hallow : s.blockAllowed b a 8 = true) (hlock : (s.block b).endCommit.lockedBy a 8 = false) :
    exec (.st b sa sb imm) s =
      .next ((s.setBlock b (s.block b).endCommit.next).store b sigCore a (leBytes 8 ((s.block b).endCommit.reg sb).toNat)) := by
  simp only [exec, execSt, core_of_decodes _ _ _ h, ← ha, hal, hr, setBlock_blockAllowed, hallow, hlock, done_eq, setBlock_setBlock]
  simp

/-- LD_DATA_RETURN whose bursts answer data. -/
theorem ldDataReturn_clean {s : State} {b : BlockId} {sd : Reg} {a : Addr} {hit : BurstErr} (hst : (s.block b).stall = .load sd a false)
    (hok : ((s.struck [⟨a.toNat, 8⟩] hit).readRanges [⟨a.toNat, 8⟩]).2 = none) :
    exec (.ldDataReturn b hit) s = .next (((s.struck [⟨a.toNat, 8⟩] hit).readRanges [⟨a.toNat, 8⟩]).1.setBlock b
      ({ (s.block b).setReg sd (BitVec.ofNat 64 (memNat (s.struck [⟨a.toNat, 8⟩] hit).mem a.toNat 8)) with stall := .none } : BlockState).next) := by
  simp only [exec, execLdDataReturn, hst, hok, readRanges_mem, done_eq]
  rfl

/-- Settles O6. The cases of LD are the two sides of the own scratchpad; ST is its store. The operand `hit` is log 139. -/
theorem loadAndStore : Obligations.LoadAndStore := by
  unfold Obligations.LoadAndStore
  refine ⟨?_, ?_, ?_⟩
  · intro s b sd sa imm a x hdec ha hal hr hallow habn hw
    have hld := ld_passes (sd := sd) hdec ha hal hr hallow habn hw
    refine ⟨fun hown => ?_, fun hown hcomp => ?_⟩
    · rw [hld, if_pos hown]; rfl
    · rw [hld]; simp [hown, hcomp, x]
  · intro s b sd a hit hst u hok
    exact ldDataReturn_clean hst hok
  · intro s b sa sb imm a x hdec ha hal hr hallow hlock hcomp hck herr data
    have hlen : data.length = 8 := leBytes_length _ _
    have hcheck : (s.setBlock b x.next).isChecker b = s.isChecker b :=
      isChecker_setBlock _ _ _ (by simp [x, BlockState.next, BlockState.endCommit_group])
    rw [st_passes hdec ha hal hr hallow hlock, store_clean _ _ _ _ _ (by rwa [hcheck, leBytes_length]) (by rwa [leBytes_length])
      (by rwa [leBytes_length, setBlock_errorsIn])]
    rfl

/-! ## WAIT, PARK and the command cache (R76, R83, R84) -/

theorem length_beq_zero {α : Type} (l : List α) : (l.length == 0) = l.isEmpty := by cases l <;> rfl
/-- The engines of a mask are idle where none of the queues that it names holds a command. -/
theorem idle_eq (x : BlockState) (mask : BitVec 4) :
    x.idle mask = !((mask.getLsbD 0 || mask == 0) && !x.arrayQ.isEmpty || (mask.getLsbD 1 || mask == 0) && !x.vectorQ.isEmpty ||
      (mask.getLsbD 2 || mask == 0) && !x.fetchQ.isEmpty || (mask.getLsbD 3 || mask == 0) && !x.queueQ.isEmpty) := by
  simp only [BlockState.idle, waitEngines, List.all_filter, List.all_cons, List.all_nil, BlockState.engineLoad, length_beq_zero, Bool.not_or,
    Bool.not_and, Bool.not_not, Bool.and_true, Bool.or_comm (mask == 0#4), Bool.and_assoc]
  rfl

/-- A word put into the cache is found there. -/
theorem tFind_cachePut (c : Tab (BitVec 256)) (pick a : Nat) (w : BitVec 256) : tFind (cachePut c pick a w) a = some w := by
  unfold cachePut
  split
  · exact tFind_tSet_same c a w
  · next hfull =>
    have hpos : 0 < c.length := by
      by_contra hempty
      exact hfull (by simp [cacheWords, Nat.eq_zero_of_not_pos hempty])
    have hlen : pick % c.length < c.length := Nat.mod_lt _ hpos
    split
    · exact tFind_tSet_same _ a w
    · next hnil => exact absurd (List.drop_eq_nil_iff.mp hnil) (by omega)

/-- COMMAND_FETCH_RETURN whose bursts answer data puts the word into the cache. -/
theorem commandFetchReturn_clean {s : State} {b : BlockId} {hit : BurstErr} (h : s.decodes b = true)
    (hok : (((s.setBlock b (s.block b).endCommit).struck [⟨(s.block b).pc.toNat, 32⟩] hit).readRanges [⟨(s.block b).pc.toNat, 32⟩]).2 = none) :
    ∃ (t : State) (pick : Nat), exec (.commandFetchReturn b hit) s = .next (t.setBlock b { (s.block b).endCommit with
      cache := cachePut (s.block b).endCommit.cache pick (s.block b).pc.toNat
        (BitVec.ofNat 256 (leNat (memRead ((s.setBlock b (s.block b).endCommit).struck [⟨(s.block b).pc.toNat, 32⟩] hit).mem (s.block b).pc.toNat 32))) }) := by
  have hcan := h
  simp only [State.decodes, Bool.and_eq_true] at hcan
  obtain ⟨hcan, hpc⟩ := hcan
  have hpc' : (s.setBlock b (s.block b).endCommit).pcOk b = true := by simpa [State.pcOk] using hpc
  let r := ((s.setBlock b (s.block b).endCommit).struck [⟨(s.block b).pc.toNat, 32⟩] hit).readRanges [⟨(s.block b).pc.toNat, 32⟩]
  refine ⟨r.1.free.2, r.1.free.1.toNat, ?_⟩
  simp only [exec, execCommandFetchReturn, hcan, hpc', BlockState.endCommit_pc, hok, readRanges_mem]
  rfl

/-- Settles O8. PARK is its park; a full cache makes room. The operand `hit` is log 139. -/
theorem waitParkAndFetch : Obligations.WaitParkAndFetch := by
  unfold Obligations.WaitParkAndFetch
  refine ⟨?_, ?_, ?_⟩
  · intro s b mask hdec x busy
    have hidle : x.idle mask = !busy := idle_eq x mask
    simp only [exec, execWait, core_of_decodes _ _ _ hdec, done_eq, setBlock_setBlock]
    rw [hidle]
    cases busy <;> rfl
  · intro s b code h
    obtain ⟨hdec, hin⟩ := (decodesOpen_iff s b).mp h
    have hexec : exec (.park b code) s = .next ((s.setBlock b (s.block b).endCommit).park b code) := by
      simp only [exec, execPark, core_of_decodes _ _ _ hdec, endCommit_inGroup, hin]
      rfl
    obtain ⟨e, he, hcode⟩ := park_events (s.setBlock b (s.block b).endCommit) b code
    refine ⟨_, hexec, by rw [park_block, block_setBlock_same], ?_, rfl, rfl⟩
    rw [he, List.map_append, List.map_singleton, hcode]
    rfl
  · intro s b hit hdec a u hok
    obtain ⟨t, pick, hexec⟩ := commandFetchReturn_clean hdec hok
    refine ⟨_, hexec, ?_, ?_⟩
    · rw [block_setBlock_same]
      exact tFind_cachePut _ _ _ _
    · rw [block_setBlock_same]

/-! ## The registers of a block (R82) -/

/-- RDREG writes what the register reads to sd and goes to the next word. -/
theorem rdreg_reads {s : State} {b : BlockId} {sd : Reg} (h : s.decodes b = true) (hsd : sd ≠ 0) (off : BitVec 16) {v : Word}
    (hv : (s.setBlock b (s.block b).endCommit).readReg b off = v) :
    ∃ t, exec (.rdreg b sd off) s = .next t ∧ (t.block b).reg sd = v ∧ (t.block b).pc = (s.block b).pc + 32 := by
  have hexec : exec (.rdreg b sd off) s = .next (s.setBlock b ((s.block b).endCommit.setReg sd v).next) := by
    simp only [exec, execRdreg, core_of_decodes _ _ _ h, hv, done_eq, setBlock_setBlock]
  refine ⟨_, hexec, ?_, ?_⟩
  · rw [block_setBlock_same]
    exact reg_setReg_same _ _ _ hsd
  · simp

/-- In the open state a write of a register takes effect at once, after the step to the next word. -/
theorem wrreg_of_open {s : State} {b : BlockId} (h : s.decodesOpen b = true) (sa : Reg) (off : BitVec 16) :
    s.core b (fun s x => s.wrreg b x sa off) =
      .next ((s.setBlock b (s.block b).endCommit.next).writeReg b off ((s.block b).endCommit.reg sa)) := by
  obtain ⟨hdec, hin⟩ := (decodesOpen_iff s b).mp h
  simp only [core_of_decodes _ _ _ hdec, State.wrreg, endCommit_inGroup, hin, done_eq, setBlock_setBlock]
  rfl
/-- In a group it is held, with its offset and value, and signed. -/
theorem wrreg_of_group {s : State} {b : BlockId} {g : Group} (h : s.decodesIn b g = true) (sa : Reg) (off : BitVec 16) :
    s.core b (fun s x => s.wrreg b x sa off) = .next (s.setBlock b { (s.block b).next with
      group := some (({ g with held := g.held ++ [(off, (s.block b).reg sa)] } : Group).sign sigCore
        (leBytes 2 off.toNat ++ leBytes 8 ((s.block b).reg sa).toNat)) }) := by
  obtain ⟨-, hin, hg⟩ := (decodesIn_iff s b g).mp h
  simp only [core_of_decodesIn _ h, State.wrreg, hin, done_eq, setBlock_setBlock, BlockState.mapGroup, hg]
  rfl

/-- A register that starts nothing: its write changes the block's own registers only. -/
theorem writeReg_own (s : State) (b : BlockId) (off : BitVec 16) (v : Word) (hcoll : off ≠ regCollPost) (hwl : off ≠ regWlDone)
    (hlr : off ≠ regLrRelease) : s.writeReg b off v = s.setBlock b (ownReg s.lc.state (s.block b) off v) := by
  simp [State.writeReg, hcoll, hwl, hlr]
/-- A write of a register that is none of the block's own, by a block that is no checker, is its effect elsewhere. -/
theorem writeReg_starts (s : State) (b : BlockId) (off : BitVec 16) (v : Word) (hck : s.isChecker b = false)
    (hown : ownReg s.lc.state (s.block b) off v = s.block b) :
    s.writeReg b off v =
      if off = regCollPost then (s.setBlock b (s.block b)).postPlan b v
      else if off = regWlDone then (s.setBlock b (s.block b)).returnList b (v.extractLsb' 0 2).toNat
      else if off = regLrRelease then (s.setBlock b (s.block b)).releaseSegs b (v.extractLsb' 32 7) (v.extractLsb' 0 13).toNat
      else s.setBlock b (s.block b) := by
  simp [State.writeReg, hown, hck]

/-- Settles O9. A read is the table's row; a write is at once or held. -/
theorem blockRegisters : Obligations.BlockRegisters := by
  unfold Obligations.BlockRegisters
  refine ⟨?_, ?_, ?_⟩
  · intro s b sd hdec hsd
    refine ⟨?_, ?_, ?_, ?_, ?_, ?_, ?_⟩ <;> refine rdreg_reads hdec hsd _ ?_ <;> simp [State.readReg]
  · intro s b sa h x v
    have hck (hc : s.isChecker b = false) : (s.setBlock b x.next).isChecker b = false := by
      rw [isChecker_setBlock _ _ _ (by simp [x, BlockState.next]), hc]
    refine ⟨?_, ?_, ?_, fun hc => ?_, fun hc => ?_, fun hc => ?_⟩
    · rw [exec, execWrreg, wrreg_of_open h, writeReg_own _ _ _ _ (by decide) (by decide) (by decide), block_setBlock_same, setBlock_setBlock]
      rfl
    · rw [exec, execWrreg, wrreg_of_open h, writeReg_own _ _ _ _ (by decide) (by decide) (by decide), block_setBlock_same, setBlock_setBlock]
      rfl
    · rw [exec, execBlkSrSeedWrite, wrreg_of_open h, writeReg_own _ _ _ _ (by decide) (by decide) (by decide), block_setBlock_same,
        setBlock_setBlock]
      rfl
    · refine ⟨_, by rw [exec, execBlkCollPostWrite, wrreg_of_open h, writeReg_starts _ _ _ _ (hck hc) rfl, if_pos rfl], ?_, ?_⟩
      · simp [State.postPlan, v, x]
      · simp [State.postPlan, State.block, x]
    · rw [exec, execBlkWlDoneWrite, wrreg_of_open h, writeReg_starts _ _ _ _ (hck hc) rfl, block_setBlock_same, setBlock_setBlock]
      rfl
    · rw [exec, execBlkLrReleaseWrite, wrreg_of_open h, writeReg_starts _ _ _ _ (hck hc) rfl, block_setBlock_same, setBlock_setBlock]
      rfl
  · intro s b sa g h x holds
    exact ⟨fun off => wrreg_of_group h sa off, wrreg_of_group h sa _, wrreg_of_group h sa _, wrreg_of_group h sa _, wrreg_of_group h sa _⟩

end Sys2Proof.Laws

namespace Sys2Proof.Laws

/-! SUPPORT for O7. A store whose merge fails writes a burst's old bytes back; on a memory that is not in canonical form that brings a hidden byte to light. -/

open Sys2Proof.Machine

/-- Block 0 of region 0 decodes the first word of its scratchpad. Memory lists the byte at 0x7F00000A0008 twice, so it reads 0 with a 7 hidden behind it, and the burst that holds it has two wrong bits, which class W detects and does not correct. -/
def hiddenByte : State := { State.reset with
  blocks := [(0, { BlockState.reset with running := true, inReset := false, pc := 0x7F0000000000#48 })]
  mem := [(0x7F00000A0008, 0), (0x7F00000A0008, 7)]
  bursts := [(0x7F00000A0000 / 32, ⟨3, 0⟩)] }

/-- The eight zero bytes at 0x7F00000A0000 are stored without a fault. -/
theorem hiddenByte_stores : exec (.st ⟨0, 0⟩ 0 0 0x7F00000A0000) hiddenByte =
    .next ((hiddenByte.setBlock ⟨0, 0⟩ (hiddenByte.block ⟨0, 0⟩).endCommit.next).store ⟨0, 0⟩ sigCore 0x7F00000A0000 (leBytes 8 0)) :=
  st_passes (by decide) (by decide) (by decide) (by decide) (by decide) (by decide)
/-- The byte after them read 0 before. -/
theorem hiddenByte_before : memByte hiddenByte.mem 0x7F00000A0008 = 0 := rfl
/-- The merge fails and writes a 0 to it, which takes the first of its two entries away. -/
theorem hiddenByte_after :
    memByte ((hiddenByte.setBlock ⟨0, 0⟩ (hiddenByte.block ⟨0, 0⟩).endCommit.next).store ⟨0, 0⟩ sigCore 0x7F00000A0000 (leBytes 8 0)).mem
      0x7F00000A0008 = 7 := by decide +kernel

/-- Refutes O7: its first clause fails in `hiddenByte`, where memory is not in the canonical form that every step keeps (O55): a store of zeros at 0x7F00000A0000 turns the byte at 0x7F00000A0008 from 0 to 7. -/
theorem not_storeFrame : ¬ Obligations.StoreFrame := by
  unfold Obligations.StoreFrame
  intro hframe
  obtain ⟨houtside, -⟩ := hframe _ _ _ _ _ _ hiddenByte_stores
  have hkept := houtside 0x7F00000A0008 (Or.inr (by decide))
  rw [hiddenByte_after, hiddenByte_before] at hkept
  exact absurd hkept (by decide)

end Sys2Proof.Laws

namespace Sys2Proof.Laws

/-! SUPPORT for O10, O11 and O12. GHDR of a block that waits to be resumed, the commit of a group, ATOMIC, and the completion that leaves the block. -/

open Sys2Proof.Machine

/-! ## GHDR (R97, R104, R129) -/

/-- Block 0 of region 0 is told to stop before its next GHDR, and Flapino waits to resume it at address 0. -/
def stopsToRecover : State := { State.reset with
  blocks := [(0, { BlockState.reset with running := true, inReset := false, pc := 0x7F0000000000#48, stopAtGhdr := true, recoverAt := some 0 })] }

/-- Its GHDR leaves it in the open state at its recovery entry (R129). -/
theorem stopsToRecover_resumes : exec (.ghdr ⟨0, 0⟩ 0 0 0 false 0) stopsToRecover = .next
    ((stopsToRecover.setBlock ⟨0, 0⟩ { (stopsToRecover.block ⟨0, 0⟩).endCommit with core := .stopped, stopAtGhdr := false }).resumeAt ⟨0, 0⟩ 0) := by
  have hdec : stopsToRecover.decodes ⟨0, 0⟩ = true := by decide
  simp only [exec, execGhdr, core_of_decodes _ _ _ hdec]
  rfl

/-- Refutes O10: its clause for a block told to stop fails in `stopsToRecover`, where STALL_POLICY (R129) has left an entry at which the block goes on: there GHDR leaves the block open, not stopped. -/
theorem not_groupOpensAndDrains : ¬ Obligations.GroupOpensAndDrains := by
  unfold Obligations.GroupOpensAndDrains
  intro hghdr
  obtain ⟨hopen, -⟩ := hghdr
  obtain ⟨-, hstops⟩ := hopen stopsToRecover ⟨0, 0⟩ 0 0 0 false 0 (by decide)
  have hstates := Host.Outcome.next.inj (stopsToRecover_resumes.symm.trans (hstops (by decide)))
  have hcores := congrArg (fun t : State => (t.block ⟨0, 0⟩).core) hstates
  simp only [State.resumeAt, block_setBlock_same] at hcores
  exact absurd hcores (by decide)

/-! ## Commit (R103, R106) -/

/-- A read-back sends a read, and takes note that no later write waits for one. -/
theorem readback_block (s : State) (b : BlockId) (use : CompanionUse) : (s.readback b use).block b = { s.block b with ucWrNew := false } := by
  have hblocks : (s.readback b use).blocks = (s.setBlock b { s.block b with ucWrNew := false }).blocks := by
    simp only [State.readback, companionReq_blocks]
  rw [State.block, hblocks]
  exact block_setBlock_same s b _

/-- The completion that a group's commit leaves with the block. -/
def groupCpl (b : BlockId) (x : BlockState) (g : Group) : PendingCpl :=
  ⟨g.tag, committedStatus false g.dropMark g.void, flagsByte (!g.amaxWords.isEmpty && !g.void) x.dipRerun g.invalid g.saturated,
    (commitMsos 0 b g).length, g.companion && !g.dropMark, g.quiet⟩
theorem pendCompletion_cpls (s : State) (b : BlockId) (g : Group) :
    ((s.pendCompletion b g).block b).cpls = (s.block b).cpls ++ [groupCpl b (s.block b) g] := by
  simp only [State.pendCompletion]
  split
  · rw [readback_block, block_setBlock_same]; rfl
  · rw [block_setBlock_same]; rfl

theorem rerunEvent_block (s : State) (b : BlockId) (x : BlockState) (tag : BitVec 32) (c : BlockId) : (s.rerunEvent b x tag).block c = s.block c := by
  unfold State.rerunEvent
  split
  · exact raiseBlock_block _ _ _ _ _
  · rfl

/-- Steps 3 to 7 end by closing the group of a block that has taken the group's completion. -/
theorem commitFull_block (s : State) (b : BlockId) (g : Group) (cycles : Word) :
    ∃ u : State, (s.commitFull b g cycles).block b = ((u.pendCompletion b g).block b).closeGroup :=
  ⟨_, (rerunEvent_block _ b _ _ b).trans (block_setBlock_same _ b _)⟩

/-- A drained group of a block outside a pair, which may commit: it commits, or completes STALE_CONFIG. -/
theorem groupCommit_unpaired {s : State} {b : BlockId} {g : Group} (cycles : Word) (hg : (s.block b).group = some g)
    (hdrained : (s.block b).drained = true) (hmay : s.mayCommit b = true) (hck : s.isChecker b = false) (hpair : s.isChecker (pairOf b) = false) :
    exec (.groupCommit b cycles) s = .next (if s.epochPasses b g then s.commitFull b g cycles else s.killComplete b g stStaleConfig .parked) := by
  simp only [exec, execGroupCommit, hg, hdrained, hmay, hck, hpair, State.staleGroup, when_]
  cases hpass : s.epochPasses b g <;> simp

/-- An ATOMIC whose checks pass, in a group that is not void: recorded where fewer than 16 are, else the group is rejected (R99). -/
theorem atomic_passes {s : State} {b : BlockId} {g : Group} {sd sa sb : Reg} {op : BitVec 24} (h : s.decodesIn b g = true) {a : AtomicRec}
    (ha : a = ⟨((s.block b).reg sd).toNat, ((s.block b).reg sa).toNat, ((s.block b).reg sb).toNat, op⟩) (hok : atomicOk b (s.block b) g a = true)
    (hsrc : s.blockAllowed b a.source (atomicSource a) = true) (htgt : s.blockAllowed b a.target (atomicSource a) = true) (hvoid : g.void = false) :
    exec (.atomic b sd sa sb op) s = .next (if 16 ≤ g.atomics.length then (s.setBlock b (s.block b)).reject b
      else s.setBlock b { (s.block b).next with group := some (({ g with atomics := g.atomics ++ [a] } : Group).sign sigCore
        (leBytes 8 (sigAddr b a.target) ++ leBytes 8 (sigAddr b a.source) ++ leBytes 8 a.len ++ leBytes 3 a.op.toNat)) }) := by
  obtain ⟨-, -, hg⟩ := (decodesIn_iff s b g).mp h
  subst ha
  dsimp only at hsrc htgt
  simp only [exec, execAtomic, core_of_decodesIn _ h, hg, BlockState.addr, hok, setBlock_blockAllowed, hsrc, htgt, done_eq,
    setBlock_setBlock, BlockState.mapGroup, Bool.not_true, Bool.or_self, Bool.false_eq_true, ↓reduceIte]
  rw [if_neg (by simp [hvoid])]
  rfl

/-- Settles O11. A group that passes the epoch test ends with steps 3 to 7, one that does not with a kill; that the core stays in commit until its completion goes out is log 27. -/
theorem groupCommits : Obligations.GroupCommits := by
  unfold Obligations.GroupCommits
  refine ⟨?_, ?_⟩
  · intro s b g cycles hg hdrained hmay hck hpair
    have hexec := groupCommit_unpaired cycles hg hdrained hmay hck hpair
    refine ⟨fun hpass => ?_, fun hstale => ?_⟩
    · rw [if_pos hpass] at hexec
      obtain ⟨u, hu⟩ := commitFull_block s b g cycles
      refine ⟨_, hexec, ?_⟩
      rw [hu]
      refine ⟨rfl, rfl, rfl, rfl, groupCpl b (u.block b) g, ?_, rfl, rfl, ?_⟩
      · exact (congrArg List.getLast? (pendCompletion_cpls u b g)).trans List.getLast?_concat
      · simp [groupCpl, committedStatus, stFailedCompanion, stVoidInput, stOk]
    · rw [if_neg (by simp [hstale])] at hexec
      have hnone : (s.block b).cpls = [] := by
        simp only [State.mayCommit, Bool.and_eq_true, List.isEmpty_iff] at hmay
        exact hmay.1
      refine ⟨_, hexec, ?_⟩
      rw [killComplete_block, hck, hnone]
      exact ⟨rfl, rfl, rfl, dropGroup_group _, rfl, rfl, rfl, killComplete_mem _ _ _ _ _⟩
  · intro s b g sd sa sb op h x a hok hsrc htgt hvoid
    have hexec := atomic_passes h rfl hok hsrc htgt hvoid
    refine ⟨fun hroom => ?_, fun hfull => ?_⟩
    · rw [hexec, if_neg (by omega)]
    · rw [if_pos hfull] at hexec
      obtain ⟨-, -, hg⟩ := (decodesIn_iff s b g).mp h
      rw [reject_of_group _ _ g (by rw [block_setBlock_same, hg])] at hexec
      refine ⟨_, hexec, ?_⟩
      rw [rejectTag_block]
      exact ⟨rfl, dropGroup_group _, rfl⟩

/-! ## The completion (R103, R109) -/

/-- The oldest completion leaves a block. -/
def afterPost (x : BlockState) (c : PendingCpl) (rest : List PendingCpl) : BlockState := { x with cpls := rest, lastStatus := c.status }

/-- GROUP_COMPLETION_POST of a completion that waits for nothing. -/
theorem groupCompletionPost_free {s : State} {b : BlockId} {c : PendingCpl} {rest : List PendingCpl} (hcpls : (s.block b).cpls = c :: rest)
    (hacks : c.acks = 0) (hback : c.readback = false) :
    exec (.groupCompletionPost b) s = .next (if c.quiet && c.status == stOk then s.setBlock b (afterPost (s.block b) c rest)
      else (s.setBlock b { afterPost (s.block b) c rest with cplSeq := (s.block b).cplSeq + 1 }).setRegion b.region
        { s.region b.region with fifo := (s.region b.region).fifo ++ [⟨b, (s.block b).cplSeq, c.tag, c.flags, c.status⟩] }) := by
  have hfree : (c.acks == 0 && !c.readback) = true := by simp [hacks, hback]
  simp only [exec, execGroupCompletionPost, hcpls, hfree, when_]
  rfl

/-- Settles O12. The entry stands at the end of the region's FIFO, or nowhere. -/
theorem completionsReachTheRegion : Obligations.CompletionsReachTheRegion := by
  unfold Obligations.CompletionsReachTheRegion
  intro s b c rest hcpls hacks hback
  have hexec := groupCompletionPost_free hcpls hacks hback
  refine ⟨fun hposts => ?_, fun hquiet hok => ?_⟩
  · have hloud : ¬(c.quiet && c.status == stOk) = true := by
      rcases hposts with h | h
      · simp [h]
      · simpa [stOk] using fun _ => h
    rw [if_neg hloud] at hexec
    refine ⟨_, hexec, ?_, ?_, fun r hr => ?_⟩
    · simp [afterPost]
    · simp
    · rw [region_setRegion_other _ _ _ _ hr]
      rfl
  · rw [if_pos (by rw [hquiet, hok]; rfl)] at hexec
    refine ⟨_, hexec, ?_, rfl⟩
    rw [block_setBlock_same]
    rfl

end Sys2Proof.Laws

namespace Sys2Proof.Laws

/-! SUPPORT for O15. How a heavy command goes to its engine's queue. -/

open Sys2Proof.Machine

/-! ## Issue (R84, R85, R107) -/

theorem issues_iff (s : State) (b : BlockId) (g : Group) (e : EngineId) (ok : Bool) (reads writes : List Range) :
    s.issues b g e ok reads writes = true ↔ s.decodesIn b g = true ∧ ok = true ∧
      (nonEmpty reads).all (fun r => readOk b (s.block b) r.base r.len) = true ∧
      (nonEmpty writes).all (fun r => writeOk b (s.block b) r.base r.len) = true ∧
      (nonEmpty (reads ++ writes)).all (fun r => s.blockAllowed b r.base r.len) = true ∧ ((s.block b).engineQ e).length < 8 := by
  simp only [State.issues, Bool.and_eq_true, decide_eq_true_eq, and_assoc]

section
variable {s : State} {b : BlockId} {g : Group} {e : EngineId} {ok : Bool} {reads writes : List Range}

/-- A command that passes its issue has no effect in a void group, and is put at the end of its engine's queue in any other. -/
theorem issue_passes (c : EngineCmd) (start : State → State) (he : e ≠ .queue) (h : s.issues b g e ok reads writes = true) :
    (s.setBlock b (s.block b)).issue b (s.block b) g e ok reads writes c start =
      if g.void then s.setBlock b (s.block b).next else start (s.setBlock b ((s.block b).push e c).next) := by
  obtain ⟨-, hok, hr, hw, hallow, hroom⟩ := (issues_iff s b g e ok reads writes).mp h
  have hload : ¬ 8 ≤ (s.block b).engineLoad e := by
    cases e with
    | queue => exact absurd rfl he
    | array | vector | fetch => simpa [BlockState.engineLoad] using hroom
  rw [State.issue, if_neg hload, hok, hr, hw, setBlock_blockAllowed, hallow]
  simp only [Bool.not_true, Bool.or_self, Bool.false_eq_true, ↓reduceIte, done_eq, setBlock_setBlock]
/-- A full queue stalls decode. -/
theorem issue_full (c : EngineCmd) (start : State → State) (h : 8 ≤ (s.block b).engineLoad e) :
    (s.setBlock b (s.block b)).issue b (s.block b) g e ok reads writes c start = s.setBlock b { s.block b with stall := .engine e } := by
  rw [State.issue, if_pos h, setBlock_setBlock]

theorem group_of_issues (h : s.issues b g e ok reads writes = true) : s.decodesIn b g = true ∧ (s.block b).group = some g := by
  obtain ⟨hdec, -⟩ := (issues_iff s b g e ok reads writes).mp h
  exact ⟨hdec, ((decodesIn_iff s b g).mp hdec).2.2⟩
end

/-! ## What the engines' starts leave -/

/-- The keeper's dummy vectors change its own registers only. -/
theorem keeperWork_block (s : State) (b : BlockId) :
    ∃ k n, (s.keeperWork b).block b = { s.block b with keeperState := k, keeperFill := n } := by
  have hdummies (x : BlockState) (m : Nat) : ∃ n, x.dummies m = { x with keeperFill := n } := by
    unfold BlockState.dummies
    split <;> exact ⟨_, rfl⟩
  unfold State.keeperWork
  dsimp only
  split
  · obtain ⟨n, hn⟩ := hdummies (s.block b) (s.free.1.toNat % (keeperFillCycles + 1))
    exact ⟨_, n, by rw [block_setBlock_same, hn]⟩
  · obtain ⟨n, hn⟩ := hdummies (s.block b) (s.free.1.toNat % keeperStepCycles * (s.block b).keeperDuty / 16)
    exact ⟨_, n, by rw [block_setBlock_same, hn]⟩
  · exact ⟨_, _, by rw [block_setBlock_same]⟩
  · exact ⟨_, _, rfl⟩

/-- A queue that held a command before holds more than one now. -/
theorem length_concat_ne_one {α : Type} {q : List α} (c : α) (h : q ≠ []) : ¬ (q ++ [c]).length = 1 := by
  simpa using h
/-- A working fetch engine is not started anew. -/
theorem startIfHead_busy {s : State} {b : BlockId} (h : ¬ (s.block b).fetchQ.length = 1) : s.startIfHead b = s := if_neg h

/-- The array takes a MATMUL: the untaken shadow load is its first tile (R165), and an idle array starts. -/
def takeMatmul (s : State) (b : BlockId) (idle : Bool) : State :=
  let u := if idle then s.keeperWork b else s
  u.setBlock b { u.block b with untaken := none, run := if idle then some ArrayRun.start else (u.block b).run }
theorem takeMatmul_mem (s : State) (b : BlockId) (idle : Bool) : (takeMatmul s b idle).mem = s.mem := by
  cases idle <;> simp [takeMatmul]
theorem takeMatmul_block (s : State) (b : BlockId) (idle : Bool) :
    ((takeMatmul s b idle).block b).pc = (s.block b).pc ∧ ((takeMatmul s b idle).block b).untaken = none ∧
      ((takeMatmul s b idle).block b).arrayQ = (s.block b).arrayQ := by
  cases idle with
  | false => simp [takeMatmul]
  | true =>
    obtain ⟨k, n, hk⟩ := keeperWork_block s b
    simp [takeMatmul, hk]

/-- The fetch engine takes a FETCH: one into the shadow registers becomes the untaken load (R165). -/
def takeFetch (s : State) (b : BlockId) (f : FetchFields) : State :=
  let y := s.block b
  if f.toShadow then s.setBlock b { y with
    shadowNo := y.shadowNo + 1, untaken := some ⟨y.shadowNo, f.fmtDst, [], true, false, false⟩
    shadow := if y.untaken.any (·.complete) then WeightSet.empty else y.shadow } else s
theorem takeFetch_mem (s : State) (b : BlockId) (f : FetchFields) : (takeFetch s b f).mem = s.mem := by
  unfold takeFetch; split <;> rfl
theorem takeFetch_setBlock (s : State) (b : BlockId) (y : BlockState) (f : FetchFields) :
    takeFetch (s.setBlock b y) b f = if f.toShadow then (s.setBlock b y).setBlock b { y with
      shadowNo := y.shadowNo + 1, untaken := some ⟨y.shadowNo, f.fmtDst, [], true, false, false⟩
      shadow := if y.untaken.any (·.complete) then WeightSet.empty else y.shadow } else s.setBlock b y := by
  simp only [takeFetch, block_setBlock_same]
theorem takeFetch_block (s : State) (b : BlockId) (f : FetchFields) :
    ((takeFetch s b f).block b).pc = (s.block b).pc ∧ ((takeFetch s b f).block b).fetchQ = (s.block b).fetchQ ∧
      ((takeFetch s b f).block b).untaken =
        if f.toShadow then some ⟨(s.block b).shadowNo, f.fmtDst, [], true, false, false⟩ else (s.block b).untaken := by
  cases h : f.toShadow <;> simp [takeFetch, h]

/-! ## The heavy commands (R86 to R88) -/

theorem vecIssue_passes {s : State} {b : BlockId} {g : Group} {f : VecFields} {cv : Bool} {c : EngineCmd}
    (hc : c = .vec f cv ((s.block b).addr f.sa) ((s.block b).addr f.sb) ((s.block b).addr f.sc) ((s.block b).addr f.sd)
      (((s.block b).reg f.sb).extractLsb' 0 32))
    (h : s.issues b g .vector (vecOk g f (if cv then some .copy else vopOf f.vop) ((s.block b).addr f.sa) ((s.block b).addr f.sb)
      ((s.block b).addr f.sc) ((s.block b).addr f.sd)) c.reads c.writes = true) (hbusy : (s.block b).vectorQ ≠ []) :
    s.vecIssue b f cv = .next (if g.void then s.setBlock b (s.block b).next
      else s.setBlock b { (s.block b).next with vectorQ := (s.block b).vectorQ ++ [c] }) := by
  obtain ⟨hdec, hg⟩ := group_of_issues h
  subst hc
  simp only [State.vecIssue, core_of_decodesIn _ hdec, hg]
  rw [issue_passes _ _ (by decide) h, block_setBlock_same]
  exact congrArg (fun t => Host.Outcome.next (if g.void = true then _ else t)) (if_neg (length_concat_ne_one _ hbusy))

theorem vecIssue_full {s : State} {b : BlockId} {g : Group} {f : VecFields} {cv : Bool} (h : s.decodesIn b g = true)
    (hfull : 8 ≤ (s.block b).vectorQ.length) : s.vecIssue b f cv = .next (s.setBlock b { s.block b with stall := .engine .vector }) := by
  obtain ⟨-, -, hg⟩ := (decodesIn_iff s b g).mp h
  generalize hstalls : ({ s.block b with stall := .engine .vector } : BlockState) = y
  simp only [State.vecIssue, core_of_decodesIn _ h, hg]
  rw [issue_full (e := .vector) _ _ hfull, hstalls]

/-- Settles O15. Every command goes through `State.issue`; its engine's start leaves the queue as it is. -/
theorem heavyCommandsIssue : Obligations.HeavyCommandsIssue := by
  unfold Obligations.HeavyCommandsIssue
  refine ⟨?_, ?_, ?_, ?_, ?_⟩
  · intro s b g f x st sA sC sB reads writes ok h
    obtain ⟨hdec, hg⟩ := group_of_issues h
    have hexec : exec (.matmul b f) s = .next (if g.void then s.setBlock b x.next else
        takeMatmul (s.setBlock b { x.next with arrayQ := x.arrayQ ++ [.matmul f (x.addr f.sa) (x.addr f.sb) (x.addr f.sd) (x.addr f.sz)
          (x.addr f.ss) (x.addr (f.ss + 1)) sA sC sB x.untaken] }) b x.arrayQ.isEmpty) := by
      simp only [exec, execMatmul, core_of_decodesIn _ hdec, hg]
      rw [issue_passes _ _ (by decide) h]
      rfl
    refine ⟨fun hvoid => ?_, fun hvoid => ?_⟩
    · rw [if_neg (by simp [hvoid])] at hexec
      obtain ⟨hpc, huntaken, hq⟩ := takeMatmul_block (s.setBlock b { x.next with arrayQ := x.arrayQ ++ [.matmul f (x.addr f.sa) (x.addr f.sb)
        (x.addr f.sd) (x.addr f.sz) (x.addr f.ss) (x.addr (f.ss + 1)) sA sC sB x.untaken] }) b x.arrayQ.isEmpty
      rw [block_setBlock_same] at hpc hq
      exact ⟨_, hexec, hpc, takeMatmul_mem _ _ _, huntaken, hq⟩
    · rw [hexec, if_pos hvoid]
  · intro s b g f cv x i c ok h hbusy
    have hexec : exec i s = s.vecIssue b f cv := by cases cv <;> rfl
    have hpass := vecIssue_passes rfl h hbusy
    exact ⟨fun hvoid => by rw [hexec, hpass, if_neg (by simp [hvoid])], fun hvoid => by rw [hexec, hpass, if_pos hvoid]⟩
  · intro s b g f x c h hbusy
    obtain ⟨hdec, hg⟩ := group_of_issues h
    have hexec : exec (.copy b f) s = .next (if g.void then s.setBlock b x.next else s.setBlock b { x.next with fetchQ := x.fetchQ ++ [c] }) := by
      simp only [exec, execCopy, core_of_decodesIn _ hdec, hg]
      rw [issue_passes _ _ (by decide) h, startIfHead_busy (by rw [block_setBlock_same]; exact length_concat_ne_one _ hbusy)]
      rfl
    exact ⟨fun hvoid => by rw [hexec, if_neg (by simp [hvoid])], fun hvoid => by rw [hexec, if_pos hvoid]⟩
  · intro s b g f x len c hver h hbusy hvoid
    obtain ⟨hdec, hg⟩ := group_of_issues h
    let u := s.setBlock b { x.next with fetchQ := x.fetchQ ++ [c] }
    obtain ⟨hpc, hq, huntaken⟩ := takeFetch_block u b f
    rw [block_setBlock_same] at hpc hq huntaken
    have hexec : exec (.fetch b f) s = .next (takeFetch u b f) := by
      simp only [Bool.and_assoc] at h
      simp only [exec, execFetch, core_of_decodesIn _ hdec, hg, hver, Bool.false_and, Bool.false_eq_true, ↓reduceIte, Bool.and_assoc]
      rw [issue_passes _ _ (by decide) h, if_neg (by simp [hvoid])]
      refine congrArg Host.Outcome.next (Eq.trans ?_ (startIfHead_busy (by rw [hq]; exact length_concat_ne_one _ hbusy)))
      rw [block_setBlock_same]
      exact congrArg (State.startIfHead · b) (takeFetch_setBlock s b (x.push .fetch c).next f).symm
    exact ⟨_, hexec, hq, hpc, takeFetch_mem u b f, huntaken⟩
  · intro s b g hdec x
    refine ⟨fun hfull f => ?_, fun hfull f => ⟨vecIssue_full hdec hfull, vecIssue_full hdec hfull⟩, fun hfull f => ?_⟩
    · simp only [exec, execMatmul, core_of_decodesIn _ hdec, ((decodesIn_iff s b g).mp hdec).2.2]
      rw [issue_full (e := .array) _ _ hfull]
    · simp only [exec, execCopy, core_of_decodesIn _ hdec, ((decodesIn_iff s b g).mp hdec).2.2]
      rw [issue_full (e := .fetch) _ _ hfull]

end Sys2Proof.Laws

namespace Sys2Proof.Laws

/-! SUPPORT for O22. A SEND_STALL record, and the cycle of two records that STALL_POLICY breaks. -/

open Sys2Proof.Machine

/-! ## The record of a stall (R128) -/

theorem raiseStall_block (s : State) (b : BlockId) (d : Descriptor) :
    (s.raiseStall b d).block b = { s.block b with qStall := inc (s.block b).qStall } := block_setBlock_same _ _ _
theorem raiseStall_stalls (s : State) (b : BlockId) (d : Descriptor) :
    (s.raiseStall b d).fl.stalls = s.fl.stalls ++ [⟨b, d.dst, d.src, d.sendSeq, false⟩] := rfl
theorem raiseStall_events (s : State) (b : BlockId) (d : Descriptor) :
    (s.raiseStall b d).events.map EventReq.code = s.events.map EventReq.code ++ [evSendStall] := List.map_append

/-! ## A cycle of two (R129) -/

/-- Two records that continue each other, and neither itself, are the only cycle; it is found from its second record on. -/
theorem findCycle_two {dev : BitVec 16} {i j : StallRec} (hij : stallNext dev i j = true) (hji : stallNext dev j i = true)
    (hii : stallNext dev i i = false) (hjj : stallNext dev j j = false) :
    findCycle dev [(0, i), (1, j)] 2 [[(0, i)], [(1, j)]] = some [(1, j), (0, i)] := by
  have hchains : extendChains dev [(0, i), (1, j)] [[(0, i)], [(1, j)]] = [[(1, j), (0, i)], [(0, i), (1, j)]] := by
    simp [extendChains, hij, hji, hii, hjj]
  simp [findCycle, isCycle, hii, hjj, hchains, hji]

/-- STALL_POLICY with two such records under kill younger: both are marked, and the block of the second is aborted and resumed. -/
theorem stallPolicy_two {s : State} {i j : StallRec} (hstalls : s.fl.stalls = [i, j]) (hi : i.used = false) (hj : j.used = false)
    (hpi : (s.block i.block).stallPolicy = 1) (hpj : (s.block j.block).stallPolicy = 1)
    (hij : stallNext s.deviceId i j = true) (hji : stallNext s.deviceId j i = true)
    (hii : stallNext s.deviceId i i = false) (hjj : stallNext s.deviceId j j = false) {t : State}
    (ht : t = ({ s with fl := { s.fl with stalls := [{ i with used := true }, { j with used := true }] } } : State).abortBlock j.block) :
    exec .stallPolicy s = .next (if (t.block j.block).stopAtGhdr then t.setBlock j.block { t.block j.block with recoverAt := some (s.recoveryPc j.block) }
      else t.resumeAt j.block (s.recoveryPc j.block)) := by
  have hrs : ((enum [i, j]).filter fun r => !r.2.used && (s.block r.2.block).stallPolicy == 0b01#2) = [(0, i), (1, j)] := by
    simp [enum, List.range_succ, hi, hj, hpi, hpj]
  have hcycle : findCycle s.deviceId [(0, i), (1, j)] [(0, i), (1, j)].length ([(0, i), (1, j)].map fun r => [r]) = some [(1, j), (0, i)] :=
    findCycle_two hij hji hii hjj
  subst ht
  simp only [exec, execStallPolicy, hstalls, hrs, hcycle]
  rfl

/-- Settles O22. A stall is raised by one record; of two records that name each other's block the second is the younger. The recovery entry where no stage names the block is log 54. -/
theorem sendStalls : Obligations.SendStalls := by
  unfold Obligations.SendStalls
  refine ⟨?_, ?_, ?_, ?_⟩
  · intro s m e hmsg hback hraised
    have hexec : exec (.sendStallLimit m) s = .next ((s.updMsg m fun e => { e with stallRaised := true }).raiseStall m.block e.desc) := by
      have hdue : (decide (0 < e.backoff) && !e.stallRaised) = true := by simp [hback, hraised]
      simp only [exec, execSendStallLimit, hmsg, hdue, when_]
      rfl
    refine ⟨_, hexec, ?_, raiseStall_stalls _ _ _, raiseStall_events _ _ _⟩
    rw [raiseStall_block, State.updMsg, block_setBlock_same]
  · intro s m d relay rest hmsg hq hdst
    have hexec : exec (.sendStallLimit m) s =
        .next ((s.setBlock m.block { s.block m.block with queueQ := ⟨d, relay, true⟩ :: rest }).raiseStall m.block d) := by
      simp only [exec, execSendStallLimit, hmsg, hq, hdst, when_]
      rfl
    refine ⟨_, hexec, ?_, ?_, raiseStall_stalls _ _ _, raiseStall_events _ _ _⟩
    · rw [raiseStall_block, block_setBlock_same]
    · rw [raiseStall_block, block_setBlock_same]
  · intro s i j hstalls hi hj hne hpi hpj hdi hdj hbi hbj
    have hexec := stallPolicy_two hstalls hi hj hpi hpj (by simp [stallNext, hdi, hbi]) (by simp [stallNext, hdj, hbj])
      (by simp [stallNext, hbi, hne.symm]) (by simp [stallNext, hbj, hne]) rfl
    refine ⟨_, rfl, fun hstops => ?_, fun hstops => ?_⟩
    · rw [hexec, if_neg (by simp [hstops])]
    · rw [hexec, if_pos hstops]
  · intro s hnone
    simp only [exec, execStallPolicy, hnone]
    rfl

end Sys2Proof.Laws

namespace Sys2Proof.Laws

/-! SUPPORT for O23. How a message is placed in the send buffer, and how a descriptor is taken from a queue. -/

open Sys2Proof.Machine

/-! ## Registers and descriptor sets (R77) -/

theorem regsOnly_setReg (r : Reg) (v : Word) : ∃ f : Tab Word → Tab Word, ∀ x : BlockState, x.setReg r v = { x with regs := f x.regs } := by
  by_cases h : r = 0#5
  · exact ⟨id, fun x => by simp only [BlockState.setReg, if_pos h]; rfl⟩
  · exact ⟨fun t => tSet t r.toNat v, fun x => by simp only [BlockState.setReg, if_neg h]⟩
/-- A descriptor written into a set depends on the registers and changes them only. -/
theorem regsOnly_putSet (r : Reg) (d : Descriptor) : ∃ f : Tab Word → Tab Word, ∀ x : BlockState, putSet x r d = { x with regs := f x.regs } := by
  unfold putSet
  induction List.range 8 with
  | nil => exact ⟨id, fun _ => rfl⟩
  | cons i is ih =>
    obtain ⟨f, hf⟩ := ih
    obtain ⟨g, hg⟩ := regsOnly_setReg (r + BitVec.ofNat 5 i) ((descBits d).extractLsb' (64 * i) 64)
    exact ⟨f ∘ g, fun x => by rw [List.foldl_cons, hg, hf]; rfl⟩

theorem mapGroup_of_group {x : BlockState} {g : Group} (h : x.group = some g) (f : Group → Group) :
    x.mapGroup f = { x with group := some (f g) } :=
  congrArg (fun o => { x with group := o }) (congrArg (Option.map f) h)
theorem queue_setQueue_same (x : BlockState) (q : BitVec 7) (v : QueueState) : (x.setQueue q v).queue q = v := tGet_tSet_same _ _ _ _

/-! ## SEND and RELAY (R84, R89, R99, R100) -/

/-- The descriptor that a SEND or RELAY of a block names: that of the register set, or the 64 bytes in the user space inside the read set. -/
def Names (s : State) (b : BlockId) (sa : Reg) (byAddr : Bool) (d : Descriptor) : Prop :=
  byAddr = false ∧ isDescSet sa = true ∧ d = descOfSet (s.block b) sa ∨
    byAddr = true ∧ (s.block b).addr sa % 64 = 0 ∧ inUser b (s.block b) ((s.block b).addr sa) 64 = true ∧
      readOk b (s.block b) ((s.block b).addr sa) 64 = true ∧ d = descAt s.mem ((s.block b).addr sa)

/-- The three courses of a message in a group with room for one more. -/
def Placed (s : State) (b : BlockId) (g : Group) (d : Descriptor) (relay : Bool) (r : Res) : Prop :=
  ((s.block b).queueQ = [] → (s.block b).sendBuf.length < 32 → r = .next (s.setBlock b { (s.block b).next with
    group := some (({ g with sends := g.sends + 1 } : Group).sign sigQueue (sigDesc b d))
    sendBuf := (s.block b).sendBuf ++ [⟨d, relay, false, false, false, 0, 0, false, false, false⟩] })) ∧
  (32 ≤ (s.block b).sendBuf.length → (s.block b).queueQ.length < 8 → r = .next (s.setBlock b { (s.block b).next with
    group := some { g with sends := g.sends + 1 }, queueQ := (s.block b).queueQ ++ [⟨d, relay, false⟩] })) ∧
  (8 ≤ (s.block b).queueQ.length → r = .next (s.setBlock b { s.block b with stall := .engine .queue }))

section
variable {s : State} {b : BlockId} {g : Group} {sa : Reg} {byAddr : Bool} {d : Descriptor}

theorem sendDesc_of_names (h : Names s b sa byAddr d) : sendDesc (s.setBlock b (s.block b)) b (s.block b) sa byAddr = .inl d := by
  rcases h with ⟨hset, hsa, rfl⟩ | ⟨haddr, hal, huser, hread, rfl⟩
  · simp [sendDesc, hset, hsa]
  · simp [sendDesc, haddr, hal, huser, hread]

/-- A message in a group that is not void goes to the send buffer, to the queue engine's queue, or stalls decode. -/
theorem place_placed (relay : Bool) (hg : (s.block b).group = some g) (hvoid : g.void = false) (hroom : g.sends < 32) :
    Placed s b g d relay (.next ((s.setBlock b (s.block b)).place b (s.block b) d relay)) := by
  have hplace : (s.setBlock b (s.block b)).place b (s.block b) d relay =
      if (s.block b).queueQ.isEmpty && decide ((s.block b).sendBuf.length < 32) then
        s.setBlock b ((({ s.block b with group := some { g with sends := g.sends + 1 } } : BlockState).hold b d relay g.void)).next
      else if 8 ≤ (s.block b).queueQ.length then s.setBlock b { s.block b with stall := .engine .queue }
      else s.setBlock b { (s.block b).next with group := some { g with sends := g.sends + 1 }, queueQ := (s.block b).queueQ ++ [⟨d, relay, false⟩] } := by
    unfold State.place
    split
    · next hnone => exact absurd (hg.symm.trans hnone) (by simp)
    · next g' hsome =>
      obtain rfl : g' = g := Option.some.inj (hsome.symm.trans hg)
      rw [if_neg (by omega), mapGroup_of_group hg, done_eq, setBlock_setBlock, setBlock_setBlock, done_eq, setBlock_setBlock]
      rfl
  rw [hplace]
  refine ⟨fun hempty hbuf => ?_, fun hbuf hqueue => ?_, fun hfull => ?_⟩
  · rw [if_pos (by simp [hempty, hbuf]), hvoid]
    rfl
  · rw [if_neg (by simp; omega), if_neg (by omega)]
  · have hbusy : (s.block b).queueQ ≠ [] := fun hempty => by simp [hempty] at hfull
    rw [if_neg (by simp [hbusy]), if_pos hfull]

theorem send_placed (h : s.decodesIn b g = true) (hvoid : g.void = false) (hroom : g.sends < 32) (hd : Names s b sa byAddr d) :
    Placed s b g d false (exec (.send b sa byAddr) s) := by
  obtain ⟨-, hin, hg⟩ := (decodesIn_iff s b g).mp h
  have hexec : exec (.send b sa byAddr) s = .next ((s.setBlock b (s.block b)).place b (s.block b) d false) := by
    simp only [exec, execSend, core_of_decodesIn _ h, hin, sendDesc_of_names hd]
    rfl
  rw [hexec]
  exact place_placed false hg hvoid hroom

theorem relay_placed (h : s.decodesIn b g = true) (hvoid : g.void = false) (hroom : g.sends < 32) (hd : Names s b sa byAddr d)
    (hsize : relayBad d = false) (hsource : relaySourceOk b (s.block b) d = true)
    (hpiece0 : d.len0 = 0 ∨ s.blockAllowed b d.ptr0.toNat d.len0.toNat = true)
    (hpiece1 : d.len1 = 0 ∨ s.blockAllowed b d.ptr1.toNat d.len1.toNat = true) :
    Placed s b g d true (exec (.relay b sa byAddr) s) := by
  obtain ⟨-, hin, hg⟩ := (decodesIn_iff s b g).mp h
  have hpieces : (!(d.len0 == 0#32 || s.blockAllowed b d.ptr0.toNat d.len0.toNat) ||
      !(d.len1 == 0#32 || s.blockAllowed b d.ptr1.toNat d.len1.toNat)) = false := by
    rcases hpiece0 with h0 | h0 <;> rcases hpiece1 with h1 | h1 <;> simp [h0, h1]
  have hexec : exec (.relay b sa byAddr) s = .next ((s.setBlock b (s.block b)).place b (s.block b) d true) := by
    simp only [exec, execRelay, core_of_decodesIn _ h, hin, sendDesc_of_names hd, hsize, hsource, setBlock_blockAllowed, hpieces]
    rfl
  rw [hexec]
  exact place_placed true hg hvoid hroom
end

/-! ## RECV (R89, R126) -/

/-- The hold notice of a removal goes before the control complex. -/
theorem holdNotice_blocks (s : State) (b : BlockId) (q : BitVec 7) (d : Descriptor) : (s.holdNotice b q d).blocks = s.blocks := by
  unfold State.holdNotice
  split
  · split <;> rfl
  · rfl
theorem holdNotice_block (s : State) (b c : BlockId) (q : BitVec 7) (d : Descriptor) : (s.holdNotice b q d).block c = s.block c := by
  rw [State.block, holdNotice_blocks]; rfl

/-- What a block offers depends on its queue, on the stages and on the partitions. -/
theorem available_setBlock (s : State) (b : BlockId) (q : BitVec 7) (y : BlockState) (h : y.queue q = (s.block b).queue q) :
    (s.setBlock b y).available b q = s.available b q := by
  simp only [State.available, block_setBlock_same, h]
  rfl

/-- A block whose oldest descriptor is taken: reserved in a group, removed in the open state. -/
def takenFrom (x : BlockState) (q : BitVec 7) : BlockState :=
  match x.group with
  | some _ => (x.setQueue q { x.queue q with reserved := (x.queue q).reserved + 1 }).mapGroup fun g => { g with reserved := g.reserved ++ [q] }
  | none => x.setQueue q { x.queue q with entries := (x.queue q).entries.drop 1 }
theorem takenFrom_pc (x : BlockState) (q : BitVec 7) : (takenFrom x q).pc = x.pc := by unfold takenFrom; split <;> rfl
theorem takenFrom_regs (x : BlockState) (q : BitVec 7) : (takenFrom x q).regs = x.regs := by unfold takenFrom; split <;> rfl
theorem takenFrom_of_group {x : BlockState} {g : Group} (q : BitVec 7) (hg : x.group = some g) : takenFrom x q =
    (x.setQueue q { x.queue q with reserved := (x.queue q).reserved + 1 }).mapGroup fun g => { g with reserved := g.reserved ++ [q] } := by
  unfold takenFrom
  split
  · rfl
  · next hnone => exact absurd (hg.symm.trans hnone) (by simp)
theorem takenFrom_of_open {x : BlockState} (q : BitVec 7) (hg : x.group = none) :
    takenFrom x q = x.setQueue q { x.queue q with entries := (x.queue q).entries.drop 1 } := by
  unfold takenFrom
  split
  · next g hsome => exact absurd (hg.symm.trans hsome) (by simp)
  · rfl

/-- The descriptor is in its place: the destination by address is signed, a register set written. -/
def received (b : BlockId) (x : BlockState) (q : BitVec 7) (sd : Reg) (byAddr : Bool) (d : Descriptor) : BlockState :=
  { (if byAddr then (takenFrom x q).mapGroup fun g => g.sign sigQueue (sigWrite b (x.addr sd) (descBytes d))
    else putSet (takenFrom x q) sd d) with stall := .none }
theorem received_pc (b : BlockId) (x : BlockState) (q : BitVec 7) (sd : Reg) (byAddr : Bool) (d : Descriptor) :
    (received b x q sd byAddr d).pc = x.pc := by
  obtain ⟨f, hf⟩ := regsOnly_putSet sd d
  cases byAddr with
  | false => simp [received, hf, takenFrom_pc]
  | true => exact takenFrom_pc x q
theorem received_set_regs (b : BlockId) (x : BlockState) (q : BitVec 7) (sd : Reg) (d : Descriptor) :
    (received b x q sd false d).regs = (putSet x sd d).regs := by
  obtain ⟨f, hf⟩ := regsOnly_putSet sd d
  simp [received, hf, takenFrom_regs]
theorem received_addr_regs (b : BlockId) (x : BlockState) (q : BitVec 7) (sd : Reg) (d : Descriptor) :
    (received b x q sd true d).regs = x.regs := takenFrom_regs x q
theorem received_set_queues (b : BlockId) (x : BlockState) (q : BitVec 7) (sd : Reg) (d : Descriptor) :
    (received b x q sd false d).queues = (takenFrom x q).queues := by
  obtain ⟨f, hf⟩ := regsOnly_putSet sd d
  simp [received, hf]

section
variable (s : State) (b : BlockId) (x : BlockState) (q : BitVec 7) (sd : Reg) (d : Descriptor)

/-- A descriptor taken is stored by address, and its removal in the open state is noticed. -/
theorem take_eq (byAddr : Bool) : s.take b x q sd byAddr d =
    let s1 := s.setBlock b (received b x q sd byAddr d).next
    let s2 := if byAddr then ({ s1 with mem := memWrite s1.mem (x.addr sd) (descBytes d) } : State) else s1
    if x.group.isNone then s2.holdNotice b q d else s2 := rfl
theorem take_block (byAddr : Bool) : (s.take b x q sd byAddr d).block b = (received b x q sd byAddr d).next := by
  rw [take_eq]
  generalize (received b x q sd byAddr d).next = y
  dsimp only
  rw [apply_ite (fun t : State => t.block b), holdNotice_block, ite_self]
  cases byAddr with
  | false => simp
  | true => simp only [↓reduceIte, block_withMem, block_setBlock_same]
theorem take_mem (byAddr : Bool) : (s.take b x q sd byAddr d).mem = if byAddr then memWrite s.mem (x.addr sd) (descBytes d) else s.mem := by
  rw [take_eq]
  generalize (received b x q sd byAddr d).next = y
  dsimp only
  rw [apply_ite State.mem, holdNotice_mem, ite_self]
  cases byAddr <;> simp
/-- In a group no notice leaves. -/
theorem take_of_group {g : Group} (hg : x.group = some g) :
    s.take b x q sd false d = s.setBlock b (received b x q sd false d).next := by
  have hsome : x.group.isNone = false := by rw [hg]; rfl
  rw [take_eq, hsome]
  rfl

end

section
variable {s : State} {b : BlockId} {q : BitVec 7} {sd sb : Reg} {byAddr nonblock : Bool} (h : s.decodes b = true)
  (hbad : recvBad b (s.block b).endCommit sd byAddr = none) (hq : (s.block b).queueQ = [])
  (hlock : (byAddr && (s.block b).endCommit.lockedBy ((s.block b).endCommit.addr sd) 64) = false)
include h hbad hq hlock

/-- RECV whose destination is allowed and free, with no SEND or RELAY before it, takes the descriptor that is available. -/
theorem recv_takes {d : Descriptor} (havail : (s.setBlock b (s.block b).endCommit).available b q = some d) :
    exec (.recv b q sd sb false byAddr) s = .next ((s.setBlock b (s.block b).endCommit).take b (s.block b).endCommit q sd byAddr d) := by
  have hidle : (s.block b).endCommit.queueQ.isEmpty = true := by simp [hq]
  simp only [exec, execRecv, core_of_decodes _ _ _ h, hbad, hidle, hlock, havail]
  rfl
/-- A non-blocking one leaves 1 besides. -/
theorem recv_takes_nonblocking {d : Descriptor} (havail : (s.setBlock b (s.block b).endCommit).available b q = some d) :
    exec (.recv b q sd sb true byAddr) s = .next (
      let t := (s.setBlock b (s.block b).endCommit).take b (s.block b).endCommit q sd byAddr d
      t.setBlock b ((t.block b).setReg sb 1)) := by
  have hidle : (s.block b).endCommit.queueQ.isEmpty = true := by simp [hq]
  simp only [exec, execRecv, core_of_decodes _ _ _ h, hbad, hidle, hlock, havail]
  rfl
/-- With none available it goes on with 0, or stalls. -/
theorem recv_waits (hnone : (s.setBlock b (s.block b).endCommit).available b q = none) :
    exec (.recv b q sd sb nonblock byAddr) s = .next (
      if nonblock then s.setBlock b ((s.block b).endCommit.setReg sb 0).next
      else s.setBlock b { (s.block b).endCommit with stall := .recv q sd byAddr }) := by
  have hidle : (s.block b).endCommit.queueQ.isEmpty = true := by simp [hq]
  simp only [exec, execRecv, core_of_decodes _ _ _ h, hbad, hidle, hlock, hnone, done_eq, setBlock_setBlock]
  rfl
end

/-- RECV_WAKE of a register set's RECV in a group takes the descriptor that has become available. -/
theorem recvWake_takes {s : State} {b : BlockId} {q : BitVec 7} {sd : Reg} {d : Descriptor} (hstall : (s.block b).stall = .recv q sd false)
    (havail : s.available b q = some d) : exec (.recvWake b) s = .next (s.take b (s.block b) q sd false d) := by
  simp only [exec, execRecvWake, hstall, havail, when_]
  rfl

/-- Settles O23. A message is placed, a descriptor taken; whether one is available does not depend on the commit that ends. -/
theorem sendRelayAndReceive : Obligations.SendRelayAndReceive := by
  unfold Obligations.SendRelayAndReceive
  refine ⟨?_, ?_, ?_, ?_⟩
  · intro s b g sa byAddr d h hvoid hroom x hd placed
    exact ⟨send_placed h hvoid hroom hd, fun hsize hsource hpiece0 hpiece1 => relay_placed h hvoid hroom hd hsize hsource hpiece0 hpiece1⟩
  · intro s b q sd sb d hdec hsd hq x v
    have hbad : recvBad b x sd false = none := by simp [recvBad, hsd]
    refine ⟨fun g h havail => ?_, fun _ hg havail => ?_, fun havail hsb => ?_, fun hnone => ⟨?_, ?_⟩⟩
    · obtain ⟨-, hin, hg⟩ := (decodesIn_iff s b g).mp h
      have hxg : x.group = some g := by rw [BlockState.endCommit_group, hg]
      rw [recv_takes hdec hbad hq rfl ((available_setBlock s b q x (by simp [x, BlockState.queue])).trans havail)]
      refine congrArg Host.Outcome.next ((take_of_group _ b x q sd d hxg).trans ?_)
      rw [setBlock_setBlock, received, takenFrom_of_group q hxg]
      rfl
    · refine ⟨_, recv_takes hdec hbad hq rfl havail, ?_, ?_, ?_, ?_⟩
      · rw [take_block, BlockState.next_pc, received_pc]
      · rw [take_block, BlockState.next_regs, received_set_regs]
      · rw [take_block, BlockState.queue, BlockState.next_queues, received_set_queues, takenFrom_of_open q hg]
        exact congrArg QueueState.entries (queue_setQueue_same x q _)
      · rw [take_mem]
        simp
    · refine ⟨_, recv_takes_nonblocking hdec hbad hq rfl havail, ?_, ?_⟩
      · rw [block_setBlock_same]
        exact reg_setReg_same _ _ _ hsb
      · rw [block_setBlock_same, BlockState.setReg_pc, take_block, BlockState.next_pc, received_pc]
    · exact recv_waits hdec hbad hq rfl hnone
    · exact recv_waits hdec hbad hq rfl hnone
  · intro s b q sd sb d hdec hq x hbad hlock havail
    refine ⟨_, recv_takes hdec hbad hq (by simpa using hlock) havail, ?_, ?_, ?_⟩
    · rw [take_mem]
      simp [x]
    · rw [take_block, BlockState.next_pc, received_pc]
    · rw [take_block, BlockState.next_regs, received_addr_regs]
  · intro s b q sd g d x v hstall hg havail
    rw [recvWake_takes hstall havail, take_of_group s b x q sd d hg, received,
      (takenFrom_of_group q hg).trans (mapGroup_of_group (show (x.setQueue q _).group = some g from hg) _)]
    rfl

end Sys2Proof.Laws

namespace Sys2Proof.Laws

/-! SUPPORT for O28. A command that none of its conditions refuses is carried out, and the 256 bytes of a version-table entry. -/

open Sys2Proof.Machine

/-! ## Commands that no condition refuses (R335) -/

theorem firstReason_eq_none {l : List (Bool × BitVec 8)} (h : ∀ c ∈ l, c.1 = false) : firstReason l = none := by
  induction l with
  | nil => rfl
  | cons c l ih =>
    rw [firstReason, if_neg (by simp [h c List.mem_cons_self]), ih fun d hd => h d (List.mem_cons_of_mem _ hd)]

/-- A command that Flapino carries and that none of its conditions refuses takes its effect. -/
theorem cmd_of_unrefused {s t : State} {r : Running} {op : BitVec 16} {sc : Scope} {k : State → Running → State} {l : List (Bool × BitVec 8)}
    (h : s.carries r op sc = true) (hk : k s.taken r = s.taken.unless r (firstReason l) t) (hl : ∀ c ∈ l, c.1 = false) :
    s.cmd op sc k = .next t := by
  rw [cmd_of_carries s r op sc _ h, hk, firstReason_eq_none hl]
  rfl

theorem taken_stage (s : State) (e : StageId) : s.taken.stage e = s.stage e := rfl
theorem taken_part (s : State) (p : PartId) : s.taken.part p = s.part p := rfl

/-! ## The bytes of a version-table entry (Tables 6.4, 6.5) -/

@[simp] theorem slotBytes24_length (v : VSlot) : (slotBytes24 v).length = 24 := by simp [slotBytes24]
/-- An entry of eight slots has 256 bytes. -/
theorem ventryEnc_length {e : VEntry} (h : e.slots.length = 8) : (ventryEnc e).length = ventryBytes := by
  simp [ventryEnc, List.length_flatMap, ventryBytes, h]

/-! ## The commands of Table 6.11 -/

section
variable {s : State} {r : Running} {k : BitVec 8} (hk : k.toNat < 64)
include hk

theorem stageQuery_answers (h : s.carries r 0x0203 (s.stageScope k) = true) :
    execStageQuery k s = .next (s.taken.okData r (natWords 8 (stageBits (s.stage (k.setWidth 6))).toNat)) :=
  cmd_of_unrefused h rfl (by simp; omega)
theorem admitStart_starts {step : BitVec 32} {mb : BitVec 16} (h : s.carries r 0x0208 (s.stageScope k) = true)
    (hvalid : (s.stage (k.setWidth 6)).valid = true) (hfirst : (s.stage (k.setWidth 6)).first = true)
    (hmb : mb.toNat < (s.stage (k.setWidth 6)).mbPerStep.toNat) : execAdmitStart k step mb s = .next ((s.taken.setStage (k.setWidth 6)
      { s.stage (k.setWidth 6) with nextStep := step, nextMb := mb, admitEn := true }).ok r) := by
  refine cmd_of_unrefused h rfl ?_
  have hbelow : ¬ (s.taken.stage (k.setWidth 6)).mbPerStep.toNat ≤ mb.toNat := Nat.not_le.mpr hmb
  simp only [List.forall_mem_cons]
  exact ⟨decide_eq_false (by omega), by simp [taken_stage, hvalid, hfirst], decide_eq_false hbelow, by simp⟩
theorem admitStop_stops (h : s.carries r 0x0209 (s.stageScope k) = true) (hvalid : (s.stage (k.setWidth 6)).valid = true)
    (hfirst : (s.stage (k.setWidth 6)).first = true) :
    execAdmitStop k s = .next ((s.taken.setStage (k.setWidth 6) { s.stage (k.setWidth 6) with admitEn := false }).ok r) :=
  cmd_of_unrefused h rfl (by simp [taken_stage, hvalid, hfirst]; omega)
theorem versionPin_pins (h : s.carries r 0x0212 (s.stageScope k) = true) (hvalid : (s.stage (k.setWidth 6)).valid = true) :
    execVersionPin k s = .next ((s.taken.setStage (k.setWidth 6) { s.stage (k.setWidth 6) with pinned := true }).ok r) :=
  cmd_of_unrefused h rfl (by simp [taken_stage, hvalid]; omega)
theorem versionUnpin_unpins (h : s.carries r 0x0213 (s.stageScope k) = true) (hpinned : (s.stage (k.setWidth 6)).pinned = true) :
    execVersionUnpin k s = .next ((s.taken.setStage (k.setWidth 6) { s.stage (k.setWidth 6) with pinned := false }).ok r) :=
  cmd_of_unrefused h rfl (by simp [taken_stage, hpinned]; omega)
end

section
variable {s : State} {r : Running}

theorem vtableInit_writes {x : VTableP} (h : s.carries r 0x0210 .own = true) (haddr : x.addr.toNat % 256 = 0)
    (hmem : (s.part r.part).hasStacked x.addr.toNat ventryBytes = true) (hlen : x.shardBytes.toNat ≠ 0) (hlen64 : x.shardBytes.toNat % 64 = 0)
    (hA : x.wholeA.toNat % 64 = 0) (hB : x.wholeB.toNat % 64 = 0) (hapart : anyOverlap (vtableAreas x) = false)
    (hclean : s.errorsIn [⟨x.addr.toNat, ventryBytes⟩] = [])
    (hareas : ∀ a ∈ vtableAreas x, a.len = 0 ∨ (s.part r.part).hasStacked a.base a.len = true) :
    execVtableInit x s = .next (({ s.taken with mem := memWrite s.mem x.addr.toNat (ventryEnc (initEntry x)) } : State).ok r) := by
  have hput : s.taken.put x.addr.toNat (ventryEnc (initEntry x)) =
      { s.taken with mem := memWrite s.mem x.addr.toNat (ventryEnc (initEntry x)) } :=
    put_clean s.taken _ _ (by rw [ventryEnc_length rfl]; exact hclean)
  rw [← hput]
  refine cmd_of_unrefused h rfl ?_
  have hin : ((vtableAreas x).any fun a => decide (0 < a.len) && !(s.part r.part).hasStacked a.base a.len) = false := by
    rw [List.any_eq_false]
    intro a ha
    obtain h0 | h1 := hareas a ha
    · simp [h0]
    · simp [h1]
  simp [taken_part, haddr, hmem, hlen, hlen64, hA, hB, hapart, hin]

theorem vtableQuery_answers {a : Addr} (h : s.carries r 0x0211 .own = true) (hmem : (s.part r.part).hasStacked a.toNat ventryBytes = true) :
    execVtableQuery a s = .next (s.taken.okData r (byteWords (memRead s.mem a.toNat ventryBytes))) :=
  cmd_of_unrefused h rfl (by simp [taken_part, hmem])
end

/-! ## The landing rings' bindings (Table 5.11) -/

section
variable {s : State} {r : Running} {q : QAddr}

theorem lringBind_binds {base : Addr} {n : BitVec 32} (hpart : s.partHas r.part (QAddr.blockId q) = true)
    (h : s.carries r 0x0231 .own = true) (hfree : s.ring q = none) (hempty : ((s.block (QAddr.blockId q)).queue (QAddr.queue q)).entries = [])
    (hbase : base.toNat % mib = 0) (hmin : 8 ≤ n.toNat) (hmax : n.toNat ≤ 4096)
    (hmem : (s.part r.part).hasStacked base.toNat (n.toNat * mib) = true) (hroom : s.rings.length < 512) :
    execLringBind q base n s = .next (((s.taken.setRing q ⟨base.toNat, n.toNat, 0, 0, 0, [], [], []⟩).setBlock (QAddr.blockId q)
      { s.block (QAddr.blockId q) with landed := tSet (s.block (QAddr.blockId q)).landed (QAddr.queue q).toNat 0 }).ok r) := by
  refine cmd_of_unrefused h rfl ?_
  have hhas : s.taken.partHas r.part (QAddr.blockId q) = true := hpart
  have hring : s.taken.ring q = none := hfree
  have hqueue : ((s.taken.block (QAddr.blockId q)).queue (QAddr.queue q)).entries = [] := hempty
  have hrings : s.taken.rings.length < 512 := hroom
  simp [hhas, hring, hqueue, hbase, taken_part, hmem]
  omega

theorem lringUnbind_unbinds {g : Ring} (hpart : s.partHas r.part (QAddr.blockId q) = true) (h : s.carries r 0x0232 .own = true)
    (hbound : s.ring q = some g) (hpending : g.pending = []) (hheld : g.alloc ≤ g.release) :
    execLringUnbind q s = .next ((s.taken.delRing q).ok r) := by
  have hring : s.taken.ring q = some g := hbound
  have hhas : s.taken.partHas r.part (QAddr.blockId q) = true := hpart
  refine cmd_of_unrefused (l := [(!s.taken.partHas r.part (QAddr.blockId q), rsAddress),
    (!g.pending.isEmpty || decide (g.release < g.alloc), rsState)]) h ?_ ?_
  · simp only [hring]
  · simp [hhas, hpending, hheld]
end

/-- Settles O28: each command takes its effect, as none of its conditions refuses it. The scope of a command that names a stage entry is log 73. -/
theorem stageCommands : Obligations.StageCommands := by
  unfold Obligations.StageCommands
  refine ⟨fun s r k hk => ?_, fun s r x => vtableInit_writes, fun s r a => vtableQuery_answers, fun s r q base n hpart => ?_⟩
  · exact ⟨stageQuery_answers hk, fun h hvalid hfirst step mb => admitStart_starts hk h hvalid hfirst, admitStop_stops hk,
      versionPin_pins hk, versionUnpin_unpins hk⟩
  · exact ⟨lringBind_binds hpart, fun g => lringUnbind_unbinds hpart⟩

end Sys2Proof.Laws

namespace Sys2Proof.Laws

/-! SUPPORT for O38. The routing unit's choice, the packets that pass a port and those that end at the package, and the commands of the links. -/

open Sys2Proof.Machine

/-! ## The routing unit (R265) -/

section
variable {s : State} {p : TxPacket} {l : LinkId} (part : Option PartId)

/-- The packet goes to the candidate that its hash picks. -/
theorem route_of_candidate
    (h : (s.candidates p.packet.dstDev)[routeHash p.packet % (s.candidates p.packet.dstDev).length]? = some l) :
    s.route p part = (s.toPort l p, some l) := by
  unfold State.route
  generalize hdrop : (s.candidates p.packet.dstDev).drop _ = cs
  have hhead : cs.head? = some l := by rw [← hdrop, List.head?_drop, h]
  obtain ⟨rest, rfl⟩ := List.head?_eq_some_iff.mp hhead
  simp only [hdrop]
theorem route_of_no_candidate (h : s.candidates p.packet.dstDev = []) : s.route p part = (s.noRoute p part, none) := by
  simp only [State.route, h, List.drop_nil]
theorem toPort_of_up (h : (s.link l).isUp = true) : s.toPort l p = s.setLink l ((s.link l).enqueue p) := by
  simp only [State.toPort, h, if_true]
end

/-- The bytes that a packet takes on the fabric are counted at the hub and at its partition. -/
theorem countLink_eq (s : State) (p : Packet) (part : Option PartId) :
    ∃ ps, s.countLink p part = { s with hub := { s.hub with linkAll := satAdd s.hub.linkAll (16 + p.data.length) }, parts := ps } := by
  unfold State.countLink
  split
  · exact ⟨_, rfl⟩
  · exact ⟨s.parts, rfl⟩

section
variable (s : State) (p : Packet) (part : Option PartId)

@[simp] theorem countLink_candidates (dst : BitVec 16) : (s.countLink p part).candidates dst = s.candidates dst := by
  obtain ⟨ps, h⟩ := countLink_eq s p part
  rw [h]; rfl
@[simp] theorem countLink_links : (s.countLink p part).links = s.links := by
  obtain ⟨ps, h⟩ := countLink_eq s p part
  rw [h]
@[simp] theorem countLink_link (l : LinkId) : (s.countLink p part).link l = s.link l := by
  rw [State.link, countLink_links]; rfl
@[simp] theorem countLink_inflight : (s.countLink p part).inflight = s.inflight := by
  obtain ⟨ps, h⟩ := countLink_eq s p part
  rw [h]
@[simp] theorem countLink_events : (s.countLink p part).events = s.events := by
  obtain ⟨ps, h⟩ := countLink_eq s p part
  rw [h]
@[simp] theorem countLink_noRoute : (s.countLink p part).hub.noRoute = s.hub.noRoute := by
  obtain ⟨ps, h⟩ := countLink_eq s p part
  rw [h]
end

/-! ## PACKET_ROUTE (R125, R265) -/

section
variable {s : State} {k : Nat} {body : List Byte} {t : Transit} {rest : List Transit} {d : Descriptor}

/-- The packet of a queue message for another device. -/
def messagePacket (s : State) (d : Descriptor) : Packet := s.newPacket 0x01 (QAddr.device d.dst) d.dst 0 (descBytes d)

theorem packetRoute_sends (hid : s.idValid = true) (hat : s.inflight.drop k = t :: rest) (hmsg : t.item = .message d)
    (haway : QAddr.device d.dst ≠ s.deviceId) (hfirst : ∀ u ∈ s.inflight.take k, u.ahead t = false) :
    execPacketRoute ⟨k, body⟩ s =
      .next (({ s with inflight := s.inflight.take k ++ rest } : State).sendPacket t.item (messagePacket s d)) := by
  have hpackets : s.packetsOf t.item body = [messagePacket s d] := by
    simp only [State.packetsOf, hmsg, if_neg haway]
    rfl
  have hahead : ((s.inflight.take k).any fun u => u.ahead t) = false := by simpa using hfirst
  simp [execPacketRoute, hat, hpackets, hid, hahead]

/-- Its port takes it. -/
theorem sendPacket_of_candidate {i : InFlight} {p : Packet} {l : LinkId}
    (hport : (s.candidates p.dstDev)[routeHash p % (s.candidates p.dstDev).length]? = some l) (hup : (s.link l).isUp = true) :
    (s.sendPacket i p).link l = (s.link l).enqueue ⟨p, p.data.length, none, some i⟩ ∧ (s.sendPacket i p).inflight = s.inflight ∧
      (s.sendPacket i p).mem = s.mem := by
  have hsend : s.sendPacket i p = (s.countLink p (s.entryPart i)).setLink l ((s.link l).enqueue ⟨p, p.data.length, none, some i⟩) := by
    rw [State.sendPacket, route_of_candidate _ (by simpa using hport), toPort_of_up (by simpa using hup), countLink_link]
  simp [hsend]

/-- A message without a candidate is dropped and answered NACK gone (R125). -/
theorem sendPacket_of_no_candidate {p : Packet} (hnone : s.candidates p.dstDev = []) :
    (s.sendPacket (.message d) p).hub.noRoute = inc s.hub.noRoute ∧
      (s.sendPacket (.message d) p).events.map EventReq.code = s.events.map EventReq.code ++ [evNoRoute] ∧
      (s.sendPacket (.message d) p).links = s.links ∧
      (s.sendPacket (.message d) p).inflight.map Transit.item = s.inflight.map Transit.item ++ [.answer ⟨d.dst, d.src, d.sendSeq, anGone⟩] := by
  have hsend : s.sendPacket (.message d) p =
      (s.countLink p (s.entryPart (.message d))).noRoute ⟨p, p.data.length, none, some (.message d)⟩ (s.entryPart (.message d)) := by
    rw [State.sendPacket, route_of_no_candidate _ (by simpa using hnone)]
  simp [hsend, State.noRoute, State.answer]
end

/-! ## PACKET_FORWARD (R266, R267, R384) -/

section
variable {s : State} {l : LinkId} {f : Flit} {fs r : List Flit} {p : Packet} {n : Nat}

/-- The packet at the head of a Bypass buffer goes on, its credits freed. -/
theorem packetForward_bypass (hl : l < 24) (hbuf : (s.link l).rxBypass = f :: fs) (hhead : bypassHead false f fs = .whole p r n)
    (haway : s.isMine p = false) (ok : Bool) : execPacketForward l .bypass ok s =
      .next ((s.setLink l ((s.link l).free .bypass r n)).forward ⟨p, p.data.length, none, none⟩ ok).1 := by
  simp [execPacketForward, LinkState.buffer, hbuf, hhead, haway, hl]
theorem packetForward_request (hl : l < 24) (hbuf : (s.link l).rxRequest = f :: fs) (hcut : (s.link l).cutReq = none) (hfirst : f.first = true)
    (haway : s.isMine (packetOf f.payload []) = false) (ok : Bool) :
    execPacketForward l .request ok s = .next (s.forwardFirst l .request f fs ok) := by
  simp [execPacketForward, LinkState.buffer, LinkState.cut, hbuf, hcut, hfirst, haway, hl]
theorem packetForward_response (hl : l < 24) (hbuf : (s.link l).rxResponse = f :: fs) (hcut : (s.link l).cutRsp = none) (hfirst : f.first = true)
    (haway : s.isMine (packetOf f.payload []) = false) (ok : Bool) :
    execPacketForward l .response ok s = .next (s.forwardFirst l .response f fs ok) := by
  simp [execPacketForward, LinkState.buffer, LinkState.cut, hbuf, hcut, hfirst, haway, hl]
end

section
variable {s : State} {p : TxPacket}

/-- A packet at its last hop is dropped and counted. -/
theorem forward_last_hop (ok : Bool) (h : p.packet.hops = 0#8) :
    (s.forward p ok).1.hub.hopDrop = inc s.hub.hopDrop ∧ (s.forward p ok).1.links = s.links := by
  rw [State.forward, if_pos h]
  exact ⟨rfl, rfl⟩
theorem forward_bad_parity (h : p.packet.hops ≠ 0#8) : (s.forward p false).1 = s.count fun c => { c with pathPerr := inc c.pathPerr } := by
  rw [State.forward, if_neg h]
  rfl
theorem forward_routes (h : p.packet.hops ≠ 0#8) :
    s.forward p true = s.route { p with packet := { p.packet with hops := p.packet.hops - 1 } } none := by
  rw [State.forward, if_neg h]
  rfl
end

/-! ## PACKET_DELIVER (R246, R266) -/

section
variable {s : State} {p : Packet}

theorem packetDeliver_delivers {l : LinkId} {vc : Channel} {rest : List Flit} {n : Nat} (hl : l < 24) (hid : s.idValid = true)
    (hdev : p.dstDev = s.deviceId) (hcut : (s.link l).cut vc = none)
    (hhead : headPacket false vc ((s.link l).buffer vc) = .whole p rest n) :
    execPacketDeliver l vc s = .next ((s.setLink l ((s.link l).free vc rest n)).deliverPacket p) := by
  simp [execPacketDeliver, State.isMine, hl, hid, hdev, hcut, hhead]
theorem deliverPacket_message (h : p.kind = 0x01#8) : s.deliverPacket p = s.shipFrom hubUnit (.message (packetDesc p)) := by
  simp only [State.deliverPacket, h]
theorem deliverPacket_segment {q : QAddr} (h : p.kind = 0x04#8) (hring : s.ringOf ⟨p.srcDev, p.flow⟩ = some q) :
    s.deliverPacket p = s.ship (.segment q ⟨p.srcDev, p.flow⟩ p.ext.toNat p.data) := by
  simp only [State.deliverPacket, h, hring]
/-- A kind that Table 10.5 does not use is counted. -/
theorem deliverPacket_unused (h : p.kind.toNat = 0 ∨ 8 ≤ p.kind.toNat) :
    s.deliverPacket p = s.count fun c => { c with kindDrop := inc c.kindDrop } := by
  unfold State.deliverPacket
  split
  case h_8 => rfl
  all_goals next hkind => simp [hkind] at h
end

/-! ## The links' commands (R257, R259, R271) -/

section
variable {s : State} {r : Running} {l : Nat}

theorem linkQuery_answers {m : BitVec 24} (h : s.carries r 0x0404 .all = true) : execLinkQuery m s =
    .next (s.taken.okData r ((maskBits m).flatMap fun l => linkStatusWord (s.link l) :: linkCounterWords (s.link l).counters)) :=
  cmd_of_carries s r _ _ _ h
theorem linkRetrain_hitches (hl : l < 24) (h : s.carries r 0x0405 .package = true) (hmode : (s.link l).mode ≠ .disabled) :
    execLinkRetrain l s = .next ((s.taken.hitch l).ok r) := by
  have htaken : (s.taken.link l).mode ≠ .disabled := hmode
  exact cmd_of_unrefused h rfl (by simp [htaken]; omega)
theorem linkFlush_flushes (hl : l < 24) (h : s.carries r 0x0406 .package = true) (hmode : (s.link l).mode = .held) :
    execLinkFlush l s = .next ((s.taken.flushLink l).ok r) := by
  have htaken : (s.taken.link l).mode = .held := hmode
  exact cmd_of_unrefused h rfl (by simp [htaken]; omega)
end

/-- Settles O38, by clause: the routing unit's choice, the packet at a buffer's head for another package and for this one, and the links' commands.
The words of LINK_QUERY are log 24, the pass flit by flit is log 46. -/
theorem packetsAreRouted : Obligations.PacketsAreRouted := by
  unfold Obligations.PacketsAreRouted
  refine ⟨?_, ?_, ?_, fun s r m => linkQuery_answers, fun s r l hl => ⟨linkRetrain_hitches hl, linkFlush_flushes hl⟩⟩
  · intro s k body t rest d dev hid hat hmsg haway hfirst cs p
    have hexec := packetRoute_sends (body := body) hid hat hmsg haway hfirst
    refine ⟨fun l hport hup => ⟨_, hexec, sendPacket_of_candidate hport hup⟩, fun hnone => ⟨_, hexec, ?_⟩⟩
    rw [hmsg]
    exact sendPacket_of_no_candidate hnone
  · intro s l f fs hl x
    refine ⟨?_, fun hbuf hcut hfirst haway => packetForward_request hl hbuf hcut hfirst haway true,
      fun hbuf hcut hfirst haway => packetForward_response hl hbuf hcut hfirst haway true⟩
    intro p r n hbuf hhead haway u
    have hexec := packetForward_bypass hl hbuf hhead haway
    exact ⟨fun hlast => ⟨_, hexec true, forward_last_hop true hlast⟩,
      fun hhops => (hexec false).trans (congrArg Host.Outcome.next (forward_bad_parity hhops)),
      fun hhops => (hexec true).trans (congrArg (fun w => Host.Outcome.next w.1) (forward_routes hhops))⟩
  · intro s l vc p rest n hl hid hdev hcut hhead u
    have hexec := packetDeliver_delivers hl hid hdev hcut hhead
    exact ⟨fun hkind => hexec.trans (congrArg Host.Outcome.next (deliverPacket_message hkind)),
      fun q hkind hring => hexec.trans (congrArg Host.Outcome.next (deliverPacket_segment hkind hring)),
      fun hkind => hexec.trans (congrArg Host.Outcome.next (deliverPacket_unused hkind))⟩

end Sys2Proof.Laws

namespace Sys2Proof.Laws

/-! SUPPORT for O21. What an arriving descriptor is answered, and what an answer or a timer leaves of the sender's buffer. -/

open Sys2Proof.Machine

/-! ## An arrival (R26) -/

/-- An arrival takes something off those on their way, and changes nothing else. -/
theorem arrive_eq {s u : State} {p : InFlight → Bool} (h : s.arrive p = some u) : ∃ l, u = { s with inflight := l } := by
  obtain rfl | ⟨l, -, rfl⟩ := arrive_some s u p h
  · exact ⟨u.inflight, rfl⟩
  · exact ⟨l, rfl⟩

/-! ## Delivery (R115, R119) -/

section
variable {s : State} {d : Descriptor}

/-- A sound descriptor for a block that takes descriptors is accepted where the room is, one entry for a Response, three for a Request. -/
theorem arrivalCode_of_sound (hcrc : d.crc = descCrc d) (hswap : (s.block (QAddr.blockId d.dst)).swapping = false)
    (hfenced : (s.block (QAddr.blockId d.dst)).fenced = false) (hchecker : s.isChecker (QAddr.blockId d.dst) = false)
    (hopen : s.fifoClosed d.src (QAddr.blockId d.dst) = false) (howner : (s.owner (QAddr.blockId d.dst)).isSome = true)
    (hepoch : QAddr.device d.src ≠ s.deviceId ∨ epochGe d.epoch (s.block (QAddr.blockId d.dst)).pEpoch = true ∧
      epochTrails d.epoch (s.block (QAddr.blockId d.dst)).epoch = false) :
    s.arrivalCode d true = if (if QAddr.cls d.dst then 1 else 3) ≤ ((s.block (QAddr.blockId d.dst)).queue (QAddr.queue d.dst)).room then anAccept
      else anFull := by
  obtain ⟨p, hp⟩ := Option.isSome_iff_exists.mp howner
  have hfresh : (QAddr.device d.src == s.deviceId && (!epochGe d.epoch (s.block (QAddr.blockId d.dst)).pEpoch ||
      epochTrails d.epoch (s.block (QAddr.blockId d.dst)).epoch)) = false := by
    obtain hdev | ⟨hge, htrails⟩ := hepoch
    · simp [hdev]
    · simp [hge, htrails]
  simp [State.arrivalCode, ← hcrc, hswap, hfenced, hchecker, hopen, hp, hfresh]

theorem enqueue_of_unpaired (hpair : s.isChecker (pairOf (QAddr.blockId d.dst)) = false) :
    s.enqueue d = s.enqueueAt (QAddr.blockId d.dst) (QAddr.queue d.dst) d := by
  simp only [State.enqueue, hpair]
  rfl
theorem deliver_accepted {ok : Bool} (hcode : s.arrivalCode d ok = anAccept) (hpair : s.isChecker (pairOf (QAddr.blockId d.dst)) = false) :
    s.deliver d ok = (s.enqueueAt (QAddr.blockId d.dst) (QAddr.queue d.dst) d, anAccept) := by
  simp only [State.deliver, hcode, if_true, enqueue_of_unpaired hpair]
theorem deliver_refused {ok : Bool} {c : BitVec 8} (hcode : s.arrivalCode d ok = c) (hc : c ≠ anAccept) : s.deliver d ok =
    (s.setBlock (QAddr.blockId d.dst) { s.block (QAddr.blockId d.dst) with qNacked := inc (s.block (QAddr.blockId d.dst)).qNacked }, c) := by
  simp only [State.deliver, hcode, if_neg hc]

theorem enqueueAt_block (s : State) (b : BlockId) (q : BitVec 7) (d : Descriptor) : (s.enqueueAt b q d).block b = (s.block b).enqueue q d := by
  simp only [State.enqueueAt, block_withMem, block_setBlock_same]
@[simp] theorem answer_block (s : State) (d : Descriptor) (c : BitVec 8) (b : BlockId) : (s.answer d c).block b = s.block b := rfl

/-- A queue's new entry stands at its tail. -/
theorem enqueue_entries (x : BlockState) (q : BitVec 7) (d : Descriptor) : ((x.enqueue q d).queue q).entries = (x.queue q).entries ++ [d] :=
  congrArg QueueState.entries (queue_setQueue_same x q _)

theorem descriptorArrival_answers {u : State} (hhere : QAddr.device d.dst = s.deviceId) (harrive : s.arrive (fun i => decide (i = .message d)) = some u)
    (ok : Bool) : execDescriptorArrival d ok s = .next ((u.deliver d ok).1.answer d (u.deliver d ok).2) := by
  simp only [execDescriptorArrival, hhere, beq_self_eq_true, whenHere_true, onArrival_some _ _ _ _ harrive]
end

/-! ## The messages that leave a send buffer (R100, R122) -/

/-- What is sent now stays in the buffer. -/
theorem firstReady_desc (seen : List QAddr) (l : List SendEntry) : (firstReady seen l).1.map SendEntry.desc = l.map SendEntry.desc := by
  induction l generalizing seen with
  | nil => rfl
  | cons e l ih =>
    simp only [firstReady, List.map_cons, ← ih (e.desc.dst :: seen)]
    split <;> rfl

@[simp] theorem transmit_block (s : State) (b c : BlockId) (e : SendEntry) : (s.transmit b e).block c = s.block c := by
  unfold State.transmit
  split
  · split <;> rfl
  · rfl
@[simp] theorem transmit_events (s : State) (b : BlockId) (e : SendEntry) : (s.transmit b e).events = s.events := by
  unfold State.transmit
  split
  · split <;> rfl
  · rfl
theorem transmit_of_send (s : State) (b : BlockId) {e : SendEntry} (h : e.isRelay = false) : s.transmit b e = s.ship (.message e.desc) := by
  simp only [State.transmit, h]
  rfl

theorem dispatchSends_block (s : State) (b : BlockId) :
    (s.dispatchSends b).block b = { s.block b with sendBuf := (firstReady [] (s.block b).sendBuf).1 } :=
  (foldl_keeps (fun t : State => t.block b) _ _ _ fun t e => transmit_block t b b e).trans (block_setBlock_same _ _ _)
@[simp] theorem dispatchSends_events (s : State) (b : BlockId) : (s.dispatchSends b).events = s.events :=
  foldl_keeps State.events _ _ _ fun t e => transmit_events t b e

@[simp] theorem wake_qDrop (x : BlockState) : x.wake.qDrop = x.qDrop := by
  unfold BlockState.wake
  split
  · split <;> rfl
  · split <;> rfl
  · rfl
theorem placeQueued_of_empty {s : State} {b : BlockId} (h : (s.block b).queueQ = []) : s.placeQueued b = s := by
  simp only [State.placeQueued, h]
@[simp] theorem placeQueued_qDrop (s : State) (b : BlockId) : ((s.placeQueued b).block b).qDrop = (s.block b).qDrop := by
  simp only [State.placeQueued]
  split
  · rfl
  · split
    · rfl
    · rw [block_setBlock_same, wake_qDrop]
      rfl
@[simp] theorem placeQueued_events (s : State) (b : BlockId) : (s.placeQueued b).events = s.events := by
  simp only [State.placeQueued]
  split
  · rfl
  · split <;> rfl

section
variable (s : State) (m : MsgRef)

@[simp] theorem leave_events : (s.leave m).events = s.events := by simp [State.leave]
theorem leave_qDrop : ((s.leave m).block m.block).qDrop = (s.block m.block).qDrop := by
  rw [State.leave, placeQueued_qDrop, dispatchSends_block, block_setBlock_same]
/-- The message is gone, and where no SEND waits for an entry nothing takes its place. -/
theorem leave_sendBuf (h : (s.block m.block).queueQ = []) :
    ((s.leave m).block m.block).sendBuf.map SendEntry.desc = (delFirst (isMsg m) (s.block m.block).sendBuf).map SendEntry.desc := by
  rw [State.leave, placeQueued_of_empty, dispatchSends_block, block_setBlock_same]
  · exact firstReady_desc _ _
  · rw [dispatchSends_block, block_setBlock_same]
    exact h
end

/-- A Relay that ends at its sender gives back its locks, and stalls on them end. -/
theorem endRelay_block (s : State) (r : RelayTx) (b : BlockId) :
    ∃ locks stall, (s.endRelay r).block b = { s.block b with locks := locks, stall := stall } := by
  by_cases h : b = r.block
  · subst h
    exact ⟨_, _, block_setBlock_same _ _ _⟩
  · exact ⟨(s.block b).locks, (s.block b).stall, block_setBlock_other _ _ _ _ h⟩

/-! ## Answers and timers (R120, R121, R125) -/

section
variable {s u : State} {m : MsgRef} {e : SendEntry}

/-- An answer that arrives acts on the message that it names. -/
theorem onMsg_of_answer {c : BitVec 8} (k : State → SendEntry → State) (hmsg : (s.block m.block).msg m = some e)
    (harrive : s.arrive (isAnswer m c) = some u) : s.onMsg m c k = .next (k u e) := by
  rw [State.onMsg, onArrival_some _ _ _ _ harrive]
  simp only [hmsg]

/-- An accepted message leaves the buffer, its Relay without data ended. -/
theorem answerAccept_leaves (hmsg : (s.block m.block).msg m = some e) (harrive : s.arrive (isAnswer m anAccept) = some u) :
    ∃ v : State, execAnswerAccept m s = .next (v.leave m) ∧ v.mem = s.mem ∧
      ∃ locks stall, v.block m.block = { s.block m.block with locks := locks, stall := stall } := by
  rw [execAnswerAccept, onMsg_of_answer _ hmsg harrive]
  obtain ⟨l, rfl⟩ := arrive_eq harrive
  split
  · next r _ =>
    split
    · exact ⟨_, rfl, endRelay_mem _ r, endRelay_block _ r _⟩
    · exact ⟨_, rfl, rfl, _, _, rfl⟩
  · exact ⟨_, rfl, rfl, _, _, rfl⟩

/-- The loss of a message counted at its block, and raised (R120). -/
def lossRaised (s : State) (m : MsgRef) (e : SendEntry) (reason : BitVec 8) : State :=
  (s.setBlock m.block { s.block m.block with qDrop := inc (s.block m.block).qDrop }).raiseBlock m.block evDescDropped
    (msgDetail e.desc.dst e.desc.src e.desc.sendSeq ||| det 224 reason.toNat)
/-- A message that is no Rider is dropped with one event, its Relay ended. -/
theorem dropMsg_leaves (reason : BitVec 8) (hrider : e.desc.rider = false) :
    ∃ v : State, s.dropMsg m e reason = v.leave m ∧ v.events.map EventReq.code = s.events.map EventReq.code ++ [evDescDropped] ∧
      ∃ locks stall, v.block m.block = { s.block m.block with qDrop := inc (s.block m.block).qDrop, locks := locks, stall := stall } := by
  have hevents : (lossRaised s m e reason).events.map EventReq.code = s.events.map EventReq.code ++ [evDescDropped] := List.map_append
  have hblock : (lossRaised s m e reason).block m.block = { s.block m.block with qDrop := inc (s.block m.block).qDrop } :=
    block_setBlock_same _ _ _
  simp only [State.dropMsg, hrider]
  split
  · next r _ =>
    split
    · obtain ⟨locks, stall, h⟩ := endRelay_block (lossRaised s m e reason) r m.block
      exact ⟨(lossRaised s m e reason).endRelay r, rfl, hevents, locks, stall, by rw [h, hblock]⟩
    · exact ⟨lossRaised s m e reason, rfl, hevents, _, _, hblock⟩
  · exact ⟨lossRaised s m e reason, rfl, hevents, _, _, hblock⟩
theorem dropMsg_block (reason : BitVec 8) (hrider : e.desc.rider = false) :
    ((s.dropMsg m e reason).block m.block).qDrop = inc (s.block m.block).qDrop ∧
      (s.dropMsg m e reason).events.map EventReq.code = s.events.map EventReq.code ++ [evDescDropped] ∧
      ((s.block m.block).queueQ = [] → ((s.dropMsg m e reason).block m.block).sendBuf.map SendEntry.desc =
        (delFirst (isMsg m) (s.block m.block).sendBuf).map SendEntry.desc) := by
  obtain ⟨v, hdrop, hevents, locks, stall, hv⟩ := dropMsg_leaves reason hrider
  rw [hdrop, leave_qDrop, leave_events, hv]
  refine ⟨rfl, hevents, fun hqueue => ?_⟩
  rw [leave_sendBuf v m (by rw [hv]; exact hqueue), hv]

/-- A wait starts, or doubles. -/
theorem backOff_eq (s : State) (m : MsgRef) (busy : Bool) : s.backOff m busy = s.updMsg m fun e => { e with
    waiting := true, busy := busy, backoff := if e.backoff = 0 then 64 else min (2 * e.backoff) 4096 } := rfl
theorem answerNackCrc_resends (hmsg : (s.block m.block).msg m = some e) (harrive : s.arrive (isAnswer m anCrc) = some u) (hfew : e.crcNacks < 2)
    (hsend : e.isRelay = false) : execAnswerNackCrc m s =
      .next ((u.updMsg m fun _ => { e with crcNacks := e.crcNacks + 1 }).ship (.message e.desc)) := by
  rw [execAnswerNackCrc, onMsg_of_answer _ hmsg harrive, if_neg (by omega)]
  simp only [hsend, transmit_of_send]
/-- A Rider that is resent void bears the block's epoch. -/
theorem resendVoid_ships (s : State) (m : MsgRef) (e : SendEntry) : ((s.resendVoid m e).block m.block).qVoided = inc (s.block m.block).qVoided ∧
    (s.resendVoid m e).inflight.map Transit.item =
      s.inflight.map Transit.item ++ [.message (voidRider { e.desc with epoch := (s.block m.block).epoch })] := by
  rw [State.resendVoid, transmit_of_send]
  · exact ⟨congrArg BlockState.qVoided (block_setBlock_same _ _ _), List.map_append⟩
  · rfl
theorem finalNack_of_rider (hrider : e.desc.rider = true) (hfirst : e.voidResend = false) (reason : BitVec 8) :
    s.finalNack m e reason = s.resendVoid m e := by
  simp only [State.finalNack, hrider, hfirst]
  rfl

theorem backoffExpiry_resends (hmsg : (s.block m.block).msg m = some e) (hwaits : e.waiting = true) (hsend : e.isRelay = false) :
    execBackoffExpiry m s = .next ((s.updMsg m fun e => { e with waiting := false }).ship (.message e.desc)) := by
  simp only [execBackoffExpiry, hmsg, hwaits, hsend, when_true, Bool.false_and, transmit_of_send]
  rfl
theorem lossLimitExpiry_drops (hmsg : (s.block m.block).msg m = some e) (hwaits : e.waiting = false)
    (haway : QAddr.device e.desc.dst ≠ s.deviceId) : execLossLimitExpiry m s = .next (s.dropMsg m e anUnanswered) := by
  have hdev : (QAddr.device e.desc.dst != s.deviceId) = true := bne_iff_ne.mpr haway
  simp [execLossLimitExpiry, hmsg, hwaits, hdev]
end

/-- Settles O21: a descriptor is put at its queue's tail or refused; each answer and timer is one change of the sender's buffer. -/
theorem deliveryAndAnswers : Obligations.DeliveryAndAnswers := by
  unfold Obligations.DeliveryAndAnswers
  refine ⟨?_, ?_⟩
  · intro s u d b q x harrive hhere hcrc hswap hfenced hchecker hpair hopen howner hepoch
    have hexec := descriptorArrival_answers hhere harrive true
    obtain ⟨l, rfl⟩ := arrive_eq harrive
    have hcode := arrivalCode_of_sound hcrc hswap hfenced hchecker hopen howner hepoch
    refine ⟨fun hroom => ⟨_, ?_, rfl, enqueue_entries x q d⟩, fun hfull => ?_⟩
    · rw [if_pos hroom] at hcode
      rw [deliver_accepted (s := { s with inflight := l }) hcode hpair] at hexec
      exact hexec
    · rw [if_neg (Nat.not_le.mpr hfull)] at hcode
      rw [deliver_refused (s := { s with inflight := l }) hcode (by decide)] at hexec
      exact hexec
  · intro s u m e hmsg x comes changed
    have hu : ∀ c, comes c → u.block = s.block ∧ u.events = s.events := fun c harrive => by
      obtain ⟨l, rfl⟩ := arrive_eq harrive
      exact ⟨rfl, rfl⟩
    refine ⟨fun harrive hqueue => ?_, fun harrive => ?_, fun harrive => ?_, fun harrive hfew hsend => ?_, fun harrive hrider hfirst => ?_,
      fun harrive hrider hqueue => ?_, fun hwaits hsend => ?_, fun hwaits hrider haway => ?_⟩
    · obtain ⟨v, hexec, hmem, locks, stall, hv⟩ := answerAccept_leaves hmsg harrive
      refine ⟨_, hexec, (leave_mem v m).trans hmem, ?_⟩
      rw [leave_sendBuf v m (by rw [hv]; exact hqueue), hv]
    · have hexec : execAnswerNackFull m s = .next (u.backOff m false) := onMsg_of_answer _ hmsg harrive
      rw [backOff_eq, State.updMsg, (hu _ harrive).1] at hexec
      exact hexec
    · have hexec : execAnswerNackBusy m s = .next (u.backOff m true) := onMsg_of_answer _ hmsg harrive
      rw [backOff_eq, State.updMsg, (hu _ harrive).1] at hexec
      exact hexec
    · have hexec := answerNackCrc_resends hmsg harrive hfew hsend
      rw [State.updMsg, (hu _ harrive).1] at hexec
      exact hexec
    · have hexec : execAnswerNackStale m s = .next (u.resendVoid m e) :=
        (onMsg_of_answer _ hmsg harrive).trans (congrArg Host.Outcome.next (finalNack_of_rider hrider hfirst anStale))
      have hships := resendVoid_ships u m e
      rw [(hu _ harrive).1] at hships
      exact ⟨_, hexec, hships⟩
    · have hexec : execAnswerNackGone m s = .next (u.dropMsg m e anGone) := onMsg_of_answer _ hmsg harrive
      obtain ⟨hdrop, hevents, hbuf⟩ := dropMsg_block (s := u) (m := m) anGone hrider
      rw [(hu _ harrive).1] at hdrop hbuf
      rw [(hu _ harrive).2] at hevents
      exact ⟨_, hexec, hdrop, hevents, hbuf hqueue⟩
    · exact backoffExpiry_resends hmsg hwaits hsend
    · obtain ⟨hdrop, hevents, -⟩ := dropMsg_block (s := s) (m := m) anUnanswered hrider
      exact ⟨_, lossLimitExpiry_drops hmsg hwaits haway, hdrop, hevents⟩

end Sys2Proof.Laws

namespace Sys2Proof.Laws

/-! SUPPORT for O24. What bringing a landing ring up to date leaves, and the events of a Relay at its receiver and at its sender. -/

open Sys2Proof.Machine

/-! ## Lists -/

/-- An element replaced by one of the same value leaves the list of values. -/
theorem map_updFirst {α β : Type} (g : α → β) (p : α → Bool) (f : α → α) (h : ∀ a, p a = true → g (f a) = g a) (l : List α) :
    (updFirst p f l).map g = l.map g := by
  induction l with
  | nil => rfl
  | cons a l ih =>
    rw [updFirst]
    split
    · next ha => rw [List.map_cons, List.map_cons, h a ha]
    · rw [List.map_cons, List.map_cons, ih]

/-! ## The pending Relays of a ring (R132, R133, R137) -/

section
variable (r : Ring)

@[simp] theorem releaseLoop_pending (fuel : Nat) : (releaseLoop fuel r).pending = r.pending := by
  induction fuel generalizing r with
  | zero => rfl
  | succ fuel ih =>
    rw [releaseLoop]
    split
    · split
      · exact ih _
      · exact ih _
      · rfl
    · rfl
@[simp] theorem landedLoop_pending (fuel : Nat) : (landedLoop fuel r).pending = r.pending := by
  induction fuel generalizing r with
  | zero => rfl
  | succ fuel ih =>
    rw [landedLoop]
    split
    · split
      · rfl
      · exact ih _
    · rfl
end

/-- The place of a Relay is fixed, not its name, and no Relay comes or goes. -/
theorem fix_pending {r r' : Ring} {x x' : RelayRx} (h : r.fix x = some (r', x')) : r'.pending = r.pending ∧ x'.id = x.id := by
  unfold Ring.fix at h
  split at h
  · cases h; exact ⟨rfl, rfl⟩
  · dsimp only at h
    split at h
    · cases h; exact ⟨rfl, rfl⟩
    · split at h
      · cases h; exact ⟨rfl, rfl⟩
      · split at h
        · cases h; exact ⟨rfl, rfl⟩
        · cases h
/-- A grant changes a pending Relay, and no Relay comes or goes. -/
theorem grantOne_ids {r r' : Ring} {c : Option RelayId} (h : r.grantOne = some (r', c)) : r'.pending.map RelayRx.id = r.pending.map RelayRx.id := by
  unfold Ring.grantOne at h
  split at h
  · cases h
  · next x _ =>
    split at h
    · cases h
    · next r1 x1 hfix =>
      obtain ⟨hpending, hid⟩ := fix_pending hfix
      have hupd : ∀ y : RelayRx, y.id = x.id →
          (updFirst (fun z => z.id == x.id) (fun _ => y) r1.pending).map RelayRx.id = r.pending.map RelayRx.id := fun y hy => by
        rw [map_updFirst _ _ _ (fun z hz => by rw [hy, beq_iff_eq.mp hz]), hpending]
      dsimp only at h
      split at h
      · split at h
        · cases h
        · cases h; exact hupd _ hid
      · cases h; exact hupd _ hid
theorem grantLoop_ids (fuel : Nat) (r : Ring) (cs : List RelayId) :
    (grantLoop fuel r cs).1.pending.map RelayRx.id = r.pending.map RelayRx.id := by
  induction fuel generalizing r cs with
  | zero => rfl
  | succ fuel ih =>
    rw [grantLoop]
    split
    · rfl
    · next r1 c hgrant => rw [ih, grantOne_ids hgrant]

/-- A ring brought up to date: what may be granted is granted, and the pointers have moved. -/
def settledRing (r : Ring) : Ring :=
  (landedLoop (2 * r.segs)
    (grantLoop (2 * r.segs + r.pending.length + 1) (landedLoop (2 * r.segs) (releaseLoop (2 * r.segs) r)) []).1.bury).prune
/-- No Relay comes to a ring that is brought up to date. -/
theorem settledRing_ids (r : Ring) : ∀ y ∈ (settledRing r).pending, y.id ∈ r.pending.map RelayRx.id := by
  intro y hy
  have hids := grantLoop_ids (2 * r.segs + r.pending.length + 1) (landedLoop (2 * r.segs) (releaseLoop (2 * r.segs) r)) []
  rw [landedLoop_pending, releaseLoop_pending] at hids
  rw [← hids]
  have hbury : y ∈ (landedLoop (2 * r.segs) (grantLoop (2 * r.segs + r.pending.length + 1)
    (landedLoop (2 * r.segs) (releaseLoop (2 * r.segs) r)) []).1.bury).pending := hy
  rw [landedLoop_pending] at hbury
  exact List.mem_map_of_mem (List.mem_of_mem_filter hbury)

/-! ## Rings of the state -/

/-- A list of entries put on its way, each of which no entry changes: they go behind what is on its way, and nothing else changes. -/
theorem shipEach_eq {α : Type} (g : State → α → InFlight) (hg : ∀ t i, g (t.ship i) = g t) (as : List α) (s : State) :
    ∃ l, as.foldl (fun t a => t.ship (g t a)) s = { s with inflight := l } ∧
      l.map Transit.item = s.inflight.map Transit.item ++ as.map (g s) := by
  induction as generalizing s with
  | nil => exact ⟨s.inflight, rfl, by simp⟩
  | cons a as ih =>
    obtain ⟨l, hfold, hitems⟩ := ih (s.ship (g s a))
    exact ⟨l, hfold, by simp [hitems, hg]⟩

theorem ring_setRing_same (s : State) (q : QAddr) (r : Ring) : (s.setRing q r).ring q = some r := tFind_tSet_same _ _ _

/-- A ring brought up to date stands in its place, and credits and a landed update go out; nothing else changes. -/
theorem settleRing_eq (s : State) (q : QAddr) (r : Ring) : ∃ l, s.settleRing q r = { s.setRing q (settledRing r) with inflight := l } := by
  obtain ⟨l, hcredits, -⟩ := shipEach_eq (fun _ (c : RelayId) => .credit c.num c.dev) (fun _ _ => rfl)
    (grantLoop (2 * r.segs + r.pending.length + 1) (landedLoop (2 * r.segs) (releaseLoop (2 * r.segs) r)) []).2 (s.setRing q (settledRing r))
  by_cases hmoved : some (settledRing r).landedPtr = (s.ring q).map (·.landedPtr)
  · exact ⟨l, (if_pos hmoved).trans hcredits⟩
  · exact ⟨_, (if_neg hmoved).trans ((congrArg (fun t => t.ship (.landed q (settledRing r).landedPtr)) hcredits).trans rfl)⟩

section
variable (s : State) (q : QAddr) (r : Ring)

@[simp] theorem settleRing_ring : (s.settleRing q r).ring q = some (settledRing r) := by
  obtain ⟨l, h⟩ := settleRing_eq s q r
  rw [h]
  exact ring_setRing_same s q _
@[simp] theorem settleRing_block (b : BlockId) : (s.settleRing q r).block b = s.block b := by
  obtain ⟨l, h⟩ := settleRing_eq s q r
  rw [h]; rfl
@[simp] theorem settleRing_hub : (s.settleRing q r).hub = s.hub := by
  obtain ⟨l, h⟩ := settleRing_eq s q r
  rw [h]; rfl
@[simp] theorem retire_block (id : RelayId) (b : BlockId) : (s.retire q r id).block b = s.block b := by
  unfold State.retire
  split
  · split
    · exact settleRing_block _ _ _ _
    · exact settleRing_block _ _ _ _
  · exact settleRing_block _ _ _ _
end

/-! ## Relays at the receiver (R132, R133, R137) -/

section
variable {s u : State} {q : QAddr} {r : Ring} {x : RelayRx} {id : RelayId}

/-! ### RELAY_OPEN -/

section
variable {o : RelayOpenMsg} (hhere : QAddr.device o.desc.dst = s.deviceId)
  (harrive : s.arrive (fun i => decide (i = .relayOpen o) || isControl 0x03 o.num o.srcDev i) = some u)
include hhere harrive

theorem relayOpen_without_ring (hring : s.ring o.desc.dst = none) (hrider : o.desc.rider = false) (hcrc : o.desc.crc = descCrc o.desc) :
    execRelayOpen o s = .next ((u.count fun h => { h with relayNoring := inc h.relayNoring }).answer o.desc anGone) := by
  have hu : u.ring o.desc.dst = none := by obtain ⟨l, rfl⟩ := arrive_eq harrive; exact hring
  have hsound : (o.desc.crc != descCrc o.desc) = false := by simp [← hcrc]
  simp only [execRelayOpen, hhere, beq_self_eq_true, whenHere_true, onArrival_some _ _ _ _ harrive, hu, State.relayFails, hsound, hrider,
    Bool.false_eq_true, if_false]
/-- A Relay that its ring's list has no place for is refused; any other joins the list. -/
theorem relayOpen_at_ring (hring : s.ring o.desc.dst = some r) : execRelayOpen o s = .next (if 16 ≤ r.pending.length then u.answer o.desc anBusy
    else u.settleRing o.desc.dst
      { r with pending := r.pending ++ [⟨⟨o.srcDev, o.num⟩, o.desc, relaySegs o.desc, none, 0, 0, 0, false, false⟩] }) := by
  have hu : u.ring o.desc.dst = some r := by obtain ⟨l, rfl⟩ := arrive_eq harrive; exact hring
  simp only [execRelayOpen, hhere, beq_self_eq_true, whenHere_true, onArrival_some _ _ _ _ harrive, hu]
end

/-! ### RELAY_SEGMENT_DATA -/

/-- The ring position and the address at which bytes at an offset of a Relay land (R133). -/
def segPlace (r : Ring) (x : RelayRx) (off : Nat) : Nat := (x.start + off / mib) % r.segs
def segAddr (r : Ring) (x : RelayRx) (off : Nat) : Nat := r.base + segPlace r x off * mib + off % mib

/-- The bytes of a granted segment land at its place; until it is whole they are counted. -/
theorem relaySegmentData_lands {off : BitVec 32} {data : List Byte} {got : Nat} (hring : s.ring q = some r)
    (hx : r.pending.find? (fun y => y.id == id) = some x) (harrive : s.arrive (fun t => decide (t = .segment q id off.toNat data)) = some u)
    (hclean : s.errorsIn [⟨segAddr r x off.toNat, data.length⟩] = [])
    (hseg : tGet .free r.seg (segPlace r x off.toNat) = .granted id (off.toNat / mib) got)
    (hfits : off.toNat + data.length ≤ (off.toNat / mib + 1) * mib) :
    ∃ t, execRelaySegmentData q id off data s = .next t ∧ t.mem = memWrite s.mem (segAddr r x off.toNat) data ∧
      (got + data.length < segBytes x.desc (off.toNat / mib) →
        t.ring q = some (r.setSegs (segPlace r x off.toNat) 1 (.granted id (off.toNat / mib) (got + data.length)))) := by
  have hput : (u.put (segAddr r x off.toNat) data).mem = memWrite s.mem (segAddr r x off.toNat) data := by
    obtain ⟨l, rfl⟩ := arrive_eq harrive
    rw [put_clean ({ s with inflight := l } : State) _ _ hclean]
  unfold segAddr segPlace at *
  simp only [execRelaySegmentData, hring, hx, hseg, true_and, hfits, if_true, onArrival_some _ _ _ _ harrive]
  split
  · exact ⟨_, rfl, hput, fun _ => ring_setRing_same _ _ _⟩
  · next hwhole =>
    refine ⟨_, rfl, ?_, fun hpart => absurd hpart hwhole⟩
    rw [ite_mem, State.ship_mem, ite_self, retire_mem, hput]

/-! ### RELAY_DESCRIPTOR_DELIVERY -/

/-- The rewritten descriptor of a due Relay stands at the tail of a queue that accepts it. -/
theorem relayDescriptorDelivery_enqueues (hring : s.ring q = some r) (hx : r.pending.find? (fun y => y.id == id) = some x)
    (hdue : relayDue x = true) (hcode : s.arrivalCode (relayDesc r x) (x.desc.crc == descCrc x.desc) = anAccept)
    (hpair : s.isChecker (pairOf (QAddr.blockId x.desc.dst)) = false) :
    ∃ t, execRelayDescriptorDelivery q id s = .next t ∧
      t.block (QAddr.blockId x.desc.dst) = (s.block (QAddr.blockId x.desc.dst)).enqueue (QAddr.queue x.desc.dst) (relayDesc r x) := by
  have hdeliver : s.deliver (relayDesc r x) (x.desc.crc == descCrc x.desc) =
      (s.enqueueAt (QAddr.blockId x.desc.dst) (QAddr.queue x.desc.dst) (relayDesc r x), anAccept) := deliver_accepted hcode hpair
  simp only [execRelayDescriptorDelivery, hring, hx, hdue, when_true, hdeliver, if_true]
  refine ⟨_, rfl, ?_⟩
  rw [retire_block, answer_block, enqueueAt_block]

/-! ### LANDED_UPDATE -/

/-- The landed pointer of a ring for which no update is on its way. -/
theorem landedUpdate_sets (hring : s.ring q = some r) (hway : s.inflight = []) (hpair : s.isChecker (pairOf (QAddr.blockId q)) = false) :
    execLandedUpdate q s = .next (s.setBlock (QAddr.blockId q) { s.block (QAddr.blockId q) with
      landed := tSet (s.block (QAddr.blockId q)).landed (QAddr.queue q).toNat r.landedPtr
      stall := if (s.block (QAddr.blockId q)).stall = .landing then .none else (s.block (QAddr.blockId q)).stall }) := by
  simp only [execLandedUpdate, hring, hway, onArrival_some _ _ _ _ (arrive_nil s (isLanded q) hway), hpair]
  rfl

/-! ### RELAY_CANCEL and RELAY_SEGMENT_TIMEOUT -/

/-- A Relay whose data cannot come is answered, or delivered void: one entry on its way. -/
theorem relayFails_eq (s : State) (d : Descriptor) : ∃ l, s.relayFails d = { s with inflight := l } := by
  unfold State.relayFails
  split
  · exact ⟨_, rfl⟩
  · split <;> exact ⟨_, rfl⟩

/-- A Relay whose descriptor has not been delivered is pending no more once it is abandoned. -/
theorem abandon_undelivered (hdelivered : x.delivered = false) : (s.abandon q r x).hub.relayAbandon = inc s.hub.relayAbandon ∧
    ∃ r', (s.abandon q r x).ring q = some r' ∧ ∀ y ∈ r'.pending, y.id ≠ x.id := by
  obtain ⟨l, hfails⟩ := relayFails_eq (s.count fun h => { h with relayAbandon := inc h.relayAbandon }) x.desc
  simp only [State.abandon, hdelivered, Bool.false_eq_true, if_false, settleRing_hub, settleRing_ring]
  refine ⟨by rw [hfails]; rfl, _, rfl, fun y hy => ?_⟩
  obtain ⟨z, hz, hzy⟩ := List.mem_map.mp (settledRing_ids _ y hy)
  rw [← hzy]
  simpa using (List.mem_filter.mp hz).2

/-- The ring of a delivered Relay that is abandoned: what it awaits is marked, and what is still to be allocated to it will be (R137). -/
def abandonedRing (r : Ring) (id : RelayId) : Ring := { r with
  seg := r.seg.map fun e => (e.1, match e.2 with | .granted n _ _ => if n = id then .abandoned n else e.2 | v => v)
  pending := updFirst (fun y => y.id == id) (fun y => { y with dead := true }) r.pending }
theorem abandon_delivered (hdelivered : x.delivered = true) :
    s.abandon q r x = (s.count fun h => { h with relayAbandon := inc h.relayAbandon }).settleRing q (abandonedRing r x.id) := by
  rw [State.abandon, if_pos hdelivered]
  rfl

section
variable (hring : s.ring q = some r) (hx : r.pending.find? (fun y => y.id == id) = some x) (hdead : x.dead = false)
include hx hdead

theorem find_living : r.pending.find? (fun y => y.id == id && !y.dead) = some x := by
  obtain ⟨hid, before, after, hpending, hbefore⟩ := List.find?_eq_some_iff_append.mp hx
  refine List.find?_eq_some_iff_append.mpr ⟨by simp [hid, hdead], before, after, hpending, fun y hy => ?_⟩
  simp only [Bool.not_eq_true', Bool.and_eq_false_imp] at hbefore ⊢
  exact fun h => absurd h (by simp [hbefore y hy])

include hring
theorem relayCancel_abandons (harrive : s.arrive (fun t => decide (t = .cancel id x.desc.dst) || isControl 0x03 id.num id.dev t) = some u) :
    execRelayCancel q id s = .next (u.abandon q r x) := by
  simp only [execRelayCancel, hring, find_living hx hdead, onArrival_some _ _ _ _ harrive]
theorem relaySegmentTimeout_abandons (hmissing : x.landed < x.granted) : execRelaySegmentTimeout q id s = .next (s.abandon q r x) := by
  simp only [execRelaySegmentTimeout, hring, find_living hx hdead, hmissing, decide_true, when_true]
end
end

/-! ## Relays at the sender (R131, R137) -/

section
variable {s u : State} {num : BitVec 32} {r : RelayTx} {hit : BurstErr}

/-- A Relay that is cancelled is listed no more, and its receiver is told. -/
theorem cancelRelay_ends (s : State) (r : RelayTx) : (s.cancelRelay r).hub.relayCancel = inc s.hub.relayCancel ∧
    (s.cancelRelay r).inflight.map Transit.item = s.inflight.map Transit.item ++ [.cancel ⟨s.deviceId, r.num⟩ r.desc.dst] ∧
    ∀ x ∈ (s.cancelRelay r).relays, x.num ≠ r.num := by
  refine ⟨rfl, List.map_append, fun x hx => ?_⟩
  have hkept : x ∈ s.relays.filter fun t => t.num != r.num := hx
  simpa using (List.mem_filter.mp hkept).2

/-- The ranges of the next segment's source, and the state that has read them, the bits of `hit` turned over first (R131; log 139). -/
def sourceRanges (r : RelayTx) : List Range := (segRuns r.desc r.sent).map fun p => ⟨p.2.1, p.2.2⟩
def sourceRead (u : State) (r : RelayTx) (hit : BurstErr) : State × Option Nat := (u.struck (sourceRanges r) hit).readRanges (sourceRanges r)
/-- A segment's runs put on their way. -/
def segmentShipped (s : State) (num : BitVec 32) (r : RelayTx) : State :=
  (segRuns r.desc r.sent).foldl (fun t p => t.ship (.segment r.desc.dst ⟨s.deviceId, num⟩ p.1 (memRead t.mem p.2.1 p.2.2))) s

theorem sourceRead_eq (u : State) (r : RelayTx) (hit : BurstErr) : ∃ b k v,
    (sourceRead u r hit).1 = { u with mem := (u.struck (sourceRanges r) hit).mem, bursts := b, stackCtl := k, events := v } := by
  obtain ⟨m, b, hstruck⟩ := struck_eq u (sourceRanges r) hit
  obtain ⟨k, v, hread⟩ := readRanges_eq (u.struck (sourceRanges r) hit) (sourceRanges r)
  refine ⟨b, k, v, ?_⟩
  rw [sourceRead, hread, hstruck]

@[simp] theorem sourceRead_mem (u : State) (r : RelayTx) (hit : BurstErr) : (sourceRead u r hit).1.mem = (u.struck (sourceRanges r) hit).mem :=
  readRanges_mem _ _
@[simp] theorem sourceRead_inflight (u : State) (r : RelayTx) (hit : BurstErr) : (sourceRead u r hit).1.inflight = u.inflight := by
  obtain ⟨b, k, v, h⟩ := sourceRead_eq u r hit
  rw [h]

section
variable {p : InFlight → Bool} (harrive : s.arrive p = some u)
include harrive

theorem sourceRead_deviceId : (sourceRead u r hit).1.deviceId = s.deviceId := by
  obtain ⟨b, k, v, h⟩ := sourceRead_eq u r hit
  obtain ⟨l, rfl⟩ := arrive_eq harrive
  rw [h]
theorem sourceRead_hub : (sourceRead u r hit).1.hub = s.hub := by
  obtain ⟨b, k, v, h⟩ := sourceRead_eq u r hit
  obtain ⟨l, rfl⟩ := arrive_eq harrive
  rw [h]
theorem sourceRead_relays : (sourceRead u r hit).1.relays = s.relays := by
  obtain ⟨b, k, v, h⟩ := sourceRead_eq u r hit
  obtain ⟨l, rfl⟩ := arrive_eq harrive
  rw [h]
end

/-- A segment's runs put on their way, and the segment counted at its Relay. -/
def segmentSent (s : State) (num : BitVec 32) (r : RelayTx) : State := { segmentShipped s num r with
  relays := updFirst (fun x => x.num == num) (fun _ => { r with sent := r.sent + 1 }) (segmentShipped s num r).relays }
theorem segmentSent_fields (s : State) (num : BitVec 32) (r : RelayTx) : (segmentSent s num r).mem = s.mem ∧
    (segmentSent s num r).inflight.map Transit.item = s.inflight.map Transit.item ++
      (segRuns r.desc r.sent).map (fun p => .segment r.desc.dst ⟨s.deviceId, num⟩ p.1 (memRead s.mem p.2.1 p.2.2)) ∧
    (segmentSent s num r).relays = updFirst (fun x => x.num == num) (fun _ => { r with sent := r.sent + 1 }) s.relays := by
  obtain ⟨l, hfold, hitems⟩ := shipEach_eq
    (fun t (p : Nat × Nat × Nat) => .segment r.desc.dst ⟨s.deviceId, num⟩ p.1 (memRead t.mem p.2.1 p.2.2)) (fun _ _ => rfl)
    (segRuns r.desc r.sent) s
  have hshipped : segmentShipped s num r = { s with inflight := l } := hfold
  rw [segmentSent, hshipped]
  exact ⟨rfl, hitems, rfl⟩

section
variable (hr : s.relays.find? (fun x => x.num == num) = some r)
  (harrive : s.arrive (fun i => decide (i = .credit num s.deviceId) || isControl 0x03 num (QAddr.device r.desc.dst) i) = some u)
  (hallowed : s.relayAllowed r (segRuns r.desc r.sent) = true)
include hr harrive hallowed

theorem landingCredit_cancels (hfails : (sourceRead u r hit).2.isSome = true) :
    execLandingCredit num hit s = .next ((sourceRead u r hit).1.cancelRelay r) := by
  have hu : u.relayAllowed r (segRuns r.desc r.sent) = true := by obtain ⟨l, rfl⟩ := arrive_eq harrive; exact hallowed
  unfold sourceRead sourceRanges at *
  simp only [execLandingCredit, hr, onArrival_some _ _ _ _ harrive, hu, hfails, Bool.not_true, Bool.false_eq_true, if_false, if_true]
theorem landingCredit_sends (hread : (sourceRead u r hit).2 = none) (hmore : r.sent + 1 < relaySegs r.desc) :
    execLandingCredit num hit s = .next (segmentSent (sourceRead u r hit).1 num r) := by
  have hu : u.relayAllowed r (segRuns r.desc r.sent) = true := by obtain ⟨l, rfl⟩ := arrive_eq harrive; exact hallowed
  have hdev : (sourceRead u r hit).1.deviceId = s.deviceId := sourceRead_deviceId harrive
  unfold segmentSent segmentShipped
  rw [hdev]
  unfold sourceRead sourceRanges at *
  simp only [execLandingCredit, hr, onArrival_some _ _ _ _ harrive, hu, hread, Bool.not_true, Bool.false_eq_true, if_false, Option.isSome_none,
    if_neg (Nat.not_le.mpr hmore)]
end
end

/-- Settles O24, by event: a Relay opened, a segment landed, a descriptor delivered, a Relay abandoned, the landed pointer, a landing credit.
The operand `hit` is log 139. -/
theorem relaysLand : Obligations.RelaysLand := by
  unfold Obligations.RelaysLand
  refine ⟨?_, ?_, fun s q r => landedUpdate_sets, ?_⟩
  · intro s u o hhere harrive
    refine ⟨fun hring hrider hcrc => relayOpen_without_ring hhere harrive hring hrider hcrc, fun r hring => ?_⟩
    have hexec := relayOpen_at_ring hhere harrive hring
    refine ⟨fun hfull => ?_, fun hroom => ?_⟩
    · rw [if_pos hfull] at hexec
      exact hexec
    · rw [if_neg (Nat.not_le.mpr hroom)] at hexec
      exact hexec
  · intro s u q r x id hring hx
    have hid : x.id = id := by simpa using List.find?_some hx
    refine ⟨fun off data got => relaySegmentData_lands hring hx,
      fun hdue hcode hpair => relayDescriptorDelivery_enqueues hring hx hdue hcode hpair, ?_⟩
    intro dead ends
    have habandon : ∀ (c : Instr) (v : State), v.hub = s.hub → v.mem = s.mem → exec c s = .next (v.abandon q r x) → ends c v := by
      intro c v hhub hmem hexec
      refine ⟨fun hfirst => ?_, fun hdelivered => ?_⟩
      · obtain ⟨hcount, r', hr', hgone⟩ := abandon_undelivered (s := v) (q := q) (r := r) hfirst
        refine ⟨_, hexec, by rw [hcount, hhub], (abandon_mem v q r x).trans hmem, r', hr', ?_⟩
        rwa [hid] at hgone
      · rw [hexec, abandon_delivered hdelivered, hid]
        rfl
    refine ⟨fun hdead harrive => ?_, fun hdead hmissing => ?_⟩
    · refine habandon _ u ?_ ?_ (relayCancel_abandons hring hx hdead harrive)
      · obtain ⟨l, rfl⟩ := arrive_eq harrive; rfl
      · obtain ⟨l, rfl⟩ := arrive_eq harrive; rfl
    · exact habandon _ s rfl rfl (relaySegmentTimeout_abandons hring hx hdead hmissing)
  · intro s u num r hit hr harrive runs w read hallowed
    have hnum : r.num = num := by simpa using List.find?_some hr
    have hw : w = u.struck (sourceRanges r) hit := rfl
    have hread : read = sourceRead u r hit := rfl
    have hdev : (sourceRead u r hit).1.deviceId = s.deviceId := sourceRead_deviceId harrive
    rw [hread, hw]
    refine ⟨fun hclean hmore => ⟨_, landingCredit_sends hr harrive hallowed hclean hmore, ?_⟩,
      fun hfails => ⟨_, landingCredit_cancels hr harrive hallowed hfails, ?_⟩⟩
    · obtain ⟨hmem, hitems, hrelays⟩ := segmentSent_fields (sourceRead u r hit).1 num r
      rw [sourceRead_mem] at hmem hitems
      rw [sourceRead_inflight, hdev] at hitems
      rw [sourceRead_relays harrive] at hrelays
      exact ⟨hmem, hitems, hrelays⟩
    · obtain ⟨hcount, hitems, hgone⟩ := cancelRelay_ends (sourceRead u r hit).1 r
      rw [sourceRead_hub harrive] at hcount
      rw [sourceRead_inflight, hdev, hnum] at hitems
      rw [hnum] at hgone
      exact ⟨hcount, hitems, hgone⟩

end Sys2Proof.Laws

namespace Sys2Proof.Laws

/-! SUPPORT for O59. The zero-run coder (R161): a plane's mask names its nonzero bytes, so a plane,
a group and a whole difference are decoded as they were coded. -/

open Sys2Proof.Machine

/-! ## A plane and its mask -/

theorem enum_concat {α : Type} (l : List α) (a : α) : enum (l ++ [a]) = enum l ++ [(l.length, a)] := by
  simp [enum, List.range_succ, List.zip_append]

/-- The mask of one more word: bit n for its nonzero byte. -/
theorem planeMask_concat (ps : List Byte) (b : Byte) : planeMask (ps ++ [b]) = if b = 0#8 then planeMask ps else planeMask ps + 2 ^ ps.length := by
  simp only [planeMask, enum_concat, List.foldl_append, List.foldl_cons, List.foldl_nil]

theorem planeMask_lt (ps : List Byte) : planeMask ps < 2 ^ ps.length := by
  induction ps using List.reverseRecOn with
  | nil => decide
  | append_singleton ps b ih =>
    rw [planeMask_concat, List.length_append, List.length_singleton, pow_succ]
    split <;> omega

/-- Bit i of a plane's mask is set where the byte of word i is not zero (R161). -/
theorem planeMask_testBit (ps : List Byte) (i : Nat) (h : i < ps.length) : (planeMask ps).testBit i = decide (ps[i] ≠ 0#8) := by
  induction ps using List.reverseRecOn with
  | nil => simp at h
  | append_singleton ps b ih =>
    have hbelow : (planeMask ps).testBit ps.length = false := Nat.testBit_lt_two_pow (planeMask_lt ps)
    rw [planeMask_concat]
    by_cases hi : i < ps.length
    · rw [List.getElem_append_left hi, ← ih hi]
      split
      · rfl
      · rw [Nat.add_comm, Nat.testBit_two_pow_add_gt hi]
    · obtain rfl : i = ps.length := by simp at h; omega
      rw [List.getElem_concat_length rfl]
      split
      · next hb => simp [hbelow, hb]
      · next hb => rw [Nat.add_comm, Nat.testBit_two_pow_add_eq, hbelow]; simp [hb]

/-- A plane's nonzero bytes, taken by a mask that names them, give the plane back. -/
theorem takePlane_of_mask {mask : Nat} (ps r : List Byte) (i : Nat) (h : ∀ j (hj : j < ps.length), mask.testBit (i + j) = decide (ps[j] ≠ 0#8)) :
    takePlane mask ps.length i (ps.filter (· ≠ 0#8) ++ r) = some (ps, r) := by
  induction ps generalizing i with
  | nil => rfl
  | cons b ps ih =>
    have hhead := h 0 (by simp)
    have hrest := ih (i + 1) fun j hj => by
      rw [Nat.add_assoc, Nat.add_comm 1 j, h (j + 1) (by simpa using hj)]
      rfl
    rw [Nat.testBit_eq_decide_div_mod_eq, decide_eq_decide, Nat.add_zero, List.getElem_cons_zero] at hhead
    simp only [ne_eq, decide_not] at hrest
    by_cases hb : b = 0#8
    · simp [takePlane, hhead, hb, hrest]
    · simp [takePlane, hhead, hb, hrest]

/-- Planes of 16 words are taken in turn by their masks. -/
theorem takePlanes_of_masks (pss : List (List Byte)) (r : List Byte) (h : ∀ ps ∈ pss, ps.length = 16) :
    takePlanes (pss.map planeMask) (pss.flatMap (fun p => p.filter (· ≠ 0#8)) ++ r) = some (pss, r) := by
  induction pss with
  | nil => rfl
  | cons ps pss ih =>
    have hlen := h ps List.mem_cons_self
    have htake := takePlane_of_mask ps (pss.flatMap (fun p => p.filter (· ≠ 0#8)) ++ r) 0 fun j hj => by rw [Nat.zero_add, planeMask_testBit ps j hj]
    rw [hlen] at htake
    simp only [List.map_cons, List.flatMap_cons, List.append_assoc, takePlanes, htake,
      ih fun q hq => h q (List.mem_cons_of_mem _ hq), Option.map_some]

/-! ## A group -/

/-- The four planes of a group. -/
def planesOf (g : List Byte) : List (List Byte) := (List.range 4).map (plane g)
theorem planesOf_length (g : List Byte) : ∀ ps ∈ planesOf g, ps.length = 16 := by simp [planesOf, plane]
theorem codeGroup_eq (g : List Byte) : codeGroup g =
    ((planesOf g).map planeMask).flatMap (leBytes 2) ++ (planesOf g).flatMap fun p => p.filter (· ≠ 0#8) := by
  simp only [codeGroup, planesOf, List.flatMap_map]

theorem length_flatMap_leBytes (ms : List Nat) : (ms.flatMap (leBytes 2)).length = 2 * ms.length := by
  simp [List.length_flatMap, Nat.mul_comm]

/-- The masks in front of a group's bytes are read back. -/
theorem masks_read (ms : List Nat) (t : List Byte) (h : ∀ m ∈ ms, m < 2 ^ 16) :
    (List.range ms.length).map (fun p => leNat (((ms.flatMap (leBytes 2) ++ t).drop (2 * p)).take 2)) = ms := by
  induction ms with
  | nil => rfl
  | cons m ms ih =>
    have hhead : leNat (leBytes 2 m) = m := (leNat_leBytes 2 m).trans (Nat.mod_eq_of_lt (h m List.mem_cons_self))
    have hdrop (p : Nat) (l : List Byte) : (leBytes 2 m ++ l).drop (2 * (p + 1)) = l.drop (2 * p) := by
      rw [Nat.mul_succ, Nat.add_comm, ← List.drop_drop, List.drop_left' (leBytes_length 2 m)]
    rw [List.length_cons, List.range_succ_eq_map, List.map_cons, List.map_map, List.flatMap_cons, List.append_assoc,
      List.drop_zero, List.take_left' (leBytes_length 2 m), hhead]
    simp only [Function.comp_def, Nat.succ_eq_add_one, hdrop, ih fun n hn => h n (List.mem_cons_of_mem _ hn)]

/-- Words of four bytes in a row are the bytes in a row. -/
theorem range_flatMap_four {α : Type} (f : Nat → α) (n : Nat) :
    ((List.range n).flatMap fun i => (List.range 4).map fun p => f (4 * i + p)) = (List.range (4 * n)).map f := by
  induction n with
  | zero => rfl
  | succ n ih =>
    rw [List.range_succ (n := n), List.flatMap_append, ih, Nat.mul_succ, List.range_add, List.map_append, List.map_map, List.flatMap_singleton]
    rfl

/-- The bytes of a group from its planes, word by word. -/
theorem planesOf_transposed (g : List Byte) (h : g.length = 64) : ((List.range 16).flatMap fun i => (planesOf g).map fun p => p.getD i 0) = g := by
  have hword : ∀ i ∈ List.range 16, ((planesOf g).map fun p => p.getD i 0) = (List.range 4).map fun p => g.getD (4 * i + p) 0 := by
    intro i hi
    have hi := List.mem_range.mp hi
    simp [planesOf, plane, hi]
  rw [List.flatMap_congr hword, range_flatMap_four fun j => g.getD j 0]
  exact List.ext_getElem (by simp [h]) fun j _ hj => by simp [List.getElem?_eq_getElem hj]

/-- A coded group is decoded, and the stream goes on after it. -/
theorem decodeGroup_codeGroup (g r : List Byte) (h : g.length = 64) : decodeGroup (codeGroup g ++ r) = some (g, r) := by
  have hmask : ∀ m ∈ (planesOf g).map planeMask, m < 2 ^ 16 := by
    intro m hm
    obtain ⟨ps, hps, rfl⟩ := List.mem_map.mp hm
    rw [← planesOf_length g ps hps]
    exact planeMask_lt ps
  have hhead : (((planesOf g).map planeMask).flatMap (leBytes 2)).length = 8 := length_flatMap_leBytes _
  have hmasks := masks_read ((planesOf g).map planeMask) ((planesOf g).flatMap (fun p => p.filter (· ≠ 0#8)) ++ r) hmask
  rw [show ((planesOf g).map planeMask).length = 4 from rfl] at hmasks
  rw [codeGroup_eq, List.append_assoc, decodeGroup, if_neg (by rw [List.length_append, hhead]; omega), hmasks, List.drop_left' hhead]
  simp only [takePlanes_of_masks _ _ (planesOf_length g), Option.map_some, planesOf_transposed g h]

/-- A coded group has its four masks and at most its 64 bytes (R161). -/
theorem codeGroup_length (g : List Byte) : 8 ≤ (codeGroup g).length ∧ (codeGroup g).length ≤ 72 := by
  have hhead : (((planesOf g).map planeMask).flatMap (leBytes 2)).length = 8 := length_flatMap_leBytes _
  have hplane : ∀ n ∈ (planesOf g).map fun p => (p.filter (· ≠ 0#8)).length, n ≤ 16 := by
    intro n hn
    obtain ⟨ps, hps, rfl⟩ := List.mem_map.mp hn
    exact (List.length_filter_le _ ps).trans (planesOf_length g ps hps).le
  have hbytes := List.sum_le_card_nsmul _ 16 hplane
  rw [codeGroup_eq, List.length_append, hhead, List.length_flatMap]
  simp only [List.length_map, smul_eq_mul, show (planesOf g).length = 4 from rfl] at hbytes
  omega

/-! ## A difference -/

/-- Whole groups in a row are decoded, within the bounds of each. -/
theorem decodeDiff_groups (gs : List (List Byte)) (h : ∀ g ∈ gs, g.length = 64) : decodeDiff gs.length (gs.flatMap codeGroup) = some gs.flatten ∧
    8 * gs.length ≤ (gs.flatMap codeGroup).length ∧ (gs.flatMap codeGroup).length ≤ 72 * gs.length := by
  induction gs with
  | nil => exact ⟨rfl, by simp⟩
  | cons g gs ih =>
    obtain ⟨hdecode, hlow, hhigh⟩ := ih fun x hx => h x (List.mem_cons_of_mem _ hx)
    obtain ⟨hfirst, hlast⟩ := codeGroup_length g
    rw [List.flatMap_cons, List.length_cons, List.length_append]
    refine ⟨?_, by omega, by omega⟩
    simp only [decodeDiff, decodeGroup_codeGroup g _ (h g List.mem_cons_self), hdecode, Option.map_some,
      List.flatten_cons]

/-- A string of n groups is cut into them. -/
theorem chunksAux_groups (n fuel : Nat) (d : List Byte) (h : d.length = 64 * n) (hfuel : n ≤ fuel) : (chunksAux 64 fuel d).length = n ∧
    (chunksAux 64 fuel d).flatten = d ∧ ∀ g ∈ chunksAux 64 fuel d, g.length = 64 := by
  induction n generalizing fuel d with
  | zero =>
    obtain rfl : d = [] := List.length_eq_zero_iff.mp h
    cases fuel <;> simp [chunksAux]
  | succ n ih =>
    obtain ⟨f, rfl⟩ : ∃ f, fuel = f + 1 := ⟨fuel - 1, by omega⟩
    obtain ⟨b, d', rfl⟩ : ∃ b d', d = b :: d' := List.exists_cons_of_length_pos (by omega)
    obtain ⟨hlen, hflat, hgroups⟩ := ih f ((b :: d').drop 64) (by rw [List.length_drop]; omega) (by omega)
    rw [chunksAux, List.length_cons, List.flatten_cons, hlen, hflat, List.take_append_drop, List.forall_mem_cons, List.length_take]
    · exact ⟨rfl, rfl, by omega, hgroups⟩
    · simp

/-- Settles O59: the string is cut into its groups, and whole groups decode as they were coded. -/
theorem differencesDecode : Obligations.DifferencesDecode := by
  unfold Obligations.DifferencesDecode
  intro n d h
  obtain ⟨hlen, hflat, hgroups⟩ := chunksAux_groups n d.length d h (by omega)
  have hdiff := decodeDiff_groups (chunksAux 64 d.length d) hgroups
  rwa [hlen, hflat] at hdiff

end Sys2Proof.Laws

namespace Sys2Proof.Laws

/-! SUPPORT for O26 and O27. Version-table entries: eight slots whatever is done to one, and an entry written back with its gen one higher (R155). -/

open Sys2Proof.Machine

@[simp] theorem setNth_length {α : Type} (l : List α) (i : Nat) (v : α) : (setNth l i v).length = l.length := by
  induction l generalizing i with
  | nil => rfl
  | cons x r ih => cases i <;> simp [setNth, ih]
@[simp] theorem setSlot_slots_length (v : VEntry) (i : Nat) (f : VSlot → VSlot) : (v.setSlot i f).slots.length = v.slots.length := setNth_length _ _ _
@[simp] theorem ventryAt_slots_length (m : Memory) (a : Nat) : (ventryAt m a).slots.length = 8 := by simp [ventryAt]

/-- An entry in memory with its gen one higher. -/
def entryWritten (s : State) (a : Nat) (v : VEntry) : State := { s with mem := memWrite s.mem a (ventryEnc { v with gen := v.gen + 1 }) }
theorem putEntry_clean {s : State} {a : Nat} {v : VEntry} (hlen : v.slots.length = 8) (h : s.errorsIn [⟨a, ventryBytes⟩] = []) :
    s.putEntry a v = entryWritten s a v :=
  put_clean s a _ (by rw [ventryEnc_length (by exact hlen)]; exact h)

end Sys2Proof.Laws

namespace Sys2Proof.Laws

/-! SUPPORT for O26. A notice applied in a stage of one shard (R147, R148), and Riders put at the tails of the lanes' queues (R152). -/

open Sys2Proof.Machine

/-! ## Notices (R148) -/

theorem countRef_slots_length {v w : VEntry} {version : BitVec 32} {hold : Bool} (h : v.countRef version hold = some w) :
    w.slots.length = v.slots.length := by
  unfold VEntry.countRef at h
  split at h
  · cases h
  · split at h
    · cases h
    · rw [← Option.some.inj h, setSlot_slots_length]

section
variable {s : State} {p : PartId} {n : Notice} {v : VEntry}

/-- The slot of the notice's version is counted in an entry that the engine reads. -/
theorem noticeEntry_counts {a : Nat} (hmay : s.engineMay p a ventryBytes = true) (haligned : a % 256 = 0)
    (hclean : s.errorsIn [⟨a, ventryBytes⟩] = []) (hcount : (ventryAt s.mem a).countRef n.version n.hold = some v) :
    s.noticeEntry p n a = (entryWritten s a v, false) := by
  have hlen : v.slots.length = 8 := (countRef_slots_length hcount).trans (ventryAt_slots_length _ _)
  simp only [State.noticeEntry, hmay, haligned, readEntry_clean s p a hclean, hcount, putEntry_clean hlen hclean]
  rfl
/-- A notice's shard: its word of the shard list, then the entry that the word names. -/
theorem noticeShard_counts {word : Nat} (hmay : s.engineMay p word 8 = true) (hclean : s.errorsIn [⟨word, 8⟩] = [])
    (hmayEntry : s.engineMay p (memNat s.mem word 6) ventryBytes = true) (haligned : memNat s.mem word 6 % 256 = 0)
    (hcleanEntry : s.errorsIn [⟨memNat s.mem word 6, ventryBytes⟩] = [])
    (hcount : (ventryAt s.mem (memNat s.mem word 6)).countRef n.version n.hold = some v) :
    s.noticeShard p n word = (entryWritten s (memNat s.mem word 6) v, false) := by
  simp only [State.noticeShard, hmay, engineRead_clean s p word 8 hclean, Bool.not_true, Bool.false_eq_true, if_false, if_true]
  exact noticeEntry_counts hmayEntry haligned hcleanEntry hcount

/-- The stage entry whose inflight a notice has moved (R147). -/
def inflightMoved (e : StageEntry) (n : Notice) : StageEntry :=
  if n.hold then { e with inflight := e.inflight + 1 } else { e with inflight := e.inflight - 1 }

/-- A notice of a stage of one shard moves inflight, and what becomes of the shard is its effect. -/
theorem applyNotice_of_one_shard {t : State} (hvalid : (s.stage n.entry).valid = true) (hepoch : epochGe n.epoch (s.stage n.entry).keptEpoch = true)
    (hone : (s.stage n.entry).shardCount.toNat = 1) (hheld : n.hold = false → (s.stage n.entry).inflight ≠ 0)
    (hshard : (s.setStage n.entry (inflightMoved (s.stage n.entry) n)).noticeShard (s.stage n.entry).partition n (s.stage n.entry).shardList.toNat =
      (t, false)) : s.applyNotice n false = t := by
  unfold State.applyNotice
  extract_lets e under moved shards
  have hunder : under = false := by
    cases hhold : n.hold with
    | true => simp [under, hhold]
    | false => simpa [under, hhold] using hheld hhold
  have hmoved : moved = inflightMoved e n := by simp only [moved, inflightMoved, hunder, Bool.false_eq_true, if_false]
  have hshards : shards = (t, false) := by
    simp only [shards, e, hone, hmoved, hunder, List.range_one, List.foldl_cons, List.foldl_nil, Nat.mul_zero, Nat.add_zero, hshard, Bool.or_self]
  rw [if_neg (by simp [e, hvalid, hepoch]), if_neg Bool.false_ne_true, hshards]
  rfl

theorem setStage_engineMay (s : State) (k : StageId) (x : StageEntry) (q : PartId) (a len : Nat) :
    (s.setStage k x).engineMay q a len = s.engineMay q a len := rfl
theorem setStage_errorsIn (s : State) (k : StageId) (x : StageEntry) (rs : List Range) : (s.setStage k x).errorsIn rs = s.errorsIn rs := rfl

/-- A notice of a stage of one shard, whose word and entry the engine reads, moves inflight and counts in the entry. -/
theorem applyNotice_counts {e : StageEntry} {word a : Nat} (he : s.stage n.entry = e) (hword : e.shardList.toNat = word)
    (ha : memNat s.mem word 6 = a) (hvalid : e.valid = true) (hepoch : epochGe n.epoch e.keptEpoch = true) (hone : e.shardCount.toNat = 1)
    (hheld : n.hold = false → e.inflight ≠ 0) (hmay : s.engineMay e.partition word 8 = true) (hclean : s.errorsIn [⟨word, 8⟩] = [])
    (hmayEntry : s.engineMay e.partition a ventryBytes = true) (haligned : a % 256 = 0) (hcleanEntry : s.errorsIn [⟨a, ventryBytes⟩] = [])
    (hcount : (ventryAt s.mem a).countRef n.version n.hold = some v) :
    s.applyNotice n false = entryWritten (s.setStage n.entry (inflightMoved e n)) a v := by
  have hshard := noticeShard_counts (s := s.setStage n.entry (inflightMoved e n)) (p := e.partition) (n := n) (v := v) (word := word)
  simp only [setStage_engineMay, setStage_errorsIn, State.setStage_mem, ha] at hshard
  rw [← he] at hvalid hepoch hone hheld
  refine applyNotice_of_one_shard hvalid hepoch hone hheld ?_
  rw [he, hword]
  exact hshard hmay hclean hmayEntry haligned hcleanEntry hcount
end

/-! ## Riders to the lanes (R152) -/

/-- Every block number once. -/
theorem allBlocks_map_idx : allBlocks.map BlockId.idx = List.range 256 := by
  have hidx : ∀ i ∈ List.range 256, BlockId.idx ⟨BitVec.ofNat 2 (i / 64), BitVec.ofNat 6 i⟩ = i := by
    intro i hi
    have hi := List.mem_range.mp hi
    simp only [BlockId.idx, BitVec.toNat_ofNat]
    omega
  rw [allBlocks, List.map_map]
  exact (List.map_congr_left hidx).trans (List.map_id _)
theorem lanesOf_nodup (s : State) (e : StageEntry) : (s.lanesOf e).Nodup :=
  (List.Nodup.of_map BlockId.idx (allBlocks_map_idx ▸ List.nodup_range)).filter _

section
variable (dev : BitVec 16) (b : BlockId) (q : BitVec 7) (cls : Bool)
@[simp] theorem blockId_mk : QAddr.blockId (QAddr.mk dev b q cls) = b := by
  have hregion : QAddr.region (QAddr.mk dev b q cls) = b.region := by
    rw [QAddr.region, QAddr.mk, BitVec.extractLsb'_append_eq_of_le (by omega), BitVec.extractLsb'_append_eq_of_le (by omega),
      BitVec.extractLsb'_append_eq_of_le (by omega)]
    exact BitVec.extractLsb'_append_eq_right
  have hblock : QAddr.block (QAddr.mk dev b q cls) = b.block := by
    rw [QAddr.block, QAddr.mk, BitVec.extractLsb'_append_eq_of_le (by omega), BitVec.extractLsb'_append_eq_of_le (by omega)]
    exact BitVec.extractLsb'_append_eq_right
  rw [QAddr.blockId, hregion, hblock]
@[simp] theorem queue_mk : QAddr.queue (QAddr.mk dev b q cls) = q := by
  rw [QAddr.queue, QAddr.mk, BitVec.extractLsb'_append_eq_of_le (by omega)]
  exact BitVec.extractLsb'_append_eq_right
end

section
variable (s : State) (b c : BlockId) (q : BitVec 7) (d : Descriptor)
theorem enqueueAt_block_other (h : c ≠ b) : (s.enqueueAt b q d).block c = s.block c := by
  simp only [State.enqueueAt, block_withMem, block_setBlock_other _ _ _ _ h]
/-- A descriptor put at the tail of a queue changes blocks and memory alone. -/
theorem enqueueAt_eq : ∃ m x, s.enqueueAt b q d = { s with mem := m, blocks := x } := ⟨_, _, rfl⟩
@[simp] theorem enqueueAt_isChecker : (s.enqueueAt b q d).isChecker c = s.isChecker c := by
  have hgroup : ((s.enqueueAt b q d).block c).group = (s.block c).group := by
    by_cases h : c = b
    · rw [h, enqueueAt_block]
      rfl
    · rw [enqueueAt_block_other _ _ _ _ _ h]
  obtain ⟨m, x, h⟩ := enqueueAt_eq s b q d
  rw [h] at hgroup ⊢
  simp only [State.isChecker, blockMode_eq, hgroup]
  rfl
theorem enqueue_eq : ∃ m x, s.enqueue d = { s with mem := m, blocks := x } := by
  obtain ⟨m, x, h⟩ := enqueueAt_eq s (QAddr.blockId d.dst) (QAddr.queue d.dst) d
  simp only [State.enqueue]
  split
  · obtain ⟨m', x', h'⟩ := enqueueAt_eq (s.enqueueAt (QAddr.blockId d.dst) (QAddr.queue d.dst) d) (pairOf (QAddr.blockId d.dst)) (QAddr.queue d.dst) d
    exact ⟨m', x', by rw [h', h]⟩
  · exact ⟨m, x, h⟩
end

/-- Descriptors for different blocks, none with a checker, each stand at the tail of their queue; the other blocks are as they were. -/
theorem enqueueEach_block {α : Type} (f : α → Descriptor) (l : List α) (s : State)
    (hpair : ∀ a ∈ l, s.isChecker (pairOf (QAddr.blockId (f a).dst)) = false) (hapart : (l.map fun a => QAddr.blockId (f a).dst).Nodup) :
    (∀ c, (∀ a ∈ l, c ≠ QAddr.blockId (f a).dst) → (l.foldl (fun t a => t.enqueue (f a)) s).block c = s.block c) ∧
    ∀ a ∈ l, (l.foldl (fun t a => t.enqueue (f a)) s).block (QAddr.blockId (f a).dst) =
      (s.block (QAddr.blockId (f a).dst)).enqueue (QAddr.queue (f a).dst) (f a) := by
  induction l generalizing s with
  | nil => simp
  | cons a l ih =>
    obtain ⟨hhead, hrest⟩ := List.forall_mem_cons.mp hpair
    obtain ⟨hnew, hapart⟩ := List.nodup_cons.mp hapart
    have hnew : ∀ a' ∈ l, QAddr.blockId (f a).dst ≠ QAddr.blockId (f a').dst := fun a' ha' h => hnew (List.mem_map.mpr ⟨a', ha', h.symm⟩)
    obtain ⟨hothers, hnamed⟩ := ih (s.enqueueAt (QAddr.blockId (f a).dst) (QAddr.queue (f a).dst) (f a)) (by simpa using hrest) hapart
    rw [List.foldl_cons, enqueue_of_unpaired hhead]
    refine ⟨fun c hc => ?_, List.forall_mem_cons.mpr ⟨?_, fun a' ha' => ?_⟩⟩
    · obtain ⟨hca, hcl⟩ := List.forall_mem_cons.mp hc
      rw [hothers c hcl, enqueueAt_block_other _ _ _ _ _ hca]
    · rw [hothers _ hnew, enqueueAt_block]
    · rw [hnamed a' ha', enqueueAt_block_other _ _ _ _ _ (hnew a' ha').symm]

/-- The Riders of an admission in their queues (R152). -/
def ridersPosted (s : State) (x : StageEntry) : State :=
  (enum (s.lanesOf x)).foldl (fun t b => t.enqueue (admitRider s x ((s.lanesOf x).headD ⟨0, 0⟩) b.2 b.1)) s
theorem postAdmission_eq (s : State) (e : StageId) : s.postAdmission e = ((ridersPosted s (s.stage e)).setStage e (s.stage e).advance).count fun h =>
    { h with admitPosted := inc h.admitPosted } := rfl

theorem ridersPosted_hub (s : State) (x : StageEntry) : (ridersPosted s x).hub = s.hub :=
  foldl_keeps State.hub _ _ _ fun t b => by
    obtain ⟨m, y, h⟩ := enqueue_eq t (admitRider s x ((s.lanesOf x).headD ⟨0, 0⟩) b.2 b.1)
    rw [h]

/-- Where no lane has a checker, each lane's queue ends with its Rider. -/
theorem ridersPosted_entries {s : State} {x : StageEntry} (hpair : ∀ b ∈ s.lanesOf x, s.isChecker (pairOf b) = false) {i : Nat} {b : BlockId}
    (hlane : (s.lanesOf x)[i]? = some b) : (((ridersPosted s x).block b).queue x.fwdQ).entries =
      ((s.block b).queue x.fwdQ).entries ++ [admitRider s x ((s.lanesOf x).headD ⟨0, 0⟩) b i] := by
  have hlanes : (enum (s.lanesOf x)).map Prod.snd = s.lanesOf x := List.map_snd_zip (by simp)
  have hmem : (i, b) ∈ enum (s.lanesOf x) := by
    refine List.mem_of_getElem? (i := i) (List.getElem?_zip_eq_some.mpr ⟨List.getElem?_range ?_, hlane⟩)
    exact (List.getElem?_eq_some_iff.mp hlane).1
  have hdst (p : Nat × BlockId) : (admitRider s x ((s.lanesOf x).headD ⟨0, 0⟩) p.2 p.1).dst = QAddr.mk s.deviceId p.2 x.fwdQ false := rfl
  obtain ⟨-, hnamed⟩ := enqueueEach_block (fun p : Nat × BlockId => admitRider s x ((s.lanesOf x).headD ⟨0, 0⟩) p.2 p.1) (enum (s.lanesOf x)) s
    (fun p hp => by
      rw [hdst, blockId_mk]
      exact hpair p.2 (hlanes ▸ List.mem_map_of_mem hp))
    (by simpa only [hdst, blockId_mk, hlanes] using lanesOf_nodup s x)
  have hblock := hnamed (i, b) hmem
  rw [hdst, blockId_mk, queue_mk] at hblock
  rw [ridersPosted, hblock]
  exact enqueue_entries _ _ _

/-! ## ADMISSION_POST (R152) -/

section
variable {s : State} {e : StageId} (hon : s.admitOn (s.stage e) = true) (hroom : s.lanesRoom (s.stage e) = true)
include hon hroom
theorem admissionPost_posts (hstale : (s.stage e).staleOk = true) : execAdmissionPost e false s = .next (s.postAdmission e) := by
  simp only [execAdmissionPost, hon, hroom, hstale, Bool.and_self, when_true, Bool.not_true, Bool.false_eq_true, if_false]
theorem admissionPost_waits (hstale : (s.stage e).staleOk = false) : execAdmissionPost e false s = .next s.staleWait := by
  simp only [execAdmissionPost, hon, hroom, hstale, Bool.and_self, when_true, Bool.not_false, if_true]
end

/-- The version engine may reach the same bytes whatever has turned over in memory. -/
theorem struck_engineMay (s : State) (rs : List Range) (hit : BurstErr) (p : PartId) (a n : Nat) :
    (s.struck rs hit).engineMay p a n = s.engineMay p a n := by
  obtain ⟨m, e, h⟩ := struck_eq s rs hit
  rw [h]
  rfl
theorem struck_stage (s : State) (rs : List Range) (hit : BurstErr) (e : StageId) : (s.struck rs hit).stage e = s.stage e := by
  obtain ⟨m, b, h⟩ := struck_eq s rs hit
  rw [h]
  rfl

/-- Settles O26, by event: a notice counted in the one shard of its stage, Riders posted or the wait counted. The operand `hit` is log 139. -/
theorem noticesAndAdmission : Obligations.NoticesAndAdmission := by
  unfold Obligations.NoticesAndAdmission
  refine ⟨?_, ?_⟩
  · intro s n rest v hit e word u a hnotices hvalid hepoch hone hmay hclean hmayEntry haligned hcleanEntry hcount entry
    have hstage : u.stage n.entry = e := struck_stage _ _ _ _
    have hengine (p : PartId) (b len : Nat) : u.engineMay p b len = s.engineMay p b len := struck_engineMay _ _ _ _ _ _
    have hstruck : ({ s with notices := rest } : State).shardsStruck n hit = u := by
      show ({ s with notices := rest } : State).struck [⟨word, 8 * e.shardCount.toNat⟩] hit = u
      rw [hone]
    clear_value u
    have happly (hheld : n.hold = false → e.inflight ≠ 0) : u.applyNotice n false = entryWritten (u.setStage n.entry (inflightMoved e n)) a v :=
      applyNotice_counts hstage rfl rfl hvalid hepoch hone hheld ((hengine _ _ _).trans hmay) hclean ((hengine _ _ _).trans hmayEntry) haligned
        hcleanEntry hcount
    refine ⟨fun hhold => ?_, fun hrelease hheld => ?_⟩
    · have hmoved : inflightMoved e n = { e with inflight := e.inflight + 1 } := if_pos hhold
      show execHoldNotice false hit s = _
      simp only [execHoldNotice, hnotices, hhold, when_true, hstruck, happly (fun h => absurd h (by simp [hhold])), hmoved]
      rfl
    · have hmoved : inflightMoved e n = { e with inflight := e.inflight - 1 } := if_neg (by simp [hrelease])
      show execReleaseNotice false hit s = _
      simp only [execReleaseNotice, hnotices, hrelease, Bool.not_false, when_true, hstruck, happly (fun _ => hheld), hmoved]
      rfl
  · intro s e x
    refine ⟨fun hadmits => ?_, fun hon hroom hstale => ⟨s.staleWait, admissionPost_waits hon hroom hstale, rfl, rfl, rfl, rfl⟩⟩
    simp only [State.admits, Bool.and_eq_true] at hadmits
    obtain ⟨⟨hon, hroom⟩, hstale⟩ := hadmits
    refine ⟨s.postAdmission e, admissionPost_posts hon hroom hstale, ?_, ?_, fun hpair i b hlane => ?_⟩
    · rw [postAdmission_eq]
      exact congrArg (fun h : HubCounters => inc h.admitPosted) (ridersPosted_hub s x)
    · rw [postAdmission_eq]
      exact stage_setStage_same _ e _
    · exact ridersPosted_entries hpair hlane

end Sys2Proof.Laws

namespace Sys2Proof.Laws

/-! SUPPORT for O27. Retirement and publication keep the eight slots of an entry, a drain is one more, and an entry
is rewritten where its bursts hold no error (R157 to R160). -/

open Sys2Proof.Machine

/-! ## The eight slots -/

@[simp] theorem allocate_slots_length (v : VEntry) (c : BitVec 32) : (v.allocate c).slots.length = v.slots.length := by
  unfold VEntry.allocate
  split
  · rfl
  · simp
@[simp] theorem publish_slots_length (v : VEntry) (stale n : Nat) : (v.publish stale n).slots.length = v.slots.length := by
  simp only [VEntry.publish, setSlot_slots_length]
  split <;> exact setSlot_slots_length _ _ _
@[simp] theorem retireSlots_slots_length (fuel : Nat) (v : VEntry) (stale c : Nat) :
    (retireSlots fuel v stale c).1.slots.length = v.slots.length := by
  induction fuel generalizing v with
  | zero => rfl
  | succ fuel ih =>
    simp only [retireSlots]
    split
    · rfl
    · split
      · rfl
      · split
        · rfl
        · simp [ih]

/-! ## SLOT_ALLOCATION (R157) -/

section
variable {s : State} {rg : RegionId} {c : BitVec 32}

/-- Where no slot retires and none is withheld, retirement changes nothing. -/
theorem retireAt_of_none {p : PartId} {a : Nat} {v : VEntry} {stale n : Nat} (h : retireSlots 8 v stale n = (v, [], none)) :
    s.retireAt p a v stale n = s := by
  simp only [State.retireAt, h]
  rfl

theorem allocateFor_of_slotOk {t : TaskEntry} {k : Nat} (hok : s.slotOk t (ventryAt s.mem t.ventry.toNat) c = true)
    (hclean : s.errorsIn [⟨t.ventry.toNat, ventryBytes⟩] = []) :
    s.allocateFor rg t k c = (entryWritten s t.ventry.toNat ((ventryAt s.mem t.ventry.toNat).allocate c)).setUpd rg { (s.region rg).upd with
      slotReady := some k, slotWaited := (s.region rg).upd.slotWaited.filter (· ≠ k) } := by
  have hlen : ((ventryAt s.mem t.ventry.toNat).allocate c).slots.length = 8 := by simp
  simp only [State.allocateFor, hok, if_true, putEntry_clean hlen hclean]

/-- The task at the head of the queue, without anything to retire, gets its slot. -/
theorem slotAllocation_allocates {task : BitVec 8} {rest : List (Nat × BitVec 32)} (hqueue : (s.region rg).upd.queue = (task.toNat, c) :: rest)
    (hready : (s.region rg).upd.slotReady = none) (hrun : (s.region rg).upd.run = none)
    (hmay : s.engineMay (s.task rg task.toNat).partition (s.task rg task.toNat).ventry.toNat ventryBytes = true)
    (hclean : s.errorsIn [⟨(s.task rg task.toNat).ventry.toNat, ventryBytes⟩] = [])
    (hretire : retireSlots 8 (ventryAt s.mem (s.task rg task.toNat).ventry.toNat) (s.stage (s.task rg task.toNat).stage).staleS.toNat c.toNat =
      (ventryAt s.mem (s.task rg task.toNat).ventry.toNat, [], none)) :
    execSlotAllocation rg task s = .next (s.allocateFor rg (s.task rg task.toNat) task.toNat c) := by
  simp only [execSlotAllocation, hqueue, hready, hrun, decide_true, Option.isNone_none, Bool.and_self, when_true, hmay,
    readEntry_clean s _ _ hclean, Bool.not_true, Bool.false_eq_true, if_false, if_true, retireAt_of_none hretire]
end

/-! ## PUBLICATION (R159) -/

@[simp] theorem pinnedEvent_drains (s : State) (p : PartId) (a : Nat) (o : Option (BitVec 32)) : (s.pinnedEvent p a o).drains = s.drains := by
  cases o <;> rfl
theorem startDrain_drains (s : State) (p : PartId) (a : Nat) (slots : List Nat) (whole : Bool) :
    (s.startDrain p a slots whole).drains.length = s.drains.length + 1 := by
  unfold State.startDrain
  extract_lets blocks drained
  have hkept : (blocks.foldl (fun t b => t.ship (.drainMark b (BitVec.ofNat 48 a))) drained).drains = drained.drains :=
    foldl_keeps State.drains _ _ _ fun _ _ => rfl
  rw [hkept]
  exact List.length_append

section
variable {s : State} {rg : RegionId} {task : BitVec 8} {c : BitVec 32} {n : Nat}

theorem publication_publishes (hdone : (s.region rg).upd.doneTasks.find? (fun d => d.1 == task.toNat) = some (task.toNat, c, n))
    (hup : s.flapinoUp = true) (hbuilding : (ventryAt s.mem (s.task rg task.toNat).ventry.toNat).bldValid = true)
    (hclean : s.errorsIn [⟨(s.task rg task.toNat).ventry.toNat, ventryBytes⟩] = []) :
    execPublication rg task s = .next (s.publishTask rg (s.task rg task.toNat) task.toNat c n) := by
  simp only [execPublication, hdone, hup, hbuilding, Bool.and_self, when_true, readEntry_clean s _ _ hclean, if_true]

/-- What a publication that exports nothing leaves: the entry, the list of completed tasks, one drain more. -/
theorem publishTask_fields {t : TaskEntry} {k : Nat} (hexport : t.exportEn = false) (hclean : s.errorsIn [⟨t.ventry.toNat, ventryBytes⟩] = []) :
    let stale := (s.stage t.stage).staleS.toNat
    let w := (retireSlots 8 ((ventryAt s.mem t.ventry.toNat).publish stale n) stale c.toNat).1
    let u := s.publishTask rg t k c n
    u.mem = memWrite s.mem t.ventry.toNat (ventryEnc { w with gen := w.gen + 1 }) ∧
      (u.region rg).upd.doneTasks = delFirst (fun d => d.1 == k) (s.region rg).upd.doneTasks ∧ u.drains.length = s.drains.length + 1 := by
  intro stale w u
  have hlen : w.slots.length = 8 := by simp [w]
  simp only [u, State.publishTask, hexport, Bool.false_eq_true, if_false]
  refine ⟨?_, ?_, ?_⟩
  · rw [State.setUpd, State.setRegion_mem, pinnedEvent_mem, startDrain_mem, putEntry_clean hlen hclean, entryWritten]
  · rw [State.setUpd, region_setRegion_same]
  · rw [State.setUpd, State.setRegion_drains, pinnedEvent_drains, startDrain_drains, putEntry_clean hlen hclean]
    rfl
end

/-! ## Drains (R160) -/

theorem drainMarkAnswer_answers {s u : State} {b : BlockId} {e : Addr} (hway : s.inflight.any (fun t => decide (t.item = .drainMark b e)) = true)
    (harrive : s.arrive (fun i => decide (i = .drainMark b e)) = some u) (hfetch : (s.block b).fetchingVersion = false) :
    execDrainMarkAnswer b e s = .next { u with
      drains := updFirst (fun d => d.entry == e && d.waiting.contains b.idx) (fun d => { d with waiting := d.waiting.filter (· ≠ b.idx) }) s.drains } := by
  have hdrains : u.drains = s.drains := by obtain ⟨l, rfl⟩ := arrive_eq harrive; rfl
  simp only [execDrainMarkAnswer, hway, hfetch, Bool.not_false, Bool.and_self, whenHere_true, onArrival_some _ _ _ _ harrive, hdrains]

/-- A slot that retires made free. -/
def slotFreed (w : VEntry) (i : Nat) : VEntry := w.setSlot i fun t => if t.state = vsRetiring then { t with state := vsFree } else t
theorem slotsFreed_length (is : List Nat) (w : VEntry) : (is.foldl slotFreed w).slots.length = w.slots.length :=
  foldl_keeps (fun v : VEntry => v.slots.length) _ _ _ fun _ _ => setSlot_slots_length _ _ _

/-- A drain that waits for no block frees its slots and is over. -/
theorem versionDrainComplete_frees {s : State} {e : Addr} {d : VDrain} {ds : List VDrain} (hdrains : s.drains = d :: ds) (hentry : d.entry = e)
    (hwaiting : d.waiting = []) (hslots : d.slots ≠ []) (hclean : s.errorsIn [⟨e.toNat, ventryBytes⟩] = []) :
    execVersionDrainComplete e s = .next (entryWritten { s with drains := ds } e.toNat (d.slots.foldl slotFreed (ventryAt s.mem e.toNat))) := by
  have hlen : (d.slots.foldl slotFreed (ventryAt s.mem e.toNat)).slots.length = 8 := by rw [slotsFreed_length, ventryAt_slots_length]
  have hclean' : ({ s with drains := ds } : State).errorsIn [⟨e.toNat, ventryBytes⟩] = [] := hclean
  have hfind : s.drains.find? (fun d => d.entry == e && d.waiting.isEmpty) = some d := by simp [hdrains, hentry, hwaiting]
  have hrest : delFirst (fun x => decide (x = d)) s.drains = ds := by simp [hdrains, delFirst]
  simp only [execVersionDrainComplete, hfind, hrest, List.isEmpty_eq_false_iff.mpr hslots, Bool.false_eq_true, if_false,
    readEntry_clean _ _ _ hclean', if_true]
  exact congrArg Host.Outcome.next (putEntry_clean hlen hclean')

/-- Settles O27, by event: a slot allocated, a version published, a drain mark answered, a drain completed. -/
theorem versionsArePublished : Obligations.VersionsArePublished := by
  unfold Obligations.VersionsArePublished
  refine ⟨?_, ?_, fun s u b e => drainMarkAnswer_answers, ?_⟩
  · intro s rg task c rest u t a v w hqueue hready hrun hmay hclean hretire hok
    have hexec := slotAllocation_allocates hqueue hready hrun hmay hclean hretire
    rw [allocateFor_of_slotOk hok hclean] at hexec
    exact hexec
  · intro s rg task c n u t a v stale w hdone hup hbuilding hexport hclean
    obtain ⟨hmem, hlist, hdrains⟩ := publishTask_fields (rg := rg) (k := task.toNat) (c := c) (n := n) hexport hclean
    exact ⟨s.publishTask rg t task.toNat c n, publication_publishes hdone hup hbuilding hclean, hmem, hlist, hdrains⟩
  · intro s e d ds hdrains hentry hwaiting hslots hclean
    exact versionDrainComplete_frees hdrains hentry hwaiting hslots hclean

end Sys2Proof.Laws

namespace Sys2Proof.Laws

/-! SUPPORT for O30. Scalar all-reduces: the only one in progress takes its child's value, and how a new one goes on (R151, R190 to R192, R196). -/

open Sys2Proof.Machine

/-! ## The only all-reduce in progress (R192) -/

/-- A control packet taken changes what is on its way alone. -/
theorem takeControl_eq (s : State) (id : BitVec 16) : ∃ l, s.takeControl id = { s with inflight := l } := by
  unfold State.takeControl
  split <;> exact ⟨_, rfl⟩

section
variable {s : State} {x : Scalar}

/-- With a child's value still to come an all-reduce waits. -/
theorem runScalar_waits (h : x.children < treeChildren (s.group x.group).count.toNat (s.group x.group).rank.toNat) :
    s.runScalar x = { s with scalars := s.scalars ++ [x] } := if_pos h
/-- With every child's value a member of rank above zero sends its own up the tree. -/
theorem runScalar_sendsUp (h : treeChildren (s.group x.group).count.toNat (s.group x.group).rank.toNat ≤ x.children)
    (hrank : (s.group x.group).rank.toNat ≠ 0) : s.runScalar x = ({ s with scalars := s.scalars ++ [{ x with sentUp := true }] } : State).ship
      (.scalar x.group x.use x.value false (((s.group x.group).rank.toNat - 1) / 2)) := (if_neg (Nat.not_lt.mpr h)).trans (if_neg hrank)
/-- At rank 0 it ends with its value. -/
theorem runScalar_ends (h : treeChildren (s.group x.group).count.toNat (s.group x.group).rank.toNat ≤ x.children)
    (hrank : (s.group x.group).rank.toNat = 0) : s.runScalar x = s.endScalar x x.value := (if_neg (Nat.not_lt.mpr h)).trans (if_pos hrank)

/-- The all-reduce with one more child's value. -/
def combined (x : Scalar) (v : Word) : Scalar := { x with value := scalarOp x.op x.value v, children := x.children + 1 }

/-- The state whose only all-reduce has been taken up with its control packet. -/
def takenUp (s : State) (x : Scalar) : State := { s.takeControl (x.group.setWidth 16) with scalars := [] }
theorem takenUp_group (s : State) (x : Scalar) (g : BitVec 6) : (takenUp s x).group g = s.group g := by
  obtain ⟨l, h⟩ := takeControl_eq s (x.group.setWidth 16)
  rw [takenUp, h]
  rfl

/-- A child's value is combined, and the all-reduce goes on. -/
theorem scalarValue_combines (hscalars : s.scalars = [x]) (hresult : x.result = none) (hsent : x.sentUp = false)
    (hmore : x.children < treeChildren (s.group x.group).count.toNat (s.group x.group).rank.toNat) (v : Word) :
    execScalarValue x.group x.use v false s = .next ((takenUp s x).runScalar (combined x v)) := by
  obtain ⟨l, htaken⟩ := takeControl_eq s (x.group.setWidth 16)
  have hscalars' : (s.takeControl (x.group.setWidth 16)).scalars = [x] := by rw [htaken]; exact hscalars
  simp [execScalarValue, hscalars, hscalars', hresult, hsent, hmore, delFirst, combined, takenUp]
end

/-! ## Norms and job versions (R151, R190, R191) -/

theorem any_use_eq_false {l : List Scalar} {u : ScalarUse} (h : ∀ x ∈ l, x.use ≠ u) : l.any (fun x => decide (x.use = u)) = false := by
  simpa [List.any_eq_false] using h

section
variable {s : State} {job : BitVec 16}

/-- The norm's plans and the regions' sums of a step are used up (R190). -/
def normTaken (s : State) (job : BitVec 16) (step : BitVec 32) : State :=
  allRegions.foldl (fun t r => t.setRegion r { t.region r with normSums := tDel (t.region r).normSums (normStep job step) })
    { s with normDone := (s.normPlans job).foldl (fun t k => tDel t (normKey job k step)) s.normDone }
/-- The sums of the regions for a step, in region order. -/
def regionSums (s : State) (job : BitVec 16) (step : BitVec 32) : List (BitVec 32) :=
  allRegions.filterMap fun r => tFind (s.region r).normSums (normStep job step)

theorem normComplete_contributes {step : BitVec 32} (hplans : s.normPlans job ≠ []) (hsums : regionSums s job step ≠ [])
    (hdone : ∀ k ∈ s.normPlans job, (tFind s.normDone (normKey job k step)).isSome = true) (hgroup : (s.group (s.job job).group).valid = true) :
    execNormComplete job step s = .next ((normTaken s job step).startScalar (s.job job).group (.norm job step) .a32Sum
      (((regionSums s job step).foldl (fun a v => (a32Plus a (a32Read v).1).1) (0 : BitVec 32)).setWidth 64) none) := by
  have hall : ((s.normPlans job).all fun k => (tFind s.normDone (normKey job k step)).isSome) = true := List.all_eq_true.mpr hdone
  unfold regionSums at *
  simp only [execNormComplete, List.isEmpty_eq_false_iff.mpr hplans, List.isEmpty_eq_false_iff.mpr hsums, hall, hgroup, Bool.not_false,
    Bool.and_self, when_true, normTaken]

theorem jobVersionCheck_contributes (hup : s.flapinoUp = true) (hready : s.jobReady job = true) (hfree : ∀ x ∈ s.scalars, x.use ≠ .jobVersion job)
    (hgroup : (s.group (s.job job).group).valid = true) (hread : (s.readRanges (s.jobReads job)).2 = none) :
    execJobVersionCheck job s = .next ((s.readRanges (s.jobReads job)).1.startScalar (s.job job).group (.jobVersion job) .u32Min
      (BitVec.ofNat 64 (s.jobCurrent job)) none) := by
  simp only [execJobVersionCheck, hup, hready, any_use_eq_false hfree, hgroup, Bool.not_false, Bool.and_self, when_true, hread,
    Option.isSome_none, Bool.false_eq_true, if_false]

theorem jobVersionAgreed_writes {v : BitVec 32} {x : Scalar} (hscalars : s.scalars = [x]) (huse : x.use = .jobVersion job)
    (hresult : x.result = some (v.setWidth 64)) (habove : s.jobHeld job < v.toNat) :
    execJobVersionAgreed job v s = .next (({ s with scalars := [] } : State).setJobVersion job v) := by
  have hheld : ({ s with scalars := [] } : State).jobHeld job < v.toNat := habove
  simp [execJobVersionAgreed, hscalars, huse, hresult, delFirst, hheld]
end

/-! ## COLL_QUERY and COLL_SCALAR (R196) -/

section
variable {s : State} {r : Running}

theorem collQuery_answers {k : BitVec 16} (h : s.carries r 0x0246 (s.planScope k) = true) (hk : k.toNat < 1024) :
    execCollQuery k s = .next (s.taken.okData r (natWords 8 (planBits (s.plan (k.setWidth 10))).toNat ++
      [BitVec.ofNat 64 (tGet 0 s.lastSteps (k.setWidth 10).toNat - 1), BitVec.ofNat 64 (s.instanceCode (k.setWidth 10))])) :=
  cmd_of_unrefused h rfl (by simp; omega)

/-- A COLL_SCALAR in a group of one ends as soon as it starts: its value at its address, counted. -/
def aloneScalar (s : State) (a : Addr) (v : Word) : State :=
  { (s.taken.count fun h => { h with colScalarDone := inc h.colScalarDone }) with mem := memWrite s.mem a.toNat (leBytes 8 v.toNat) }

theorem startScalar_of_alone {g : BitVec 6} {op : ScalarOp} {v : Word} {a : Addr} (hcount : (s.group g).count = 1) (hrank : (s.group g).rank = 0)
    (hmem : inStacked a.toNat 8 = true) (hclean : s.errorsIn [⟨a.toNat, 8⟩] = []) :
    s.taken.startScalar g .command op v (some (r, a)) = (aloneScalar s a v).okData r [v] := by
  have hgroup : s.taken.group g = s.group g := rfl
  have hput : (s.taken.count fun h => { h with colScalarDone := inc h.colScalarDone }).scalarResult r a v = aloneScalar s a v :=
    (if_pos hmem).trans (put_clean _ _ _ (by rw [leBytes_length]; exact hclean))
  rw [State.startScalar, runScalar_ends (by simp only [hgroup, hcount, hrank]; decide) (by simp only [hgroup, hrank]; rfl)]
  simp only [State.endScalar, hgroup, hcount, hrank]
  exact congrArg (fun t : State => t.okData r [v]) hput

theorem collScalar_answers {g : BitVec 8} {op : ScalarOp} {v : Word} {a : Addr} (h : s.carries r 0x0244 .own = true) (hg : g.toNat < 64)
    (hvalid : (s.group (g.setWidth 6)).valid = true) (hcount : (s.group (g.setWidth 6)).count = 1) (hrank : (s.group (g.setWidth 6)).rank = 0)
    (hstacked : (s.part r.part).hasStacked a.toNat 8 = true) (hmem : inStacked a.toNat 8 = true) (hclean : s.errorsIn [⟨a.toNat, 8⟩] = []) :
    execCollScalar g op v a s = .next ((aloneScalar s a v).okData r [v]) := by
  have hvalid : (s.taken.group (g.setWidth 6)).valid = true := hvalid
  rw [← startScalar_of_alone (op := op) hcount hrank hmem hclean]
  exact cmd_of_unrefused h rfl (by simp [hvalid, taken_part, hstacked]; omega)
end

/-- Settles O30, by event and by command. The scope of COLL_QUERY is log 73; the words that it
returns, the last step less one and the state's code among them, are log 24, the model's choice. -/
theorem scalarsAndNorms : Obligations.ScalarsAndNorms := by
  unfold Obligations.ScalarsAndNorms
  refine ⟨?_, ?_, fun s job => jobVersionCheck_contributes, fun s job v x => jobVersionAgreed_writes, fun s r k => collQuery_answers, ?_⟩
  · intro s x v hscalars hresult hsent n y u
    refine ⟨fun hmore => ?_, fun hlast hrank => ?_⟩
    · refine (scalarValue_combines hscalars hresult hsent (Nat.lt_of_succ_lt hmore) v).trans (congrArg Host.Outcome.next ?_)
      exact runScalar_waits (by rw [takenUp_group]; exact hmore)
    · refine (scalarValue_combines hscalars hresult hsent (Nat.lt_of_succ_le hlast.le) v).trans (congrArg Host.Outcome.next ?_)
      have hends := runScalar_sendsUp (s := takenUp s x) (x := combined x v) (by rw [takenUp_group]; exact hlast.ge)
        (by rw [takenUp_group]; exact hrank)
      rw [takenUp_group] at hends
      exact hends
  · intro s job step key sums u hplans hsums hdone hgroup
    exact normComplete_contributes hplans hsums hdone hgroup
  · intro s r g op v a h hg hvalid hcount hrank hstacked hmem hclean
    exact ⟨aloneScalar s a v, collScalar_answers h hg hvalid hcount hrank hstacked hmem hclean, rfl, rfl⟩

end Sys2Proof.Laws

namespace Sys2Proof.Laws

/-! SUPPORT for O29. The collective engine where no burst of stacked memory holds an error: what its work on data leaves as it is, how pieces use up
credits, and what a plan's run (an Instance of the model) leaves behind that fails or ends. -/

open Sys2Proof.Machine

/-! ## Accesses of the engine where no burst holds an error -/

section
variable {s : State} (hs : s.bursts = [])
include hs

theorem errorsIn_of_no_bursts (rs : List Range) : s.errorsIn rs = [] := by simp [State.errorsIn, hs]
theorem readRanges_of_no_bursts (rs : List Range) : s.readRanges rs = (s, none) := readRanges_clean s rs (errorsIn_of_no_bursts hs rs)
theorem put_of_no_bursts (a : Nat) (bs : List Byte) : s.put a bs = { s with mem := memWrite s.mem a bs } :=
  put_clean s a bs (errorsIn_of_no_bursts hs _)
theorem withReads_of_no_bursts (i : Instance) (rs : List Range) (k : State → State) : s.withReads i rs k = k s := by
  simp [State.withReads, readRanges_of_no_bursts hs]
end

/-- What the engine's work on data may change: memory, blocks' locks, the free values drawn and the hub's counters. -/
def Worked (s t : State) : Prop := ∃ m b n h, t = { s with mem := m, blocks := b, freeCount := n, hub := h }

theorem Worked.refl (s : State) : Worked s s := ⟨_, _, _, _, rfl⟩
theorem Worked.trans {s t u : State} (h : Worked s t) (g : Worked t u) : Worked s u := by
  obtain ⟨_, _, _, _, rfl⟩ := h
  obtain ⟨_, _, _, _, rfl⟩ := g
  exact ⟨_, _, _, _, rfl⟩
theorem Worked.bursts {s t : State} (h : Worked s t) : t.bursts = s.bursts := by
  obtain ⟨_, _, _, _, rfl⟩ := h
  rfl
theorem Worked.fields {s t : State} (h : Worked s t) :
    t.instances = s.instances ∧ t.pieceCredits = s.pieceCredits ∧ t.plans = s.plans ∧ t.inflight = s.inflight := by
  obtain ⟨_, _, _, _, rfl⟩ := h
  exact ⟨rfl, rfl, rfl, rfl⟩
theorem Worked.ite {s t u : State} {c : Prop} [Decidable c] (ht : Worked s t) (hu : Worked s u) : Worked s (if c then t else u) := by
  split <;> assumption
/-- A fold of such work over a state without burst errors. -/
theorem Worked.foldl {α : Type} {f : State → α → State} (hf : ∀ t a, t.bursts = [] → Worked t (f t a)) (l : List α) {s : State}
    (hs : s.bursts = []) : Worked s (l.foldl f s) :=
  List.foldlRecOn (motive := Worked s) l f (.refl s) fun t ht a _ => ht.trans (hf t a (ht.bursts.trans hs))

section
variable {s : State} (hs : s.bursts = [])
include hs

theorem worked_put (a : Nat) (bs : List Byte) : Worked s (s.put a bs) := by
  rw [put_of_no_bursts hs]
  exact ⟨_, _, _, _, rfl⟩
theorem worked_putBlock (base e b : Nat) (codes : List Nat) (scale : Byte) : Worked s (s.putBlock base e b codes scale) :=
  have h := worked_put hs (base + 512 * b) (codes.flatMap (leBytes 2))
  h.trans (worked_put (h.bursts.trans hs) _ _)
theorem worked_encodeWs (i : Instance) (p : PlanEntry) : Worked s (s.encodeWs i p) := .foldl (fun _ _ ht => worked_putBlock ht _ _ _ _ _) _ hs
theorem worked_finishDirect (i : Instance) (p : PlanEntry) : Worked s (s.finishDirect i p) := by
  unfold State.finishDirect
  split
  · rw [withReads_of_no_bursts hs]
    exact worked_encodeWs hs i p
  · exact .refl s
theorem worked_placeOwn (k : PlanId) (i : Instance) (p : PlanEntry) : Worked s (s.placeOwn k i p) := by
  unfold State.placeOwn
  extract_lets n r blocks t copy c
  have hcopy (first cnt : Nat) : Worked s (copy s first cnt) := .foldl (fun _ _ ht => worked_putBlock ht _ _ _ _ _) _ hs
  exact .ite (.foldl (fun _ _ ht => worked_put ht _ _) _ hs) (.ite (.ite (hcopy _ _) (.refl s)) (.ite (hcopy _ _) (.refl s)))
theorem worked_ringSum (k : PlanId) (i : Instance) (p : PlanEntry) (x : Piece) : Worked s (s.ringSum k i p x) :=
  .foldl (fun _ _ ht => worked_putBlock ht _ _ _ _ _) _ hs
theorem worked_directSum (p : PlanEntry) (x : Piece) : Worked s (s.directSum p x) := .foldl (fun _ _ ht => worked_put ht _ _) _ hs
theorem worked_gather (p : PlanEntry) (x : Piece) : Worked s (s.gather p x) := by
  unfold State.gather
  extract_lets s1
  have h : Worked s s1 := .foldl (fun _ _ ht => worked_putBlock ht _ _ _ _ _) _ hs
  exact .ite (h.trans ⟨_, _, _, _, rfl⟩) h
end

/-- A lock given up changes a block alone. -/
theorem unlockRead_eq (s : State) (i : Instance) : ∃ b, s.unlockRead i = { s with blocks := b } := by
  unfold State.unlockRead
  extract_lets b x own
  split
  · exact ⟨_, rfl⟩
  · exact ⟨s.blocks, rfl⟩
theorem unlockIf_eq (s : State) (i : Instance) (c : Bool) : ∃ b, (if c then s.unlockRead i else s) = { s with blocks := b } := by
  split
  · exact unlockRead_eq s i
  · exact ⟨s.blocks, rfl⟩

/-! ## Credits and pieces (R188) -/

/-- Pieces leave of the only plan that runs: its count of pieces sent moves, by one for each credit used, and memory stays. -/
def Pumped (s : State) (i : Instance) (t : State) : Prop :=
  ∃ n, t.instances = [{ i with sent := n }] ∧ t.mem = s.mem ∧ n + t.pieceCredits.length = i.sent + s.pieceCredits.length

theorem length_delFirst_of_contains {α : Type} [BEq α] [LawfulBEq α] {c : α} {l : List α} (h : l.contains c = true) :
    (delFirst (· == c) l).length + 1 = l.length := by
  induction l with
  | nil => simp at h
  | cons x r ih =>
    by_cases hx : x = c
    · simp [delFirst, hx]
    · simpa [delFirst, hx] using ih (by simpa [Ne.symm hx] using h)

theorem instance_of_only {s : State} {i : Instance} (hi : s.instances = [i]) (hrun : i.running = true) : s.instance_ i.plan = some i := by
  simp [State.instance_, hi, hrun]

/-- The state once a piece has been sent: its credit used, the piece on its way and counted. -/
def pieceSent (s : State) (i : Instance) (x : PieceRef) : State :=
  let p := s.plan i.plan
  let u : State := { s with pieceCredits := delFirst (· == ⟨p.planId, i.step, x.peer⟩) s.pieceCredits }
  (u.ship (.piece p.planId i.step x.peer (u.pieceOf i.plan i p x))).setInstance { i with sent := i.sent + 1 }

/-- Where its data and a credit are there the next piece leaves, and the pump goes on. -/
theorem pumpPieces_sends (fuel : Nat) {s : State} {i : Instance} {x : PieceRef} (hs : s.bursts = []) (hi : s.instances = [i])
    (hrun : i.running = true) (hx : (s.sends (s.plan i.plan))[i.sent]? = some x)
    (hgo : (s.pieceCredits.contains ⟨(s.plan i.plan).planId, i.step, x.peer⟩ && s.canSend i (s.plan i.plan)) = true) :
    ∃ u : State, pumpPieces (fuel + 1) i.plan s = pumpPieces fuel i.plan u ∧ u.bursts = [] ∧ u.instances = [{ i with sent := i.sent + 1 }] ∧
      u.mem = s.mem ∧ u.pieceCredits.length + 1 = s.pieceCredits.length := by
  obtain ⟨b, hb⟩ := unlockIf_eq (pieceSent s i x) { i with sent := i.sent + 1 }
    ((pieceSent s i x).sourceRead { i with sent := i.sent + 1 } (s.plan i.plan))
  refine ⟨{ pieceSent s i x with blocks := b }, ?_, hs, ?_, rfl, length_delFirst_of_contains (Bool.and_eq_true_iff.mp hgo).1⟩
  · simp only [pumpPieces, instance_of_only hi hrun, hx, hgo, readRanges_of_no_bursts hs, if_true, Option.isSome_none, Bool.false_eq_true, if_false]
    exact congrArg (pumpPieces fuel i.plan) hb
  · simp [pieceSent, State.setInstance, hi, updFirst, hrun]
/-- Where there is no next piece or it may not leave, none is sent. -/
theorem pumpPieces_stops (fuel : Nat) {s : State} {k : PlanId} {i : Instance} (hi : s.instance_ k = some i)
    (hstop : ∀ x, (s.sends (s.plan k))[i.sent]? = some x →
      (s.pieceCredits.contains ⟨(s.plan k).planId, i.step, x.peer⟩ && s.canSend i (s.plan k)) = false) : pumpPieces fuel k s = s := by
  cases fuel with
  | zero => rfl
  | succ fuel =>
    simp only [pumpPieces, hi]
    cases hx : (s.sends (s.plan k))[i.sent]? with
    | none => rfl
    | some x => simp only [hstop x hx, Bool.false_eq_true, if_false]

theorem pumpPieces_pumps (fuel : Nat) {s : State} {i : Instance} (hs : s.bursts = []) (hi : s.instances = [i]) (hrun : i.running = true) :
    Pumped s i (pumpPieces fuel i.plan s) := by
  induction fuel generalizing s i with
  | zero => exact ⟨i.sent, hi, rfl, rfl⟩
  | succ fuel ih =>
    by_cases hgo : ∃ x, (s.sends (s.plan i.plan))[i.sent]? = some x ∧
        (s.pieceCredits.contains ⟨(s.plan i.plan).planId, i.step, x.peer⟩ && s.canSend i (s.plan i.plan)) = true
    · obtain ⟨x, hx, hgo⟩ := hgo
      obtain ⟨u, hpump, hburst, hinst, hmem, hless⟩ := pumpPieces_sends fuel hs hi hrun hx hgo
      obtain ⟨n, hn, hmem', hcount⟩ := ih hburst hinst hrun
      have hcount : n + (pumpPieces fuel i.plan u).pieceCredits.length = i.sent + 1 + u.pieceCredits.length := hcount
      rw [hpump]
      exact ⟨n, hn, hmem'.trans hmem, by omega⟩
    · rw [pumpPieces_stops _ (instance_of_only hi hrun) fun x hx => Bool.eq_false_iff.mpr fun h => hgo ⟨x, hx, h⟩]
      exact ⟨i.sent, hi, rfl, rfl⟩

/-- Without a credit for a plan's step no piece of it is sent. -/
theorem pumpPieces_of_no_credit (fuel : Nat) {s : State} {k : PlanId} {i : Instance} (hi : s.instance_ k = some i)
    (hnone : ∀ c ∈ s.pieceCredits, ¬ (c.planId = (s.plan k).planId ∧ c.step = i.step)) : pumpPieces fuel k s = s := by
  refine pumpPieces_stops fuel hi fun x _ => ?_
  have hno : s.pieceCredits.contains ⟨(s.plan k).planId, i.step, x.peer⟩ = false := by simpa using fun h => hnone _ h ⟨rfl, rfl⟩
  rw [hno, Bool.false_and]

/-! ## Failures and ends (R187, R195) -/

/-- Memory alone changes, within a range, and free values are drawn. -/
def UndefinedIn (s : State) (a n : Nat) (t : State) : Prop :=
  ∃ m f, t = { s with mem := m, freeCount := f } ∧ ∀ c, c < a ∨ a + n ≤ c → memByte m c = memByte s.mem c
theorem undefinedIn_undefine (s : State) (a n : Nat) : UndefinedIn s a n (s.undefine a n) := by
  unfold State.undefine
  refine List.foldlRecOn (motive := UndefinedIn s a n) _ _ ⟨_, _, rfl, fun _ _ => rfl⟩ ?_
  rintro t ⟨m, f, rfl, hkeep⟩ i hi
  refine ⟨_, _, rfl, fun c hc => (memByte_memPut_other m _ _ _ ?_).trans (hkeep c hc)⟩
  have := List.mem_range.mp hi
  omega

/-- A failed run of a plan without a norm: dropped, its result's state byte 0x03, its result undefined, its lock given up. -/
def failedInstance (s : State) (i : Instance) : State :=
  let p := s.plan i.plan
  (((s.dropInstance i).put (p.dst.toNat + 1) [0x03]).undefine (p.dst.toNat + 64) p.bytes).unlockRead i
theorem failInstance_of_no_norm {s : State} {i : Instance} (cause : Nat) (notify : Bool) (hnorm : (s.plan i.plan).normEn = false) :
    s.failInstance i cause notify =
      (if notify then (failedInstance s i).ship (.abortNotice (s.plan i.plan).planId i.step) else failedInstance s i).collFailed
        (s.plan i.plan).partition i.plan.toNat i.step (s.plan i.plan).planId cause := by
  simp only [State.failInstance, hnorm, Bool.false_eq_true, if_false]
  rfl
theorem failedInstance_eq {s : State} (i : Instance) (hs : s.bursts = []) (hwf : s.mem.wf = true) :
    ∃ m f b, failedInstance s i = { s.dropInstance i with mem := m, freeCount := f, blocks := b } ∧
      memByte m ((s.plan i.plan).dst.toNat + 1) = 3 := by
  have hput := put_of_no_bursts (s := s.dropInstance i) hs ((s.plan i.plan).dst.toNat + 1) [0x03]
  obtain ⟨m, f, hun, hkeep⟩ := undefinedIn_undefine ((s.dropInstance i).put ((s.plan i.plan).dst.toNat + 1) [0x03])
    ((s.plan i.plan).dst.toNat + 64) (s.plan i.plan).bytes
  obtain ⟨b, hb⟩ := unlockRead_eq (((s.dropInstance i).put ((s.plan i.plan).dst.toNat + 1) [0x03]).undefine
    ((s.plan i.plan).dst.toNat + 64) (s.plan i.plan).bytes) i
  refine ⟨m, f, b, ?_, ?_⟩
  · unfold failedInstance
    rw [hb, hun, hput]
  · rw [hkeep _ (.inl (by omega)), hput]
    exact memByte_memPut_same _ _ _ hwf

theorem undefineBlocks_eq (s : State) (base e first n : Nat) : ∃ m f, s.undefineBlocks base e first n = { s with mem := m, freeCount := f } := by
  obtain ⟨m, f, h, -⟩ := undefinedIn_undefine s (base + 512 * first) (512 * n)
  obtain ⟨m', f', h', -⟩ := undefinedIn_undefine (s.undefine (base + 512 * first) (512 * n)) (base + 2 * e + first) n
  exact ⟨m', f', h'.trans (by rw [h])⟩
/-- Only of a reduce-scatter do chunks become undefined (R182). -/
theorem scatterRest_eq (s : State) (p : PlanEntry) :
    ∃ m f, s.scatterRest p = { s with mem := m, freeCount := f } ∧ (p.op ≠ opReduceScatter → m = s.mem) := by
  unfold State.scatterRest
  split
  next h =>
    extract_lets c blocks
    obtain ⟨m, f, hfirst⟩ := undefineBlocks_eq s (p.dst.toNat + 64) p.elements.toNat 0 c.1
    obtain ⟨m', f', hrest⟩ := undefineBlocks_eq (s.undefineBlocks (p.dst.toNat + 64) p.elements.toNat 0 c.1) (p.dst.toNat + 64) p.elements.toNat
      (c.1 + c.2) (blocks - (c.1 + c.2))
    exact ⟨m', f', hrest.trans (by rw [hfirst]), fun hne => absurd h hne⟩
  next => exact ⟨_, _, rfl, fun _ => rfl⟩

/-- The result header that a plan without a norm is given (Table 7.2). -/
def endHeader (s : State) (i : Instance) (p : PlanEntry) : List Byte :=
  resultHeader p i.step (s.resultContrib i p) 0 (BitVec.ofNat 32 ((s.stage p.stage).mbPerStep.toNat * s.planN p)) (amaxMax i.amax (s.ownMax p))
/-- An ended run of a plan without a norm and without an amax word: dropped, its header written, its lock given up. -/
def endedInstance (s : State) (i : Instance) (p : PlanEntry) : State :=
  (((s.dropInstance i).scatterRest p).put p.dst.toNat (endHeader s i p)).unlockRead i
theorem endInstance_of_no_norm {s : State} {i : Instance} {p : PlanEntry} (hnorm : p.normEn = false) (hamax : p.amax = 0) :
    s.endInstance i p =
      ((endedInstance s i p).count fun h => { h with colInstDone := inc h.colInstDone }).queueTasks p.owner.region i.plan i.step := by
  have hamax : p.amax = 0#48 := hamax
  simp only [State.endInstance, hnorm, hamax, Bool.false_eq_true, if_false, if_true]
  rfl
theorem endedInstance_eq {s : State} (i : Instance) (p : PlanEntry) (hs : s.bursts = []) :
    ∃ m f b, endedInstance s i p = { s.dropInstance i with mem := m, freeCount := f, blocks := b } ∧
      (p.op ≠ opReduceScatter → m = memWrite s.mem p.dst.toNat (endHeader s i p)) := by
  obtain ⟨m, f, hrest, hmem⟩ := scatterRest_eq (s.dropInstance i) p
  have hput := put_of_no_bursts (s := (s.dropInstance i).scatterRest p) (by rw [hrest]; exact hs) p.dst.toNat (endHeader s i p)
  obtain ⟨b, hb⟩ := unlockRead_eq (((s.dropInstance i).scatterRest p).put p.dst.toNat (endHeader s i p)) i
  refine ⟨memWrite m p.dst.toNat (endHeader s i p), f, b, ?_, fun hop => by rw [hmem hop]; rfl⟩
  unfold endedInstance
  rw [hb, hput, hrest]

/-! ## COLLECTIVE_POST (R180, R181) -/

section
variable {s : State} {q : Post} {rest : List Post} (hposts : s.posts = q :: rest)
include hposts

theorem collectivePost_queues (hvalid : (s.plan q.plan).valid = true) (howner : (s.plan q.plan).owner = q.block)
    (hstep : tGet 0 s.lastSteps q.plan.toNat ≤ q.step.toNat) (hrb : (s.plan q.plan).rbSrc = false) :
    execCollectivePost s = .next { s with
      posts := rest, instances := s.instances ++ [⟨q.plan, q.step, q.half, false, false, Config.sourceContrib q.plan.toNat, [], 0, 0, 0, [], 0⟩]
      lastSteps := tSet s.lastSteps q.plan.toNat (q.step.toNat + 1) } := by
  have hplan : ({ s with posts := rest } : State).plan q.plan = s.plan q.plan := rfl
  have hnew : ¬ q.step.toNat + 1 ≤ tGet 0 s.lastSteps q.plan.toNat := by omega
  simp [execCollectivePost, hposts, hplan, hvalid, howner, hnew, hrb]

theorem collectivePost_refuses
    (hbad : (s.plan q.plan).valid = false ∨ (s.plan q.plan).owner ≠ q.block ∨ q.step.toNat < tGet 0 s.lastSteps q.plan.toNat) :
    execCollectivePost s = .next ((({ s with posts := rest } : State).count fun h => { h with colPostErr := inc h.colPostErr }).raise
      (s.ownerOr0 q.block) evCollPost 3 (unitHub 0x06 q.plan.toNat) (det 168 q.step.toNat ||| det 200 q.plan.toNat)) := by
  have hbad : (!(s.plan q.plan).valid || (s.plan q.plan).owner != q.block ||
      decide (q.step.toNat + 1 ≤ tGet 0 s.lastSteps q.plan.toNat)) = true := by
    simpa [or_assoc] using hbad
  unfold execCollectivePost
  rw [hposts]
  exact if_pos hbad
end

/-! ## The commands of a plan that runs -/

theorem take_fields (i : Instance) (p : PlanEntry) (place : Nat) (x : Piece) :
    (i.take p place x).plan = i.plan ∧ (i.take p place x).step = i.step ∧ (i.take p place x).running = i.running ∧
      (i.take p place x).sent = i.sent ∧
      (i.take p place x).gathered = i.gathered + (if x.gatherPhase then 1 else 0) ∧
      (i.take p place x).arrived = i.arrived + (if x.gatherPhase then 0 else 1) := by
  unfold Instance.take
  split <;> simp

theorem runningOf_only {s : State} {i : Instance} (hi : s.instances = [i]) (hrun : i.running = true) :
    s.runningOf (s.plan i.plan).planId i.step = some i := by
  simp [State.runningOf, hi, hrun]

section
variable {s : State} {i : Instance} (hi : s.instances = [i]) (hs : s.bursts = [])
include hi hs

theorem instanceStart_runs (hrun : i.running = false) (hempty : memByte s.mem ((s.plan i.plan).dst.toNat + 1) = 0)
    (hallowed : s.planAllowed i (s.plan i.plan) = true)
    (hnone : ∀ c ∈ s.pieceCredits, ¬ (c.planId = (s.plan i.plan).planId ∧ c.step = i.step)) :
    ∃ t, execInstanceStart i.plan s = .next t ∧ t.instances = [{ i with running := true }] ∧
      t.inflight.map Transit.item = s.inflight.map Transit.item ++ (s.recvs (s.plan i.plan)).map fun x =>
        .pieceCredit (s.plan i.plan).planId i.step x.peer := by
  have hstart : execInstanceStart i.plan s = .next (s.runInstance 0 i (s.plan i.plan)) := by
    simp [execInstanceStart, hi, enum, hrun, State.instance_, State.runningInstances, hempty, hallowed, withReads_of_no_bursts hs]
  refine ⟨_, hstart, ?_⟩
  unfold State.runInstance
  extract_lets j s1 s2 s3
  have hput : s1 = { s with instances := setNth s.instances 0 j, mem := memWrite s.mem ((s.plan i.plan).dst.toNat + 1) [0x01] } :=
    put_of_no_bursts (s := { s with instances := setNth s.instances 0 j }) hs _ _
  obtain ⟨l, hship, hitems⟩ := shipEach_eq (fun _ x => InFlight.pieceCredit (s.plan i.plan).planId i.step x.peer) (fun _ _ => rfl)
    (s1.recvs (s.plan i.plan)) s1
  have hship : s2 = { s1 with inflight := l } := hship
  have hs2 : s2.bursts = [] := by rw [hship, hput]; exact hs
  have hplace : Worked s2 (s2.placeOwn i.plan j (s.plan i.plan)) := worked_placeOwn hs2 _ _ _
  have hwork : Worked s2 s3 := hplace.trans (worked_finishDirect (hplace.bursts.trans hs2) j (s.plan i.plan))
  obtain ⟨hinst, hcredits, hplans, hflight⟩ := hwork.fields
  have hinst : s3.instances = [j] := by rw [hinst, hship, hput, hi]; rfl
  have hcredits : s3.pieceCredits = s.pieceCredits := by rw [hcredits, hship, hput]
  have hplan : s3.plan i.plan = s.plan i.plan := by rw [State.plan, hplans, hship, hput]; rfl
  obtain ⟨b, hunlock⟩ := unlockIf_eq s3 j (s3.sourceRead j (s.plan i.plan))
  have hstays := pumpPieces_of_no_credit (s := { s3 with blocks := b }) (k := i.plan) (s3.sends (s.plan i.plan)).length
    (instance_of_only (i := j) hinst rfl) (by rw [← hcredits, ← hplan] at hnone; exact hnone)
  rw [hunlock, hstays]
  refine ⟨hinst, ?_⟩
  simp only [hflight, hship, hitems, hput]
  rfl

/-- A piece taken in is counted and its totals noted, and pieces may leave. -/
theorem takePiece_pumps (hrun : i.running = true) (p : PlanEntry) (place : Nat) (x : Piece) :
    ∃ u : State, u.pieceCredits = s.pieceCredits ∧ Pumped u (i.take p place x) (s.takePiece i p place x) := by
  unfold State.takePiece
  extract_lets s1 j s2 s3
  have htaken : Worked s s1 := .ite (worked_gather hs p x) (.ite (worked_directSum hs p x) (worked_ringSum hs i.plan i p x))
  obtain ⟨m, b, n, h, htaken⟩ := htaken
  obtain ⟨hplan, -, hrun', -⟩ := take_fields i p place x
  have hrun' : j.running = true := hrun'.trans hrun
  have hs2 : s2.bursts = [] := by simp only [s2, htaken]; exact hs
  have hi2 : s2.instances = [j] := by simp [s2, htaken, State.setInstance, hi, updFirst, j, hplan, hrun]
  have hfinish : Worked s2 s3 := .ite (.refl s2) (worked_finishDirect hs2 j p)
  obtain ⟨m', b', n', h', hfinish⟩ := hfinish
  obtain ⟨b'', hunlock⟩ := unlockIf_eq s3 j (s3.sourceRead j p)
  refine ⟨{ s3 with blocks := b'' }, by rw [hfinish]; simp only [s2, htaken]; rfl, ?_⟩
  rw [hunlock, ← hplan]
  exact pumpPieces_pumps _ (by rw [hfinish]; exact hs2) (by rw [hfinish]; exact hi2) hrun'

theorem collectivePiece_takes (hrun : i.running = true) (rank : BitVec 12) (x : Piece)
    (hx : (s.expected i (s.plan i.plan) rank.toNat x).isSome = true) :
    ∃ t j, execCollectivePiece ⟨(s.plan i.plan).planId, i.step⟩ rank x s = .next t ∧ t.instances = [j] ∧ j.step = i.step ∧
      j.gathered = i.gathered + (if x.gatherPhase then 1 else 0) ∧ j.arrived = i.arrived + (if x.gatherPhase then 0 else 1) ∧
      j.sent + t.pieceCredits.length = i.sent + s.pieceCredits.length := by
  obtain ⟨place, hplace⟩ := Option.isSome_iff_exists.mp hx
  obtain ⟨u, hcredits, n, hn, -, hcount⟩ := takePiece_pumps (s := s.unship (isControl 0x05 ((s.plan i.plan).planId ++ i.step.setWidth 16)
    (s.memberDev (s.plan i.plan).group rank.toNat))) hi hs hrun (s.plan i.plan) place x
  refine ⟨_, { i.take (s.plan i.plan) place x with sent := n }, ?_, hn, ?_⟩
  · simp only [execCollectivePiece, runningOf_only hi hrun, hplace]
    exact congrArg Host.Outcome.next (withReads_of_no_bursts (s := s.unship _) hs i _ _)
  · obtain ⟨-, hstep, -, hsent, hgathered, harrived⟩ := take_fields i (s.plan i.plan) place x
    rw [hcredits, hsent] at hcount
    exact ⟨hstep, hgathered, harrived, hcount⟩

theorem collectiveCredit_sends (hrun : i.running = true) (rank : BitVec 12) :
    ∃ t j, execCollectiveCredit ⟨(s.plan i.plan).planId, i.step⟩ rank s = .next t ∧ t.instances = [j] ∧ t.mem = s.mem ∧
      j.arrived = i.arrived ∧ j.gathered = i.gathered ∧ j.sent + t.pieceCredits.length = i.sent + s.pieceCredits.length + 1 := by
  obtain ⟨l, htaken⟩ := takeControl_eq s (s.plan i.plan).planId
  unfold execCollectiveCredit
  rw [htaken]
  extract_lets s0 s1
  have hof : s1.runningOf (s.plan i.plan).planId i.step = some i := runningOf_only (s := s1) hi hrun
  obtain ⟨n, hn, hmem, hcount⟩ := pumpPieces_pumps (s1.sends (s1.plan i.plan)).length (s := s1) hs hi hrun
  rw [hof]
  refine ⟨_, { i with sent := n }, rfl, hn, hmem, rfl, rfl, ?_⟩
  simp [s1, s0] at hcount ⊢
  omega

theorem instanceComplete_ends (hrun : i.running = true) (hnorm : (s.plan i.plan).normEn = false) (hamax : (s.plan i.plan).amax = 0)
    (hcame : i.arrived + i.gathered = (s.recvs (s.plan i.plan)).length) (hleft : i.sent = (s.sends (s.plan i.plan)).length) :
    ∃ t, execInstanceComplete i.plan s = .next t ∧ t.instances = [] ∧ t.hub.colInstDone = inc s.hub.colInstDone ∧
      ((s.plan i.plan).op ≠ opReduceScatter → t.mem = memWrite s.mem (s.plan i.plan).dst.toNat (endHeader s i (s.plan i.plan))) := by
  obtain ⟨m, f, b, hended, hmem⟩ := endedInstance_eq i (s.plan i.plan) hs
  refine ⟨s.endInstance i (s.plan i.plan), ?_, ?_⟩
  · simp [execInstanceComplete, instance_of_only hi hrun, hcame, hleft, withReads_of_no_bursts hs]
  · rw [endInstance_of_no_norm hnorm hamax, hended]
    exact ⟨by simp [State.queueTasks, State.setUpd, State.count, State.dropInstance, hi, delFirst], rfl, hmem⟩
end

/-! ## Failures (R195) -/

theorem plan_of_instance {s : State} {k : PlanId} {i : Instance} (h : s.instance_ k = some i) : i.plan = k := by
  have h := List.find?_some h
  simp only [Bool.and_eq_true, beq_iff_eq] at h
  exact h.1

theorem instanceComplete_fails {s : State} {k : PlanId} {i : Instance} (hi : s.instance_ k = some i)
    (hcame : i.arrived + i.gathered = (s.recvs (s.plan k)).length) (hleft : i.sent = (s.sends (s.plan k)).length) {a : Nat}
    (hread : (s.readRanges (dstRanges (s.plan k) (s.ownChunk (s.plan k)).1 (s.ownChunk (s.plan k)).2)).2 = some a) :
    execInstanceComplete k s = .next ((s.readRanges (dstRanges (s.plan k) (s.ownChunk (s.plan k)).1 (s.ownChunk (s.plan k)).2)).1.failInstance
      i causeMemory true) := by
  simp [execInstanceComplete, hi, hcame, hleft, State.withReads, hread]

/-- What a failure of a plan without a norm shows: its result's state byte, the counter and the event. -/
theorem failInstance_fails {s : State} {i : Instance} (cause : Nat) (notify : Bool) (hs : s.bursts = []) (hwf : s.mem.wf = true)
    (hnorm : (s.plan i.plan).normEn = false) :
    memByte (s.failInstance i cause notify).mem ((s.plan i.plan).dst.toNat + 1) = 3 ∧
      (s.failInstance i cause notify).hub.colInstFail = inc s.hub.colInstFail ∧
      (s.failInstance i cause notify).events.map EventReq.code = s.events.map EventReq.code ++ [evCollectiveFailed] := by
  obtain ⟨m, f, b, hfailed, hbyte⟩ := failedInstance_eq i hs hwf
  rw [failInstance_of_no_norm cause notify hnorm, hfailed]
  cases notify <;> exact ⟨hbyte, rfl, List.map_append⟩

/-- A failure of which a notice was received sends none. -/
theorem failInstance_notified {s : State} {i : Instance} (cause : Nat) (hs : s.bursts = []) (hwf : s.mem.wf = true)
    (hnorm : (s.plan i.plan).normEn = false) :
    (s.failInstance i cause false).inflight = s.inflight ∧
      (s.failInstance i cause false).instances = delFirst (fun j => decide (j = i)) s.instances := by
  obtain ⟨m, f, b, hfailed, -⟩ := failedInstance_eq i hs hwf
  rw [failInstance_of_no_norm cause false hnorm, hfailed]
  exact ⟨rfl, rfl⟩

theorem abortNotice_fails {s : State} {id : BitVec 16} {step : BitVec 32} {i : Instance}
    (hi : s.instances.find? (fun i => (s.plan i.plan).planId == id && i.step == step) = some i) :
    execCollectiveAbortNotice id step s = .next ((s.takeControl id).failInstance i causeAbort false) := by
  obtain ⟨l, htaken⟩ := takeControl_eq s id
  have hi : (s.takeControl id).instances.find? (fun i => ((s.takeControl id).plan i.plan).planId == id && i.step == step) = some i := by
    rw [htaken]
    exact hi
  simp only [execCollectiveAbortNotice, hi]

/-- Settles O29, by command, each on the engine's work where no burst holds an error. The contribution count
of a source without a header is the free value Config.sourceContrib (log 41). -/
theorem collectivesRun : Obligations.CollectivesRun := by
  unfold Obligations.CollectivesRun
  refine ⟨?_, ?_, ?_, ?_⟩
  · intro s q rest hposts p
    refine ⟨collectivePost_queues hposts, fun hbad => ⟨_, collectivePost_refuses hposts hbad, rfl, rfl, ?_⟩⟩
    simp
  · rintro s k i p hi rfl hs
    exact ⟨instanceStart_runs hi hs, fun rank x hrun => collectivePiece_takes hi hs hrun rank x,
      fun rank hrun => collectiveCredit_sends hi hs hrun rank, instanceComplete_ends hi hs⟩
  · intro s k i p hi
    refine ⟨fun hcame hleft a => instanceComplete_fails hi hcame hleft, fun hnorm hs hwf => ⟨s.failInstance i causeTimeout true, ?_, ?_⟩⟩
    · change execColTimeoutExpiry (.instance_ k) s = _
      simp only [execColTimeoutExpiry, hi]
    · obtain rfl := plan_of_instance hi
      exact failInstance_fails causeTimeout true hs hwf hnorm
  · intro s id step i hi hnorm hs hwf
    obtain ⟨l, htaken⟩ := takeControl_eq s id
    refine ⟨_, abortNotice_fails hi, ?_⟩
    rw [htaken]
    obtain ⟨hbyte, -⟩ := failInstance_fails (s := { s with inflight := l }) causeAbort false hs hwf hnorm
    exact ⟨hbyte, failInstance_notified causeAbort hs hwf hnorm⟩

end Sys2Proof.Laws

namespace Sys2Proof.Laws

/-! SUPPORT for O34. The stack controllers: how a burst is found and read for a requester, what a write leaves, the units of memory-side operations,
the scrub, and what a change of classes may touch. -/

open Sys2Proof.Machine

/-! ## An access at its stack (R231, R235, R237) -/

@[simp] theorem served_stack (s : State) (a n : Nat) :
    (s.served a n).stack (stackOf a) = { s.stack (stackOf a) with selfRefresh := false } := stack_setStack_same _ _ _
@[simp] theorem countStack_stack (s : State) (a : Nat) (f : StackState → StackState) :
    (s.countStack a f).stack (stackOf a) = f (s.stack (stackOf a)) := stack_setStack_same _ _ _
@[simp] theorem upset_stack (s : State) (a k : Nat) (e : BurstErr) : (s.upset a e).stack k = s.stack k := rfl
@[simp] theorem raiseStack_stack (s : State) (a k : Nat) (code : BitVec 16) (more : BitVec 88) : (s.raiseStack a code more).stack k = s.stack k := rfl

theorem access_of_up {s : State} {a : Nat} (h : s.memUp a = true) (m : MemAccess) : s.access a m = s.serve m := if_pos h
theorem access_of_down {s : State} {a : Nat} (h : s.memUp a = false) (m : MemAccess) :
    s.access a m = s.setStack (stackOf a) { s.stack (stackOf a) with held := (s.stack (stackOf a)).held ++ [m] } := by
  have h : (s.stack (stackOf a)).wipeDone = false := h
  simp [State.access, h]

/-- A burst's check that fails is counted and reported, and changes no class. -/
theorem readBurst_of_failed {s : State} {a : Nat} {tr : BurstErr} (h : (s.readBurst a tr).2 = false) : (s.readBurst a tr).1 = s.burstFails a := by
  unfold State.readBurst at *
  split at h
  · rfl
  · simp at h
theorem burstFails_classA (s : State) (a : Nat) : (s.burstFails a).classA a = s.classA a := by
  unfold State.burstFails
  split <;> simp [State.classA]

/-- The state in which a read finds its burst: counted as served, its parity counted, what has turned over in it turned over. -/
def burstFound (s : State) (a : Nat) (f : BurstFault) : State := ((s.served a 32).countBus a f.bus f.onDie).upset a f.upset
theorem burstFound_classA (s : State) (a : Nat) (f : BurstFault) : (burstFound s a f).classA a = s.classA a := by
  simp [burstFound, State.classA, State.countBus]

/-- A read whose command, address and data pass the parity answers what the check of its burst finds. -/
theorem serveRead_of_parity {s : State} {a : Nat} {f : BurstFault} (q : Requester) (h : f.bus ≠ .fails) :
    s.serveRead a q f = if ((burstFound s a f).readBurst a f.transient).2 then ((burstFound s a f).readBurst a f.transient).1
      else ((burstFound s a f).readBurst a f.transient).1.reqFails a (s.classA a) q := by
  simp only [State.serveRead, if_neg h]
  cases hok : ((burstFound s a f).readBurst a f.transient).2 with
  | true => exact if_pos hok
  | false =>
    have hclass : ((burstFound s a f).readBurst a f.transient).1.classA a = s.classA a := by
      rw [readBurst_of_failed hok, burstFails_classA, burstFound_classA]
    rw [← hclass]
    exact if_neg (Bool.eq_false_iff.mp hok)

/-! ## Bursts without an error -/

theorem taken_errZero (classA : Bool) : taken classA errZero = some errZero := by
  cases classA
  · simp [taken, errZero, errPlaces, errBits, maskBits]
  · simp [taken, errZero, crc16_zero]

theorem errXor_errZero : errXor errZero errZero = errZero := by simp [errXor, errZero]
theorem burstCheck_errZero (classA : Bool) : burstCheck classA errZero errZero = .clean := by simp [burstCheck, taken_errZero]

section
variable {s : State} (hs : s.bursts = [])
include hs

theorem burst_of_no_bursts (a : Nat) : s.burst a = errZero := by simp [State.burst, hs, tGet, tFind]
/-- Where nothing turns over nothing changes. -/
theorem upset_errZero (a : Nat) : s.upset a errZero = s := by
  have hkeep : ({ s with bursts := [] } : State) = s := by rw [← hs]
  have hdata : errZero.data = 0 := rfl
  simp only [State.upset, burst_of_no_bursts hs, errXor_errZero, taken_errZero, Option.getD_some, hdata, if_true, hs, tDel]
  exact hkeep
theorem readBurst_errZero (a : Nat) : s.readBurst a errZero = (s, true) := by
  simp only [State.readBurst, burst_of_no_bursts hs, errXor_errZero, burstCheck_errZero, State.burstOk]
end

/-- A stack set to what it holds after it has been set is as it was. -/
theorem setStack_stack_setStack (s : State) (k : Nat) (x : StackState) : (s.setStack k x).setStack k ((s.setStack k x).stack k) = s.setStack k x := by
  rw [stack_setStack_same]
  simp only [State.setStack, tSet_tSet]
/-- Parity that passes at a stack just served counts nothing. -/
theorem countBus_served (s : State) (a n : Nat) : (s.served a n).countBus a .ok false = s.served a n :=
  congrArg (fun t : State => t.count fun h => { h with memAll := satAdd h.memAll n }) (setStack_stack_setStack _ _ _)

theorem burstFound_clean {s : State} (hs : s.bursts = []) (a : Nat) : burstFound s a ⟨⟨0, 0⟩, ⟨0, 0⟩, .ok, false⟩ = s.served a 32 := by
  unfold burstFound
  rw [countBus_served]
  exact upset_errZero (s := s.served a 32) hs a

/-! ## MEMORY_READ -/

section
variable {s : State} {addr : Addr} {q : Requester} {f : BurstFault} (hacts : s.reqActs q = true)
include hacts

theorem memoryRead_refused (h : s.reqAllowed (addr.toNat / 32 * 32) 32 q = false) : execMemoryRead addr q f s = .next (s.reqRefused q) := by
  simp [execMemoryRead, hacts, h]

variable (hallowed : s.reqAllowed (addr.toNat / 32 * 32) 32 q = true) (hmem : inStacked (addr.toNat / 32 * 32) 32 = true)
include hallowed hmem

theorem memoryRead_reaches : execMemoryRead addr q f s = .next (s.access (addr.toNat / 32 * 32) (.read addr q f)) := by
  simp [execMemoryRead, hacts, hallowed, hmem]
theorem memoryRead_serves (hup : s.memUp (addr.toNat / 32 * 32) = true) :
    execMemoryRead addr q f s = .next (s.serveRead (addr.toNat / 32 * 32) q f) := by
  rw [memoryRead_reaches hacts hallowed hmem, access_of_up hup]
  rfl
end

/-- The check of a class W burst that fails counts it and raises MEM_UNCORRECTABLE (R231). -/
theorem readBurst_uncorrectable {s : State} {a : Nat} {f : BurstFault} (hfails : ((burstFound s a f).readBurst a f.transient).2 = false)
    (hclass : s.classA a = false) :
    (((burstFound s a f).readBurst a f.transient).1.stack (stackOf a)).wUncorr = inc (s.stack (stackOf a)).wUncorr ∧
      ((burstFound s a f).readBurst a f.transient).1.events.map EventReq.code = s.events.map EventReq.code ++ [evMemUncorrectable] := by
  rw [readBurst_of_failed hfails, State.burstFails, if_neg (by simp [burstFound_classA, hclass])]
  exact ⟨by simp [burstFound, State.countBus], List.map_append⟩

/-! ## MEMORY_WRITE (R450) -/

theorem getElem_memRead (m : Memory) (a n i : Nat) (h : i < (memRead m a n).length) : (memRead m a n)[i] = memByte m (a + i) := by
  induction n generalizing a i with
  | zero => simp [memRead] at h
  | succ n ih =>
    cases i with
    | zero => rfl
    | succ i => simpa [memRead, Nat.add_assoc, Nat.add_comm 1 i] using ih (a + 1) i (by simpa [memRead] using h)
/-- Bytes put back: a byte that reads alike in both memories keeps its value. -/
theorem memByte_putBack {m old : Memory} (a n : Nat) {c : Nat} (hwf : m.wf = true) (h : memByte m c = memByte old c) :
    memByte (memWrite m a (memRead old a n)) c = memByte old c := by
  by_cases hc : c < a ∨ a + n ≤ c
  · rw [memByte_memWrite_outside _ _ _ _ (by simpa using hc), h]
  · obtain ⟨i, rfl⟩ : ∃ i, c = a + i := ⟨c - a, by omega⟩
    rw [memByte_memWrite_inside _ _ _ _ hwf (by rw [memRead_length]; omega), getElem_memRead]

/-- A burst's merge leaves each byte that the write has not changed: where it fails the old bytes are put back (R450). -/
theorem memByte_wroteBurst {s : State} {old : Memory} (rs : List Range) (a : Nat) {c : Nat} (hwf : s.mem.wf = true)
    (hc : memByte s.mem c = memByte old c) : memByte (s.wroteBurst old rs a).mem c = memByte old c := by
  have hread : memByte (s.readBurst a errZero).1.mem c = memByte old c := by rw [readBurst_mem]; exact hc
  have hback : memByte (memWrite (s.readBurst a errZero).1.mem a (memRead old a 32)) c = memByte old c :=
    memByte_putBack a 32 (by rw [readBurst_mem]; exact hwf) hread
  simp only [State.wroteBurst, ite_mem, cleanBurst_mem, raiseStack_mem]
  split
  · exact hc
  · split
    · exact hread
    · simpa using hback

/-- A write leaves every byte outside its range. -/
theorem memByte_put_outside {s : State} {a c : Nat} {bs : List Byte} (hwf : s.mem.wf = true) (hc : c < a ∨ a + bs.length ≤ c) :
    memByte (s.put a bs).mem c = memByte s.mem c := by
  unfold State.put State.wrote
  refine (List.foldlRecOn (motive := fun t : State => t.mem.wf = true ∧ memByte t.mem c = memByte s.mem c) _ _
    ⟨memWrite_wf bs s.mem a hwf, memByte_memWrite_outside bs s.mem a c hc⟩ ?_).2
  rintro t ⟨ht, hbyte⟩ b -
  exact ⟨wroteBurst_wf t _ _ _ ht, memByte_wroteBurst _ _ ht hbyte⟩

section
variable {s : State} {addr : Addr} {q : Requester} {data : List Byte} (hacts : s.reqActs q = true) (hlen : 0 < data.length)
  (hgranule : addr.toNat % 256 + data.length ≤ 256) (hfree : s.reqLocked addr.toNat data.length q = false)
include hacts hlen hgranule hfree

theorem memoryWrite_refused (h : s.reqAllowed addr.toNat data.length q = false) :
    execMemoryWrite addr ⟨data, .ok⟩ q s = .next (s.reqRefused q) := by
  simp [execMemoryWrite, hacts, h, hgranule, hfree, hlen]
theorem memoryWrite_puts (h : s.reqAllowed addr.toNat data.length q = true) (hmem : inStacked addr.toNat data.length = true)
    (hup : s.memUp addr.toNat = true) :
    execMemoryWrite addr ⟨data, .ok⟩ q s = .next (((s.served addr.toNat data.length).countBus addr.toNat .ok false).put addr.toNat data) := by
  simp [execMemoryWrite, hacts, h, hgranule, hfree, hlen, hmem, access_of_up hup]
  rfl
end

/-! ## MEMORY_SIDE_OPERATION (R176) -/

theorem struck_msoMay (s : State) (rs : List Range) (hit : BurstErr) (m : MemSideOp) : (s.struck rs hit).msoMay m = s.msoMay m := by
  obtain ⟨_, _, h⟩ := struck_eq s rs hit
  rw [h]
  rfl

section
variable {s : State} {m : MemSideOp} {rest : List MemSideOp} {u : Nat} (hmsos : s.msos = m :: rest) (hunit : msoUnit m.op = some u)
  (hgoes : s.msoWaits m u = false)
include hmsos hunit hgoes

theorem memorySideOperation_runs (h k : BurstErr) :
    execMemorySideOperation h k s = .next ((((s.struck (msoSources m u) h).struck (msoTargets m u) k).msoUnitRun m u).msoNext m u) := by
  simp [execMemorySideOperation, hmsos, hunit, hgoes]
end

theorem msoUnitRun_refused {s : State} {m : MemSideOp} {u : Nat} (h : (msoTargets m u ++ msoSources m u).all (s.msoMay m) = false) :
    s.msoUnitRun m u = s.msoRefuse m := by
  simp [State.msoUnitRun, h]

@[simp] theorem toGuest_msos (s : State) (r : GuestResponse) : (s.toGuest r).msos = s.msos := rfl
@[simp] theorem msoFlags_msos (s : State) (m : MemSideOp) (invalid saturated : Bool) : (s.msoFlags m invalid saturated).msos = s.msos := by
  unfold State.msoFlags
  split <;> rfl
theorem msoDone_msos (s : State) (m : MemSideOp) : (s.msoDone m).msos = s.msos.tail := by
  unfold State.msoDone
  extract_lets t
  split <;> rfl
/-- The queue of operations after a unit: the oldest goes on, or has left. -/
theorem msoNext_msos (s : State) (m : MemSideOp) (u : Nat) :
    (s.msoNext m u).msos = if m.done + u < m.len then { m with done := m.done + u } :: s.msos.tail else s.msos.tail := by
  unfold State.msoNext
  split
  · rfl
  · exact msoDone_msos s m

theorem errorsIn_append_nil {s : State} {rs qs : List Range} (h : s.errorsIn (rs ++ qs) = []) : s.errorsIn rs = [] ∧ s.errorsIn qs = [] := by
  simp only [State.errorsIn, List.filter_eq_nil_iff, List.any_append, Bool.or_eq_true, not_or] at h ⊢
  exact ⟨fun a ha => (h a ha).1, fun a ha => (h a ha).2⟩

/-- An allowed unit whose bursts hold no error puts its result in memory. -/
theorem msoUnitRun_applies {s : State} {m : MemSideOp} {u : Nat} (hmay : (msoTargets m u ++ msoSources m u).all (s.msoMay m) = true)
    (hclean : s.errorsIn (msoTargets m u ++ msoSources m u) = []) :
    (s.msoUnitRun m u).mem = (s.msoApply m).1 ∧ (s.msoUnitRun m u).msos = s.msos := by
  obtain ⟨htargets, hsources⟩ := errorsIn_append_nil hclean
  have hsrc := readRanges_clean (s.served (m.target + m.done) u) (msoSources m u) hsources
  have hdst := readRanges_clean (s.served (m.target + m.done) u) (msoTargets m u) htargets
  have hleft (w : Memory) : ({ s.served (m.target + m.done) u with mem := w } : State).errorsIn (msoTargets m u) = [] := htargets
  simp only [State.msoUnitRun, hmay, hsrc, hdst, hleft, Bool.not_true, Bool.false_eq_true, if_false, List.foldl_nil]
  exact ⟨by rw [msoFlags_mem]; rfl, by rw [msoFlags_msos]; rfl⟩

/-! ## PATROL_SCRUB_BURST (R233) -/

section
variable {s : State} {addr : Addr} {f : BurstFault}

theorem patrolScrubBurst_classA (h : s.classA (addr.toNat / 32 * 32) = true) : execPatrolScrubBurst addr f s = .next s := by
  simp [execPatrolScrubBurst, h]

variable (hmem : inStacked (addr.toNat / 32 * 32) 32 = true) (hup : s.memUp (addr.toNat / 32 * 32) = true)
  (hself : (s.stack (stackOf (addr.toNat / 32 * 32))).selfRefresh = false) (hclass : s.classA (addr.toNat / 32 * 32) = false) (hbus : f.bus ≠ .fails)
include hmem hup hself hclass hbus

/-- The scrub's read of a class W burst, by what its check finds. -/
theorem patrolScrubBurst_reads {chk : BurstCheck} :
    let a := addr.toNat / 32 * 32
    let u := (s.countBus a f.bus f.onDie).upset a f.upset
    burstCheck false (errXor (u.burst a) f.transient) (u.burst a) = chk →
    execPatrolScrubBurst addr f s = .next (if chk = .fails then u.scrubFails a
      else if scrubFixes chk (u.burst a) then ((u.burstOk a chk).cleanBurst a).countStack a fun x => { x with scrubFix := inc x.scrubFix }
      else u.burstOk a chk) := by
  rintro a u rfl
  simp only [execPatrolScrubBurst, hmem, hup, hself, hclass, Bool.not_false, Bool.and_self, when_true, hbus, decide_false, Bool.false_or,
    decide_eq_true_eq]
  rfl
end

/-! ## CLASS_SWITCH (R234) -/

/-- A burst lies on one stack. -/
theorem stackOf_of_burst {a c : Nat} (ha : a % 32 = 0) (hc : a ≤ c ∧ c < a + 32) : stackOf c = stackOf a := by
  simp only [stackOf, interleave, regionBytes, Nat.shiftRight_eq_div_pow]
  omega

theorem memByte_memPutNat_outside (m : Memory) (a n v c : Nat) (hc : c < a ∨ a + n ≤ c) : memByte (memPutNat m a n v) c = memByte m c :=
  memByte_memWrite_outside _ _ _ _ (by simpa using hc)
/-- Bits that turn over do so within their burst. -/
theorem memByte_upset_outside (s : State) (a c : Nat) (e : BurstErr) (hc : c < a / 32 * 32 ∨ a / 32 * 32 + 32 ≤ c) :
    memByte (s.upset a e).mem c = memByte s.mem c := by
  simp only [State.upset]
  split
  · rfl
  · exact memByte_memPutNat_outside _ _ _ _ _ hc

/-- Bytes of one stack alone change, with the errors of bursts, and free values are drawn. -/
def StackUndefined (k : Nat) (s t : State) : Prop :=
  ∃ m e n, t = { s with mem := m, bursts := e, freeCount := n } ∧ ∀ c, stackOf c ≠ k → memByte m c = memByte s.mem c
theorem StackUndefined.trans {k : Nat} {s t u : State} (h : StackUndefined k s t) (g : StackUndefined k t u) : StackUndefined k s u := by
  obtain ⟨m, e, n, rfl, hm⟩ := h
  obtain ⟨m', e', n', rfl, hm'⟩ := g
  exact ⟨m', e', n', rfl, fun c hc => (hm' c hc).trans (hm c hc)⟩

theorem upset_undefined (s : State) {a : Nat} (ha : a % 32 = 0) (e : BurstErr) : StackUndefined (stackOf a) s (s.upset a e) := by
  refine ⟨(s.upset a e).mem, (s.upset a e).bursts, s.freeCount, rfl, fun c hc => memByte_upset_outside s a c e ?_⟩
  by_contra hin
  exact hc (stackOf_of_burst ha (by omega))
theorem memPutNat_undefined (s : State) {a : Nat} (ha : a % 32 = 0) (v : Nat) :
    StackUndefined (stackOf a) s { s with mem := memPutNat s.mem a 32 v } := by
  refine ⟨_, s.bursts, s.freeCount, rfl, fun c hc => memByte_memPutNat_outside _ _ _ _ _ ?_⟩
  by_contra hin
  exact hc (stackOf_of_burst ha (by omega))
theorem free_undefined (k : Nat) (s : State) : StackUndefined k s s.free.2 := ⟨s.mem, s.bursts, s.freeCount + 1, rfl, fun _ _ => rfl⟩
theorem free256_undefined (k : Nat) (s : State) : StackUndefined k s s.free256.2 :=
  (free_undefined k s).trans ((free_undefined k _).trans ((free_undefined k _).trans (free_undefined k _)))
theorem cleanBurst_undefined (k : Nat) (s : State) (a : Nat) : StackUndefined k s (s.cleanBurst a) :=
  ⟨s.mem, tDel s.bursts (a / 32), s.freeCount, rfl, fun _ _ => rfl⟩
theorem undefineBurst_undefined (s : State) {a : Nat} (ha : a % 32 = 0) : StackUndefined (stackOf a) s (s.undefineBurst a) :=
  have hdrawn := (free256_undefined (stackOf a) s).trans ((free256_undefined _ _).trans (free_undefined _ _))
  (hdrawn.trans (memPutNat_undefined _ ha _)).trans ((cleanBurst_undefined _ _ a).trans (upset_undefined _ ha _))

theorem mem_stackBursts {k a : Nat} {gibs : List Nat} (h : a ∈ stackBursts k gibs) : a % 32 = 0 ∧ stackOf a = k := by
  unfold stackBursts at h
  obtain ⟨g, -, h⟩ := List.mem_flatMap.mp h
  obtain ⟨h, hk⟩ := List.mem_filter.mp h
  obtain ⟨i, -, rfl⟩ := List.mem_map.mp h
  exact ⟨by omega, of_decide_eq_true hk⟩

/-- The controller of a stack takes the classes of MEM_CLASS_MAP; what changes in memory lies on its stack. -/
theorem classSwitch_switches (s : State) {k : Nat} (hk : k < 12) :
    ∃ t, execClassSwitch k s = .next t ∧ StackUndefined k (s.setStack k { s.stack k with classMap := s.classMap }) t := by
  unfold execClassSwitch
  rw [decide_eq_true hk, when_true]
  refine ⟨_, rfl, ?_⟩
  refine List.foldlRecOn (motive := StackUndefined k _) _ _ ⟨_, _, _, rfl, fun _ _ => rfl⟩ fun t ht a ha => ?_
  obtain ⟨hburst, rfl⟩ := mem_stackBursts ha
  exact ht.trans (undefineBurst_undefined t hburst)

/-! ## Refresh (R235) -/

theorem selfRefreshEntry_enters {s : State} {k : Nat} (hk : k < 12) (hwipe : (s.stack k).wipeDone = true) (hself : (s.stack k).selfRefresh = false)
    (hheld : (s.stack k).held = []) (hidle : ∀ m ∈ s.msos, stackOf (m.target + m.done) ≠ k) : execSelfRefreshEntry k s =
      .next ((s.setStack k { s.stack k with allBank := (s.stack k).allBank + 1, selfRefresh := true }).emit (.refreshAll k)) := by
  have hidle : (s.msos.any fun m => stackOf (m.target + m.done) == k) = false := by simpa [List.any_eq_false] using hidle
  simp [execSelfRefreshEntry, hk, hwipe, hself, hheld, hidle]
theorem refreshManagementRequest_refreshes (s : State) {k : Nat} (hk : k < 12) : execRefreshManagementRequest k s =
    .next ((s.setStack k { s.stack k with refreshManagement := (s.stack k).refreshManagement + 1 }).emit (.refresh k)) := by
  simp [execRefreshManagementRequest, hk]
theorem perBankRefresh_refreshes {s : State} {k : Nat} (hk : k < 12) (hself : (s.stack k).selfRefresh = false) : execPerBankRefresh k s =
    .next ((s.setStack k { s.stack k with refreshes := (s.stack k).refreshes + 1 }).emit (.refresh k)) := by
  simp [execPerBankRefresh, hk, hself]

/-- Settles O34, by command. Which counters a correcting scrub moves is log 111 (its read counts as any other), the moment of self
refresh is log 112 (the model's choice), and what a command's hit names is log 139. -/
theorem memoryServes : Obligations.MemoryServes := by
  unfold Obligations.MemoryServes
  refine ⟨?_, ?_, ?_, ?_, ?_⟩
  · intro s addr q f a u r hacts
    refine ⟨memoryRead_refused hacts, fun hallowed hmem => ⟨fun hdown => ?_, fun hup hs hf => ?_, fun hup hbus => ?_, ?_⟩⟩
    · exact (memoryRead_reaches hacts hallowed hmem).trans (congrArg Host.Outcome.next (access_of_down hdown _))
    · refine (memoryRead_serves hacts hallowed hmem hup).trans (congrArg Host.Outcome.next ?_)
      rw [serveRead_of_parity q (by rw [hf]; simp), hf, burstFound_clean hs, show (⟨0, 0⟩ : BurstErr) = errZero from rfl,
        readBurst_errZero (s := s.served a 32) hs]
      rfl
    · exact (memoryRead_serves hacts hallowed hmem hup).trans (congrArg Host.Outcome.next (serveRead_of_parity q hbus))
    · rintro hup hbus hfails hclass rfl
      refine ⟨r.1, ?_, readBurst_uncorrectable hfails hclass⟩
      refine (memoryRead_serves hacts hallowed hmem hup).trans (congrArg Host.Outcome.next ?_)
      rw [serveRead_of_parity _ hbus]
      exact if_neg (Bool.eq_false_iff.mp hfails)
  · intro s addr data q a hacts hlen hgranule hfree
    refine ⟨memoryWrite_refused hacts hlen hgranule hfree, fun hallowed hmem hup hwf =>
      ⟨_, memoryWrite_puts hacts hlen hgranule hfree hallowed hmem hup, ?_⟩⟩
    refine ⟨fun hclean => ?_, fun b hb => memByte_put_outside (s := (s.served a data.length).countBus a .ok false) hwf hb⟩
    rw [put_clean ((s.served a data.length).countBus a .ok false) a data hclean]
    rfl
  · intro s m rest u h k w hmsos hunit hgoes
    have hruns := memorySideOperation_runs hmsos hunit hgoes h k
    have hmay : w.msoMay m = s.msoMay m := (struck_msoMay _ _ _ m).trans (struck_msoMay _ _ _ m)
    rw [← hmay]
    refine ⟨fun hrefused => ?_, fun hallowed hclean => ⟨_, hruns, ?_⟩⟩
    · rw [← msoUnitRun_refused hrefused]
      exact hruns
    · obtain ⟨hmem, hqueue⟩ := msoUnitRun_applies hallowed hclean
      have hqueue : (w.msoUnitRun m u).msos = m :: rest := by rw [hqueue, State.struck_msos, State.struck_msos, hmsos]
      exact ⟨by rw [msoNext_mem, hmem], by rw [msoNext_msos, hqueue]; rfl⟩
  · intro s addr f a u chk hmem hup hself
    refine ⟨patrolScrubBurst_classA, fun hclass hbus => ?_⟩
    have hreads {c : BurstCheck} := patrolScrubBurst_reads hmem hup hself hclass hbus (chk := c)
    exact ⟨hreads, hreads, hreads⟩
  · intro s k hk x
    refine ⟨?_, selfRefreshEntry_enters hk, refreshManagementRequest_refreshes s hk, perBankRefresh_refreshes hk⟩
    obtain ⟨t, hexec, m, e, n, rfl, hbytes⟩ := classSwitch_switches s hk
    exact ⟨_, hexec, stack_setStack_same _ _ _, hbytes⟩

end Sys2Proof.Laws

namespace Sys2Proof.Laws

/-! SUPPORT for O31. Permutations: what PERMUTE_START records, how a move starts and lands, and the waits that run out. -/

open Sys2Proof.Machine

/-! ## PERMUTE_START (R193) -/

/-- The entries that leave or reach this package, as a permutation records them: fixed entries count as landed. -/
def ownEntries (s : State) (es : List PermEntry) : List (PermEntry × PermState) :=
  (es.filter fun e => e.srcDev == s.deviceId || e.dstDev == s.deviceId).map fun e =>
    (e, if e.pos = 1#16 ∧ e.last = true then PermState.landed else PermState.waiting)

theorem permuteStart_starts {s : State} {r : Running} {g : BitVec 8} {table : Addr} {n : BitVec 32} {staging : Addr} {size : BitVec 64}
    (h : s.carries r opPermute .own = true) (hg : g.toNat < 64) (hvalid : (s.group (g.setWidth 6)).valid = true)
    (hidle : (s.stages.any fun e => e.2.valid && e.2.partition == r.part && (e.2.inflight != 0#16 || e.2.admitEn || !e.2.pinned)) = false)
    (htable : (s.part r.part).hasStacked table.toNat (32 * n.toNat) = true)
    (hsources : ∀ e ∈ permTable s.mem table.toNat n.toNat, e.srcDev = s.deviceId →
      (s.part r.part).hasStacked e.srcAddr.toNat e.length.toNat = true ∧
      (e.pos = 1 → e.last = false → e.length.toNat ≤ size.toNat))
    (hstaging : size.toNat = 0 ∨ (s.part r.part).hasStacked staging.toNat size.toNat = true) :
    execPermuteStart g table n staging size s = .next ((s.taken.startBg r).putPermute
      ⟨r.part, r.seq, false, ownEntries s (permTable s.mem table.toNat n.toNat), false, staging.toNat, size.toNat, [], []⟩) := by
  have hmine : ∀ e ∈ (permTable s.mem table.toNat n.toNat).filter (fun e => e.srcDev == s.deviceId),
      (s.part r.part).hasStacked e.srcAddr.toNat e.length.toNat = true ∧ (e.pos = 1 → e.last = false → e.length.toNat ≤ size.toNat) :=
    fun e he => hsources e (List.mem_filter.mp he).1 (by simpa using (List.mem_filter.mp he).2)
  refine cmd_of_unrefused h rfl ?_
  simp only [List.forall_mem_cons]
  refine ⟨decide_eq_false (by omega), ?_, hidle, ?_, ?_, ?_, ?_, by simp⟩
  · have hvalid : (s.taken.group (g.setWidth 6)).valid = true := hvalid
    simp [hvalid]
  · simp [taken_part, htable]
  · exact List.any_eq_false.mpr fun e he => by simp [taken_part, (hmine e he).1]
  · rcases hstaging with hzero | hin
    · simp [hzero]
    · simp [taken_part, hin]
  · refine List.any_eq_false.mpr fun e he hbad => ?_
    simp only [Bool.and_eq_true, beq_iff_eq, Bool.not_eq_true', decide_eq_true_eq] at hbad
    obtain ⟨⟨hpos, hlast⟩, hlong⟩ := hbad
    exact Nat.not_lt.mpr ((hmine e he).2 hpos hlast) hlong

/-! ## Moves (R194) -/

theorem permuteMoveLanded_lands {s : State} {c : BitVec 32} {pos : BitVec 16} {x : Permute} {e : PermEntry} {got : Nat}
    (hmove : s.findMove c pos = some (x, e, .moving got)) (hpos : e.pos ≠ 1) (hdst : e.dstDev = s.deviceId)
    (hclean : s.errorsIn [⟨x.target e, e.length.toNat⟩] = []) :
    let u := ({ s with mem := memWrite s.mem (x.target e) (memRead s.mem e.srcAddr.toNat e.length.toNat) } : State).count fun h =>
      { h with colPermuteMoves := inc h.colPermuteMoves }
    execPermuteMoveLanded c pos s =
      .next ((u.vacated (x.mark e .landed) c pos).1.putPermute (u.vacated (x.mark e .landed) c pos).2) := by
  have hput := put_clean s (x.target e) (memRead s.mem e.srcAddr.toNat e.length.toNat) (by rw [memRead_length]; exact hclean)
  have hpos : e.pos ≠ 1#16 := hpos
  intro u
  simp only [execPermuteMoveLanded, hmove, hdst, if_true, hput, hpos, if_false, u]

/-- A move whose source holds no error starts: its data leaves where it goes to another package. -/
theorem startMove_clean {s : State} {x : Permute} {e : PermEntry} (h : s.errorsIn [⟨e.srcAddr.toNat, e.length.toNat⟩] = []) :
    s.startMove x e = (if e.dstDev = s.deviceId then s
      else s.ship (.move e.cycle e.pos e.dstDev (memRead s.mem e.srcAddr.toNat e.length.toNat)), x.mark e (.moving 0)) := by
  simp [State.startMove, readRanges_clean s _ h]

theorem vacateNotice_starts {s : State} {c : BitVec 32} {pos : BitVec 16} {x : Permute} {e : PermEntry}
    (hmove : s.findMove c (pos - 1) = some (x, e, .waiting)) (hlast : e.last = false)
    (hclean : s.errorsIn [⟨e.srcAddr.toNat, e.length.toNat⟩] = []) :
    let u := s.unship (isControl 0x06 c e.dstDev)
    execVacateNotice c pos s = .next ((if e.dstDev = s.deviceId then u
      else u.ship (.move e.cycle e.pos e.dstDev (memRead s.mem e.srcAddr.toNat e.length.toNat))).putPermute (x.mark e (.moving 0))) := by
  have hstart := startMove_clean (s := s.unship (isControl 0x06 c e.dstDev)) (x := x) hclean
  simp only [execVacateNotice, hmove, hlast, Bool.not_false, when_true, hstart]
  rfl

/-! ## Waits that run out (R195) -/

theorem colTimeoutExpiry_permute {s : State} {c : BitVec 32} {x : Permute}
    (h : s.permutes.find? (fun x => x.entries.any fun e => e.1.cycle == c && e.1.srcDev == s.deviceId && decide (e.2 ≠ .landed)) = some x) :
    execColTimeoutExpiry (.permute c) s = .next ((s.failCycle x c).1.putPermute (s.failCycle x c).2) := by
  simp only [execColTimeoutExpiry, h]

theorem colTimeoutExpiry_scalar {s : State} {x : Scalar} (hscalars : s.scalars = [x]) (hresult : x.result = none) :
    execColTimeoutExpiry (.scalar x.use x.group) s = .next (s.failScalar x) := by
  simp [execColTimeoutExpiry, hscalars, hresult]

/-- Settles O31, by command: each fact above is the clause for its own. -/
theorem permutationsMove : Obligations.PermutationsMove := by
  unfold Obligations.PermutationsMove
  exact ⟨fun _ _ _ _ _ _ _ => permuteStart_starts, fun _ _ _ _ _ _ => permuteMoveLanded_lands, fun _ _ _ _ _ => vacateNotice_starts,
    fun _ _ _ => colTimeoutExpiry_permute, fun _ _ => colTimeoutExpiry_scalar⟩

end Sys2Proof.Laws

namespace Sys2Proof.Laws

/-! SUPPORT for O32. What accesses to memory leave of the regions, and the events of an update task: its start, its groups,
its completion and its interruption (R202 to R211). -/

open Sys2Proof.Machine

/-! ## What leaves the regions as they are -/

theorem readBurst_regions (s : State) (a : Nat) (tr : BurstErr) : (s.readBurst a tr).1.regions = s.regions := by
  obtain ⟨k, v, h⟩ := readBurst_eq s a tr
  rw [h]
theorem wroteBurst_regions (s : State) (old : Memory) (rs : List Range) (a : Nat) : (s.wroteBurst old rs a).regions = s.regions := by
  simp only [State.wroteBurst, apply_ite State.regions, State.cleanBurst, State.raiseStack, State.raise_regions, readBurst_regions, ite_self]
@[simp] theorem put_regions (s : State) (a : Nat) (bs : List Byte) : (s.put a bs).regions = s.regions :=
  foldl_keeps State.regions _ _ _ fun t b => wroteBurst_regions t _ _ b
@[simp] theorem put_region (s : State) (a : Nat) (bs : List Byte) (r : RegionId) : (s.put a bs).region r = s.region r := by
  simp only [State.region, put_regions]
@[simp] theorem struck_region (s : State) (rs : List Range) (hit : BurstErr) (r : RegionId) : (s.struck rs hit).region r = s.region r := by
  simp only [State.region, State.struck_regions]
/-- A region's update unit read after it is written. -/
@[simp] theorem setUpd_upd (s : State) (r : RegionId) (u : UpdateUnit) : ((s.setUpd r u).region r).upd = u := by
  rw [State.setUpd, region_setRegion_same]

/-! ## UPDATE_TASK_START (R202 to R204) -/

/-- The run of a task that neither clips nor counts nominally and that has contributions, with its scalars (R203, R204). -/
def unclippedRun (s : State) (rg : RegionId) (k : Nat) (c : BitVec 32) (t : TaskEntry) : RunTask :=
  let p := s.taskParam rg t
  let contrib := BitVec.ofNat 32 (memNat s.mem (s.taskHeader t + 12) 4)
  let n := (c - t.step0 + 1).toNat
  { task := k, entry := t, param := p, step := c
    gs := (f32Mul (f32Div f32One (f32OfNat contrib.toNat)).1 f32One).1
    lr := (f32Mul (schedule (s.taskSegs rg p) c.toNat) (paramLrMult p)).1
    c1 := biasCorr (paramBias p) (paramBeta1 p) n, c2 := biasCorr (paramBias p) (paramBeta2 p) n
    group := 0, skip := false, coded := [], series := [], nonfinite := 0, asked := false, slow := [], readback := 0
    prog := if t.opt = 0b11#2 then s.taskProg t else [], scaled := false }
/-- It starts at group 0, nothing of it skipped, with the scalars of R203 and R204. -/
theorem unclippedRun_fields (s : State) (rg : RegionId) (k : Nat) (c : BitVec 32) (t : TaskEntry) :
    let x := unclippedRun s rg k c t
    let p := s.taskParam rg t
    x.task = k ∧ x.step = c ∧ x.entry = t ∧ x.group = 0 ∧ x.skip = false ∧ x.scaled = false ∧
      x.gs = (f32Mul (f32Div f32One (f32OfNat (BitVec.ofNat 32 (memNat s.mem (s.taskHeader t + 12) 4)).toNat)).1 f32One).1 ∧
      x.lr = (f32Mul (schedule (s.taskSegs rg p) c.toNat) (paramLrMult p)).1 ∧
      x.c1 = biasCorr (paramBias p) (paramBeta1 p) (c - t.step0 + 1).toNat ∧
      x.c2 = biasCorr (paramBias p) (paramBeta2 p) (c - t.step0 + 1).toNat := by
  simp only [unclippedRun, and_self]

section
variable {s : State} {rg : RegionId} {k : Nat} {c : BitVec 32} {t : TaskEntry}

/-- A task that neither clips nor exports, with contributions, starts its run and leaves the queue; the update unit changes, nothing else. -/
theorem startTask_unclipped {v : VEntry} (hclip : t.clipEn = false) (hexport : t.exportEn = false) (hcount : t.countMode = false)
    (hcontrib : BitVec.ofNat 32 (memNat s.mem (s.taskHeader t + 12) 4) ≠ 0) :
    ∃ u : UpdateUnit, s.startTask rg k c t v = s.setUpd rg u ∧ u.run = some (unclippedRun s rg k c t) ∧
      u.queue = (s.region rg).upd.queue.tail := by
  have hskip : (BitVec.ofNat 32 (memNat s.mem (s.taskHeader t + 12) 4) == 0#32) = false := beq_eq_false_iff_ne.mpr hcontrib
  simp only [State.startTask, hclip, hexport, hcount, hskip, Bool.not_false, Bool.true_and, Bool.false_and, Bool.or_self, Bool.false_eq_true,
    if_false, gsOf]
  exact ⟨_, rfl, rfl, rfl⟩

/-- The head of the queue starts where its slot is ready, its version current, and all it needs may be reached and read. -/
theorem updateTaskStart_starts {rest : List (Nat × BitVec 32)} (hqueue : (s.region rg).upd.queue = (k, c) :: rest)
    (hrun : (s.region rg).upd.run = none) (hfenced : (s.region rg).fenced = false) (hclip : (s.task rg k).clipEn = false)
    (hopt : (s.task rg k).opt ≠ 3) (hcur : (ventryAt s.mem (s.task rg k).ventry.toNat).curVersion = c)
    (hready : (s.region rg).upd.slotReady = some k)
    (hallowed : s.taskAllowed (s.task rg k) (ventryAt s.mem (s.task rg k).ventry.toNat) = true)
    (hclean : s.errorsIn (s.startReads (s.task rg k)) = []) :
    execUpdateTaskStart rg s = .next (s.startTask rg k c (s.task rg k) (ventryAt s.mem (s.task rg k).ventry.toNat)) := by
  have hopt : (s.task rg k).opt ≠ 0b11#2 := hopt
  have hbegin : s.beginTask rg k c (s.task rg k) (ventryAt s.mem (s.task rg k).ventry.toNat) =
      s.startTask rg k c (s.task rg k) (ventryAt s.mem (s.task rg k).ventry.toNat) := by
    simp [State.beginTask, hallowed, readRanges_clean s _ hclean, hopt]
  simp [execUpdateTaskStart, hqueue, hrun, hfenced, hclip, hcur, hready, hbegin]
end

/-! ## UPDATE_GROUP (R206) -/

section
variable {s : State} {rg : RegionId} {x : RunTask}

/-- A group of a task of stacked memory that exports nothing runs once its reads find no error. -/
theorem updateGroup_runs {f1 f2 : Bool} {hit : BurstErr} (hrun : (s.region rg).upd.run = some x) (hexport : x.entry.exportEn = false)
    (hslow : slowTier x.entry = false) (hmore : x.group < (ventryAt s.mem x.entry.ventry.toNat).groups)
    (hclean : (s.struck (s.groupReads x.entry (ventryAt s.mem x.entry.ventry.toNat) x.group) hit).errorsIn
      (s.groupReads x.entry (ventryAt s.mem x.entry.ventry.toNat) x.group) = []) :
    execUpdateGroup rg f1 f2 hit s = .next ((s.struck (s.groupReads x.entry (ventryAt s.mem x.entry.ventry.toNat) x.group) hit).runGroup rg
      x.entry (ventryAt s.mem x.entry.ventry.toNat) x f1 f2) := by
  have hroom : s.exportFull x.entry = false := by simp [State.exportFull, hexport]
  simp [execUpdateGroup, hrun, hmore, hroom, hslow, readRanges_clean _ _ hclean]

/-- What two computations that agree at first, at the second attempt, or not at all, come to (R206). -/
theorem runGroup_outcomes (s : State) (rg : RegionId) (t : TaskEntry) (v : VEntry) (x : RunTask) :
    s.runGroup rg t v x true true = s.writeGroup rg t v x ∧
    s.runGroup rg t v x false true = ((s.setUpd rg { (s.region rg).upd with dupRetry := inc (s.region rg).upd.dupRetry }).raise t.partition
      evUpdateRetry 2 (unitRegion rg 5 x.task) (det 168 x.step.toNat ||| det 200 x.group)).writeGroup rg t v x ∧
    s.runGroup rg t v x false false = s.interruptUpdate rg .mismatch := by
  simp only [State.runGroup, if_true, Bool.false_eq_true, if_false, and_self]

/-- A group written takes its task one group on. -/
theorem writeGroup_group (s : State) (rg : RegionId) (t : TaskEntry) (v : VEntry) (x : RunTask) :
    ((s.writeGroup rg t v x).region rg).upd.run.map RunTask.group = some (x.group + 1) := by
  unfold State.writeGroup
  extract_lets
  rw [setUpd_upd]
  rfl

/-! ## UPDATE_TASK_COMPLETE (R208, R210) -/

theorem closeSeries_region {t : TaskEntry} (hexport : t.exportEn = false) (s : State) (v : VEntry) (x : RunTask) (r : RegionId) :
    (s.closeSeries t v x).region r = s.region r := by
  simp only [State.closeSeries, hexport, Bool.false_eq_true, if_false]
  split
  · rfl
  · exact foldl_keeps (fun u : State => u.region r) _ _ _ fun u p => put_region u _ _ r

/-- A completion that is posted ends the run, is counted, and names the task, its step and the length of its difference. -/
theorem postTask_upd (s : State) (rg : RegionId) (t : TaskEntry) (x : RunTask) :
    ((s.postTask rg t x).region rg).upd = { (s.region rg).upd with
      run := none, done := inc (s.region rg).upd.done
      doneTasks := (s.region rg).upd.doneTasks ++ [(x.task, x.step, x.coded.length)] } := by
  unfold State.postTask
  extract_lets s1 u s2
  have hraised : s1.region rg = s.region rg := by
    simp only [s1]
    split <;> rfl
  have hposted : (s2.region rg).upd = { u with run := none, done := inc u.done, doneTasks := u.doneTasks ++ [(x.task, x.step, x.coded.length)] } :=
    setUpd_upd s1 rg _
  simp only [u, hraised] at hposted
  split
  · exact hposted
  · rw [put_region, hposted]

/-- After the last group of a task of stacked memory its difference is verified; it is posted once its scale step is done (log 117). -/
theorem updateTaskComplete_ends (hrun : (s.region rg).upd.run = some x) (hslow : slowTier x.entry = false)
    (hlast : (ventryAt s.mem x.entry.ventry.toNat).groups ≤ x.group) :
    execUpdateTaskComplete rg true s = .next (if x.scaled then s.postTask rg x.entry x
      else s.finishTask rg x.entry (ventryAt s.mem x.entry.ventry.toNat) x) := by
  simp [execUpdateTaskComplete, hrun, hslow, hlast]

/-- A task whose scale step is done, or that has none, is posted. -/
theorem updateTaskComplete_posts (hrun : (s.region rg).upd.run = some x) (hexport : x.entry.exportEn = false) (hslow : slowTier x.entry = false)
    (hlast : (ventryAt s.mem x.entry.ventry.toNat).groups ≤ x.group) (hscale : x.scaled = true ∨ x.entry.scaleCount = 0) :
    ∃ w : State, execUpdateTaskComplete rg true s = .next (w.postTask rg x.entry x) ∧ w.region rg = s.region rg := by
  rw [updateTaskComplete_ends hrun hslow hlast]
  by_cases hscaled : x.scaled = true
  · exact ⟨s, by rw [if_pos hscaled], rfl⟩
  · have hcount : x.entry.scaleCount = 0#8 := hscale.resolve_left hscaled
    exact ⟨_, by rw [if_neg hscaled, State.finishTask, if_pos hcount], closeSeries_region hexport _ _ _ _⟩

/-- A scale step that goes through to its end leaves the task running, its completion to be posted (log 117). -/
theorem finishTask_scales {v : VEntry} (hcount : x.entry.scaleCount ≠ 0) (hscale : ((s.closeSeries x.entry v x).scaleStep rg x.entry).2 = true) :
    ((s.finishTask rg x.entry v x).region rg).upd.run = some { x with scaled := true } := by
  have hcount : ¬ x.entry.scaleCount = 0#8 := hcount
  simp only [State.finishTask, if_neg hcount, hscale, if_true, setUpd_upd]

/-! ## UPDATE_INTERRUPT (R211) -/

theorem updateInterrupt_interrupts {c : UpdCause} (hrun : (s.region rg).upd.run = some x) :
    execUpdateInterrupt rg c s = .next (s.interruptUpdate rg c) := by
  rw [execUpdateInterrupt, hrun, Option.isSome_some, when_true]

/-- An abort of a task that exports nothing frees its building slot and keeps the task for a resume. -/
theorem interruptUpdate_abort (hrun : (s.region rg).upd.run = some x) (hexport : x.entry.exportEn = false) :
    ∃ u : UpdateUnit, s.interruptUpdate rg .abort =
        ((s.freeBuilding x.entry.partition x.entry.ventry.toNat).dropReqs fun q => q == .update rg).setUpd rg u ∧
      u.run = none ∧ u.interrupted = inc (s.region rg).upd.interrupted ∧
      u.held = (s.region rg).upd.held ++ [(x.task, x.step, false)] := by
  simp only [State.interruptUpdate, hrun, hexport, decide_true, Bool.true_or, if_true, Bool.false_eq_true, if_false]
  exact ⟨_, rfl, rfl, rfl, rfl⟩
end

/-! ## UPD_QUERY and CHECKPOINT_MARK (R218, R221) -/

theorem updQuery_answers {s : State} {r : Running} {rg : RegionId} {k : BitVec 16} (h : s.carries r 0x0254 (s.taskScope rg k.toNat) = true)
    (hk : k.toNat < 256) :
    execUpdQuery rg k s = .next (s.taken.okData r (natWords 8 (taskBits (s.task rg k.toNat)).toNat ++ [s.updStatusWord rg])) :=
  cmd_of_unrefused h rfl (by simpa using by omega)

theorem checkpointMark_marks {s : State} {r : Running} {p : PartId} {c : BitVec 32} (h : s.carries r 0x0803 (.names p) = true)
    (hstarted : s.stepStarted p c = false) :
    execCheckpointMark p c s = .next ((s.taken.setPart p { s.part p with marks := (s.part p).marks ++ [c] }).ok r) :=
  cmd_of_unrefused h rfl (List.forall_mem_singleton.mpr hstarted)

/-- Settles O32, by event: a task starts, its groups run, it completes or is interrupted; then the two commands. -/
theorem updatesRun : Obligations.UpdatesRun := by
  unfold Obligations.UpdatesRun
  refine ⟨?_, ?_, fun _ _ _ _ => updQuery_answers, fun _ _ _ _ => checkpointMark_marks⟩
  · intro s rg k c rest u t v p contrib hqueue hrun hfenced hclip hexport hopt hcur hready hallowed hclean hcount hcontrib
    have hstart := updateTaskStart_starts hqueue hrun hfenced hclip hopt hcur hready hallowed hclean
    obtain ⟨unit, hunit, hnew, hrest⟩ := startTask_unclipped (rg := rg) (k := k) (c := c) (v := v) hclip hexport hcount hcontrib
    refine ⟨s.startTask rg k c t v, unclippedRun s rg k c t, hstart, ?_, ?_, ?_, unclippedRun_fields s rg k c t⟩
    · rw [hunit, setUpd_upd, hnew]
    · rw [hunit, setUpd_upd, hrest]
      exact congrArg List.tail hqueue
    · rw [hunit, setUpd_mem]
  · intro s rg x u t v hrun hexport hslow
    refine ⟨?_, fun hlast hscale => ?_, fun hlast hscaled hcount hscale => ?_, ?_⟩
    · intro hit q hmore hclean
      have hruns (f1 f2 : Bool) := updateGroup_runs (f1 := f1) (f2 := f2) hrun hexport hslow hmore hclean
      obtain ⟨hagree, hretry, hdiffer⟩ := runGroup_outcomes q rg t v x
      have hwrites := (hruns true true).trans (congrArg Host.Outcome.next hagree)
      rw [struck_region] at hretry
      exact ⟨hwrites, (hruns false true).trans (congrArg Host.Outcome.next hretry),
        (hruns false false).trans (congrArg Host.Outcome.next hdiffer), q.writeGroup rg t v x, hwrites, writeGroup_group q rg t v x⟩
    · obtain ⟨w, hposts, hregion⟩ := updateTaskComplete_posts hrun hexport hslow hlast hscale
      have hupd := postTask_upd w rg x.entry x
      rw [hregion] at hupd
      exact ⟨w.postTask rg t x, hposts, by rw [hupd], by rw [hupd], by rw [hupd]⟩
    · have hends := updateTaskComplete_ends hrun hslow hlast
      rw [if_neg (by simp [hscaled])] at hends
      exact ⟨s.finishTask rg t v x, hends, finishTask_scales hcount hscale⟩
    · obtain ⟨w, habort, hnone, hcounted, hheld⟩ := interruptUpdate_abort hrun hexport
      refine ⟨s.interruptUpdate rg .abort, updateInterrupt_interrupts hrun, ?_⟩
      rw [habort, setUpd_upd, setUpd_mem, dropReqs_mem]
      exact ⟨hnone, hcounted, hheld, rfl⟩

end Sys2Proof.Laws

namespace Sys2Proof.Laws

/-! SUPPORT for O33. A partition's ring of exported records, read and written, a record laid out in it or dropped, room, the span that leaves for another
package, and how EXPORT_SHARD starts (R213 to R218). -/

open Sys2Proof.Machine

/-! ## The ring of a partition -/

section
variable {s : State} {p : PartId} {g : ExportRing} (hring : (s.part p).exportRing = some g)
include hring

theorem exRing_of_some : s.exRing p = g := by rw [State.exRing, hring, Option.getD_some]
theorem exportRing_setRing (f : ExportRing → ExportRing) : ((s.setRing_ p f).part p).exportRing = some (f g) := by
  rw [State.setRing_, part_setPart_same, hring, Option.map_some]
end

@[simp] theorem package_bne_host : (ExportKind.package != ExportKind.host) = true := rfl
@[simp] theorem part_count (s : State) (f : HubCounters → HubCounters) (p : PartId) : (s.count f).part p = s.part p := rfl

/-! ## EXPORT_RECORD_APPEND (R214 to R217) -/

/-- The bytes of a record in the ring: its header and its padded payload (R214). -/
def recordBytes (dev : BitVec 16) (e : ExportRec) (seq : BitVec 32) : List Byte :=
  exportHeader dev e seq e.payload.length ++ padTo (align64 e.payload.length) e.payload
/-- A ring of this package's spans once a record of n bytes has been laid out in it (R213). -/
def ringLaid (g : ExportRing) (n : Nat) : ExportRing :=
  { g with seq := g.seq + 1, produced := g.produced + n, spanRecs := g.spanRecs ++ [⟨g.seq, n, false⟩] }

/-- A record of a task's series ends no EXPORT_SHARD. -/
theorem endShard_of_series (s : State) {e : ExportRec} (h : e.ofShard = false) : s.endShard e = s := by
  simp only [State.endShard, h, Bool.false_and, Bool.false_eq_true, if_false]

section
variable {s : State} {p : PartId} {g : ExportRing} (hring : (s.part p).exportRing = some g) (hkind : g.cfg.kind = .package)
include hring hkind

/-- A record that needs no PAD is written at the tail of a ring of stacked memory, and counted. -/
theorem layRecord_lays {e : ExportRec} (hpad : g.padFor (exportBytes e) = 0)
    (hclean : s.errorsIn [⟨g.cfg.base.toNat + g.tail % g.size, (recordBytes s.deviceId e g.seq).length⟩] = []) :
    (s.layRecord p e).mem = memWrite s.mem (g.cfg.base.toNat + g.tail % g.size) (recordBytes s.deviceId e g.seq) ∧
      (s.layRecord p e).hub.exportRecords = inc s.hub.exportRecords ∧
      ((s.layRecord p e).part p).exportRing = some (ringLaid g (recordBytes s.deviceId e g.seq).length) := by
  have hhost : ¬ g.cfg.kind = .host := by simp [hkind]
  have hput := put_clean s _ _ hclean
  have hlaid : s.layRecord p e = ((s.put (g.cfg.base.toNat + g.tail % g.size) (recordBytes s.deviceId e g.seq)).setPart p
      { (s.put (g.cfg.base.toNat + g.tail % g.size) (recordBytes s.deviceId e g.seq)).part p with
        exportRing := some (ringLaid g (recordBytes s.deviceId e g.seq).length) }).count
        fun c => { c with exportRecords := inc c.exportRecords } := by
    simp only [State.layRecord, exRing_of_some hring, hpad, if_true, State.putRing, if_neg hhost]
    rfl
  rw [hlaid, hput]
  exact ⟨by rw [State.count_mem, State.setPart_mem], by rw [State.count_hub, State.setPart_hub], by rw [part_count, part_setPart_same]⟩

variable {e : ExportRec} {rest : List ExportRec} (hruns : g.runs = []) (hpending : g.pending = e :: rest) (hseries : e.ofShard = false)
include hruns hpending hseries

/-- The oldest record that waits is laid out where it fits and no LOSS record is due. -/
theorem exportRecordAppend_lays (hfits : g.fits (exportBytes e) = true) (hpad : g.padFor (exportBytes e) = 0)
    (hclean : s.errorsIn [⟨g.cfg.base.toNat + g.tail % g.size, (recordBytes s.deviceId e g.seq).length⟩] = []) :
    ∃ t : State, execExportRecordAppend p s = .next t ∧
      t.mem = memWrite s.mem (g.cfg.base.toNat + g.tail % g.size) (recordBytes s.deviceId e g.seq) ∧
      t.hub.exportRecords = inc s.hub.exportRecords ∧
      (t.part p).exportRing = some (ringLaid { g with pending := rest } (recordBytes s.deviceId e g.seq).length) := by
  refine ⟨(s.setRing_ p fun h => { h with pending := rest }).layRecord p e, ?_, ?_⟩
  · simp [execExportRecordAppend, exRing_of_some hring, hkind, hruns, hpending, hfits, endShard_of_series _ hseries]
  · exact layRecord_lays (exportRing_setRing hring fun h => { h with pending := rest }) hkind hpad hclean

/-- One that does not fit is dropped under the drop policy (R217). -/
theorem exportRecordAppend_drops (hfits : g.fits (exportBytes e) = false) (hpolicy : g.cfg.dropPolicy = true) :
    execExportRecordAppend p s = .next (((s.setRing_ p fun h => { h with pending := rest }).setRing_ p fun h =>
      { h.lose h.seq 1 with seq := h.seq + 1 }).count fun c => { c with exportDrop := inc c.exportDrop }) := by
  simp [execExportRecordAppend, exRing_of_some hring, hkind, hruns, hpending, hfits, hpolicy, endShard_of_series _ hseries]
end

/-! ## EXPORT_ROOM (R217) -/

/-- Where no update task runs, none waited. -/
theorem countExportWait_idle {s : State} (hidle : ∀ r : RegionId, (s.region r).upd.run = none) (p : PartId) : s.countExportWait p = s := by
  unfold State.countExportWait
  induction allRegions with
  | nil => rfl
  | cons r rs ih => simpa only [List.foldl_cons, hidle r] using ih

section
variable {s : State} {p : PartId} {g : ExportRing} (hring : (s.part p).exportRing = some g) (hkind : g.cfg.kind = .package)
include hring hkind

theorem exportRoom_resumes (hwaiting : g.waiting = true) (hruns : g.runs = []) (hroom : ∀ e ∈ g.pending.head?, g.fits (exportBytes e) = true)
    (hidle : ∀ r : RegionId, (s.region r).upd.run = none) :
    execExportRoom p s = .next (s.setRing_ p fun h => { h with waiting := false }) := by
  have hring' := exportRing_setRing hring fun h => { h with waiting := false }
  have hloss : (s.setRing_ p fun h => { h with waiting := false }).layLoss p = s.setRing_ p fun h => { h with waiting := false } := by
    simp only [State.layLoss, exRing_of_some hring', hruns]
  cases hpending : g.pending with
  | nil => simp [execExportRoom, exRing_of_some hring, hkind, hwaiting, hpending, countExportWait_idle hidle, hloss]
  | cons e rest =>
    have hfits := hroom e (by rw [hpending, List.head?_cons, Option.mem_some])
    simp [execExportRoom, exRing_of_some hring, hkind, hwaiting, hpending, hfits, countExportWait_idle hidle, hloss]

/-! ## EXPORT_SPAN_SEND (R213) -/

/-- The only unsent record leaves as a span of its own, with no PAD before or behind it. -/
theorem exportSpanSend_sends {x : SpanRec} (hrecs : g.spanRecs = [x]) (hpad : x.pad = false) (hmax : x.bytes ≤ g.cfg.spanMax.toNat)
    (hout : s.spanOut p = false) :
    let d := spanDesc s g (g.produced - x.bytes) x.bytes x.seq 1
    let h : HubSend := ⟨d, some s.nextRelay, false, 0, .span p x.bytes x.seq 1⟩
    let s1 := s.setRing_ p fun k => { k with spanRecs := [] }
    execExportSpanSend p s = .next (({ s1 with
      hubSends := s1.hubSends ++ [h], hubSeq := s1.hubSeq + 1, nextRelay := s1.nextRelay + 1
      relays := s1.relays ++ [⟨s1.nextRelay, ⟨0, 0⟩, d, 0⟩] } : State).shipHub h) := by
  have hspan : takeSpan g.cfg.spanMax.toNat [x] = [x] := by simp [takeSpan, hpad, hmax]
  have hlead : takePads [x] = [] := by simp [takePads, hpad]
  have htail : takePads [] = [] := rfl
  simp [execExportSpanSend, exRing_of_some hring, hkind, hout, hrecs, hspan, hlead, htail]
end

/-! ## EXPORT_SHARD and EXPORT_QUERY (R218, R221) -/

theorem exportRecord_fl (s : State) (p : PartId) (e : ExportRec) : (s.export_ p e).fl = s.fl := by
  simp only [State.export_]
  split <;> rfl
/-- Records put before the engine that exports leave the control complex as it is. -/
theorem exportRecords_fl (s : State) (p : PartId) (es : List ExportRec) : (es.foldl (fun u e => u.export_ p e) s).fl = s.fl :=
  foldl_keeps State.fl _ _ _ fun u e => exportRecord_fl u p e
theorem shardTail_fl (s : State) (x : ShardExport) (moments : Bool) : (s.shardTail x moments).fl = s.fl := exportRecords_fl s _ _

theorem taken_task (s : State) (r : RegionId) (k : Nat) : s.taken.task r k = s.task r k := rfl
theorem taken_mem (s : State) : s.taken.mem = s.mem := rfl

/-- An EXPORT_SHARD without moments, as the control complex holds it (R218). -/
def shardExport (s : State) (r : Running) (rg : RegionId) (k : BitVec 8) : ShardExport :=
  let v := ventryAt s.mem (s.task rg k.toNat).ventry.toNat
  ⟨r, rg, k.toNat, v.curVersion - 1, v.curVersion, v.groups, memRead s.mem (v.slot v.curSlot).base v.shardBytes, 0, []⟩

section
variable {s : State} {r : Running} {rg : RegionId} {k : BitVec 8}

/-- A valid task that exports, of a partition with a ring, is not refused. -/
theorem exportShard_unrefused (hvalid : (s.task rg k.toNat).valid = true) (hexport : (s.task rg k.toNat).exportEn = true)
    (hring : (s.part (s.task rg k.toNat).partition).exportRing.isSome = true) :
    firstReason [(!(s.task rg k.toNat).valid || !(s.task rg k.toNat).exportEn ||
      (s.part (s.task rg k.toNat).partition).exportRing.isNone, rsState)] = none :=
  firstReason_eq_none (by simp [hvalid, hexport, hring])

variable (h : s.carries r opExportShard (s.taskScope rg k.toNat) = true)
  (hvalid : (s.task rg k.toNat).valid = true) (hexport : (s.task rg k.toNat).exportEn = true)
  (hring : (s.part (s.task rg k.toNat).partition).exportRing.isSome = true)
include h hvalid hexport hring

/-- An error status of a read ends it FAILED before any record (log 118). -/
theorem exportShard_fails
    (hread : (s.taken.readRanges (shardReads (s.task rg k.toNat) (ventryAt s.mem (s.task rg k.toNat).ventry.toNat) false)).2.isSome = true) :
    execExportShard rg k false s = .next ((s.taken.readRanges (shardReads (s.task rg k.toNat)
      (ventryAt s.mem (s.task rg k.toNat).ventry.toNat) false)).1.failed r rsState) := by
  rw [execExportShard, cmd_of_carries _ _ _ _ _ h]
  simp only [taken_task, taken_part, taken_mem, exportShard_unrefused hvalid hexport hring, State.unless, hread, if_true]

/-- Without one it runs in the background, its records before the engine that exports, and memory stays. -/
theorem exportShard_starts
    (hclean : s.errorsIn (shardReads (s.task rg k.toNat) (ventryAt s.mem (s.task rg k.toNat).ventry.toNat) false) = []) :
    ∃ w : State, execExportShard rg k false s = .next w ∧ w.mem = s.mem ∧
      w.fl = { s.fl with current := none, bg := s.fl.bg ++ [r], exports := s.fl.exports ++ [shardExport s r rg k] } := by
  rw [execExportShard, cmd_of_carries _ _ _ _ _ h]
  simp only [taken_task, taken_part, taken_mem, exportShard_unrefused hvalid hexport hring, State.unless,
    readRanges_clean s.taken _ hclean, Option.isSome_none, Bool.false_and, Bool.false_eq_true, if_false, if_true]
  refine ⟨_, rfl, ?_, ?_⟩
  · simp [taken_mem]
  · rw [shardTail_fl, exportRecords_fl]
    rfl
end

theorem exportQuery_answers {s : State} {r : Running} {p : PartId} (h : s.carries r 0x0804 (.names p) = true) :
    execExportQuery p s = .next (s.taken.okData r [BitVec.ofNat 64 (s.exRing p).produced, BitVec.ofNat 64 (s.exRing p).consumed,
      (s.exRing p).seq.setWidth 64, (s.exRing p).drops]) :=
  cmd_of_carries s r _ _ _ h

/-- Settles O33, by event: a record appended or dropped, room, a span sent; then the two commands. -/
theorem exportsStream : Obligations.ExportsStream := by
  unfold Obligations.ExportsStream
  refine ⟨?_, ?_, fun _ _ _ => exportQuery_answers⟩
  · intro s p g hring hkind
    refine ⟨?_, ?_, ?_⟩
    · intro e rest hruns hpending hseries bs
      exact ⟨exportRecordAppend_lays hring hkind hruns hpending hseries, fun hfits hpolicy =>
        ⟨_, exportRecordAppend_drops hring hkind hruns hpending hseries hfits hpolicy, rfl, rfl,
          exportRing_setRing (exportRing_setRing hring _) _⟩⟩
    · intro hwaiting hruns hroom hidle
      exact ⟨_, exportRoom_resumes hring hkind hwaiting hruns hroom hidle, exportRing_setRing hring _, rfl⟩
    · intro x hrecs hpad hmax hout d
      exact ⟨_, exportSpanSend_sends hring hkind hrecs hpad hmax hout, List.map_append, rfl, rfl, rfl,
        exportRing_setRing hring fun k => { k with spanRecs := [] }⟩
  · intro s r rg k h t v rd hvalid hexport hring
    refine ⟨exportShard_fails h hvalid hexport hring, fun hclean => ?_⟩
    obtain ⟨w, hexec, hmem, hfl⟩ := exportShard_starts h hvalid hexport hring hclean
    exact ⟨w, hexec, by rw [hfl], by rw [hfl], hmem, by rw [hfl]; rfl⟩

end Sys2Proof.Laws

namespace Sys2Proof.Laws

/-! SUPPORT for O49: what a step leaves of the stacks. A stack that serves, wiped and out of self refresh, goes on serving over every access and whatever
the access does to its requester (R237): most operations leave the stacks alone (`…_stackCtl`), the others only count in them or wake them (`…_serves`). -/

open Sys2Proof.Machine

/-- A stack serves: it has been wiped and does not refresh itself. -/
def Serves (k : Nat) (s : State) : Prop := (s.stack k).wipeDone = true ∧ (s.stack k).selfRefresh = false

/-! ## Operations that leave the stacks alone -/

theorem stack_of_stackCtl {s t : State} (h : t.stackCtl = s.stackCtl) (k : Nat) : t.stack k = s.stack k := congrArg (tGet StackState.reset · k) h
theorem Serves.of_stackCtl {s t : State} {k : Nat} (hs : Serves k s) (h : t.stackCtl = s.stackCtl) : Serves k t := by
  rwa [Serves, stack_of_stackCtl h]

@[simp] theorem raiseAll_stackCtl (s : State) (ps : List PartId) (c : BitVec 16) (l : BitVec 3) (u : BitVec 24) (d : BitVec 88) :
    (s.raiseAll ps c l u d).stackCtl = s.stackCtl := foldl_keeps State.stackCtl _ _ _ fun _ _ => rfl

theorem killLost_stackCtl (s : State) (b : BlockId) (g : Group) {raise : State → State} (h : ∀ t, (raise t).stackCtl = t.stackCtl) :
    (s.killLost b g raise).stackCtl = s.stackCtl := by
  unfold State.killLost
  split
  · rfl
  · exact h _
theorem killGroup_stackCtl (s : State) (b : BlockId) (cause : KillCause) : (s.killGroup b cause).stackCtl = s.stackCtl := by
  unfold State.killGroup
  extract_lets x
  split
  · rfl
  · cases cause with
    | check c => dsimp only; split <;> rfl
    | memA a => exact killLost_stackCtl s b _ fun _ => rfl
    | relayAbandoned num => exact killLost_stackCtl s b _ fun _ => rfl
    | _ => rfl
theorem killPair_stackCtl (s : State) (b : BlockId) (cause : KillCause) : (s.killPair b cause).stackCtl = s.stackCtl := by
  unfold State.killPair
  extract_lets s1
  split
  · exact (killGroup_stackCtl _ _ _).trans (killGroup_stackCtl _ _ _)
  · exact killGroup_stackCtl _ _ _
theorem ldError_stackCtl (s : State) (b : BlockId) (a : Nat) (classA : Bool) : (s.ldError b a classA).stackCtl = s.stackCtl := by
  unfold State.ldError
  split
  · exact killGroup_stackCtl _ _ _
  · cases classA <;> rfl
theorem amaxLost_stackCtl (s : State) (m : MemSideOp) : (s.amaxLost m).stackCtl = s.stackCtl := by
  unfold State.amaxLost
  split <;> rfl
theorem msoDone_stackCtl (s : State) (m : MemSideOp) : (s.msoDone m).stackCtl = s.stackCtl := by
  unfold State.msoDone
  extract_lets s1
  split <;> rfl
theorem msoNext_stackCtl (s : State) (m : MemSideOp) (u : Nat) : (s.msoNext m u).stackCtl = s.stackCtl := by
  unfold State.msoNext
  split
  · rfl
  · exact msoDone_stackCtl s m
theorem undefine_stackCtl (s : State) (a n : Nat) : (s.undefine a n).stackCtl = s.stackCtl := foldl_keeps State.stackCtl _ _ _ fun _ _ => rfl
theorem unlockRead_stackCtl (s : State) (i : Instance) : (s.unlockRead i).stackCtl = s.stackCtl := by
  obtain ⟨_, h⟩ := unlockRead_eq s i
  rw [h]
theorem collFailed_stackCtl (s : State) (p : PartId) (idx : Nat) (step : BitVec 32) (planId : BitVec 16) (cause : Nat) :
    (s.collFailed p idx step planId cause).stackCtl = s.stackCtl := rfl
theorem export_stackCtl (s : State) (p : PartId) (e : ExportRec) : (s.export_ p e).stackCtl = s.stackCtl := by
  unfold State.export_
  extract_lets x
  split <;> rfl
theorem updateCrimson_stackCtl (s : State) (r : RegionId) (t : RunTask) (c : UpdCause) : (s.updateCrimson r t c).stackCtl = s.stackCtl := by
  cases c <;> rfl

/-! ## Operations that count in a stack -/

section
variable {s : State} {k : Nat} (hs : Serves k s)
include hs

/-- A stack set to a value that serves where the old one did. -/
theorem setStack_serves (i : Nat) {x : StackState} (hx : Serves i s → x.wipeDone = true ∧ x.selfRefresh = false) : Serves k (s.setStack i x) := by
  by_cases h : k = i
  · subst h
    rw [Serves, stack_setStack_same]
    exact hx hs
  · have hother : (s.setStack i x).stack k = s.stack k := tGet_tSet_other _ _ _ _ _ h
    rwa [Serves, hother]
theorem countStack_serves (a : Nat) {f : StackState → StackState}
    (hf : ∀ x, (f x).wipeDone = x.wipeDone ∧ (f x).selfRefresh = x.selfRefresh := by exact fun _ => ⟨rfl, rfl⟩) : Serves k (s.countStack a f) :=
  setStack_serves hs _ fun h => by rwa [(hf _).1, (hf _).2]
theorem countBus_serves (a : Nat) (bus : BusCheck) (onDie : Bool) : Serves k (s.countBus a bus onDie) := countStack_serves hs a
theorem served_serves (a n : Nat) : Serves k (s.served a n) :=
  setStack_serves (s := s.setPart (s.memOwner a) _) hs (stackOf a) fun h => ⟨h.1, rfl⟩
theorem raiseStack_serves (a : Nat) (code : BitVec 16) (more : BitVec 88) : Serves k (s.raiseStack a code more) := hs
theorem busFails_serves (a : Nat) : Serves k (s.busFails a) := raiseStack_serves (countStack_serves hs a) _ _ _
theorem readBurst_serves (a : Nat) (tr : BurstErr) : Serves k (s.readBurst a tr).1 := by
  unfold State.readBurst
  split
  · unfold State.burstFails
    split
    · exact countStack_serves hs a
    · exact raiseStack_serves (countStack_serves hs a) _ _ _
  · unfold State.burstOk
    split
    · exact raiseStack_serves (countStack_serves hs a) _ _ _
    · exact raiseStack_serves (countStack_serves hs a) _ _ _
    · exact hs
theorem readRanges_serves (rs : List Range) : Serves k (s.readRanges rs).1 :=
  List.foldlRecOn (motive := fun p : State × Option Nat => Serves k p.1) _ _ hs fun _ hp a _ => readBurst_serves hp a errZero
theorem withMem_serves (m : Memory) : Serves k { s with mem := m } := hs
theorem wroteBurst_serves (old : Memory) (rs : List Range) (a : Nat) : Serves k (s.wroteBurst old rs a) := by
  unfold State.wroteBurst
  split
  · exact hs
  · extract_lets r read t
    have hread : Serves k r.1 := readBurst_serves hs a errZero
    have ht : Serves k t := withMem_serves (s := read) hread _
    split
    · exact hread
    · split
      · exact raiseStack_serves ht _ _ _
      · exact ht
theorem put_serves (a : Nat) (bs : List Byte) : Serves k (s.put a bs) := by
  unfold State.put State.wrote
  exact List.foldlRecOn (motive := Serves k) _ _ (withMem_serves hs _) fun _ ht b _ => wroteBurst_serves ht s.mem _ b
theorem putNorm_serves (job : BitVec 16) (step sumsq : BitVec 32) (state : Byte) : Serves k (s.putNorm job step sumsq state) := by
  unfold State.putNorm
  extract_lets a
  split
  · exact hs
  · exact put_serves hs _ _

/-! ## What an access does to its requester (Table 9.6) -/

theorem failInstance_serves (i : Instance) (cause : Nat) (notify : Bool) : Serves k (s.failInstance i cause notify) := by
  unfold State.failInstance
  extract_lets p s2 s3 s4
  have hput : Serves k ((s.dropInstance i).put (p.dst.toNat + 1) [0x03]) := put_serves (s := s.dropInstance i) hs _ _
  have h2 : Serves k s2 := hput.of_stackCtl ((unlockRead_stackCtl _ i).trans (undefine_stackCtl _ _ _))
  have h3 : Serves k s3 := by
    unfold s3
    split
    · exact putNorm_serves (s := s2.free.2) h2 _ _ _ _
    · exact h2
  have h4 : s4.stackCtl = s3.stackCtl := by
    unfold s4
    split
    · exact State.ship_stackCtl _ _
    · rfl
  exact h3.of_stackCtl ((collFailed_stackCtl _ _ _ _ _ _).trans h4)
theorem freeBuilding_serves (p : PartId) (a : Nat) : Serves k (s.freeBuilding p a) := by
  have hread : Serves k (s.readEntry p a).1 := by
    have hranges : Serves k (s.readRanges [⟨a, ventryBytes⟩]).1 := readRanges_serves hs _
    unfold State.readEntry State.engineRead
    extract_lets r
    split
    · exact hranges
    · dsimp only
      split <;> exact hranges
  unfold State.freeBuilding
  extract_lets r e
  split
  · exact put_serves hread _ _
  · exact hread
theorem interruptUpdate_serves (r : RegionId) (c : UpdCause) : Serves k (s.interruptUpdate r c) := by
  unfold State.interruptUpdate
  extract_lets u again
  split
  · exact hs
  · extract_lets te s1 s2 upd s3
    have h2 : s2.stackCtl = (s.freeBuilding te.partition te.ventry.toNat).stackCtl := by
      unfold s2
      split
      · exact export_stackCtl _ _ _
      · rfl
    exact (freeBuilding_serves hs te.partition te.ventry.toNat).of_stackCtl ((updateCrimson_stackCtl s3 _ _ _).trans h2)
theorem msoDrop_serves (m : MemSideOp) (classA : Bool) : Serves k (s.msoDrop m classA) := by
  unfold State.msoDrop
  extract_lets a s1
  have h1 : Serves k s1 := (countStack_serves hs a).of_stackCtl (amaxLost_stackCtl _ m)
  split <;> exact h1
theorem reqFails_serves (a : Nat) (classA : Bool) (req : Requester) : Serves k (s.reqFails a classA req) := by
  cases req with
  | engine b => exact hs.of_stackCtl (killPair_stackCtl _ _ _)
  | ld b => exact hs.of_stackCtl (ldError_stackCtl _ _ _ _)
  | relay num => dsimp only [State.reqFails]; split <;> exact hs
  | lane b tag =>
    dsimp only [State.reqFails]
    split
    · next m _ _ =>
      exact (msoDrop_serves hs m classA).of_stackCtl (msoNext_stackCtl _ _ _)
    · exact hs
  | collective p =>
    dsimp only [State.reqFails]
    split
    · exact failInstance_serves hs _ _ _
    · exact hs
  | update r => exact interruptUpdate_serves hs r .memory
  | versionEntry e => cases classA <;> exact hs
  | scrub => exact hs

/-! ## Accesses that a stack has held (R237) -/

theorem serveRead_serves (a : Nat) (req : Requester) (f : BurstFault) : Serves k (s.serveRead a req f) := by
  unfold State.serveRead
  extract_lets t r
  have ht : Serves k t := countBus_serves (served_serves hs a 32) a f.bus f.onDie
  have hr : Serves k r.1 := readBurst_serves (s := t.upset a f.upset) ht a f.transient
  split
  · exact reqFails_serves (busFails_serves ht a) _ _ _
  · split
    · exact hr
    · exact reqFails_serves hr _ _ _
theorem serveWrite_serves (a : Nat) (bs : List Byte) (req : Requester) (bus : BusCheck) : Serves k (s.serveWrite a bs req bus) := by
  unfold State.serveWrite
  extract_lets t
  have ht : Serves k t := countBus_serves (served_serves hs a bs.length) a bus false
  split
  · exact reqFails_serves (busFails_serves ht a) _ _ _
  · exact put_serves ht a bs
theorem serve_serves (m : MemAccess) : Serves k (s.serve m) := by
  cases m with
  | read a req f => exact serveRead_serves hs _ req f
  | write a bs req bus => exact serveWrite_serves hs _ bs req bus
theorem serveHeld_serves (i : Nat) : Serves k (s.serveHeld i) :=
  List.foldlRecOn (motive := Serves k) _ _ (setStack_serves hs i fun h => h) fun _ ht m _ => serve_serves ht m
end

end Sys2Proof.Laws

namespace Sys2Proof.Laws

/-! SUPPORT for O49. What a completion changes, the boot that goes on (R398), the entries of the serving sequence table (R366), and each command and event. -/

open Sys2Proof.Machine

/-! ## Completions (R307, R328, R335) -/

/-- Something has been sent over Sceolink: its unit, the links and what has left the package are all that differ. -/
def SentOver (s t : State) : Prop := ∃ x l o, t = { s with scl := x, links := l, out := o }

theorem SentOver.refl (s : State) : SentOver s s := ⟨_, _, _, rfl⟩
theorem SentOver.trans {s t u : State} : SentOver s t → SentOver t u → SentOver s u := by
  rintro ⟨_, _, _, rfl⟩ ⟨_, _, _, rfl⟩
  exact ⟨_, _, _, rfl⟩
theorem SentOver.stackCtl {s t : State} : SentOver s t → t.stackCtl = s.stackCtl := by
  rintro ⟨_, _, _, rfl⟩
  rfl
theorem SentOver.seq {s t : State} (p : PartId) (i : Nat) : SentOver s t → t.seq p i = s.seq p i := by
  rintro ⟨_, _, _, rfl⟩
  rfl
/-- Over a fold of sends. -/
theorem SentOver.foldl {α : Type} {f : State → α → State} (l : List α) (s : State) (h : ∀ t a, SentOver t (f t a)) : SentOver s (l.foldl f s) :=
  List.foldlRecOn (motive := SentOver s) l f (.refl s) fun t ht a _ => ht.trans (h t a)

theorem toScl_sentOver (s : State) (o : Output) : SentOver s (s.toScl o) := by
  unfold State.toScl
  split
  · exact ⟨_, _, _, rfl⟩
  · exact .refl s
theorem sendReq_sentOver (s : State) (r : CompanionReq) : SentOver s (s.sendReq r) := by
  have hreq : SentOver s { s with scl := { s.scl with reqs := s.scl.reqs ++ [r] } } := ⟨_, _, _, rfl⟩
  unfold State.sendReq
  extract_lets s1
  split
  · exact hreq.trans (toScl_sentOver _ _)
  · exact hreq.trans (toScl_sentOver _ _)
  · split
    · exact hreq.trans (toScl_sentOver _ _)
    · exact toScl_sentOver _ _
  · split <;> exact hreq.trans (toScl_sentOver _ _)
theorem writeLines_sentOver (s : State) (p : PartId) (event : Bool) (a : Nat) (bs : List Byte) : SentOver s (s.writeLines p event a bs) :=
  .foldl _ _ fun t _ => SentOver.trans (t := { t with scl := { t.scl with nextTag := t.scl.nextTag + 1 } }) ⟨_, _, _, rfl⟩ (sendReq_sentOver _ _)
theorem writeRing_sentOver (s : State) (p : PartId) (event : Bool) (r : RingRegs) (units : Nat) (f : BitVec 32 → List Byte) :
    SentOver s (s.writeRing p event r units f) := by
  unfold State.writeRing
  extract_lets pad s1 tail
  have h1 : SentOver s s1 := by
    unfold s1
    split
    · exact .refl s
    · exact writeLines_sentOver _ _ _ _ _
  exact h1.trans (writeLines_sentOver _ _ _ _ _)
theorem emitRecord_sentOver (s : State) (p : PartId) (r : CplRecord) : SentOver s (s.emitRecord p r) := by
  unfold State.emitRecord
  extract_lets s1
  have h1 : SentOver s s1 := by
    unfold s1
    split
    · split
      · exact writeLines_sentOver _ _ _ _ _
      · exact .refl s
    · exact .refl s
  exact h1.trans (writeRing_sentOver _ _ _ _ _ _)

/-- The records of a partition change, and the oldest is sent where it can be. -/
theorem pumpCpl_sentOver (s : State) (p : PartId) (x : Partition) :
    ∃ rs, SentOver (s.setPart p { x with records := rs }) ((s.setPart p x).pumpCpl p) := by
  have htwice (w : Partition) : (s.setPart p x).setPart p w = s.setPart p w := by simp only [State.setPart, tSet_tSet]
  unfold State.pumpCpl
  rw [part_setPart_same]
  dsimp only
  split
  · split
    · rw [htwice]
      exact ⟨_, emitRecord_sentOver _ _ _⟩
    · exact ⟨x.records, .refl _⟩
  · exact ⟨x.records, .refl _⟩
/-- A completion goes behind the records of the partition that issued the command. -/
theorem cmdDone_sentOver (s : State) (r : Running) (status reason flags : BitVec 8) (data : List Word) :
    ∃ rs, SentOver (s.setPart r.part { s.part r.part with records := rs }) (s.cmdDone r status reason flags data) :=
  pumpCpl_sentOver s r.part _
theorem ok_stackCtl (s : State) (r : Running) : (s.ok r).stackCtl = s.stackCtl := by
  obtain ⟨_, h⟩ := cmdDone_sentOver s r cdOk 0 0 []
  exact h.stackCtl

/-! ## WIPE_COMPLETE (R237, R398) -/

theorem advance_stackCtl (n : Nat) (s : State) : (State.advance n s).stackCtl = s.stackCtl := by
  induction n generalizing s with
  | zero => rfl
  | succ n ih =>
    unfold State.advance
    split
    · exact ih _
    · rfl
theorem regionBack_stackCtl (s : State) (r : RegionId) : (s.regionBack r).stackCtl = s.stackCtl := by
  unfold State.regionBack State.endBg
  split
  · split
    · exact ok_stackCtl _ _
    · rfl
  · rfl
theorem settleBoot_stackCtl (s : State) : s.settleBoot.stackCtl = s.stackCtl := by
  unfold State.settleBoot
  split
  · exact advance_stackCtl 4 s
  · exact foldl_keeps State.stackCtl _ _ _ regionBack_stackCtl

/-- The stack that has been wiped serves, whatever the accesses that it has held do. -/
theorem wipeComplete_serves {s : State} {k : Nat} (hk : k < 12) (hactive : s.reset_.active = true) (hstage : s.reset_.bootStage = 0x07)
    (hreleased : s.reset_.released.contains (.memSide k) = true) (hwipe : (s.stack k).wipeDone = false) :
    ∃ t, execWipeComplete k s = .next t ∧ Serves k t := by
  have hwiped : Serves k (s.setStack k { s.stack k with wipeDone := true, selfRefresh := false }) := by
    rw [Serves, stack_setStack_same]
    exact ⟨rfl, rfl⟩
  refine ⟨_, ?_, (serveHeld_serves hwiped k).of_stackCtl (settleBoot_stackCtl _)⟩
  have hwaits : (s.reset_.active && s.reset_.bootStage == 0x07#8 && s.reset_.released.contains (.memSide k) && !(s.stack k).wipeDone) = true := by
    rw [hactive, hstage, hreleased, hwipe]
    rfl
  rw [execWipeComplete, decide_eq_true hk, whenHere_true]
  exact congrArg (when_ · s _) hwaits

/-! ## STACK_TEMPERATURE_READ (R236) -/

/-- A stack throttles from above 95 degrees until below 92. -/
def throttledAt (c : Int) (was : Bool) : Bool := if 95 < c then true else if c < 92 then false else was

theorem stackTemperatureRead_next {s : State} {k : Nat} {c : BitVec 8} (hk : k < 12) (hc : c.toInt < 105) :
    ∃ t n, execStackTemperatureRead k c s = .next t ∧ t.mem = s.mem ∧
      t.stack k = { s.stack k with
        temp := c, doubleRefresh := decide (85 < c.toInt), throttled := throttledAt c.toInt (s.stack k).throttled, hotThrottle := n } := by
  unfold execStackTemperatureRead
  rw [decide_eq_true hk, whenHere_true, if_neg (by omega)]
  extract_lets y hot v z s1
  refine ⟨_, z.hotThrottle, rfl, ?_, ?_⟩
  · split
    · exact raiseAll_mem _ _ _ _ _ _
    · rfl
  · have hstack : s1.stack k = z := stack_setStack_same _ _ _
    split
    · exact (stack_of_stackCtl (raiseAll_stackCtl _ _ _ _ _ _) k).trans hstack
    · exact hstack

/-! ## Sequence entries (Table 14.5, R366) -/

theorem seq_setSeq_same (s : State) (p : PartId) (i : Nat) (e : SeqEntry) : (s.setSeq p i e).seq p i = e := tGet_tSet_same _ _ _ _
theorem seq_setSeq_other (s : State) (p : PartId) {i j : Nat} (e : SeqEntry) (h : j ≠ i) : (s.setSeq p i e).seq p j = s.seq p j :=
  tGet_tSet_other _ _ _ _ _ fun hij => h (Nat.add_left_cancel hij)

/-- A partition's entries are what they were, but for their modes. -/
def SameButModes (p : PartId) (s t : State) : Prop := ∀ i, ∃ m, t.seq p i = { s.seq p i with mode := m }

theorem SameButModes.refl (p : PartId) (s : State) : SameButModes p s s := fun _ => ⟨_, rfl⟩
theorem SameButModes.trans {p : PartId} {s t u : State} (h : SameButModes p s t) (g : SameButModes p t u) : SameButModes p s u := by
  intro i
  obtain ⟨_, hi⟩ := h i
  obtain ⟨m, gi⟩ := g i
  exact ⟨m, by rw [gi, hi]⟩
theorem setSeq_mode (s : State) (p : PartId) (i : Nat) (m : BitVec 4) : SameButModes p s (s.setSeq p i { s.seq p i with mode := m }) := by
  intro j
  by_cases h : j = i
  · subst h
    exact ⟨m, seq_setSeq_same _ _ _ _⟩
  · exact ⟨_, seq_setSeq_other s p _ h⟩
/-- A change of a partition that leaves its range leaves its entries. -/
theorem seq_of_setPart (s : State) (p : PartId) {x : Partition} (h : x.seqBase = (s.part p).seqBase) (i : Nat) : (s.setPart p x).seq p i = s.seq p i := by
  unfold State.seq
  rw [part_setPart_same, h]
  rfl

theorem settlePages_of_no_batch {s : State} {p : PartId} (h : (s.part p).batch = none) : s.settlePages p = s := by
  rw [State.settlePages, h]
/-- The lack of pages is judged in the modes alone. -/
theorem settlePages_sameButModes (s : State) (p : PartId) : SameButModes p s (s.settlePages p) := by
  unfold State.settlePages
  split
  · exact .refl p s
  · extract_lets s1
    have h1 : SameButModes p s s1 := List.foldlRecOn (motive := SameButModes p s) _ _ (.refl p s) fun t ht i _ => by
      dsimp only
      split
      · exact ht.trans (setSeq_mode t p i sqShort)
      · exact ht
    split
    · exact h1.trans fun i => ⟨(s1.seq p i).mode, seq_of_setPart s1 p (x := { s1.part p with wlDeadline := false }) rfl i⟩
    · exact h1
theorem ok_sameSeq (s : State) (r : Running) (i : Nat) : (s.ok r).seq r.part i = s.seq r.part i := by
  obtain ⟨rs, h⟩ := cmdDone_sentOver s r cdOk 0 0 []
  exact (h.seq r.part i).trans (seq_of_setPart s r.part (x := { s.part r.part with records := rs }) rfl i)

/-! ## The serving commands (Table 14.6) -/

section
variable {s : State} {r : Running}

theorem seqAdd_adds {y : SeqAddP} {i : Nat} (h : s.carries r 0x0901 .own = true)
    (hpages : (s.part r.part).hasStacked y.kvList.toNat (8 * y.kvPages.toNat) = true)
    (hfree : (List.range (s.part r.part).seqCount).find? (fun j => !s.seqUsed r.part j) = some i) (hbatch : (s.part r.part).batch = none) :
    execSeqAdd y s = .next (((s.taken.setSeq r.part i
      ⟨y.kvList, y.kvPages, y.position, y.remaining, (s.part r.part).arrivals, y.user, y.ready, y.priority, sqWaiting, false⟩).setPart r.part
        { s.part r.part with arrivals := (s.part r.part).arrivals + 1 }).okData r [(s.part r.part).arrivals ++ BitVec.ofNat 32 i]) := by
  have hfree : (List.range (s.part r.part).seqCount).find? (fun j => !s.taken.seqUsed r.part j) = some i := hfree
  rw [execSeqAdd, cmd_of_carries _ _ _ _ _ h]
  simp only [taken_part, hpages, hfree, Bool.not_true, Bool.false_eq_true, if_false]
  rw [settlePages_of_no_batch (by rw [part_setPart_same]; exact hbatch)]
  rfl

theorem seqUpdate_updates {y : SeqUpdateP} (h : s.carries r 0x0902 .own = true) (hused : s.seqUsed r.part y.index.toNat = true) :
    ∃ t m, execSeqUpdate y s = .next t ∧ t.seq r.part y.index.toNat = { s.seq r.part y.index.toNat with
      kvList := if y.kvList = 0 then (s.seq r.part y.index.toNat).kvList else y.kvList
      kvPages := if y.kvPages = 0 then (s.seq r.part y.index.toNat).kvPages else y.kvPages
      ready := (s.seq r.part y.index.toNat).ready + y.readyAdd, priority := y.priority
      remaining := if y.remaining = 0xFFFFFFFF then (s.seq r.part y.index.toNat).remaining else y.remaining
      mode := m } := by
  have hused : s.taken.seqUsed r.part y.index.toNat = true := hused
  rw [execSeqUpdate, cmd_of_carries _ _ _ _ _ h]
  simp only [hused, Bool.not_true, Bool.false_eq_true, if_false]
  obtain ⟨m, hm⟩ := settlePages_sameButModes (s.taken.setSeq r.part y.index.toNat _) r.part y.index.toNat
  refine ⟨_, m, rfl, ?_⟩
  rw [ok_sameSeq, hm, seq_setSeq_same]
  rfl

theorem seqRemove_removes {i : BitVec 32} (h : s.carries r 0x0903 .own = true) (hused : s.seqUsed r.part i.toNat = true) :
    execSeqRemove i s = .next ((if (s.seq r.part i.toNat).mode = sqListed
      then s.taken.setSeq r.part i.toNat { s.seq r.part i.toNat with removed := true }
      else ({ s.taken with seqs := tDel s.seqs ((s.part r.part).seqBase + i.toNat) } : State).settlePages r.part).ok r) := by
  have hused : s.taken.seqUsed r.part i.toNat = true := hused
  have hseq : s.taken.seq r.part i.toNat = s.seq r.part i.toNat := rfl
  rw [execSeqRemove, cmd_of_carries _ _ _ _ _ h]
  simp only [hused, hseq, Bool.not_true, Bool.false_eq_true, if_false]
  split <;> rfl

theorem seqQuery_answers {i n : BitVec 32} (h : s.carries r 0x0904 .own = true) :
    execSeqQuery i n s = .next (s.taken.okData r
      ((List.range (min n.toNat ((s.part r.part).seqCount - i.toNat))).flatMap fun j => seqWords (s.seq r.part (i.toNat + j)))) :=
  cmd_of_carries s r _ _ _ h

theorem worklistStart_starts (h : s.carries r 0x0906 .own = true) (hbatch : (s.part r.part).batch.isSome = true) :
    execWorklistStart s = .next ((s.taken.setPart r.part { s.part r.part with wlStarted := true }).ok r) := by
  refine cmd_of_unrefused h rfl fun c hc => ?_
  obtain rfl := List.mem_singleton.mp hc
  rw [taken_part, ← Option.not_isSome, hbatch]
  rfl
theorem worklistStop_stops (h : s.carries r 0x0907 .own = true) :
    execWorklistStop s = .next ((s.taken.setPart r.part { s.part r.part with wlStarted := false }).ok r) :=
  cmd_of_carries s r _ _ _ h

/-! ## The memory controllers' commands (R233, R239) -/

theorem memScrubSet_sets {hours : BitVec 16} (h : s.carries r 0x0302 .package = true) (hzero : hours ≠ 0) (hmax : hours.toNat ≤ 168) :
    execMemScrubSet hours s = .next (({ s.taken with fl := { s.taken.fl with scrubHours := hours } } : State).ok r) := by
  refine cmd_of_unrefused h rfl fun c hc => ?_
  obtain rfl := List.mem_singleton.mp hc
  have hpos : hours.toNat ≠ 0 := fun e => hzero (BitVec.eq_of_toNat_eq e)
  simp [hpos, hmax]
theorem memQuery_answers {m : BitVec 12} (h : s.carries r 0x0303 .all = true) :
    execMemQuery m s = .next (s.taken.okData r ((maskBits m).flatMap (fun i => (s.stack i).words) ++ [s.wipeStatus] ++
      (allRegions.map fun q => (s.region q).memRefused) ++ [s.hub.memRefused])) :=
  cmd_of_carries s r _ _ _ h
end

/-- Settles O49, by command and by event. The words of MEM_QUERY and the word that answers SEQ_ADD are log 24. -/
theorem sequencesAreServed : Obligations.SequencesAreServed := by
  unfold Obligations.SequencesAreServed
  refine ⟨?_, ?_, ?_⟩
  · intro s r p x
    refine ⟨fun _ _ => seqAdd_adds, ?_, fun _ => seqRemove_removes, fun _ _ => seqQuery_answers, worklistStart_starts, worklistStop_stops,
      fun _ => memScrubSet_sets, fun _ => memQuery_answers⟩
    intro y h hused
    obtain ⟨t, m, hexec, hseq⟩ := seqUpdate_updates h hused
    refine ⟨t, hexec, ?_⟩
    dsimp only
    rw [hseq]
    exact ⟨rfl, rfl, rfl, rfl, rfl, rfl, rfl, rfl⟩
  · intro s k c hk hc
    obtain ⟨t, n, hexec, hmem, hstack⟩ := stackTemperatureRead_next (s := s) hk hc
    refine ⟨t, hexec, ?_⟩
    rw [hstack]
    refine ⟨rfl, rfl, fun hhot => if_pos hhot, fun hcool => ?_, hmem⟩
    exact (if_neg (by omega)).trans (if_pos hcool)
  · exact fun s k hk hactive hstage hreleased hwipe => wipeComplete_serves hk hactive hstage hreleased hwipe

end Sys2Proof.Laws

namespace Sys2Proof.Laws

/-! SUPPORT for O35, O36 and O37. What the link layer's shared operations leave of a fabric port: a LINK flit that leaves, a flit whose ack fields are empty, a width that is asked for, a Hitch. -/

open Sys2Proof.Machine

/-! ## A port among the links -/

@[simp] theorem setLink_setLink (s : State) (l : LinkId) (x y : LinkState) : (s.setLink l x).setLink l y = s.setLink l y := by
  simp only [State.setLink, tSet_tSet]

theorem port_ne_sclLink {l : LinkId} (hl : l < 24) : l ≠ sclLink := Nat.ne_of_lt hl
theorem port_beq_sclLink {l : LinkId} (hl : l < 24) : (l == sclLink) = false := beq_false_of_ne (port_ne_sclLink hl)
theorem onLink_of_port {l : LinkId} (hl : l < 24) (s : State) (k : State → LinkState → Res) : onLink l s k = k s (s.link l) := by
  rw [onLink, decide_eq_true (Nat.le_of_lt hl), whenHere_true]

/-- An event answers the state that it leaves where it occurs, and the state as it was where it does not. -/
theorem when_eq_next (c : Bool) (s t : State) : when_ c s t = .next (if c = true then t else s) := by
  cases c <;> rfl

/-! ## Events (R372) -/

section
variable (s : State) (ps : List PartId) (c : BitVec 16) (v : BitVec 3) (u : BitVec 24) (d : BitVec 88)

@[simp] theorem raiseAll_links : (s.raiseAll ps c v u d).links = s.links := foldl_keeps State.links _ _ _ fun _ _ => rfl
@[simp] theorem raiseAll_link (l : LinkId) : (s.raiseAll ps c v u d).link l = s.link l := by rw [State.link, raiseAll_links]; rfl
theorem raiseAll_codes : (s.raiseAll ps c v u d).events.map EventReq.code =
    s.events.map EventReq.code ++ if ps = [] then [c] else ps.map fun _ => c := by
  rw [raiseAll_events, List.map_append, List.map_map]
  cases ps <;> rfl
end

/-! ## LINK flits (R243, R249) -/

@[simp] theorem emit_link (s : State) (o : Output) (l : LinkId) : (s.emit o).link l = s.link l := rfl

section
variable (s : State) (l : LinkId) (rs : List LinkRec)

/-- On a port that is up the CREDIT record goes first, and nothing is due any more. -/
theorem sendRecs_of_up (h : (s.link l).isUp = true) : s.sendRecs l rs =
    (s.setLink l { s.link l with replayReq := false, unacked := 0, linkDue := false, creditDue := false }).emit
      (.flit l (linkFlit (.credit (s.link l).creditRec :: rs) (s.link l).ackFields)) := by
  simp only [State.sendRecs, h, if_true]
  rfl
theorem sendRecs_of_down (h : (s.link l).isUp = false) : s.sendRecs l rs =
    (s.setLink l (s.link l).acksSent).emit (.flit l (linkFlit rs (s.link l).ackFields)) := by
  simp only [State.sendRecs, h]
  rfl
/-- A LINK flit that leaves changes only what is to be reported. -/
theorem sendRecs_link : ∃ due credit, (s.sendRecs l rs).link l =
    { s.link l with replayReq := false, unacked := 0, linkDue := due, creditDue := credit } := by
  cases h : (s.link l).isUp with
  | true => exact ⟨_, _, by rw [sendRecs_of_up _ _ _ h]; exact link_setLink_same _ _ _⟩
  | false => exact ⟨_, _, by rw [sendRecs_of_down _ _ _ h]; exact link_setLink_same _ _ _⟩
@[simp] theorem sendRecs_events : (s.sendRecs l rs).events = s.events := by simp [State.sendRecs]
@[simp] theorem sendRecs_setLink_self : (s.setLink l (s.link l)).sendRecs l rs = s.sendRecs l rs := by simp [State.sendRecs]
end

/-! ## A flit without ack fields (R250) -/

/-- The ack fields of a flit that reports nothing and asks for no replay. -/
def quietAck : FlitAck := ⟨false, 0, false⟩

section
variable {l : LinkId} (hl : l < 24)
include hl

theorem putAcked_of_port (s : State) (x : LinkState) : s.putAcked l x = s.setLink l x := if_neg (port_ne_sclLink hl)
theorem takeFlitAck_quiet (s : State) : s.takeFlitAck l quietAck = s.setLink l (s.link l) := by
  simp [State.takeFlitAck, quietAck, LinkState.takeAck, putAcked_of_port hl]
/-- A record in such a flit acts alone. -/
theorem withRec_quiet (s : State) (r : LinkRec) : withRec l quietAck r s = .next ((s.setLink l (s.link l)).takeRec l r) := by
  rw [withRec, onLink_of_port hl, takeFlitAck_quiet hl]
end

/-! ## A width asked for (R261, R263) -/

/-- A link in which asking for a width has changed no more than its own exchange and what is to be reported. -/
def WidthAsked (x y : LinkState) : Prop :=
  ∃ exchange nextCmd wanted replayReq unacked linkDue creditDue, y = { x with
    exchange := exchange, nextCmd := nextCmd, wanted := wanted, replayReq := replayReq, unacked := unacked, linkDue := linkDue
    creditDue := creditDue }

section
variable (s : State) (l : LinkId) (m : BitVec 8) (c : BitVec 4)

theorem askWidth_asks : WidthAsked (s.link l) ((s.askWidth l m c).link l) := by
  simp only [State.askWidth]
  split
  · obtain ⟨due, credit, h⟩ := sendRecs_link (s.setLink l { s.link l with
      exchange := some ⟨⟨(s.link l).nextCmd, m, c⟩, 0, false⟩, nextCmd := (s.link l).nextCmd + 1, wanted := none }) l
      [.lane 1 ⟨(s.link l).nextCmd, m, c⟩]
    rw [h, link_setLink_same]
    exact ⟨_, _, _, _, _, _, _, rfl⟩
  · rw [link_setLink_same]
    exact ⟨_, _, _, _, _, _, _, rfl⟩
@[simp] theorem askWidth_events : (s.askWidth l m c).events = s.events := by
  simp only [State.askWidth]
  split <;> simp
theorem wantWidth_asks : WidthAsked (s.link l) ((s.wantWidth l).link l) := by
  have hself : WidthAsked (s.link l) (s.link l) := ⟨_, _, _, _, _, _, _, rfl⟩
  simp only [State.wantWidth]
  split
  · exact hself
  · split
    · exact askWidth_asks _ _ _ _
    · split
      · exact askWidth_asks _ _ _ _
      · exact hself
end

/-! ## Hitch (R257) -/

@[simp] theorem abandonWidth_hitch (x : LinkState) : x.abandonWidth.counters.hitch = x.counters.hitch := by
  simp only [LinkState.abandonWidth]
  split <;> rfl

/-- From a state to the next a link came to be held, which was counted, and raised to every partition. -/
def Hitched (s t : State) (l : LinkId) : Prop :=
  (t.link l).mode = .held ∧ (t.link l).counters.hitch = inc (s.link l).counters.hitch ∧
    t.events.map EventReq.code = s.events.map EventReq.code ++ if s.parts_ = [] then [evHitch] else s.parts_.map fun _ => evHitch

theorem hitch_holds {s : State} {l : LinkId} (hl : l < 24) (hup : (s.link l).isUp = true) : Hitched s (s.hitch l) l := by
  unfold Hitched
  have hport := port_ne_sclLink hl
  simp only [State.hitch, hup, hport, Bool.not_true, Bool.false_eq_true, if_false, raiseAll_link, link_setLink_same]
  exact ⟨rfl, congrArg inc (abandonWidth_hitch _), raiseAll_codes _ _ _ _ _ _⟩

end Sys2Proof.Laws

namespace Sys2Proof.Laws

/-! SUPPORT for O35. A flit from the lanes, the start of a replay, and what the sender picks. -/

open Sys2Proof.Machine

/-! ## Checks of a received flit (R242) -/

/-- A crc that is not the CRC-32C of the bytes before it fails, whatever the other fields say. -/
theorem rxFlit_crcFails (scl : Bool) {head : BitVec 42} {reserved : BitVec 54} {payload : List Byte} {crc : BitVec 32} (hlen : payload.length = 240)
    (hcrc : crc ≠ crc32c ((flitBytes head reserved payload crc).take 252)) : rxFlit scl (flitBytes head reserved payload crc) = .crcFails := by
  have hbefore : (leBytes 12 (reserved ++ head).toNat ++ payload).length = 252 := by simp [hlen]
  have hlast : leNat ((flitBytes head reserved payload crc).drop 252) = crc.toNat := by
    rw [flitBytes, List.drop_left' hbefore, leNat_leBytes]
    exact Nat.mod_eq_of_lt crc.isLt
  have hdiffers : leNat ((flitBytes head reserved payload crc).drop 252) ≠ (crc32c ((flitBytes head reserved payload crc).take 252)).toNat :=
    fun h => hcrc (BitVec.eq_of_toNat_eq (hlast.symm.trans h))
  exact if_pos (.inr hdiffers)

/-! ## Receiving (R248, R251) -/

/-- A flit stands at the end of its own channel's buffer. -/
theorem linkStore_eq (x : LinkState) (f : Flit) : x.store f = { x with
    rxBypass := x.rxBypass ++ if f.vc = .bypass then [f] else []
    rxRequest := x.rxRequest ++ if f.vc = .request then [f] else []
    rxResponse := x.rxResponse ++ if f.vc = .response then [f] else [] } := by
  unfold LinkState.store
  cases f.vc <;> simp

section
variable {s : State} {l : LinkId} {head : BitVec 42} {reserved : BitVec 54} {payload : List Byte} {crc : BitVec 32}
variable (hl : l < 24) (hup : (s.link l).isUp = true)
include hl hup

theorem dataFlitReceived_data {f : Flit} (h : rxFlit false (flitBytes head reserved payload crc) = .data quietAck f) :
    execDataFlitReceived l head reserved payload crc s = .next (s.setLink l ((s.link l).accept f)) := by
  simp [execDataFlitReceived, onLink_of_port hl, port_beq_sclLink hl, h, hup, takeFlitAck_quiet hl]
theorem dataFlitReceived_crcFails (h : rxFlit false (flitBytes head reserved payload crc) = .crcFails) :
    execDataFlitReceived l head reserved payload crc s = .next (s.setLink l (s.link l).askReplay.dropFlit) := by
  simp [execDataFlitReceived, onLink_of_port hl, port_beq_sclLink hl, h, hup]
theorem dataFlitReceived_unused (h : rxFlit false (flitBytes head reserved payload crc) = .unused) :
    execDataFlitReceived l head reserved payload crc s = .next (s.setLink l (s.link l).dropFlit) := by
  simp [execDataFlitReceived, onLink_of_port hl, port_beq_sclLink hl, h, hup]
end

section
variable (x : LinkState)

@[simp] theorem askReplay_rxExpected : x.askReplay.rxExpected = x.rxExpected := by
  unfold LinkState.askReplay
  split <;> rfl
@[simp] theorem askReplay_counters : x.askReplay.counters = x.counters := by
  unfold LinkState.askReplay
  split <;> rfl
/-- Replay is asked for once for each rx_expected. -/
theorem askReplay_asks : x.askReplay.replayReqFor = some x.rxExpected ∧
    (x.replayReqFor ≠ some x.rxExpected → x.askReplay.replayReq = true) := by
  by_cases h : x.replayReqFor = some x.rxExpected
  · rw [LinkState.askReplay, if_pos h]
    exact ⟨h, fun hne => absurd h hne⟩
  · rw [LinkState.askReplay, if_neg h]
    exact ⟨rfl, fun _ => rfl⟩
end

/-! ## Replay (R251, R252, R272) -/

/-- A link whose held entries are sent again, from the oldest. -/
def replayStarted (x : LinkState) : LinkState :=
  { x with
    replaying := x.replayBuf, replayFrom := x.acked, replaysInRow := x.replaysInRow + 1
    counters := { x.counters with replay := inc x.counters.replay } }

section
variable {s : State} {l : LinkId}

/-- Below the eighth in a row a replay starts. -/
theorem replay_starts (hfew : (s.link l).replaysInRow < 7) : s.replay l = s.setLink l (replayStarted (s.link l)) :=
  if_neg (Nat.not_le.mpr (Nat.succ_lt_succ hfew))

variable (hl : l < 24) (hup : (s.link l).isUp = true)
include hl hup

theorem replayRequest_replays (hheld : (s.link l).replayBuf ≠ []) (hfew : (s.link l).replaysInRow < 7)
    (hnew : (s.link l).replaying = [] ∨ (s.link l).replayFrom ≠ (s.link l).acked) :
    execReplayRequest l ⟨false, (s.link l).acked, true⟩ s = .next (s.setLink l (replayStarted (s.link l))) := by
  have hidle : (!(s.link l).replaying.isEmpty && (s.link l).replayFrom == (s.link l).acked) = false := by
    obtain h | h := hnew <;> simp [h]
  have htake : s.takeFlitAck l ⟨false, (s.link l).acked, true⟩ = (s.setLink l (s.link l)).replay l := by
    simp [State.takeFlitAck, LinkState.takeAck, -Bool.not_and, -Bool.and_eq_true, hidle, putAcked_of_port hl, hup, hheld]
  rw [execReplayRequest, onLink_of_port hl, htake, replay_starts (by rwa [link_setLink_same]), link_setLink_same, setLink_setLink]
/-- A timer that ran from an older point has no effect. -/
theorem ackTimeoutExpiry_replays (hheld : (s.link l).replayBuf ≠ []) (hfew : (s.link l).replaysInRow < 7) (point : BitVec 12) :
    execAckTimeoutExpiry ⟨l, point⟩ s = .next (if point = (s.link l).acked then s.setLink l (replayStarted (s.link l)) else s) := by
  rw [execAckTimeoutExpiry, onLink_of_port hl, replay_starts hfew, when_eq_next]
  exact congrArg Host.Outcome.next (if_congr (by simp [hup, hheld, eq_comm (a := point)]) rfl rfl)

/-! ## Acks and credits (R249, R254) -/

theorem ackFlitDue_due : execAckFlitDue l s =
    .next (if 0 < (s.link l).unacked ∨ (s.link l).creditDue = true then s.setLink l { s.link l with linkDue := true } else s) := by
  rw [execAckFlitDue, onLink_of_port hl, when_eq_next]
  simp [hup]
theorem credit_taken {c : CreditRec} (hcons : c.consValid = false) : execCredit l ⟨quietAck, c⟩ s =
    .next (s.setLink l { s.link l with gotByp := c.bypTotal, gotReq := c.reqTotal, gotRsp := c.rspTotal }) := by
  simp [execCredit, withRec_quiet hl, State.takeRec, State.takeCredit, hup, hcons, putAcked_of_port hl]

/-! ## Sending (R244, R247, R255) -/

theorem flitSend_sends (hswitch : (s.link l).txSwitch = none) : execFlitSend l s = .next (execFlitSend.send l s (s.link l)) := by
  have hremount : s.remountDue l = none := if_neg (port_ne_sclLink hl)
  simp [execFlitSend, onLink_of_port hl, hup, hremount, hswitch]
end

section
variable (s : State) (l : LinkId) {x : LinkState}

theorem send_of_linkDue (hdue : x.linkDue = true) : execFlitSend.send l s x = s.sendRecs l [] := if_pos hdue
theorem send_of_replaying {f : Flit} {rest : List Flit} (hdue : x.linkDue = false) (hreplay : x.replaying = f :: rest) :
    execFlitSend.send l s x = (s.setLink l ({ x.acksSent with replaying := rest }.tally fun c => { c with txFlits := inc c.txFlits })).emit
      (.flit l (dataFlit f x.ackFields)) := by
  simp [execFlitSend.send, hdue, hreplay]
/-- Up to three Bypass packets go before those of the other channels. -/
theorem send_of_bypass (hdue : x.linkDue = false) (hreplay : x.replaying = []) (hroom : x.replayBuf.length < 2048) (hready : x.ready .bypass = true) :
    execFlitSend.send l s x = s.sendNew l { x with
        txBypass := x.txBypass.drop 3, sentByp := x.sentByp + 1, rspInRow := 0
        sentPackets := x.sentPackets ++ (x.txBypass.take 3).map fun p => (x.txNext, p) }
      .bypass false ((x.txBypass.take 3).map TxPacket.packet).length (bypassPayload ((x.txBypass.take 3).map TxPacket.packet)) := by
  simp [execFlitSend.send, hdue, hreplay, hready, replayDepth, Nat.not_le.mpr hroom]
end

/-- Settles O35, by event. That each Bypass packet has 80 bytes of its flit's payload is log 121; that a flit whose crc fails
asks for a replay whatever its type says is log 124. -/
theorem flitsFlow : Obligations.FlitsFlow := by
  unfold Obligations.FlitsFlow
  intro s l hl hup x quiet
  refine ⟨?_, ?_, fun _ _ _ _ h => dataFlitReceived_unused hl hup h, fun hheld hfew => ⟨replayRequest_replays hl hup hheld hfew,
    ackTimeoutExpiry_replays hl hup hheld hfew⟩, ackFlitDue_due hl hup, fun _ => credit_taken hl hup, ?_⟩
  · intro head reserved payload crc f h hseq
    refine ⟨_, dataFlitReceived_data hl hup h, ?_⟩
    rw [link_setLink_same, LinkState.accept, if_pos hseq, linkStore_eq]
    exact ⟨rfl, rfl, rfl, rfl, rfl, rfl, rfl, rfl⟩
  · intro head reserved payload crc hlen hcrc
    refine ⟨_, dataFlitReceived_crcFails hl hup (rxFlit_crcFails false hlen hcrc), ?_⟩
    rw [link_setLink_same]
    exact ⟨askReplay_rxExpected x, by simp [LinkState.dropFlit, LinkState.tally, x], askReplay_asks x⟩
  · intro hswitch
    have hexec := flitSend_sends hl hup hswitch
    refine ⟨fun hdue => ⟨_, hexec, ?_⟩, fun f rest hdue hreplay => ⟨_, hexec, ?_⟩, fun hdue hreplay hroom hready => ⟨_, hexec, ?_⟩⟩
    · rw [send_of_linkDue _ _ hdue, sendRecs_of_up _ _ _ hup]
      exact ⟨rfl, link_setLink_same _ _ _⟩
    · rw [send_of_replaying _ _ hdue hreplay]
      exact ⟨rfl, congrArg LinkState.replaying (link_setLink_same _ _ _), congrArg LinkState.replayReq (link_setLink_same _ _ _)⟩
    · rw [send_of_bypass _ _ hdue hreplay hroom hready]
      exact ⟨rfl, congrArg LinkState.txBypass (link_setLink_same _ _ _), congrArg LinkState.txNext (link_setLink_same _ _ _),
        congrArg LinkState.replayBuf (link_setLink_same _ _ _), congrArg LinkState.sentByp (link_setLink_same _ _ _)⟩

end Sys2Proof.Laws

namespace Sys2Proof.Laws

/-! SUPPORT for O36. Training and its IDENT, a fresh start, a resume, what holds a port that is up, and the end of the grace. -/

open Sys2Proof.Machine

section
variable {x : LinkState}

theorem isUp_of_trains (h : x.trains = true) : x.isUp = false := by
  simp only [LinkState.trains, Bool.or_eq_true, beq_iff_eq] at h
  obtain (h | h) | h := h <;> simp [LinkState.isUp, h]
theorem trains_of_held (h : x.mode = .held) : x.trains = true := by simp [LinkState.trains, h]
theorem trains_of_training (h : x.mode = .training) : x.trains = true := by simp [LinkState.trains, h]
end

/-! ## Training (R256) -/

section
variable {s : State} {l : LinkId} (hl : l < 24)
include hl

theorem signalDetect_trains (hon : (s.link l).cfg.enable = true) (hmode : (s.link l).mode = .disabled) (hreleased : s.linkReleased l = true) :
    execSignalDetect l s = .next (s.setLink l { s.link l with
      mode := .training, quick := false, quickRetrains := 0, trained := false, resuming := false }) := by
  simp [execSignalDetect, onLink_of_port hl, hon, hmode, hreleased]

/-- A port whose training has ended on some lanes sends its IDENT. -/
theorem trainingEnds_of_port {x : LinkState} (hdown : x.isUp = false) (lanes : BitVec 18) : s.trainingEnds l x lanes =
    (s.setLink l { x with
        trained := true, trainedLanes := lanes, lanesActive := lanes.setWidth 8, rxLanes := lanes.setWidth 8, replayReq := false
        unacked := 0 }).emit
      (.flit l (linkFlit [.ident ⟨s.deviceId, BitVec.ofNat 5 l, s.idValid, x.fresh, lanes.setWidth 8, 2⟩] x.ackFields)) := by
  have hport := port_ne_sclLink hl
  simp only [State.trainingEnds, State.identOf, hport, if_false]
  rw [sendRecs_of_down, link_setLink_same, setLink_setLink]
  · rfl
  · rw [link_setLink_same]
    exact hdown
theorem trainingComplete_ends (htrains : (s.link l).trains = true) (hnew : (s.link l).trained = false) (hwide : (s.link l).wide = none)
    (lanes : BitVec 18) : execTrainingComplete l lanes s = .next (s.trainingEnds l (s.link l) lanes) := by
  simp [execTrainingComplete, onLink_of_port hl, hwide, htrains, hnew]
theorem quickRetrainFail_counts (htrains : (s.link l).trains = true) (hnew : (s.link l).trained = false) (hquick : (s.link l).quick = true) :
    execQuickRetrainFail l s = .next (s.setLink l (if (s.link l).quickRetrains < 2 then
      { s.link l with quickRetrains := (s.link l).quickRetrains + 1 } else { s.link l with quick := false })) := by
  have htakes : ((s.link l).trains && (s.link l).quick && !(s.link l).trained) = true := by rw [htrains, hquick, hnew]; rfl
  rw [execQuickRetrainFail, onLink_of_port hl, htakes, when_true, apply_ite (s.setLink l)]
end

/-! ## A fresh start (R247, R253, R260) -/

/-- Packets put in their queues change nothing else of a link. -/
theorem foldl_enqueue_eq (ps : List TxPacket) (x : LinkState) :
    ∃ byp req rsp, ps.foldl LinkState.enqueue x = { x with txBypass := byp, txRequest := req, txResponse := rsp } := by
  induction ps generalizing x with
  | nil => exact ⟨_, _, _, rfl⟩
  | cons p ps ih =>
    obtain ⟨byp, req, rsp, h⟩ := ih (x.enqueue p)
    rw [List.foldl_cons, h]
    unfold LinkState.enqueue LinkState.queue
    cases packetChannel p.packet <;> exact ⟨_, _, _, rfl⟩

theorem freshStart_up (x : LinkState) (scl : Bool) : (x.freshStart scl).mode = .up ∧ (x.freshStart scl).txNext = 0 ∧
    (x.freshStart scl).rxExpected = 0 ∧ (x.freshStart scl).fresh = false := by
  unfold LinkState.freshStart
  extract_lets q p
  obtain ⟨byp, req, rsp, h⟩ := foldl_enqueue_eq x.heldPackets _
  rw [h]
  exact ⟨rfl, rfl, rfl, rfl⟩

section
variable {s : State} {l : LinkId} {i : IdentRec}

/-- A port that was not held starts fresh without a flush, and asks for its width. -/
theorem startFresh_of_port (hl : l < 24) (hmode : (s.link l).mode ≠ .held) : ∃ (u : State) (x : LinkState), u.mem = s.mem ∧
    u.link l = { x.freshStart false with partnerDev := i.device, partnerPort := i.port } ∧ s.startFresh l i = u.wantWidth l := by
  simp only [State.startFresh, if_neg hmode, port_ne_sclLink hl, port_beq_sclLink hl, false_and, if_false]
  refine ⟨_, _, ?_, link_setLink_same _ _ _, rfl⟩
  split <;> split <;> simp
theorem startFresh_brings_up (hl : l < 24) (hmode : (s.link l).mode ≠ .held) :
    ((s.startFresh l i).link l).mode = .up ∧ ((s.startFresh l i).link l).partnerDev = i.device ∧
      ((s.startFresh l i).link l).partnerPort = i.port ∧ ((s.startFresh l i).link l).txNext = 0 ∧
      ((s.startFresh l i).link l).rxExpected = 0 ∧ ((s.startFresh l i).link l).fresh = false ∧ (s.startFresh l i).mem = s.mem := by
  obtain ⟨u, x, hmem, hu, hstart⟩ := startFresh_of_port (i := i) hl hmode
  obtain ⟨hup, hnext, hexpected, hfresh⟩ := freshStart_up x false
  obtain ⟨_, _, _, _, _, _, _, hlink⟩ := wantWidth_asks u l
  rw [hstart, hlink, wantWidth_mem, hu]
  exact ⟨hup, rfl, rfl, hnext, hexpected, hfresh, hmem⟩
end

/-! ## IDENT and RESUME (R258, R260) -/

section
variable {s : State} {l : LinkId} {i : IdentRec}

theorem takeIdent_starts_fresh (htrained : (s.link l).trained = true) (hnew : (s.link l).resuming = false) (hmode : (s.link l).mode = .training) :
    s.takeIdent l i = s.startFresh l i := by
  simp [State.takeIdent, trains_of_training hmode, htrained, hnew, hmode]
theorem takeIdent_resumes (htrained : (s.link l).trained = true) (hnew : (s.link l).resuming = false) (hmode : (s.link l).mode = .held)
    (hown : (s.link l).fresh = false) (hpartner : i.fresh = false) (hdev : i.device = (s.link l).partnerDev)
    (hport : i.port = (s.link l).partnerPort) : s.takeIdent l i =
      (s.setLink l { s.link l with resuming := true }).sendRecs l
        [.resume ⟨(s.link l).rxExpected, (s.link l).freedByp, (s.link l).freedReq, (s.link l).freedRsp⟩] := by
  have hasks : (s.link l).asksFresh i = false := by simp [LinkState.asksFresh, hown, hpartner, hdev, hport]
  simp [State.takeIdent, trains_of_held hmode, htrained, hnew, hmode, hasks]

/-- A link whose partner's RESUME has come, before what it lacks is replayed: its held packets follow. -/
def resumed (x : LinkState) (r : ResumeRec) : LinkState :=
  (x.heldPackets.foldl LinkState.enqueue { x with
    heldPackets := [], mode := .up, trained := false, resuming := false, graceOver := false, quick := false, quickRetrains := 0
    gotByp := r.bypTotal, gotReq := r.reqTotal, gotRsp := r.rspTotal, linkDue := true }).tally fun c => { c with hitchResume := inc c.hitchResume }

theorem resumed_up (x : LinkState) (r : ResumeRec) : (resumed x r).mode = .up ∧ (resumed x r).heldPackets = [] ∧
    (resumed x r).gotByp = r.bypTotal ∧ (resumed x r).replayBuf = x.replayBuf ∧ (resumed x r).replaysInRow = x.replaysInRow ∧
    (resumed x r).counters.hitchResume = inc x.counters.hitchResume := by
  unfold resumed
  obtain ⟨byp, req, rsp, h⟩ := foldl_enqueue_eq x.heldPackets _
  rw [h]
  exact ⟨rfl, rfl, rfl, rfl, rfl, rfl⟩
@[simp] theorem ackTo_hitchResume (x : LinkState) (seq : BitVec 12) : (x.ackTo seq).counters.hitchResume = x.counters.hitchResume := by
  unfold LinkState.ackTo
  split <;> rfl

/-- The same once the entries that the partner lacks are to be replayed. -/
def resumedReplaying (x : LinkState) (r : ResumeRec) : LinkState := if x.replayBuf = [] then resumed x r else replayStarted (resumed x r)

theorem resumedReplaying_up (x : LinkState) (r : ResumeRec) : (resumedReplaying x r).mode = .up ∧
    (x.replayBuf ≠ [] → (resumedReplaying x r).replaying = x.replayBuf) ∧ (resumedReplaying x r).heldPackets = [] ∧
    (resumedReplaying x r).gotByp = r.bypTotal ∧ (resumedReplaying x r).counters.hitchResume = inc x.counters.hitchResume := by
  obtain ⟨hup, hheld, hgot, hbuf, -, hcount⟩ := resumed_up x r
  by_cases h : x.replayBuf = []
  · rw [resumedReplaying, if_pos h]
    exact ⟨hup, fun hne => absurd h hne, hheld, hgot, hcount⟩
  · rw [resumedReplaying, if_neg h]
    exact ⟨hup, fun _ => hbuf, hheld, hgot, hcount⟩

section
variable {r : ResumeRec} {y : LinkState} (hl : l < 24) (hmode : (s.link l).mode = .held) (hwaits : (s.link l).resuming = true)
variable (hacked : (s.link l).ackTo (r.rxExpected - 1) = y) (hfew : y.replaysInRow < 7)
include hl hmode hwaits hacked hfew

theorem takeResume_of_port : s.takeResume l r = (s.setLink l (resumedReplaying y r)).wantWidth l := by
  obtain ⟨-, -, -, -, hrow, -⟩ := resumed_up y r
  have hreplay : (s.setLink l (resumed y r)).replay l = s.setLink l (replayStarted (resumed y r)) := by
    rw [replay_starts (by rwa [link_setLink_same, hrow]), link_setLink_same, setLink_setLink]
  have hresume : s.takeResume l r =
      (if y.replayBuf.isEmpty = true then s.setLink l (resumed y r) else (s.setLink l (resumed y r)).replay l).wantWidth l := by
    simp only [State.takeResume, hmode, hwaits, hacked, port_ne_sclLink hl, if_false]
    rfl
  rw [hresume, hreplay, resumedReplaying, apply_ite (s.setLink l)]
  simp only [List.isEmpty_iff]
theorem takeResume_brings_up : ((s.takeResume l r).link l).mode = .up ∧
    (y.replayBuf ≠ [] → ((s.takeResume l r).link l).replaying = y.replayBuf) ∧ ((s.takeResume l r).link l).heldPackets = [] ∧
    ((s.takeResume l r).link l).gotByp = r.bypTotal ∧
    ((s.takeResume l r).link l).counters.hitchResume = inc (s.link l).counters.hitchResume := by
  have hcount : y.counters.hitchResume = (s.link l).counters.hitchResume := by rw [← hacked, ackTo_hitchResume]
  rw [takeResume_of_port hl hmode hwaits hacked hfew, ← hcount]
  obtain ⟨_, _, _, _, _, _, _, hlink⟩ := wantWidth_asks (s.setLink l (resumedReplaying y r)) l
  rw [hlink, link_setLink_same]
  exact resumedReplaying_up y r
end
end

/-! ## What holds a port that is up (R241, R257, R262) -/

/-- A link one of whose codewords could not be corrected: the flits that overlap it fail. -/
def codewordLost (x : LinkState) (flits : Nat) : LinkState :=
  (if flits = 0 then x else x.askReplay).tally fun c => { c with fecUncorr := inc c.fecUncorr, crcDrop := satAdd c.crcDrop flits }

theorem codewordLost_keeps (x : LinkState) (flits : Nat) :
    (codewordLost x flits).isUp = x.isUp ∧ (codewordLost x flits).counters.hitch = x.counters.hitch := by
  unfold codewordLost LinkState.askReplay
  split
  · exact ⟨rfl, rfl⟩
  · split <;> exact ⟨rfl, rfl⟩

section
variable {s : State} {l : LinkId} (hl : l < 24)
include hl

theorem signalLost_hitches : execSignalLost l s = .next (s.hitch l) := onLink_of_port hl _ _

variable (hup : (s.link l).isUp = true)
include hup

theorem fecLockLost_hitches (hnone : (s.link l).rxSwitch = none) : execFecLockLost l s = .next (s.hitch l) := by
  rw [execFecLockLost, onLink_of_port hl, hup, hnone]
  cases s.scl.remountRx <;> simp [port_ne_sclLink hl]
/-- A switch that is agreed is tried first. -/
theorem fecLockLost_switches {r : LaneRec} (hagreed : (s.link l).rxSwitch = some r) : execFecLockLost l s = .next (s.takeSwitch l r) := by
  rw [execFecLockLost, onLink_of_port hl, hup, hagreed]
  rfl
theorem uncorrectableCodeword_counts (flits windowCount : Nat) : execUncorrectableCodeword l flits windowCount s =
    .next (if 64 < windowCount then (s.setLink l (codewordLost (s.link l) flits)).hitch l else s.setLink l (codewordLost (s.link l) flits)) := by
  rw [execUncorrectableCodeword, onLink_of_port hl, hup]
  rfl
theorem codewordLost_hitch_holds (flits : Nat) : Hitched s ((s.setLink l (codewordLost (s.link l) flits)).hitch l) l := by
  obtain ⟨hkeepsUp, hkeepsCount⟩ := codewordLost_keeps (s.link l) flits
  have h := hitch_holds (s := s.setLink l (codewordLost (s.link l) flits)) hl (by rw [link_setLink_same, hkeepsUp, hup])
  rw [Hitched, link_setLink_same, hkeepsCount] at h
  exact h
end

/-! ## The end of the grace (R258, R259, R273) -/

section
variable {s : State} {l : LinkId} (hl : l < 24)
include hl

/-- A flush of a port on which nothing of this package is lost. -/
theorem flushLink_of_port (hnone : ∀ p ∈ (s.link l).discarded, p.entry = none) :
    ((s.flushLink l).link l).mode = .flushed ∧ ((s.flushLink l).link l).fresh = true ∧ ((s.flushLink l).link l).replayBuf = [] ∧
      ((s.flushLink l).link l).txRequest = [] ∧
      ((s.flushLink l).link l).counters.flushFlits = satAdd (s.link l).counters.flushFlits (s.link l).discardedFlits := by
  have hlost : (s.link l).discarded.filterMap (·.entry) = [] := List.filterMap_eq_nil_iff.mpr hnone
  simp only [State.flushLink, port_ne_sclLink hl, if_false, hlost, List.foldl_nil, raiseAll_link, link_setLink_same]
  exact ⟨rfl, rfl, rfl, rfl, rfl⟩
theorem graceExpiry_flushes (hmode : (s.link l).mode = .held) (hnew : (s.link l).trained = false) :
    execGraceExpiry l s = .next (s.flushLink l) := by
  simp [execGraceExpiry, onLink_of_port hl, hmode, hnew, State.graceFlush, port_ne_sclLink hl]
/-- A port whose training is complete awaits its partner's IDENT. -/
theorem graceExpiry_waits (hmode : (s.link l).mode = .held) (htrained : (s.link l).trained = true) :
    execGraceExpiry l s = .next (s.setLink l { s.link l with graceOver := true }) := by
  simp [execGraceExpiry, onLink_of_port hl, hmode, htrained]
end

/-- Settles O36, by event. That three waiting Bypass packets count as one flit of LNK_FLUSH_FLITS is log 132. -/
theorem linksTrain : Obligations.LinksTrain := by
  unfold Obligations.LinksTrain
  intro s l hl x quiet
  have hself : (s.setLink l x).link l = x := link_setLink_same _ _ _
  refine ⟨fun hon hmode hreleased => ⟨_, signalDetect_trains hl hon hmode hreleased, ?_⟩, ?_, ?_, ?_, ?_, ?_⟩
  · rw [link_setLink_same]
    exact ⟨rfl, rfl⟩
  · refine fun htrains hnew => ⟨fun lanes hwide => ⟨_, trainingComplete_ends hl htrains hnew hwide lanes, ?_⟩,
      quickRetrainFail_counts hl htrains hnew⟩
    rw [trainingEnds_of_port hl (isUp_of_trains htrains)]
    rw [emit_link, link_setLink_same]
    exact ⟨rfl, rfl, rfl, rfl⟩
  · intro i htrained hnew
    have hexec : exec (.ident l ⟨quiet, i⟩) s = .next ((s.setLink l x).takeIdent l i) := withRec_quiet hl s (.ident i)
    refine ⟨fun hmode => ?_, fun hmode hown hpartner hdev hport => ?_⟩
    · rw [takeIdent_starts_fresh (by rwa [hself]) (by rwa [hself]) (by rwa [hself])] at hexec
      exact ⟨_, hexec, startFresh_brings_up hl (by rw [hself, hmode]; decide)⟩
    · rw [takeIdent_resumes (by rwa [hself]) (by rwa [hself]) (by rwa [hself]) (by rwa [hself]) hpartner (by rwa [hself]) (by rwa [hself]),
        hself, setLink_setLink] at hexec
      exact hexec
  · intro r y hmode hwaits hfew
    have hexec : exec (.resume l ⟨quiet, r⟩) s = .next ((s.setLink l x).takeResume l r) := withRec_quiet hl s (.resume r)
    have hresume := takeResume_brings_up (s := s.setLink l x) (r := r) (y := y) hl (by rwa [hself]) (by rwa [hself]) (by rw [hself]) hfew
    rw [hself] at hresume
    exact ⟨_, hexec, hresume⟩
  · intro hup held
    refine ⟨⟨_, signalLost_hitches hl, hitch_holds hl hup⟩, fun hnone => ⟨_, fecLockLost_hitches hl hup hnone, hitch_holds hl hup⟩,
      fun r => fecLockLost_switches hl hup, fun n k hmany => ⟨_, ?_, codewordLost_hitch_holds hl hup n⟩, fun k hfew => ?_⟩
    · exact (uncorrectableCodeword_counts hl hup n k).trans (congrArg Host.Outcome.next (if_pos hmany))
    · exact (uncorrectableCodeword_counts hl hup 0 k).trans (congrArg Host.Outcome.next (if_neg (Nat.not_lt.mpr hfew)))
  · exact fun hmode => ⟨fun hnew hnone => ⟨_, graceExpiry_flushes hl hmode hnew, flushLink_of_port hl hnone⟩, graceExpiry_waits hl hmode⟩

end Sys2Proof.Laws

namespace Sys2Proof.Laws

/-! SUPPORT for O37. A lane exchange record by record, its time limit, and the lanes whose symbols are corrected too often. -/

open Sys2Proof.Machine

/-! ## LANE records (R261, R262) -/

section
variable {s : State} {l : LinkId} {r : LaneRec}

theorem agree_of_port (hl : l < 24) (x : LinkState) (own : Bool) : x.agree l r own =
    if (r.mask &&& ~~~x.lanesActive) = 0#8 then { x with mode := .widthChange, txSwitch := some r, rxSwitch := some r }
    else { x with mode := .widthChange, wide := some r } := if_neg (port_ne_sclLink hl)

theorem laneReq_accepts (hnew : (s.link l).acceptedReq r = false) (hmode : (s.link l).mode = .up) (hmask : badMask l (s.link l) r.mask = false)
    (hyields : s.reqStands (s.link l) = false) : s.laneReq l r = (s.setLink l ((s.link l).agree l r false)).sendRecs l [.lane 2 r] := by
  simp [State.laneReq, hnew, hmode, hmask, hyields]
theorem laneReq_refuses (hnew : (s.link l).acceptedReq r = false) (hmask : badMask l (s.link l) r.mask = true) :
    s.laneReq l r = s.sendRecs l [.lane 3 r] := by
  simp [State.laneReq, hnew, hmask]
end

section
variable {s : State} {l : LinkId} {e : LaneExchange} (hexchange : (s.link l).exchange = some e) (hopen : e.accepted = false)
include hexchange hopen

theorem laneAccept_agrees (hl : l < 24) (hup : (s.link l).isUp = true) : s.laneAccept l e.lane.cmd =
    s.setLink l ({ s.link l with exchange := some { e with accepted := true } }.agree l e.lane true) := by
  simp [State.laneAccept, hexchange, hopen, hup, port_ne_sclLink hl]
theorem laneRefuse_ends : s.laneRefuse l e.lane.cmd = s.setLink l { s.link l with exchange := none } := by
  simp [State.laneRefuse, hexchange, hopen]
theorem laneReqTimeout_repeats (hl : l < 24) (hup : (s.link l).isUp = true) (hfew : e.attempts < 8) : execLaneReqTimeout l s =
    .next ((s.setLink l { s.link l with exchange := some { e with attempts := e.attempts + 1 } }).sendRecs l [.lane 1 e.lane]) := by
  simp [execLaneReqTimeout, onLink_of_port hl, hexchange, hopen, hup, hfew]
theorem laneReqTimeout_gives_up (hl : l < 24) (hup : (s.link l).isUp = true) (hmany : 8 ≤ e.attempts) : execLaneReqTimeout l s =
    .next (s.setLink l { s.link l with
      exchange := none, counters := { (s.link l).counters with widthFail := inc (s.link l).counters.widthFail } }) := by
  simp [execLaneReqTimeout, onLink_of_port hl, hexchange, hopen, hup, Nat.not_lt.mpr hmany, LinkState.tally]
end

section
variable {s : State} {l : LinkId} {r : LaneRec}

theorem laneSwitch_switches (hup : (s.link l).isUp = true) (hagreed : (s.link l).rxSwitch = some r) : s.laneSwitch l r.cmd = s.takeSwitch l r := by
  simp [State.laneSwitch, hagreed, hup]
/-- A change whose other direction has moved is complete. -/
theorem takeSwitch_completes (hl : l < 24) (hmode : (s.link l).mode = .widthChange) (hmoved : (s.link l).txSwitch = none)
    (htrained : (s.link l).wide = none) : ((s.takeSwitch l r).link l).mode = .up ∧ ((s.takeSwitch l r).link l).rxSwitch = none ∧
      ((s.takeSwitch l r).link l).rxLanes = r.mask ∧
      ((s.takeSwitch l r).link l).counters = { (s.link l).counters with widthChange := inc (s.link l).counters.widthChange } := by
  rw [State.takeSwitch, State.setRxLanes, if_neg (port_ne_sclLink hl), setLink_setLink, link_setLink_same, LinkState.settleWidth,
    if_pos ⟨hmode, htrained, hmoved, rfl⟩]
  generalize hy : LinkState.tally _ _ = y
  obtain ⟨_, _, _, _, _, _, _, hlink⟩ := wantWidth_asks (s.setLink l { y with rxLanes := r.mask }) l
  rw [hlink, link_setLink_same, ← hy]
  exact ⟨rfl, rfl, rfl, rfl⟩
end

/-! ## Lanes over the limit (R263) -/

section
variable {s : State} {l : LinkId} (hl : l < 24) (hup : (s.link l).isUp = true)
include hl hup

theorem laneErrorWindow_counts {counts : List Nat} (hgood : overLanes (s.link l) counts = []) : execLaneErrorWindow l counts s =
    .next (s.setLink l { s.link l with
      laneOver := [], counters := { (s.link l).counters with fecCorr := satAdd (s.link l).counters.fecCorr counts.sum } }) := by
  simp [execLaneErrorWindow, hl, hup, hgood, LinkState.tally]

/-- The one lane that is over its limit for the third window is excluded, and a width without it is asked for. -/
theorem laneErrorWindow_excludes {counts : List Nat} {i n : Nat} (hover : overLanes (s.link l) counts = [(i, n)]) (hthird : 3 ≤ n)
    (hactive : (s.link l).lanesActive.getLsbD i = true) (hnew : (s.link l).excluded.getLsbD i = false)
    (hauto : (s.link l).cfg.autoExclude = true) : ∃ t, execLaneErrorWindow l counts s = .next t ∧
      (t.link l).excluded = putBit (s.link l).excluded i true ∧ t.events.map EventReq.code =
        s.events.map EventReq.code ++ if s.parts_ = [] then [evLaneExcluded] else s.parts_.map fun _ => evLaneExcluded := by
  have hout : (([(i, n)].filter fun e => decide (3 ≤ e.2) && (s.link l).lanesActive.getLsbD e.1 && !(s.link l).excluded.getLsbD e.1).map
      (·.1)) = [i] := by simp [hthird, hactive, hnew]
  simp only [execLaneErrorWindow, decide_eq_true hl, whenHere_true, hup, when_true, hover, hout, hauto, Bool.not_true, List.isEmpty_cons,
    Bool.or_self, Bool.false_eq_true, if_false, List.foldl_cons, List.foldl_nil]
  generalize hraised : State.raiseAll _ _ _ _ _ _ = u
  have hexcluded : (u.link l).excluded = putBit (s.link l).excluded i true := by rw [← hraised, raiseAll_link, link_setLink_same]
  have hcodes : u.events.map EventReq.code =
      s.events.map EventReq.code ++ if s.parts_ = [] then [evLaneExcluded] else s.parts_.map fun _ => evLaneExcluded := by
    rw [← hraised]
    exact raiseAll_codes _ _ _ _ _ _
  refine ⟨_, rfl, ?_⟩
  split
  · exact ⟨hexcluded, hcodes⟩
  · obtain ⟨_, _, _, _, _, _, _, hlink⟩ := askWidth_asks u l (narrowMask _) 2
    rw [hlink, askWidth_events]
    exact ⟨hexcluded, hcodes⟩
end

/-- Settles O37, by record and by event. -/
theorem laneWidths : Obligations.LaneWidths := by
  unfold Obligations.LaneWidths
  intro s l hl hup x quiet
  have hself : (s.setLink l x).link l = x := link_setLink_same _ _ _
  refine ⟨?_, ?_, ?_, fun counts => ⟨laneErrorWindow_counts hl hup, fun i n => laneErrorWindow_excludes hl hup⟩⟩
  · intro r hnew
    have hexec : exec (.laneReq l quiet r) s = .next ((s.setLink l x).laneReq l r) := withRec_quiet hl s (.lane 1 r)
    refine ⟨fun hmode hmask hyields => ?_, fun hmask => ?_⟩
    · rw [laneReq_accepts (by rwa [hself]) (by rwa [hself]) (by rwa [hself]) (by rwa [hself]), hself, setLink_setLink, agree_of_port hl] at hexec
      exact hexec
    · rw [laneReq_refuses (by rwa [hself]) (by rwa [hself]), sendRecs_setLink_self] at hexec
      exact hexec
  · intro e hexchange hopen
    have haccept : exec (.laneAccept l ⟨quiet, e.lane.cmd⟩) s = .next ((s.setLink l x).laneAccept l e.lane.cmd) :=
      withRec_quiet hl s (.lane 2 ⟨e.lane.cmd, 0, 0⟩)
    have hrefuse : exec (.laneRefuse l ⟨quiet, e.lane.cmd⟩) s = .next ((s.setLink l x).laneRefuse l e.lane.cmd) :=
      withRec_quiet hl s (.lane 3 ⟨e.lane.cmd, 0, 0⟩)
    rw [laneAccept_agrees (by rwa [hself]) hopen hl (by rwa [hself]), hself, setLink_setLink] at haccept
    rw [laneRefuse_ends (by rwa [hself]) hopen, hself, setLink_setLink] at hrefuse
    exact ⟨haccept, hrefuse, laneReqTimeout_repeats hexchange hopen hl hup, laneReqTimeout_gives_up hexchange hopen hl hup⟩
  · intro r hmode hagreed hmoved htrained
    have hexec : exec (.laneSwitch l ⟨quiet, r.cmd⟩) s = .next ((s.setLink l x).laneSwitch l r.cmd) := withRec_quiet hl s (.lane 4 ⟨r.cmd, 0, 0⟩)
    rw [laneSwitch_switches (by rwa [hself]) (by rwa [hself])] at hexec
    have hcompletes := takeSwitch_completes (s := s.setLink l x) (r := r) hl (by rwa [hself]) (by rwa [hself]) (by rwa [hself])
    rw [hself] at hcompletes
    exact ⟨_, hexec, hcompletes⟩

end Sys2Proof.Laws

namespace Sys2Proof.Laws

/-! SUPPORT for O1, O45, O46 and O53. The step, the D commands and their refusals, the checks of scope and epoch, and the record that carries returned data. -/

open Sys2Proof.Machine

/-! ## The step -/

/-- Settles O1, by the two forms of the queue. -/
theorem stepRunsTheCommand : Obligations.StepRunsTheCommand := by
  refine ⟨fun c rest s h => ?_, fun s h => ?_⟩
  · simp only [step, h]
  · simp only [step, h]

/-! ## Refusals (R331, R335) -/

/-- The first condition that holds gives the reason, so where every earlier condition has the same reason, one that holds is enough. -/
theorem firstReason_append {l : List (Bool × BitVec 8)} {why : BitVec 8} {m : List (Bool × BitVec 8)} (hsame : ∀ c ∈ l, c.2 = why)
    (hsome : ∃ c ∈ l, c.1 = true) : firstReason (l ++ m) = some why := by
  induction l with
  | nil => simp at hsome
  | cons c l ih =>
    obtain ⟨hc, hl⟩ := List.forall_mem_cons.mp hsame
    rw [List.cons_append, firstReason]
    cases h : c.1 with
    | true => simp [hc]
    | false =>
      rw [if_neg Bool.false_ne_true]
      exact ih hl (by simpa [h] using hsome)

/-- A D command with a condition that holds is REJECTED with its reason, and the draft stays (R337). -/
theorem stageCmd_rejected {s : State} {r : Running} {op : BitVec 16} {sc : Scope} {d : DraftSetting} {why : BitVec 8}
    (h : s.carries r op sc = true) (hwhy : settingReject (s.draftMet r d) (draftedAs r op sc d) = some why) :
    s.stageCmd op (fun _ => sc) d = .next (s.taken.rejected r why) := by
  rw [State.draftMet, draftedAs] at hwhy
  rw [State.stageCmd, cmd_of_carries s r op _ _ h]
  simp only [taken_part, hwhy]

/-- A D command that no condition refuses and for which the draft has no room is REJECTED with DRAFT_FULL (R337). -/
theorem stageCmd_draftFull {s : State} {r : Running} {op : BitVec 16} {sc : Scope} {d : DraftSetting}
    (h : s.carries r op sc = true) (hnone : settingReject (s.draftMet r d) (draftedAs r op sc d) = none)
    (hfull : draftBig (putDraft (s.part r.part).draft (draftedAs r op sc d)) = true) :
    s.stageCmd op (fun _ => sc) d = .next (s.taken.rejected r rsDraftFull) := by
  rw [State.draftMet, draftedAs] at hnone
  rw [draftedAs] at hfull
  rw [State.stageCmd, cmd_of_carries s r op _ _ h]
  simp only [taken_part, hnone, hfull, if_true]

/-- Settles O45, command by command; the scope of STAGE_CLEAR, COLL_PLAN_CLEAR and UPD_TASK_CLEAR, which name an object, is log 73. -/
theorem draftCommandsStage : Obligations.DraftCommandsStage := by
  intro s r
  refine ⟨fun _ h => ?_, fun _ h => ?_, fun _ _ h => ?_, fun _ h => ?_, fun _ h => ?_, fun _ h => ?_, fun _ h => ?_, fun _ h => ?_, fun _ h => ?_,
    fun _ _ _ h => ?_, fun _ _ h => ?_, fun _ h => ?_, fun _ _ _ _ h => ?_, fun _ _ _ h => ?_, fun _ _ h => ?_, fun _ _ _ h => ?_,
    fun _ _ _ h => ?_, fun _ _ _ _ h => ?_, fun _ h => ?_, fun _ _ _ h => ?_, fun _ _ h => ?_, fun _ h => ?_, fun _ h => ?_, fun _ h => ?_,
    fun _ h => ?_, fun _ h => ?_, fun _ h => ?_⟩
  case refine_8 => exact stageCmd_of_acceptsDraft s r _ (fun t => t.stageScope _) _ rfl h
  case refine_12 => exact stageCmd_of_acceptsDraft s r _ (fun t => t.planScope _) _ rfl h
  case refine_15 => exact stageCmd_of_acceptsDraft s r _ (fun t => t.taskScope _ _) _ rfl h
  all_goals exact stageCmd_of_acceptsDraft s r _ (fun _ => _) _ rfl h


/-! ## Whether a guest die is present is no setting of a draft -/

theorem foldl_guest {α : Type} (f : State → α → State) (l : List α) (s : State) (h : ∀ t a, (f t a).guest = t.guest) :
    (l.foldl f s).guest = s.guest := foldl_keeps State.guest f l s h
theorem putPart_guest (s : State) (p : PartId) (x : Partition) : (s.putPart p x).guest = s.guest := by
  simp only [State.putPart]
  split <;> rfl
theorem idleQuads_guest (s : State) (m : BitVec 64) : (s.idleQuads m).guest = s.guest := foldl_guest _ _ _ fun _ _ => rfl
theorem settlePages_guest (s : State) (p : PartId) : (s.settlePages p).guest = s.guest := by
  simp only [State.settlePages]
  split
  · rfl
  · have hfold (bt : BatchP) := foldl_guest (fun t i => if (t.seq p i).mode == sqWaiting && !seqPages bt (t.seq p i) then
      (t.setSeq p i { t.seq p i with mode := sqShort }).raise p evKvPages 3 (unitBuilder p) (det 168 i) else t) (s.seqIndices p) s
      fun t i => by split <;> rfl
    split
    · exact hfold _
    · exact hfold _
/-- GUEST_FW_SET sets the firewall, and no command adds or removes the die. -/
theorem hubSet_guestPresent (c : DraftCmd) (s : State) : (hubSet c s).guest.present = s.guest.present := by
  unfold hubSet
  split
  case h_1 | h_2 => simp only [idleQuads_guest, putPart_guest]
  case h_3 => simp only [idleQuads_guest, State.setPart_guest]
  case h_20 => simp only [settlePages_guest, State.setPart_guest]
  all_goals rfl
theorem updSet_guest (r : RegionId) (c : DraftCmd) (s : State) : (updSet r c s).guest = s.guest := by
  simp only [updSet]
  split
  case h_5 => rfl
  all_goals split <;> rfl
theorem telemetrySet_guest (c : DraftCmd) (s : State) : (telemetrySet c s).guest = s.guest := by
  simp only [telemetrySet]
  split <;> rfl
theorem draftState_guestPresent (s : State) (cs : List DraftCmd) : (draftState s cs).guest.present = s.guest.present :=
  foldl_keeps (fun t : State => t.guest.present) draftStep cs s fun t c => by
    rw [draftStep, foldl_guest _ _ _ fun u r => updSet_guest r c u, telemetrySet_guest, hubSet_guestPresent]

/-! ## The refusals of the tables (R331) -/

theorem firstReason_of_head {c : Bool} {why : BitVec 8} {l : List (Bool × BitVec 8)} (h : c = true) : firstReason ((c, why) :: l) = some why :=
  if_pos h
theorem firstReason_of_second {b c : Bool} {k why : BitVec 8} {l : List (Bool × BitVec 8)} (hb : b = false) (hc : c = true) :
    firstReason ((b, k) :: (c, why) :: l) = some why := by rw [firstReason, hb, if_neg Bool.false_ne_true, firstReason, hc, if_pos rfl]

/-- An umber or crimson code is none of those that may be masked (R374). -/
theorem maskRejects_of_class {codes : List (BitVec 16)} {c : BitVec 16} (hmem : c ∈ codes)
    (hclass : eventClass c = clsUmber ∨ eventClass c = clsCrimson) : firstReason (maskRejects codes) = some rsField := by
  have hnot : (greyCodes.contains c || amberCodes.contains c) = false := by
    unfold eventClass at hclass
    cases hg : greyCodes.contains c with
    | true =>
      rw [hg, if_pos rfl] at hclass
      simp [clsGrey, clsUmber, clsCrimson] at hclass
    | false =>
      cases ha : amberCodes.contains c with
      | true =>
        rw [hg, ha, if_neg Bool.false_ne_true, if_pos rfl] at hclass
        simp [clsAmber, clsUmber, clsCrimson] at hclass
      | false => rfl
  have hany : (codes.any fun c => !(greyCodes.contains c || amberCodes.contains c)) = true :=
    List.any_eq_true.mpr ⟨c, hmem, by rw [hnot]; rfl⟩
  rw [maskRejects, firstReason, hany, Bool.or_true, if_pos rfl]
theorem stageSetRejects_of_queues {s : State} {x : StageP} (h : x.fwdQ = x.bwdQ ∨ x.budget = 0) :
    firstReason (stageSetRejects s x) = some rsField := by
  refine firstReason_append (l := [(decide (63 < x.index.toNat), rsField), (x.quadMask &&& ~~~(s.part x.partition).quads != 0#64, rsField),
    (x.fwdQ == x.bwdQ, rsField), (x.budget == 0#16, rsField)]) (by simp) ?_
  obtain h | h := h
  · exact ⟨(x.fwdQ == x.bwdQ, rsField), by simp, by simpa using h⟩
  · exact ⟨(x.budget == 0#16, rsField), by simp, by simpa using h⟩

/-- Settles O46, command by command. The words of DRAFT_QUERY are the model's choice (log 24), and so is the object's number in a conflict
of CHECK (log 15). -/
theorem draftsAreChecked : Obligations.DraftsAreChecked := by
  intro s r
  refine ⟨fun h x hx => ?_, fun h x h0 hx hp => ?_, fun h i h0 hi hp => ?_, fun h i m hi => ?_, fun h x hx => ?_, fun h => ?_, fun h x hx => ?_,
    fun x h hx => ?_, fun x h hx => ?_, fun i a h => ?_, fun i x h hx => ?_, fun q i x h hx => ?_, fun p i n a h hx => ?_, fun x h hx => ?_,
    fun d h => ?_, fun x h hx => ?_, fun l c h hc hx => ?_, fun x h hx => ?_, fun x h hx => ?_, fun x h hx => ?_, fun d k h h0 hfull => ?_,
    fun h => ⟨fun hk => ?_, fun hk => ?_⟩, fun h => ?_, fun h => ?_⟩
  · exact stageCmd_rejected h (firstReason_of_head (by obtain hx | hx := hx <;> simp [hx]))
  · refine stageCmd_rejected h (firstReason_of_second ?_ ?_)
    · simp_all [BitVec.toNat_eq]
    · simp [hp]
  · refine stageCmd_rejected h (firstReason_of_second ?_ ?_)
    · simp_all [BitVec.toNat_eq]
    · simp only [hp]
      rfl
  · exact stageCmd_rejected h (firstReason_of_head (decide_eq_true hi))
  · exact stageCmd_rejected h (firstReason_of_head (decide_eq_true hx))
  · exact stageCmd_rejected (d := .partCheckMode 3) h rfl
  · exact stageCmd_rejected h (firstReason_of_head (by simp [hx]))
  · exact stageCmd_rejected h (stageSetRejects_of_queues hx)
  · exact stageCmd_rejected h (firstReason_of_head (by simp [hx]))
  · exact stageCmd_rejected h (firstReason_of_head (by simp))
  · exact stageCmd_rejected h (firstReason_of_head (by simp [hx]))
  · exact stageCmd_rejected h (firstReason_of_head (decide_eq_true hx))
  · exact stageCmd_rejected h (firstReason_of_head (decide_eq_true hx))
  · exact stageCmd_rejected h (firstReason_of_head (by simp [hx]))
  · exact stageCmd_rejected (d := .linkIdSet d 0) h rfl
  · exact stageCmd_rejected h (firstReason_of_head (by simp [hx]))
  · exact stageCmd_rejected h (maskRejects_of_class hc hx)
  · exact stageCmd_rejected h (firstReason_of_head (by simp [hx]))
  · refine stageCmd_rejected h (firstReason_of_head ?_)
    rw [State.draftMet, draftState_guestPresent]
    exact congrArg not hx
  · exact stageCmd_rejected h (firstReason_of_head (by simp [hx]))
  · refine stageCmd_draftFull h (firstReason_eq_none (l := [(k == 0#8, rsField)]) (by simpa using h0)) hfull
  · rw [show exec .check s = execCheck s from rfl, execCheck, cmd_of_carries s r _ _ _ h, taken_part, hk]
  · rw [show exec .check s = execCheck s from rfl, execCheck, cmd_of_carries s r _ _ _ h, taken_part]
    split
    · contradiction
    · rfl
  · rw [show exec .draftDiscard s = execDraftDiscard s from rfl, execDraftDiscard, cmd_of_carries s r _ _ _ h, taken_part]
  · rw [show exec .draftQuery s = execDraftQuery s from rfl, execDraftQuery, cmd_of_carries s r _ _ _ h, taken_part]

/-! ## Scope and epoch (R333, R334) -/

/-- An outcome is that of a command of the control complex with this opcode and this scope. -/
def RunsAs (s : State) (op : BitVec 16) (sc : Scope) (o : Res) : Prop := ∃ k, o = s.cmd op sc k

theorem stageCmd_runsAs (s : State) (op : BitVec 16) (sc : State → Scope) (d : DraftSetting) : RunsAs s op (sc s) (s.stageCmd op sc d) := ⟨_, rfl⟩
theorem fwUpdate_runsAs {s : State} (hcut : s.fl.cut = none) (hwaiting : s.fl.waitingCinch = []) (a : Addr) (n : BitVec 32) (i : Image) (ok : Bool) :
    RunsAs s 0x0705 .package (execFwUpdate a n i ok s) := by
  unfold execFwUpdate
  rw [hcut, hwaiting, if_neg (by decide)]
  exact ⟨_, rfl⟩

/-- A command of Table 13.13 runs under the opcode and the scope that the table gives it; FW_UPDATE does so where no Cinch is in progress (R346). -/
theorem exec_runsAs {s : State} {c : Instr} {op : BitVec 16} {sc : Scope} (h : s.commandOf c = some (op, sc))
    (hfw : ∀ a n i k, c = .fwUpdate a n i k → s.fl.cut = none ∧ s.fl.waitingCinch = []) : RunsAs s op sc (exec c s) := by
  cases c
  all_goals cases h
  all_goals simp only [exec]
  case fwUpdate a n i k =>
    obtain ⟨hcut, hwaiting⟩ := hfw a n i k rfl
    exact fwUpdate_runsAs hcut hwaiting a n i k
  case partCreate | partDestroy | partQuads | partMem | partCheckMode | reportSet | stageSet | stageClear | queueConfig | collGroupSet | collPlanSet
      | collPlanClear | collJobSet | updTaskSet | updTaskClear | updParamSet | updSchedSet | memClassSet | linkConfig | linkRouteSet | linkIdSet
      | sclConfig | eventMaskSet | powerLimitSet | guestFwSet | exportSet | batchSet =>
    exact stageCmd_runsAs s _ _ _
  all_goals exact ⟨_, rfl⟩

section
variable {s : State} {r : Running} {op : BitVec 16} {sc : Scope} {o : Res} (ho : RunsAs s op sc o) (hcurrent : s.fl.current = some r)
  (hop : r.hdr.opcode = op)
include ho hcurrent hop

theorem RunsAs.of_scope (hscope : scopeOk r sc = false) : o = .next (s.taken.rejected r rsScope) := by
  obtain ⟨k, rfl⟩ := ho
  simp only [State.cmd, hcurrent, hop, beq_self_eq_true, when_true, hscope, Bool.not_false, if_true]
  rfl
theorem RunsAs.of_stale (hscope : scopeOk r sc = true) (hstale : staleHdr r.hdr.epoch (s.scopeEpoch r sc) = true) :
    o = .next (s.taken.cmdDone r cdStale 0 0 []) := by
  obtain ⟨k, rfl⟩ := ho
  have hepoch : s.taken.scopeEpoch r sc = s.scopeEpoch r sc := by cases sc <;> rfl
  rw [← hepoch, State.taken] at hstale
  simp only [State.cmd, hcurrent, hop, beq_self_eq_true, when_true, hscope, hstale, Bool.not_true, Bool.false_eq_true, if_false, if_true]
  rfl
end

/-! ## Returned data (R335) -/

/-- Settles O53. The scope of a command that names an object by its number is log 73. -/
theorem scopeAndEpochAreChecked : Obligations.ScopeAndEpochAreChecked := by
  refine ⟨fun h e => ⟨rfl, fun h0 => ?_⟩, fun s r => ⟨fun _ => rfl, rfl, rfl, rfl⟩, fun s c r op sc hc hcurrent hop hfw => ?_,
    fun s r hcurrent hop hwaits hstale => ?_, fun s w rest hwaiting hcut hfw hup hstale => ?_, fun s r st rs fl data => ⟨?_, ?_, ?_⟩,
    fun s p c hflag => ?_⟩
  · have hne : (h != 0#32) = true := bne_iff_ne.mpr h0
    simp [staleHdr, epochGe, hne]
  · exact ⟨(exec_runsAs hc hfw).of_scope hcurrent hop, (exec_runsAs hc hfw).of_stale hcurrent hop⟩
  · simp only [exec, execCinch, hcurrent, hop, hwaits, Bool.false_eq_true, if_false, State.tryCinch]
    exact congrArg Host.Outcome.next (if_pos hstale)
  · simp only [exec, execCutStart, hwaiting, hcut, hfw, hup, Option.isNone_none, decide_true, Bool.and_self, when_true, State.tryCinch]
    exact congrArg Host.Outcome.next (if_pos hstale)
  · intro hlen
    have hlong : ¬ 248 < data.length := by omega
    simp [State.cmdDone, hlong, doneRecord]
  · intro hlen haddr
    have hlong : 248 < data.length := by omega
    have hbuffer : (r.hdr.resultAddr == 0#48) = false := beq_eq_false_iff_ne.mpr haddr
    simp [State.cmdDone, hlong, hbuffer, doneRecord, flResult]
  · intro hlen haddr
    have hlong : 248 < data.length := by omega
    simp [State.cmdDone, hlong, haddr, rsNoBuffer]
  · simp only [State.emitRecord, hflag, if_true]
end Sys2Proof.Laws

namespace Sys2Proof.Laws

/-! SUPPORT for O43 and O44. The registers of a ring as its host writes them, the record at a ring's head, the records of the two device rings, the events
and the completions. -/

open Sys2Proof.Machine

/-! ## What has been sent over Sceolink -/

theorem SentOver.part {s t : State} (h : SentOver s t) (p : PartId) : t.part p = s.part p := by
  obtain ⟨_, _, _, rfl⟩ := h
  rfl
theorem SentOver.fl {s t : State} (h : SentOver s t) : t.fl = s.fl := by
  obtain ⟨_, _, _, rfl⟩ := h
  rfl
theorem SentOver.reset_ {s t : State} (h : SentOver s t) : t.reset_ = s.reset_ := by
  obtain ⟨_, _, _, rfl⟩ := h
  rfl

/-- A completion adds a record to its partition, and may send one: the partition's other fields stay. -/
theorem cmdDone_part (s : State) (r : Running) (status reason flags : BitVec 8) (data : List Word) :
    ∃ rs, (s.cmdDone r status reason flags data).part r.part = { s.part r.part with records := rs } := by
  obtain ⟨rs, h⟩ := cmdDone_sentOver s r status reason flags data
  exact ⟨rs, by rw [h.part, part_setPart_same]⟩
theorem cmdDone_fl (s : State) (r : Running) (status reason flags : BitVec 8) (data : List Word) :
    (s.cmdDone r status reason flags data).fl = s.fl := by
  obtain ⟨_, h⟩ := cmdDone_sentOver s r status reason flags data
  exact h.fl

/-! ## Heads and tails (R308, R329) -/

section
variable {s : State} {p : PartId} (hexists : s.partExists p = true)
include hexists

theorem putCount_of_good {r : RingRegs} (h : headBad r = false) (f : Partition → Partition) : s.putCount p r f = s.setPart p (f (s.part p)) := by
  simp [State.putCount, hexists, h]
theorem putCount_of_bad {r : RingRegs} (h : headBad r = true) (f : Partition → Partition) :
    s.putCount p r f = s.setPart p { s.part p with headErr := true } := by
  simp [State.putCount, hexists, h]
end

/-! ## The record at a ring's head (R326, R327, R332) -/

section
variable {s : State} {p : PartId} {h : CmdHeader} {again : State → State}

/-- A partition has had its turn, and the lines of its record are cached. -/
def afterTurn (s : State) (p : PartId) (lines : List (BitVec 47)) : State :=
  { s with fl := { s.fl with lastTurn := p }, scl := { s.scl with lineCache := lines } }
/-- The same where the record is invalid, which is counted. -/
def afterInvalid (s : State) (p : PartId) (lines : List (BitVec 47)) : State :=
  { s with fl := { s.fl with lastTurn := p }, scl := { s.scl with lineCache := lines, ringReread := inc s.scl.ringReread } }

/-- What becomes of a record that the ring can hold. -/
theorem readRecord_fits (hlen : tooLong (s.part p).cmdRing h.units.toNat = false) : ∃ lines, s.readRecord p h again =
    if !(h.seqOk && h.crcOk) then again (afterInvalid s p lines)
    else if h.opcode = 0#16 then (afterTurn s p lines).setPart p { s.part p with cmdRing := (s.part p).cmdRing.take h.units.toNat, rereads := 0 }
    else if s.bgFull p h.opcode then (afterTurn s p lines).setPart p { s.part p with rereads := 0 }
    else
      let t := (afterTurn s p lines).setPart p { s.part p with cmdRing := (s.part p).cmdRing.take h.units.toNat, rereads := 0 }
      { t with fl := { t.fl with current := some ⟨p, h, (s.part p).cmdRing.head⟩ } } := by
  have hlines (t : State) (ls : List (BitVec 47)) : ∃ lines, t.cacheLines ls = { t with scl := { t.scl with lineCache := lines } } := ⟨_, rfl⟩
  unfold State.readRecord
  rw [if_neg (by simp [hlen])]
  obtain ⟨lines, hcached⟩ := hlines { s with fl := { s.fl with lastTurn := p } } ((List.range (min h.units.toNat 512)).map fun i =>
    ringLine (s.part p).cmdRing ((s.part p).cmdRing.head.toNat + i))
  exact ⟨lines, by dsimp only; rw [hcached]; rfl⟩

theorem readRecord_takes (hlen : tooLong (s.part p).cmdRing h.units.toNat = false) (hseq : h.seqOk = true) (hcrc : h.crcOk = true)
    (hop : h.opcode ≠ 0) (hbg : s.bgFull p h.opcode = false) : ∃ t, s.readRecord p h again = t ∧
      t.fl.current = some ⟨p, h, (s.part p).cmdRing.head⟩ ∧ t.fl.lastTurn = p ∧
      t.part p = { s.part p with cmdRing := (s.part p).cmdRing.take h.units.toNat, rereads := 0 } := by
  obtain ⟨lines, hread⟩ := readRecord_fits (h := h) (again := again) hlen
  rw [if_neg (by simp [hseq, hcrc]), if_neg (show ¬ h.opcode = 0#16 from hop), if_neg (by simp [hbg])] at hread
  exact ⟨_, hread, rfl, rfl, part_setPart_same _ _ _⟩
theorem readRecord_skips (hlen : tooLong (s.part p).cmdRing h.units.toNat = false) (hseq : h.seqOk = true) (hcrc : h.crcOk = true)
    (hop : h.opcode = 0) : ∃ lines, s.readRecord p h again =
      (afterTurn s p lines).setPart p { s.part p with cmdRing := (s.part p).cmdRing.take h.units.toNat, rereads := 0 } := by
  obtain ⟨lines, hread⟩ := readRecord_fits (h := h) (again := again) hlen
  rw [if_neg (by simp [hseq, hcrc]), if_pos (show h.opcode = 0#16 from hop)] at hread
  exact ⟨lines, hread⟩
theorem readRecord_again (hlen : tooLong (s.part p).cmdRing h.units.toNat = false) (hbad : (h.seqOk && h.crcOk) = false) :
    ∃ lines, s.readRecord p h again = again (afterInvalid s p lines) := by
  obtain ⟨lines, hread⟩ := readRecord_fits (h := h) (again := again) hlen
  rw [if_pos (by rw [hbad]; rfl)] at hread
  exact ⟨lines, hread⟩
/-- A record that the ring cannot hold parks the ring with TOO_LONG (R327). -/
theorem readRecord_parks (hlen : tooLong (s.part p).cmdRing h.units.toNat = true) (hseq : h.seqOk = true) :
    ((s.readRecord p h again).part p).park = 2 ∧ ((s.readRecord p h again).part p).cmdRing = (s.part p).cmdRing ∧
      (s.readRecord p h again).fl.current = s.fl.current := by
  have hread : s.readRecord p h again = ((({ s with fl := { s.fl with lastTurn := p } } : State).setPart p
      { s.part p with park := 0b10, rereads := 0 }).cmdDone ⟨p, h, (s.part p).cmdRing.head⟩ cdTooLong 0 0 []) := by
    simp only [State.readRecord, hlen, hseq, Bool.and_self, if_true]
  obtain ⟨rs, hpart⟩ := cmdDone_part (({ s with fl := { s.fl with lastTurn := p } } : State).setPart p { s.part p with park := 0b10, rereads := 0 })
    ⟨p, h, (s.part p).cmdRing.head⟩ cdTooLong 0 0 []
  rw [hread, hpart, cmdDone_fl, part_setPart_same]
  exact ⟨rfl, rfl, rfl⟩
end

section
variable {s : State} {p : PartId} {h : CmdHeader} (hreads : s.readsRings = true) (hcurrent : s.fl.current = none)
include hreads hcurrent

theorem commandRecordRead_reads (hturn : s.turn = some p) :
    execCommandRecordRead p h s = .next (s.readRecord p h fun t => t.setPart p { t.part p with rereads := 1 }) := by
  simp [execCommandRecordRead, hreads, hcurrent, hturn]
theorem ringReread_reads (hready : s.ringReady p = true) (hagain : 0 < (s.part p).rereads) : execRingReread p h s =
    .next (s.readRecord p h fun t => if 64 ≤ (s.part p).rereads then t.parkStale p else t.setPart p { t.part p with rereads := (s.part p).rereads + 1 }) := by
  simp [execRingReread, hreads, hcurrent, hready, hagain]

theorem ringReread_invalid (hready : s.ringReady p = true) (hagain : 0 < (s.part p).rereads)
    (hlen : tooLong (s.part p).cmdRing h.units.toNat = false) (hcrc : h.crcOk = false) (hfew : (s.part p).rereads < 64) :
    ∃ lines, execRingReread p h s = .next ((afterInvalid s p lines).setPart p { s.part p with rereads := (s.part p).rereads + 1 }) := by
  obtain ⟨lines, hread⟩ := readRecord_again (h := h)
    (again := fun t => if 64 ≤ (s.part p).rereads then t.parkStale p else t.setPart p { t.part p with rereads := (s.part p).rereads + 1 })
    hlen (by simp [hcrc])
  rw [if_neg (by omega)] at hread
  exact ⟨lines, (ringReread_reads hreads hcurrent hready hagain).trans (congrArg _ hread)⟩
theorem ringReread_stale (hready : s.ringReady p = true) (hagain : 0 < (s.part p).rereads)
    (hlen : tooLong (s.part p).cmdRing h.units.toNat = false) (hcrc : h.crcOk = false) (hmany : 64 ≤ (s.part p).rereads) :
    ∃ lines, execRingReread p h s = .next ((afterInvalid s p lines).parkStale p) := by
  obtain ⟨lines, hread⟩ := readRecord_again (h := h)
    (again := fun t => if 64 ≤ (s.part p).rereads then t.parkStale p else t.setPart p { t.part p with rereads := (s.part p).rereads + 1 })
    hlen (by simp [hcrc])
  rw [if_pos hmany] at hread
  exact ⟨lines, (ringReread_reads hreads hcurrent hready hagain).trans (congrArg _ hread)⟩
end

/-! ## The records of the device rings (R328, R373) -/

/-- The oldest record is marked as being written, or nothing changes: the store holds as many records as before. -/
theorem pumpCpl_part (s : State) (p : PartId) :
    ∃ rs, rs.length = (s.part p).records.length ∧ (s.pumpCpl p).part p = { s.part p with records := rs } := by
  unfold State.pumpCpl
  dsimp only
  split
  next r rest hrecords =>
    split
    · exact ⟨{ r with writing := true } :: rest, by rw [hrecords]; rfl, by rw [(emitRecord_sentOver _ _ _).part, part_setPart_same]⟩
    · exact ⟨(s.part p).records, rfl, rfl⟩
  · exact ⟨(s.part p).records, rfl, rfl⟩
theorem pumpCpl_reset (s : State) (p : PartId) : (s.pumpCpl p).reset_ = s.reset_ := by
  unfold State.pumpCpl
  dsimp only
  split
  · split
    · exact (emitRecord_sentOver _ _ _).reset_
    · rfl
  · rfl
theorem resetAfter_of_no_reset {s : State} (h : s.reset_.pendingReset = none) (r : CplRecord) : s.resetAfter r = s := by
  unfold State.resetAfter
  rw [h]
  cases r <;> rfl
/-- The oldest entry, or guest message, is marked as being written, or nothing changes. -/
theorem pumpEvt_part (s : State) (p : PartId) : ∃ es ms, (s.pumpEvt p).part p = { s.part p with errs := es, mbox := ms } := by
  have hmbox : ∃ ms, (s.pumpMbox p).part p = { s.part p with mbox := ms } := by
    unfold State.pumpMbox
    dsimp only
    split
    · split
      · exact ⟨_, by rw [(writeRing_sentOver _ _ _ _ _ _).part, part_setPart_same]⟩
      · exact ⟨(s.part p).mbox, rfl⟩
    · exact ⟨(s.part p).mbox, rfl⟩
  unfold State.pumpEvt
  dsimp only
  split
  · split
    · exact ⟨_, (s.part p).mbox, by rw [State.emitEvent, (writeRing_sentOver _ _ _ _ _ _).part, part_setPart_same]⟩
    · exact ⟨(s.part p).errs, (s.part p).mbox, rfl⟩
  · obtain ⟨ms, h⟩ := hmbox
    exact ⟨(s.part p).errs, ms, h⟩

/-- The tail of the completion ring moves past the oldest record, which leaves the store (R328). -/
theorem ackRecord_completion {s : State} {p : PartId} {r : StoredRecord} {rest : List StoredRecord} (h : (s.part p).records = r :: rest)
    (hreset : s.reset_.pendingReset = none) : ((s.ackRecord p false).part p).cplRing = ringPut (s.part p).cplRing (recordUnits r.record) ∧
      ((s.ackRecord p false).part p).records.length = rest.length := by
  let u := (s.setPart p { s.part p with cplRing := ringPut (s.part p).cplRing (recordUnits r.record), records := rest }).settleHold p
  have hack : s.ackRecord p false = u.pumpCpl p := by
    have hnone : (u.pumpCpl p).reset_.pendingReset = none := by
      rw [pumpCpl_reset]
      exact hreset
    rw [← resetAfter_of_no_reset hnone r.record]
    simp only [State.ackRecord, Bool.false_eq_true, if_false, h]
    rfl
  have hu : u.part p = { s.part p with cplRing := ringPut (s.part p).cplRing (recordUnits r.record), records := rest, held := (u.part p).held } := by
    simp only [u, State.settleHold, part_setPart_same]
  obtain ⟨rs, hlen, hpart⟩ := pumpCpl_part u p
  rw [hack, hpart, hlen, hu]
  exact ⟨rfl, rfl⟩
/-- The tail of the event ring moves past an event's record (R328, R373). -/
theorem ackRecord_event {s : State} {p : PartId} (h : (s.part p).mbox = []) :
    ((s.ackRecord p true).part p).evtRing = ringPut (s.part p).evtRing 1 := by
  have hack : s.ackRecord p true = (s.setPart p { s.part p with
      evtRing := ringPut (s.part p).evtRing 1, errs := ackEntry (s.part p).errs }).pumpEvt p := by
    unfold State.ackRecord
    rw [if_pos rfl]
    split
    next hsome => simp [h] at hsome
    · rfl
  obtain ⟨es, ms, hpart⟩ := pumpEvt_part (s.setPart p { s.part p with
    evtRing := ringPut (s.part p).evtRing 1, errs := ackEntry (s.part p).errs }) p
  rw [hack, hpart, part_setPart_same]

theorem deviceRecordAck_completion {s : State} {p : PartId} {r : StoredRecord} {rest : List StoredRecord} (hmode : s.scl.mode = .attached)
    (hrecords : (s.part p).records = r :: rest) (hwriting : r.writing = true) :
    execDeviceRecordAck p false s = .next ((s.dropReqs (recordOf p false)).ackRecord p false) := by
  simp [execDeviceRecordAck, hmode, hrecords, hwriting]
theorem deviceRecordAck_event {s : State} {p : PartId} (hmode : s.scl.mode = .attached) (hwriting : (s.part p).errs.any (·.writing) = true) :
    execDeviceRecordAck p true s = .next ((s.dropReqs (recordOf p true)).ackRecord p true) := by
  simp [execDeviceRecordAck, Partition.evtBusy, hmode, hwriting]

/-- Settles O43. That one record of a ring is on its way at a time is log 57. -/
theorem ringsAreServed : Obligations.RingsAreServed := by
  refine ⟨fun s p v hexists => ?_, fun s p h => ?_, fun s r hcurrent hop => ?_, fun s p => ?_⟩
  · refine ⟨fun h => ?_, fun h => ?_, fun h => ?_, fun h => ?_, fun h => ?_, fun h => ?_, ?_⟩
    · simp only [exec, execFmpPCmdTailWrite, State.writeCmdTail, putCount_of_good hexists h]
    · simp only [exec, execFmpPCmdTailWrite, State.writeCmdTail, putCount_of_bad hexists h]
    · simp only [exec, execFmpPCplHeadWrite, State.writeCplHead, putCount_of_good hexists h]
    · simp only [exec, execFmpPCplHeadWrite, State.writeCplHead, putCount_of_bad hexists h]
    · simp only [exec, execFmpPEvtHeadWrite, State.writeEvtHead, putCount_of_good hexists h]
    · simp only [exec, execFmpPEvtHeadWrite, State.writeEvtHead, putCount_of_bad hexists h]
    · simp only [exec, execHeadErrClear, State.writePStatus, hexists, Bool.true_and]
  · intro x hreads hcurrent
    refine ⟨fun hturn hlen => ⟨fun hseq hcrc hop hbg => ?_, fun hseq hcrc hop => ?_, fun hbad => ?_⟩,
      fun hturn hseq hlen => ?_, fun hready hagain hlen => ⟨fun hseq hcrc hop hbg => ?_, fun hcrc hfew => ?_, fun hcrc hmany => ?_⟩⟩
    · obtain ⟨t, ht, hfl, hlast, hpart⟩ := readRecord_takes (again := fun t => t.setPart p { t.part p with rereads := 1 }) hlen hseq hcrc hop hbg
      exact ⟨t, by rw [← ht]; exact commandRecordRead_reads hreads hcurrent hturn, hfl, hlast, hpart⟩
    · obtain ⟨lines, hread⟩ := readRecord_skips (again := fun t => t.setPart p { t.part p with rereads := 1 }) hlen hseq hcrc hop
      exact ⟨_, (commandRecordRead_reads hreads hcurrent hturn).trans (congrArg _ hread), hcurrent, rfl, part_setPart_same _ _ _⟩
    · obtain ⟨lines, hread⟩ := readRecord_again (again := fun t => t.setPart p { t.part p with rereads := 1 }) hlen hbad
      exact ⟨_, (commandRecordRead_reads hreads hcurrent hturn).trans (congrArg _ hread), hcurrent, part_setPart_same _ _ _, rfl⟩
    · have hparked := readRecord_parks (again := fun t => t.setPart p { t.part p with rereads := 1 }) hlen hseq
      rw [hcurrent] at hparked
      exact ⟨_, commandRecordRead_reads hreads hcurrent hturn, hparked⟩
    · obtain ⟨t, ht, hfl, -, hpart⟩ := readRecord_takes
        (again := fun t => if 64 ≤ (s.part p).rereads then t.parkStale p else t.setPart p { t.part p with rereads := (s.part p).rereads + 1 })
        hlen hseq hcrc hop hbg
      exact ⟨t, by rw [← ht]; exact ringReread_reads hreads hcurrent hready hagain, hfl, hpart⟩
    · obtain ⟨lines, hread⟩ := ringReread_invalid hreads hcurrent hready hagain hlen hcrc hfew
      exact ⟨_, hread, part_setPart_same _ _ _, rfl⟩
    · obtain ⟨lines, hread⟩ := ringReread_stale hreads hcurrent hready hagain hlen hcrc hmany
      exact ⟨_, hread, part_setPart_same _ _ _, rfl⟩
  · simp only [exec, execUnknown, hcurrent, hop, Bool.not_false, when_true]
    rfl
  · exact fun hmode => ⟨fun r rest hrecords hwriting hreset =>
      ⟨_, deviceRecordAck_completion hmode hrecords hwriting, ackRecord_completion (s := s.dropReqs _) hrecords hreset⟩,
      fun hwriting hmbox => ⟨_, deviceRecordAck_event hmode hwriting, ackRecord_event (s := s.dropReqs _) hmbox⟩⟩
end Sys2Proof.Laws

namespace Sys2Proof.Laws

/-! SUPPORT for O44. The error table counts the entries in use over the table of partitions as it is listed, and an update of a table that is not in rising
order can list a partition twice. -/

open Sys2Proof.Machine

/-- A general entry of the error table, for another event than EVENT_RAISE takes. -/
def olderEntry : ErrEntry := ⟨.general, ⟨0, 0, 0, 1, 0, 3, 1, clsGrey, evBlockParked⟩, false, none, 0, 0⟩
/-- An event of partition 3 waits. Partition 3, with 500 of the 928 general entries, is listed behind partition 5. -/
def unsortedParts : State := { State.reset with
  parts := [(5, Partition.reset), (3, { Partition.reset with errs := List.replicate 500 olderEntry })]
  events := [⟨evHitch, 0, 4, 3, 0⟩] }

theorem unsortedParts_room : unsortedParts.generalUsed < 928 := by decide +kernel
theorem unsortedParts_raises : exec .eventRaise unsortedParts =
    .next (({ unsortedParts with events := [] } : State).takeEvent ⟨evHitch, 0, 4, 3, 0⟩) := rfl
/-- With the partition listed a second time the entries seem to be more than 928, so that the event is merged and finds no entry under its code (R373). -/
theorem unsortedParts_merges : (((({ unsortedParts with events := [] } : State).takeEvent ⟨evHitch, 0, 4, 3, 0⟩).part 3).errs.any fun y =>
    y.record.code == evHitch && y.record.unit == 0) = false := by decide +kernel

/-- Refutes O44: its clause for an event that is placed fails in `unsortedParts`, where the table of partitions is not in rising order. -/
theorem not_completionsAndReports : ¬ Obligations.CompletionsAndReports := by
  unfold Obligations.CompletionsAndReports
  rintro ⟨hevents, -⟩
  obtain ⟨-, hplaced, -⟩ := hevents unsortedParts ⟨evHitch, 0, 4, 3, 0⟩ [] rfl
  obtain ⟨t, hexec, -, hentry, -⟩ := hplaced (by decide) (fun _ => rfl) unsortedParts_room
  obtain rfl := Host.Outcome.next.inj (unsortedParts_raises.symm.trans hexec)
  exact Bool.false_ne_true (unsortedParts_merges.symm.trans hentry)

end Sys2Proof.Laws

namespace Sys2Proof.Laws

/-! SUPPORT for O14, O19, O25 and O56. The fetch engine at a fence, the requests that a read-back adds, margin tests, and the builder's list. -/

open Sys2Proof.Machine

/-! ## Reset (R396, R406) -/

/-- Settles O56. That the registers and the program counter hold zero after a reset is log 2. -/
theorem resetValuesHold : Obligations.ResetValuesHold := by
  refine ⟨rfl, rfl, rfl, rfl, rfl, rfl, rfl, rfl, rfl, rfl, rfl, fun _ => rfl, fun _ => rfl, fun _ => ⟨rfl, rfl⟩, fun b r q => ?_⟩
  have hreg : (State.reset.block b).reg r = 0 := ite_self (c := r = 0#5) (0 : Word)
  exact ⟨rfl, rfl, rfl, hreg, rfl, rfl, rfl⟩

/-! ## Fences of the fetch engine (R303) -/

/-- The fetch engine has nothing to start. -/
theorem startFence_of_empty (n : Nat) {s : State} {b : BlockId} (h : (s.block b).fetchQ = []) : startFence n b s = s := by
  cases n with
  | zero => rfl
  | succ n => simp only [startFence, h]

/-- A lone fence with no new write ends at once. -/
theorem startFence_over (n : Nat) {s : State} {b : BlockId} {og : Bool} (hq : (s.block b).fetchQ = [.fence og false])
    (hw : (s.block b).ucWrNew = false) : startFence (n + 1) b s = s.setBlock b { s.block b with fetchQ := [] } := by
  simp only [startFence, hq, hw, Bool.false_eq_true, if_false]
  exact startFence_of_empty n (by rw [block_setBlock_same])

/-- A fence behind a new write issues its read-back. -/
theorem startFence_reads (n : Nat) {s : State} {b : BlockId} {og : Bool} (hq : (s.block b).fetchQ = [.fence og false])
    (hw : (s.block b).ucWrNew = true) :
    startFence (n + 1) b s = (s.setBlock b { s.block b with fetchQ := [.fence og true] }).readback b (.fence b) := by
  simp only [startFence, hq, hw, if_true]

/-- FENCE_READBACK at an idle fetch engine is put there and started. -/
theorem execFenceReadback_of_idle {s : State} {b : BlockId} (h : s.decodes b = true) (hq : (s.block b).fetchQ = []) :
    exec (.fenceReadback b) s = .next (startFence 8 b (s.setBlock b
      { (s.block b).endCommit.next with fetchQ := [.fence (s.block b).endCommit.inGroup false] })) := by
  simp only [exec, execFenceReadback, core_of_decodes s b _ h, BlockState.endCommit_fetchQ, hq, List.nil_append]
  rw [if_neg (by decide)]
  simp only [State.done, setBlock_setBlock]
  rfl

/-! ## Companion requests (R301) -/

/-- A Sceolink packet does not change the requests under way. -/
theorem toScl_scl (s : State) (o : Output) : (s.toScl o).scl = s.scl := by
  unfold State.toScl
  split <;> rfl
/-- A request of another unit than the guest site waits for its answer. -/
theorem sendReq_reqs (s : State) (r : CompanionReq) (h : ∀ c, r.use ≠ .guest c) : (s.sendReq r).scl.reqs = s.scl.reqs ++ [r] := by
  unfold State.sendReq
  split
  case h_3 c hc => exact absurd hc (h c)
  case h_4 => split <;> rw [toScl_scl]
  all_goals rw [toScl_scl]

/-- The read-back of an attached session is one more request under way, of 8 bytes at the block's last write (R303). -/
theorem readback_reqs {s : State} {b : BlockId} {use : CompanionUse} (h : s.attached = true) (huse : ∀ c, use ≠ .guest c) :
    (s.readback b use).scl.reqs.map (fun r => (r.stream, r.addr, r.len)) =
      s.scl.reqs.map (fun r => (r.stream, r.addr, r.len)) ++ [(b.idx, (s.block b).lastUcWr.getD 0, 8)] := by
  have haddr (a : BitVec 48) : BitVec.ofNat 48 (companionBase + a.toNat - companionBase) = a := by simp
  have hatt (x : BlockState) : (s.setBlock b x).attached = true := h
  rw [State.readback, State.companionReq, if_pos (hatt _), sendReq_reqs _ _ huse, haddr]
  simp only [List.map_append, List.map_cons, List.map_nil]
  rfl

/-- A fence behind a new write waits with its read-back under way (R303). -/
theorem startFence_issues (n : Nat) {s : State} {b : BlockId} {og : Bool} (hq : (s.block b).fetchQ = [.fence og false])
    (hw : (s.block b).ucWrNew = true) (hatt : s.attached = true) :
    (startFence (n + 1) b s).block b = { s.block b with fetchQ := [.fence og true], ucWrNew := false } ∧
    (startFence (n + 1) b s).scl.reqs.map (fun r => (r.stream, r.addr, r.len)) =
      s.scl.reqs.map (fun r => (r.stream, r.addr, r.len)) ++ [(b.idx, (s.block b).lastUcWr.getD 0, 8)] := by
  have h : (s.setBlock b { s.block b with fetchQ := [.fence og true] }).attached = true := hatt
  rw [startFence_reads n hq hw, readback_block, readback_reqs h (by simp), block_setBlock_same]
  exact ⟨rfl, rfl⟩

/-- A block whose decode does not stall has nothing to wake. -/
theorem wake_of_no_stall {x : BlockState} (h : x.stall = .none) : x.wake = x := by
  simp only [BlockState.wake, h]

/-- The read-back of the fence at the head of the fetch engine has returned. -/
theorem execReadbackReturn_of_fence {s : State} {b : BlockId} {og : Bool} (st : RespStatus) (hq : (s.block b).fetchQ = [.fence og true])
    (hc : ∀ c ∈ (s.block b).cpls, c.readback = false) (hreq : s.hasReq (fun u => u == .fence b) = false) :
    exec (.readbackReturn b st) s = .next (startFence 8 b (if st = .ok then s.setBlock b ({ s.block b with fetchQ := [] } : BlockState).wake
      else (s.setBlock b ((({ s.block b with fetchQ := [] } : BlockState).mapGroup fun g => { g with dropMark := true }).wake)).fenceFails)) := by
  have hfind : (s.block b).cpls.find? waitsBack = none :=
    List.find?_eq_none.mpr fun c hmem => by simp [waitsBack, hc c hmem]
  simp only [exec, execReadbackReturn, hfind, hq, hreq, Bool.not_false, when_true]

/-- Settles O14. -/
theorem readbackFences : Obligations.ReadbackFences := by
  refine ⟨fun s b hdec hq => ?_, fun s b og hq hstall hc hreq => ⟨?_, ?_⟩⟩
  · have hexec := execFenceReadback_of_idle hdec hq
    refine ⟨fun hw => ?_, fun hw hatt => ⟨_, hexec, ?_⟩⟩
    · rw [hexec, startFence_over _ (by rw [block_setBlock_same]) (by rw [block_setBlock_same]; exact hw), block_setBlock_same, setBlock_setBlock]
      have hnil : (s.block b).endCommit.next.fetchQ = [] := hq ▸ BlockState.endCommit_fetchQ (s.block b)
      rw [← hnil]
    · obtain ⟨hblock, hreqs⟩ := startFence_issues 7 (s := s.setBlock b
        { (s.block b).endCommit.next with fetchQ := [.fence (s.block b).endCommit.inGroup false] }) (congrArg BlockState.fetchQ (block_setBlock_same ..))
        ((congrArg BlockState.ucWrNew (block_setBlock_same ..)).trans hw) hatt
      rw [hblock, hreqs, block_setBlock_same]
      exact ⟨rfl, rfl, rfl, rfl⟩
  · rw [execReadbackReturn_of_fence _ hq hc hreq, if_pos rfl, wake_of_no_stall (by exact hstall),
      startFence_of_empty _ (by rw [block_setBlock_same])]
  · refine ⟨_, execReadbackReturn_of_fence .dataError hq hc hreq, ?_⟩
    rw [if_neg (by decide), wake_of_no_stall (by exact hstall), startFence_of_empty _ (by rw [State.fenceFails, State.block]; exact congrArg _ (block_setBlock_same ..))]
    refine ⟨?_, rfl, ?_⟩ <;> exact congrArg _ (block_setBlock_same ..)

/-! ## QUAD_REPAIR and MARGIN_TEST (R359, R387, R388) -/

@[simp] theorem dropReqs_fl (s : State) (f : CompanionUse → Bool) : (s.dropReqs f).fl = s.fl := rfl
@[simp] theorem resetBlock_fl (s : State) (b : BlockId) : (s.resetBlock b).fl = s.fl := rfl

/-- A margin test in range of an idle quad, or of the spares, is recorded as a background command (R387). -/
theorem execMarginTest_starts {s : State} {r : Running} {x : MarginP} (h : s.carries r opMarginTest .package = true) (hok : marginOk x = true)
    (hidle : x.quad.toNat = 16 ∨ s.quadIdle (x.region.setWidth 2) x.quad.toNat = true) :
    ∃ t, exec (.marginTest x) s = .next t ∧ t.fl = { s.fl with current := none, bg := s.fl.bg ++ [r], margin := some ⟨r, x, [], []⟩ } := by
  have hl : ∀ c ∈ [(!marginOk x, rsField), (decide (x.quad.toNat ≠ 16) && !s.quadIdle (x.region.setWidth 2) x.quad.toNat, rsState)], c.1 = false := by
    obtain h16 | hq := hidle
    · simp [hok, h16]
    · simp [hok, hq]
  simp only [exec, execMarginTest]
  refine ⟨_, cmd_of_unrefused h rfl hl, ?_⟩
  split
  · rfl
  · exact foldl_keeps State.fl _ _ _ fun _ _ => rfl

/-- A margin test without failing positions completes with one word for each (R388). -/
theorem settleMargin_of_passes {s : State} {m : MarginRun} {r : Running} (hm : s.fl.margin = some m) (hswaps : m.swaps = []) (hres : m.results ≠ [])
    (hpass : ∀ e ∈ m.results, e.1.fail = false) (hbg : s.bgOf 0 opMarginTest = some r) :
    s.settleMargin = (({ s with fl := { s.fl with margin := none } } : State).dropBg 0 opMarginTest).okData r (m.results.map marginWord) := by
  have hfails : m.results.filter (fun e => e.1.fail) = [] := List.filter_eq_nil_iff.mpr fun e he => by simp [hpass e he]
  have hbg' : ({ s with fl := { s.fl with margin := none } } : State).bgOf 0 opMarginTest = some r := hbg
  simp only [State.settleMargin, hm, hswaps, List.isEmpty_nil, Bool.not_true, Bool.or_false, List.isEmpty_iff, hres, if_false, hfails, List.foldl_nil,
    State.endBg, hbg']

/-- Settles O19. -/
theorem repairAndMargin : Obligations.RepairAndMargin := by
  refine ⟨fun s r rg q k h hidle hfenced hret => ?_, fun s r x h hok hidle => ?_, fun s m res r hm hnew haction hpos hne hpass hbg => ⟨_, rfl, ?_⟩⟩
  · have hl : ∀ c ∈ [(decide (1 < (1 : BitVec 8).toNat), rsField), (!s.quadIdle rg q.toNat, rsState),
        (decide ((1 : BitVec 8).toNat = 0) && (s.block ⟨rg, BitVec.ofNat 6 (4 * q.toNat + k.toNat)⟩).fenced, rsState),
        (decide ((1 : BitVec 8).toNat = 1) && (!(s.region rg).fencedQuads.getLsbD q.toNat || (s.region rg).returning.isSome), rsState)],
        c.1 = false := by simp [hidle, hfenced, hret]
    simp only [exec, execQuadRepair]
    exact cmd_of_unrefused h rfl hl
  · obtain ⟨t, hexec, hfl⟩ := execMarginTest_starts h hok hidle
    exact ⟨t, hexec, by rw [hfl], by rw [hfl], by rw [hfl]⟩
  · have hfails : res.filter (·.fail) = [] := List.filter_eq_nil_iff.mpr fun e he => by simp [hpass e he]
    have hact : ∀ P : Prop, ¬(m.payload.action = 1#8 ∧ P) := fun P h => absurd (haction.symm.trans h.1) (by decide)
    rw [show exec (.marginTestComplete res) s = execMarginTestComplete res s from rfl]
    simp only [execMarginTestComplete, hm, hnew, hpos, List.isEmpty_eq_false_iff.mpr hne, hfails, hact, List.isEmpty_nil, decide_true, Bool.not_false,
      Bool.and_true, when_true, if_false, List.foldl_nil, ite_self]
    refine congrArg Host.Outcome.next ((settleMargin_of_passes (r := r) rfl rfl (by simp [hne]) (by simpa using hpass) (by exact hbg)).trans ?_)
    rw [List.map_map]
    rfl

/-! ## The builder's list (R365 to R367) -/

theorem setPart_partHas {s : State} {p : PartId} {x : Partition} (hmode : x.mode = (s.part p).mode) (hquads : x.quads = (s.part p).quads)
    (q : PartId) (b : BlockId) : (s.setPart p x).partHas q b = s.partHas q b := by
  by_cases hq : q = p
  · subst hq
    simp only [State.partHas, State.partExists, part_setPart_same, hmode, hquads]
  · simp only [State.partHas, State.partExists, part_setPart_other _ _ _ _ hq]
/-- A partition's update that keeps its state, its quads and its checking mode leaves the checkers as they are. -/
theorem setPart_isChecker {s : State} {p : PartId} {x : Partition} (hmode : x.mode = (s.part p).mode) (hquads : x.quads = (s.part p).quads)
    (hcheck : x.checkMode = (s.part p).checkMode) (b : BlockId) : (s.setPart p x).isChecker b = s.isChecker b := by
  have howner : (s.setPart p x).owner b = s.owner b := congrArg (allParts.find? ·) (funext fun q => setPart_partHas hmode hquads q b)
  have hcm (q : PartId) : ((s.setPart p x).part q).checkMode = (s.part q).checkMode := by
    by_cases hq : q = p
    · rw [hq, part_setPart_same, hcheck]
    · rw [part_setPart_other _ _ _ _ hq]
  simp only [State.isChecker, blockMode_eq, howner, hcm]
  rfl

/-- The sequences of a list marked as listed. -/
def listed (s : State) (p : PartId) (es : List (Nat × SeqEntry × Nat)) : State :=
  es.foldl (fun t e => t.setSeq p e.1 { t.seq p e.1 with mode := sqListed }) s
theorem listed_eq (s : State) (p : PartId) (es : List (Nat × SeqEntry × Nat)) : ∃ l, listed s p es = { s with seqs := l } :=
  List.foldlRecOn (motive := fun t => ∃ l, t = { s with seqs := l }) es _ ⟨_, rfl⟩ fun t ⟨l, h⟩ e _ => by
    rw [h]
    exact ⟨_, rfl⟩
/-- Every sequence of the list is listed. -/
theorem listed_mode (s : State) (p : PartId) (es : List (Nat × SeqEntry × Nat)) : ∀ e ∈ es, ((listed s p es).seq p e.1).mode = sqListed :=
  foldl_establishes (fun e t => (t.seq p e.1).mode = sqListed) _ (fun t e => congrArg SeqEntry.mode (seq_setSeq_same t p e.1 _))
    (fun t a c h => by
      by_cases hca : c.1 = a.1
      · rw [hca, seq_setSeq_same]
      · rwa [seq_setSeq_other _ _ _ hca]) es s

/-- A descriptor at the tail of a queue leaves partitions and sequences as they are. -/
theorem enqueueAt_seq (s : State) (b : BlockId) (q : BitVec 7) (d : Descriptor) (p : PartId) (i : Nat) : (s.enqueueAt b q d).seq p i = s.seq p i := by
  obtain ⟨n, x, h⟩ := enqueueAt_eq s b q d
  rw [h]
  rfl
theorem enqueueAt_part (s : State) (b : BlockId) (q : BitVec 7) (d : Descriptor) (p : PartId) : (s.enqueueAt b q d).part p = s.part p := by
  obtain ⟨n, x, h⟩ := enqueueAt_eq s b q d
  rw [h]
  rfl
theorem enqueueAt_mem (s : State) (b : BlockId) (q : BitVec 7) (d : Descriptor) :
    (s.enqueueAt b q d).mem = memWrite s.mem (queueStorage b (s.block b) q + 64 * ((s.block b).queue q).next) (descBytes d) := by
  simp only [State.enqueueAt, State.setBlock_mem]

section
variable {s : State} {p : PartId} {bt : BatchP} {slot : Nat} {es : List (Nat × SeqEntry × Nat)}

/-- The partition once its list is out (R367). -/
def listOut (x : Partition) (slot : Nat) (es : List (Nat × SeqEntry × Nat)) : Partition :=
  { x with lists := tSet x.lists slot ⟨x.listNo, es.map fun e => (e.1, BitVec.ofNat 32 e.2.2)⟩, listNo := x.listNo + 1, wlDeadline := false }
/-- The package once a list is noted, with its memory as the list's write leaves it, before the descriptor is put in the queue. -/
def listNoted (s : State) (p : PartId) (slot : Nat) (es : List (Nat × SeqEntry × Nat)) (m : Memory) : State :=
  ({ listed s p es with mem := m } : State).setPart p (listOut (s.part p) slot es)

variable {m : Memory}

theorem listNoted_eq : ∃ l, listNoted s p slot es m = ({ s with seqs := l, mem := m } : State).setPart p (listOut (s.part p) slot es) := by
  obtain ⟨l, h⟩ := listed_eq s p es
  exact ⟨l, by rw [listNoted, h]⟩
theorem listNoted_block (c : BlockId) : (listNoted s p slot es m).block c = s.block c := by
  obtain ⟨l, h⟩ := listNoted_eq (s := s) (p := p) (slot := slot) (es := es) (m := m)
  rw [h]
  rfl
theorem listNoted_part : (listNoted s p slot es m).part p = listOut (s.part p) slot es := part_setPart_same _ _ _
theorem listNoted_isChecker (c : BlockId) : (listNoted s p slot es m).isChecker c = s.isChecker c := by
  obtain ⟨l, h⟩ := listNoted_eq (s := s) (p := p) (slot := slot) (es := es) (m := m)
  rw [h]
  exact setPart_isChecker (x := listOut (s.part p) slot es) (s := { s with seqs := l, mem := m }) rfl rfl rfl c
theorem listNoted_seq (e : Nat × SeqEntry × Nat) (he : e ∈ es) : ((listNoted s p slot es m).seq p e.1).mode = sqListed := by
  have hpart : (listed s p es).part p = s.part p := by
    obtain ⟨l, h⟩ := listed_eq s p es
    rw [h]
    rfl
  have hbase : (listOut (s.part p) slot es).seqBase = ((listed s p es).part p).seqBase := by rw [hpart, listOut]
  refine (congrArg SeqEntry.mode ?_).trans (listed_mode s p es e he)
  exact seq_of_setPart ({ listed s p es with mem := m } : State) p hbase e.1

/-- The descriptor of a list, delivered to the queue that the partition's settings name (R367). -/
theorem listNoted_enqueue {d : Descriptor} {a : BitVec 32} (hd : d.dst = a) (hpair : s.isChecker (pairOf (QAddr.blockId a)) = false) :
    let t := (listNoted s p slot es m).enqueue d
    let x := s.block (QAddr.blockId a)
    let q := QAddr.queue a
    t.mem = memWrite m (queueStorage (QAddr.blockId a) x q + 64 * (x.queue q).next) (descBytes d) ∧
    (∀ e ∈ es, (t.seq p e.1).mode = sqListed) ∧ t.part p = listOut (s.part p) slot es ∧
    ((t.block (QAddr.blockId a)).queue q).entries = (x.queue q).entries ++ [d] := by
  subst hd
  rw [← listNoted_isChecker (p := p) (slot := slot) (es := es) (m := m)] at hpair
  intro t x q
  have ht : t = (listNoted s p slot es m).enqueueAt (QAddr.blockId d.dst) q d := enqueue_of_unpaired hpair
  have hx : (listNoted s p slot es m).block (QAddr.blockId d.dst) = x := listNoted_block _
  rw [ht]
  refine ⟨?_, fun e he => ?_, ?_, ?_⟩
  · rw [enqueueAt_mem, hx]
    rfl
  · rw [enqueueAt_seq]
    exact listNoted_seq e he
  · rw [enqueueAt_part, listNoted_part]
  · rw [enqueueAt_block, enqueue_entries, hx]

/-- A list that is due is written, and its descriptor delivered. -/
theorem execWorklistBuild_writes (hbt : (s.part p).batch = some bt) (hslot : freeSlot (s.part p) bt = some slot) (hdue : s.listDue p bt = true)
    (hes : es = takeSeqs bt (s.eligible p bt) bt.batchMax.toNat bt.maxEntries.toNat) {bytes : List Byte} (hbytes : bytes = listBytes (s.part p).listNo es)
    (hclean : s.errorsIn [⟨listSlot bt slot, bytes.length⟩] = []) :
    execWorklistBuild p s = .next ((listNoted s p slot es (memWrite s.mem (listSlot bt slot) bytes)).enqueue
      (listDesc s bt slot bytes.length (s.part p).listNo)) := by
  obtain ⟨l, hl⟩ := listed_eq s p es
  have hput : (listed s p es).put (listSlot bt slot) bytes = { listed s p es with mem := memWrite s.mem (listSlot bt slot) bytes } := by
    rw [hl]
    exact put_clean _ _ _ hclean
  simp only [execWorklistBuild, hbt, hslot, hdue, when_true, ← hes, ← hbytes]
  rw [show List.foldl _ s es = listed s p es from rfl, hput, listNoted, hl]
  rfl

end

/-- Settles O25. -/
theorem workListsAreBuilt : Obligations.WorkListsAreBuilt := by
  refine ⟨fun s p bt slot => ?_, fun s p bt hbt hstarted hsome => ?_⟩
  · intro x b q es bytes hbt hslot hdue hpair hclean
    have hexec := execWorklistBuild_writes (es := es) (bytes := bytes) hbt hslot hdue rfl rfl hclean
    obtain ⟨hmem, hseq, hpart, hentries⟩ := listNoted_enqueue (p := p) (slot := slot) (es := es) (m := memWrite s.mem (listSlot bt slot) bytes)
      (d := listDesc s bt slot bytes.length (s.part p).listNo) (a := bt.queue) rfl hpair
    refine ⟨_, hexec, hmem, hseq, ?_, ?_, ?_, ?_⟩
    · rw [hpart]
      exact tFind_tSet_same _ _ _
    · rw [hpart]
      rfl
    · rw [hpart]
      rfl
    · rw [hentries, List.length_append]
      rfl
  · rw [show exec (.batchDeadlineExpiry p) s = execBatchDeadlineExpiry p s from rfl]
    simp only [execBatchDeadlineExpiry, hbt, hstarted, List.isEmpty_eq_false_iff.mpr hsome, Bool.not_false, Bool.and_true, when_true]
end Sys2Proof.Laws

namespace Sys2Proof.Laws

/-! SUPPORT for O39 and O40. The packets to the guest, a request that passes alone, its tokens and its answer, and the guest bundles at GUEST_RESET. -/

open Sys2Proof.Machine

/-- Refutes O39: its clause for FIFO_CLOSE speaks of every crossing that is open and whose islands do not run, also of the crossing of a port 24, which the
package lacks; there FIFO_CLOSE is no event of the package and changes nothing (log 3). -/
theorem not_bundlesAndCrossings : ¬ Obligations.BundlesAndCrossings := by
  intro ⟨_, _, hclose, _⟩
  obtain ⟨t, hexec, hclosed, -⟩ := (hclose State.reset (.port 24) 0 rfl).1 (by decide)
  have hsame : exec (.fifoClose (.port 24) 0) State.reset = .next State.reset := rfl
  rw [hsame] at hexec
  rw [← Host.Outcome.next.inj hexec] at hclosed
  exact absurd hclosed (by decide)

/-! ## Packets to the guest (R284) -/

section
variable {s : State} (hempty : s.guest.responses = [])
include hempty

/-- A packet leaves at once where none waits and the guest's credits hold it. -/
theorem toGuest_leaves {r : GuestResponse} (hh : 0 < s.guest.hdrCredits) (hb : r.data.length / 64 ≤ s.guest.beatCredits) :
    s.toGuest r = { s with
      out := s.out ++ [.guest r.type r.tag r.status r.data]
      guest := { s.guest with
        responses := [], hdrCredits := s.guest.hdrCredits - 1, beatCredits := s.guest.beatCredits - r.data.length / 64 } } := by
  simp [State.toGuest, State.pumpGuest, hempty, GuestState.sendable, hh, hb]
/-- Without a header credit it waits. -/
theorem toGuest_waits (r : GuestResponse) (hh : s.guest.hdrCredits = 0) :
    s.toGuest r = { s with guest := { s.guest with responses := [r] } } := by
  simp [State.toGuest, State.pumpGuest, hempty, GuestState.sendable, hh]
/-- Nothing waits for credits. -/
theorem pumpGuest_idle : s.pumpGuest = s := by
  have hsame : ({ s.guest with responses := [] } : GuestState) = s.guest := by rw [← hempty]
  simp [State.pumpGuest, hempty, GuestState.sendable, hsame]
end

/-! ## A request that passes at once (R285, R287) -/

/-- The site once a lone request has taken its tokens and its credits have gone back. -/
def guestPaid (s : State) (n beats : Nat) : State :=
  (s.setGuest fun x => { x with byteBucket := s.guest.byteBucket - n, waiting := [] }).guestCreditBack beats

/-- A request with none before it is performed at once when it passes. -/
theorem guestQueue_alone {s t : State} {w : GuestWaiting} (hwait : s.guest.waiting = [])
    (hpass : (s.setGuest fun x => { x with waiting := [w] }).guestPass = some t) : s.guestQueue w = t := by
  have hjoin : (s.setGuest fun x => { x with waiting := x.waiting ++ [w] }) = s.setGuest fun x => { x with waiting := [w] } := by
    simp only [State.setGuest, hwait, List.nil_append]
  simp only [State.guestQueue, hwait, List.length_nil, State.guestDrain, hjoin, hpass]

section
variable {s : State} {g : GuestReq} (hwait : s.guest.waiting = []) (hbucket : 64 * g.beats.toNat ≤ s.guest.byteBucket)
  (hup : s.stacksUp g.address.toNat (64 * g.beats.toNat) = true)
include hwait hbucket hup

theorem guestQueue_read : s.guestQueue (.read g) = (guestPaid s (64 * g.beats.toNat) 0).guestDoRead g :=
  guestQueue_alone hwait (if_pos ⟨hbucket, hup⟩)
theorem guestQueue_write : s.guestQueue (.write g) = (guestPaid s (64 * g.beats.toNat) g.beats.toNat).guestDoWrite g :=
  guestQueue_alone hwait (if_pos ⟨hbucket, hup⟩)
theorem guestQueue_memop : s.guestQueue (.memop g) = (guestPaid s (64 * g.beats.toNat) g.beats.toNat).guestDoMemop g :=
  guestQueue_alone hwait (if_pos ⟨hbucket, hup⟩)
end

section
variable {s : State} {g : GuestReq} {a n : Nat} (ha : a = g.address.toNat)
include ha

/-- A READ of stacked memory of the guest's partition without an error is answered with its data (R283). -/
theorem guestDoRead_answers (hn : n = 64 * g.beats.toNat) (hcomp : inCompanion a n = false) (hallow : s.allowed s.guest.partition a n = true)
    (hclean : s.errorsIn [⟨a, n⟩] = []) : s.guestDoRead g = (s.served a n).toGuest ⟨0x11, g.tag, 0, memRead s.mem a n⟩ := by
  have hread := readRanges_clean (s.served a n) [⟨a, n⟩] hclean
  simp only [State.guestDoRead, ← ha, ← hn, hcomp, hallow, hread, Bool.false_eq_true, Bool.not_true, if_false, Option.isSome_none]

/-- A WRITE of it is done and answered. -/
theorem guestDoWrite_answers {bs : List Byte} (hbs : bs = g.data.take (64 * g.beats.toNat)) (hcomp : inCompanion a bs.length = false)
    (hallow : s.allowed s.guest.partition a bs.length = true) (hclean : s.errorsIn [⟨a, bs.length⟩] = []) :
    s.guestDoWrite g = ({ s.served a bs.length with mem := memWrite s.mem a bs } : State).toGuest ⟨0x12, g.tag, 0, []⟩ := by
  have hput : (s.served a bs.length).put a bs = { s.served a bs.length with mem := memWrite s.mem a bs } := put_clean (s.served a bs.length) _ _ hclean
  simp only [State.guestDoWrite, ← ha, ← hbs, hcomp, hallow, hput, Bool.false_eq_true, Bool.not_true, if_false]

/-- A MEMOP with an operation of Table 9.5 goes to the stack controllers. -/
theorem guestDoMemop_goes {op : BitVec 8} (hop : op = g.opx.extractLsb' 0 8) (hn : n = guestOpLen op g.beats.toNat)
    (hunit : (msoUnit op).isSome = true) (hcomp : inCompanion a n = false) (hpos : n ≠ 0) :
    s.guestDoMemop g = { s with msos := s.msos ++
      [⟨op, g.opx.extractLsb' 8 8, g.opx.extractLsb' 16 8, a, 0, none, n, 0, none, some g.tag, g.data, s.guest.partition⟩] } := by
  have hnone : (msoUnit op).isNone = false := by rw [Option.isNone_eq_false_iff]; exact hunit
  simp only [State.guestDoMemop, ← hop, ← hn, ← ha, hnone, hcomp, hpos, Bool.false_eq_true, or_self, if_false]
end

/-- What a passed request leaves: its tokens taken, its answer sent. -/
theorem toGuest_served {s u : State} {n k : Nat} {r : GuestResponse} (hu : u.guest = (guestPaid s n k).guest) (hout : u.out = s.out ++ [.guestCredit 1 k])
    (hempty : s.guest.responses = []) (hh : 0 < s.guest.hdrCredits) (hb : r.data.length / 64 ≤ s.guest.beatCredits) :
    (u.toGuest r).guest.byteBucket = s.guest.byteBucket - n ∧ (u.toGuest r).guest.waiting = [] ∧ (u.toGuest r).mem = u.mem ∧
    (u.toGuest r).out = s.out ++ [.guestCredit 1 k, .guest r.type r.tag r.status r.data] := by
  have h := toGuest_leaves (s := u) (r := r) (by rw [hu]; exact hempty) (by rw [hu]; exact hh) (by rw [hu]; exact hb)
  rw [h, hu, hout, List.append_assoc]
  exact ⟨rfl, rfl, rfl, rfl⟩

/-- A refused request is answered and counted; whether it is reported too changes the events alone (R285). -/
theorem guestRefuse_eq (s : State) (type : BitVec 8) (name : Nat) (tag : BitVec 16) (k : BitVec 8) : ∃ ev, s.guestRefuse type name tag (some k) =
    { (s.toGuest ⟨k, tag, 1, []⟩).setGuest (fun g => { g with fwRefused := inc g.fwRefused, refusedInWindow := true }) with events := ev } := by
  simp only [State.guestRefuse]
  split
  · exact ⟨_, rfl⟩
  · exact ⟨_, rfl⟩

/-- A SEND that passes leaves as the hub's own message (R285). -/
theorem guestDoSend_sends {s : State} {g : GuestReq} {d : Descriptor} {q : FwQueue} (hq : s.sendEntry d = some q) (hcrc : d.crc = descCrc d)
    (hrelay : d.relay = false) : ∃ h, s.guestDoSend g d = ({ s with hubSends := h, hubSeq := s.hubSeq + 1 } : State).shipFrom hubUnit
      (.message (descSeal { d with src := q.replyTo, epoch := s.epoch, sendSeq := s.hubSeq })) := by
  refine ⟨s.hubSends ++ [⟨descSeal { d with src := q.replyTo, epoch := s.epoch, sendSeq := s.hubSeq }, none, false, 0, .guest g.tag⟩], ?_⟩
  rw [State.guestDoSend, if_neg (not_not_intro hcrc), hq]
  simp only [hrelay, State.shipHub, Bool.false_eq_true, if_false]

/-! ## The guest bundles (R279, R289) -/

theorem tFind_mapVals {α : Type} (f : α → α) (t : Tab α) (i : Nat) : tFind (t.map fun e => (e.1, f e.2)) i = (tFind t i).map f := by
  induction t with
  | nil => rfl
  | cons e t ih =>
    simp only [List.map_cons, tFind, ih]
    split <;> rfl

/-- A guest bundle's start concerns the guest bundles alone. -/
theorem startBundle_guest_eq (s : State) {b : Nat} (hb : ¬b < 24) : ∃ l, s.startBundle 0 b = { s with guest := { s.guest with bundles := l } } := by
  simp only [State.startBundle, State.setBundle, hb, if_false]
  split
  · exact ⟨_, rfl⟩
  · exact ⟨s.guest.bundles, rfl⟩
/-- It brings its own bundle, if closed, into training, and leaves the others as they are. -/
theorem startBundle_mode {s : State} {r : RegionId} {b c : Nat} (hb : ¬b < 24) (hc : ¬c < 24) : ((s.startBundle r b).bundle r c).mode =
    if c % 24 = b % 24 ∧ (s.bundle r b).mode = bdClosed then bdTraining else (s.bundle r c).mode := by
  by_cases hmode : (s.bundle r b).mode = bdClosed
  · simp only [State.startBundle, State.setBundle, hmode, hb, if_true, if_false, and_true]
    simp only [State.bundle, hb, hc, if_false]
    split
    · next h => rw [h, tGet_tSet_same]
    · next h => rw [tGet_tSet_other _ _ _ _ _ h]
  · rw [State.startBundle, if_neg hmode, if_neg fun h => hmode h.2]

section
variable {s : State} (hpresent : s.guest.present = true)
include hpresent

theorem startGuestBundles_eq : ∃ l, s.startGuestBundles = { s with guest := { s.guest with bundles := l } } := by
  rw [State.startGuestBundles, if_pos hpresent]
  exact List.foldlRecOn (motive := fun t : State => ∃ l : Tab BundleState, t = { s with guest := { s.guest with bundles := l } }) _ _ ⟨s.guest.bundles, rfl⟩
    fun t ⟨l, ht⟩ b hb => by
      obtain ⟨l', ht'⟩ := startBundle_guest_eq t (b := b) (by fin_cases hb <;> decide)
      exact ⟨l', by rw [ht', ht]⟩
/-- Closed guest bundles all train. -/
theorem startGuestBundles_trains (hclosed : ∀ b, 24 ≤ b → b < 28 → (s.bundle 0 b).mode = bdClosed) {b : Nat} (hlo : 24 ≤ b) (hhi : b < 28) :
    (s.startGuestBundles.bundle 0 b).mode = bdTraining := by
  have h := hclosed b hlo hhi
  rw [State.startGuestBundles, if_pos hpresent]
  simp only [List.foldl_cons, List.foldl_nil]
  interval_cases b <;> simp [startBundle_mode] <;> exact fun hopen => absurd h hopen
end

/-- The guest site once GUEST_RESET has closed it (R289). -/
def guestClosed (g : GuestState) : GuestState :=
  { g with mode := 0b01, waiting := [], reads := [], responses := [], hdrCredits := 0, beatCredits := 0
           bundles := g.bundles.map fun e => (e.1, { BundleState.reset with perr := e.2.perr }) }
/-- Its bundles are closed. -/
theorem guestClosed_bundle {s : State} {g : GuestState} (h : s.guest = guestClosed g) {b : Nat} (hlo : 24 ≤ b) : (s.bundle 0 b).mode = bdClosed := by
  simp only [State.bundle, Nat.not_lt.mpr hlo, if_false, h, guestClosed, tGet]
  have hfind := tFind_mapVals (fun x : BundleState => { BundleState.reset with perr := x.perr }) g.bundles (b % 24)
  rw [hfind]
  cases tFind g.bundles (b % 24) <;> rfl

/-- GUEST_RESET closes the site, counts what it discards, and starts the guest bundles. -/
theorem guestReset_closes {s : State} {r : Running} (n : Nat) (h : s.carries r 0x0711 .package = true) (hpresent : s.guest.present = true) :
    ∃ v : State, exec (.guestReset n) s = .next (v.startGuestBundles.ok r) ∧ v.guest = guestClosed s.guest ∧
      v.hub.xingDiscard = satAdd s.hub.xingDiscard (s.guest.waiting.length + s.guest.responses.length + n) ∧ v.mem = s.mem := by
  have hl : ∀ c ∈ [(!s.guest.present, rsState)], c.1 = false := by simp [hpresent]
  simp only [exec, execGuestReset]
  exact ⟨_, cmd_of_unrefused h rfl hl, rfl, rfl, rfl⟩

/-- Settles O40. Guest bundles 24 to 27 are log 63, credits at GUEST_RESET log 128, the words of GUEST_QUERY log 24. -/
theorem guestSiteServes : Obligations.GuestSiteServes := by
  refine ⟨fun s g => ?_, fun s g d q hopen hwait hq hcrc hrelay hbucket => ?_, fun s data => ?_, fun s h k hempty => ?_, fun s k hk => ?_,
    fun s n k w hwait => ?_, fun s r => ⟨fun n h hpresent => ?_, fun data h hpart hopen => ?_, fun h => ?_⟩⟩
  · intro a n paid
    refine ⟨fun hopen hwait hempty hh hbucket hup => ⟨fun hwin hcomp hallow hclean hbeats => ?_, ?_, ?_⟩, fun hclosed hempty => ?_⟩
    · have hexec : exec (.guestRead g) s = .next ((guestPaid s n 0).guestDoRead g) := by
        rw [← guestQueue_read hwait hbucket hup]
        exact congrArg Host.Outcome.next (if_pos (by rw [hopen, hwin]; rfl))
      rw [guestDoRead_answers (s := guestPaid s n 0) rfl rfl hcomp hallow hclean] at hexec
      obtain ⟨hb, hw, hmem, hout⟩ := toGuest_served (s := s) (u := (guestPaid s n 0).served a n) (r := ⟨0x11, g.tag, 0, memRead s.mem a n⟩) (n := n) (k := 0)
        rfl rfl hempty hh (by rw [memRead_length]; omega)
      exact ⟨_, hexec, ⟨hb, hw⟩, hmem, hout⟩
    · intro bs hwin hcomp hallow hclean
      have hexec : exec (.guestWrite g) s = .next ((guestPaid s n g.beats.toNat).guestDoWrite g) := by
        rw [← guestQueue_write hwait hbucket hup]
        exact congrArg Host.Outcome.next (if_pos (by rw [hopen, hwin]; rfl))
      rw [guestDoWrite_answers (s := guestPaid s n g.beats.toNat) rfl rfl hcomp hallow hclean] at hexec
      obtain ⟨hb, hw, hmem, hout⟩ := toGuest_served (s := s) (r := ⟨0x12, g.tag, 0, []⟩) (n := n) (k := g.beats.toNat)
        (u := { (guestPaid s n g.beats.toNat).served a bs.length with mem := memWrite s.mem a bs }) rfl rfl hempty hh (by simp)
      exact ⟨_, hexec, ⟨hb, hw⟩, hmem, hout⟩
    · intro op k hwin hunit hcomp hpos
      have hexec : exec (.guestMemop g) s = .next ((guestPaid s n g.beats.toNat).guestDoMemop g) := by
        rw [← guestQueue_memop hwait hbucket hup]
        exact congrArg Host.Outcome.next (if_pos (by rw [hopen, hwin]; rfl))
      rw [guestDoMemop_goes (s := guestPaid s n g.beats.toNat) rfl rfl rfl hunit hcomp hpos] at hexec
      exact ⟨_, hexec, ⟨rfl, rfl⟩, rfl⟩
    · have hexec : exec (.guestRead g) s = .next ((s.guestCreditBack 0).guestRefuse 0x01 g.address.toNat g.tag (some 0x11)) :=
        congrArg Host.Outcome.next (if_neg (by simp [hclosed]))
      obtain ⟨ev, hrefuse⟩ := guestRefuse_eq (s.guestCreditBack 0) 0x01 g.address.toNat g.tag 0x11
      rw [hrefuse] at hexec
      refine ⟨_, hexec, rfl, rfl, fun hh => ?_, fun hh => ?_⟩
      · rw [toGuest_leaves (s := s.guestCreditBack 0) hempty hh (by simp)]
        exact List.append_assoc ..
      · rw [toGuest_waits (s := s.guestCreditBack 0) hempty _ hh]
        exact ⟨rfl, rfl⟩
  · have hexec : exec (.guestSend g d) s = .next (s.guestQueue (.send g d)) :=
      congrArg Host.Outcome.next (if_pos (by rw [hopen, hq]; rfl))
    have hpass : s.guestQueue (.send g d) =
        ((s.setGuest fun x => { x with descBucket := s.guest.descBucket - 1, waiting := [] }).guestCreditBack 1).guestDoSend g d :=
      guestQueue_alone hwait (if_pos hbucket)
    obtain ⟨hs, hsend⟩ := guestDoSend_sends (g := g)
      (s := (s.setGuest fun x => { x with descBucket := s.guest.descBucket - 1, waiting := [] }).guestCreditBack 1) hq hcrc hrelay
    rw [hpass, hsend] at hexec
    exact ⟨_, hexec, rfl, rfl, List.map_append ..⟩
  · intro p u hopen
    exact congrArg Host.Outcome.next (if_pos hopen)
  · exact congrArg Host.Outcome.next (pumpGuest_idle hempty)
  · have hlist : (decide (k.toNat = 0) || decide (6 < k.toNat)) = true := by
      obtain rfl | h6 := hk
      · rfl
      · simp [h6]
    rw [show exec (.guestUnknownPacket k) s = execGuestUnknownPacket k s from rfl, execGuestUnknownPacket, hlist, when_true]
    rfl
  · rw [show exec (.tokenBucketRefill ⟨n, k⟩ w) s = execTokenBucketRefill ⟨n, k⟩ w s from rfl]
    simp only [execTokenBucketRefill, hwait, List.isEmpty_nil, Bool.not_true, Bool.false_eq_true, if_false, State.setGuest, List.length_nil,
      State.guestDrain]
  · obtain ⟨v, hexec, hguest, hdiscard, hmem⟩ := guestReset_closes n h hpresent
    obtain ⟨l, hv⟩ := startGuestBundles_eq (s := v) (by rw [hguest]; exact hpresent)
    refine ⟨_, hexec, ?_, ?_, ?_, ?_, ?_, ?_, fun b hlo hhi => startGuestBundles_trains (by rw [hguest]; exact hpresent)
      (fun c hc _ => guestClosed_bundle hguest hc) hlo hhi, ?_, ?_⟩
    all_goals rw [hv]
    · exact congrArg GuestState.mode hguest
    · exact congrArg GuestState.waiting hguest
    · exact congrArg GuestState.reads hguest
    · exact congrArg GuestState.responses hguest
    · exact congrArg GuestState.hdrCredits hguest
    · exact congrArg GuestState.beatCredits hguest
    · exact hdiscard
    · exact hmem
  · have hl : ∀ c ∈ [(r.part != s.guest.partition, rsScope), (!s.guest.opened, rsState)], c.1 = false := by simp [hpart, hopen]
    simp only [exec, execGuestMsg]
    exact cmd_of_unrefused h rfl hl
  · simp only [exec, execGuestQuery]
    exact ⟨_, rfl, cmd_of_carries s r _ _ _ h⟩
end Sys2Proof.Laws

namespace Sys2Proof.Laws

/-! SUPPORT for O41. The companion's accesses, snoops and their answers, Remount exchanges, and the lanes of a corrected-symbol window. -/

open Sys2Proof.Machine

/-! ## Accesses of the companion (R297, R299, R319) -/

/-- A packet taken off the Sceolink buffer changes links alone. -/
theorem fromScl_eq (s : State) (vc : Channel) (k : BitVec 8) : ∃ l, s.fromScl vc k = { s with links := l } := by
  simp only [State.fromScl]
  split
  · split
    · exact ⟨_, rfl⟩
    · exact ⟨s.links, rfl⟩
  · exact ⟨s.links, rfl⟩
@[simp] theorem fromScl_scl (s : State) (vc : Channel) (k : BitVec 8) : (s.fromScl vc k).scl = s.scl := by
  obtain ⟨l, h⟩ := fromScl_eq s vc k
  rw [h]
theorem fromScl_errorsIn (s : State) (vc : Channel) (k : BitVec 8) (rs : List Range) : (s.fromScl vc k).errorsIn rs = s.errorsIn rs := by
  obtain ⟨l, h⟩ := fromScl_eq s vc k
  rw [h]
  rfl
theorem fromScl_inShared (s : State) (vc : Channel) (k : BitVec 8) (a n : Nat) : (s.fromScl vc k).inShared a n = s.inShared a n := by
  simp only [State.inShared, fromScl_scl]

section
variable {k : Nat} (hlt : k < 33 * 0x1000) (hal : k % 8 = 0)

include hlt in
theorem window_toNat : (BitVec.ofNat 48 (windowBase + k)).toNat = windowBase + k := by
  rw [BitVec.toNat_ofNat, windowBase]
  exact Nat.mod_eq_of_lt (by omega)

include hal in
/-- A register's address is within the limits of Table 12.4. -/
theorem badLimits_window : badLimits (windowBase + k) 8 = false := by
  have hpage : (windowBase + k) % 2048 + 8 ≤ 2048 := by rw [windowBase]; omega
  simpa [badLimits] using hpage
include hlt hal
theorem windowReg_window : windowReg (windowBase + k) 8 = some k := by
  rw [windowReg, if_pos ⟨rfl, by rw [windowBase]; omega, by omega, by omega⟩, Nat.add_sub_cancel_left]

/-- C_RD of a register. -/
theorem execCRd_window (s : State) (tag : BitVec 16) :
    execCRd (BitVec.ofNat 48 (windowBase + k)) 8 tag s = .next ((s.fromScl .request 0x20).toScl (.dData tag .ok (leBytes 8
      (if k < 0x1000 then (s.fromScl .request 0x20).deviceRead k
        else (s.fromScl .request 0x20).windowRead (BitVec.ofNat 5 (k / 0x1000 - 1)) (k % 0x1000)).toNat))) := by
  simp only [execCRd, window_toNat hlt, show (8 : BitVec 12).toNat = 8 from rfl, badLimits_window hal, windowReg_window hlt hal,
    Bool.false_eq_true, if_false]
  rfl
/-- C_WR of a register. -/
theorem execCWr_window (s : State) {data : List Byte} (hlen : data.length = 8) :
    execCWr (BitVec.ofNat 48 (windowBase + k)) data s = .next
      (if k < 0x1000 then (s.fromScl .request 0x21).deviceWrite k (BitVec.ofNat 64 (leNat data))
        else (s.fromScl .request 0x21).windowWrite (BitVec.ofNat 5 (k / 0x1000 - 1)) (k % 0x1000) (BitVec.ofNat 64 (leNat data))) := by
  simp only [execCWr, window_toNat hlt, hlen, badLimits_window hal, windowReg_window hlt hal, Bool.false_eq_true, if_false]
end

/-- The place of a partition's register in the windows. -/
theorem partWindow {p : PartId} {off : Nat} (h : off < 0x1000) : ¬0x1000 * (p.toNat + 1) + off < 0x1000 ∧
    BitVec.ofNat 5 ((0x1000 * (p.toNat + 1) + off) / 0x1000 - 1) = p ∧ (0x1000 * (p.toNat + 1) + off) % 0x1000 = off := by
  have hdiv : (0x1000 * (p.toNat + 1) + off) / 0x1000 - 1 = p.toNat := by omega
  exact ⟨by omega, by rw [hdiv, BitVec.ofNat_toNat, BitVec.setWidth_eq], by omega⟩

/-! ## The shared window (R305, R306) -/

section
variable {a : Nat} (hal : a % 64 = 0)
include hal
theorem badLimits_line : badLimits a 64 = false := by
  have hpage : a % 2048 + 64 ≤ 2048 := by omega
  simpa [badLimits] using hpage
end
theorem windowReg_line (a : Nat) : windowReg a 64 = none := if_neg fun h => absurd h.1 (by decide)

/-- The first byte of a range in the shared window lies in it. -/
theorem inShared_first {s : State} {a n : Nat} (h : s.inShared a (max 1 n) = true) : s.inShared a 1 = true := by
  simp only [State.inShared, inRange, Bool.and_eq_true, decide_eq_true_eq] at h ⊢
  obtain ⟨hon, hlo, hhi⟩ := h
  exact ⟨hon, hlo, by omega⟩

/-- The package after an access to a line at I. -/
def accessed (s : State) (a : Nat) : Option (List Byte) → State
  | some bs => { s with mem := memWrite s.mem a bs }
  | none => s

section
variable {s : State} {a : Addr} {w : Option (List Byte)} (hin : s.inShared a.toNat (max 1 (w.getD []).length) = true)
include hin

/-- An access to a line that the companion does not hold proceeds (R306). -/
theorem sharedWindowAccess_proceeds (hline : s.lineState a.toNat = none) (hclean : s.errorsIn [⟨a.toNat, (w.getD []).length⟩] = []) :
    execSharedWindowAccess a w s = .next (accessed s a.toNat w) := by
  simp only [execSharedWindowAccess, hin, when_true, State.sharedAccess, hline, Bool.and_false, Bool.false_eq_true, if_false]
  cases w with
  | none => rfl
  | some bs => exact congrArg Host.Outcome.next (put_clean s _ _ hclean)
/-- One to a line that it holds modified waits for a snoop. -/
theorem sharedWindowAccess_waits (hline : s.lineState a.toNat = some .m) (hsnoops : s.scl.snoops = []) :
    ∃ t, execSharedWindowAccess a w s = .next t ∧ t.scl.snoops = [⟨a, w⟩] ∧ t.scl.snoopCount = inc s.scl.snoopCount ∧ t.mem = s.mem := by
  have hfirst : s.inShared a.toNat 1 = true := inShared_first hin
  simp only [execSharedWindowAccess, hin, when_true, State.sharedAccess, hline, hfirst, hsnoops, Bool.and_true, if_true, List.any_nil,
    Bool.false_eq_true, if_false]
  refine ⟨_, rfl, ?_, ?_, toScl_mem _ _⟩
  · rw [toScl_scl]
    simp only [State.setScl, hsnoops, List.nil_append, BitVec.ofNat_toNat, BitVec.setWidth_eq]
  · rw [toScl_scl]
    rfl
end

/-- SNP_ACK with the line, where one write waits for it and no burst holds an error. -/
theorem snpAck_writes {s : State} {a : Addr} {bs ds : List Byte} (hsnoops : s.scl.snoops = [⟨a, some ds⟩]) (hbursts : s.bursts = []) :
    execSnpAck a (some bs) s = .next ((({ s.fromScl .bypass 0x31 with
      mem := memWrite (memWrite s.mem (a.toNat / 64 * 64) (bs.take 64)) a.toNat ds } : State).setLine a.toNat none).setScl fun t =>
        { t with snoops := [] }) := by
  have hsnoops' : (s.fromScl .bypass 0x31).scl.snoops = [⟨a, some ds⟩] := by rw [fromScl_scl, hsnoops]
  have hbursts' : (s.fromScl .bypass 0x31).bursts = [] := by
    obtain ⟨l, hl⟩ := fromScl_eq s .bypass 0x31
    rw [hl, ← hbursts]
  rw [execSnpAck, ← fromScl_mem s .bypass 0x31]
  generalize s.fromScl .bypass 0x31 = u at hsnoops' hbursts'
  simp only [hsnoops', List.any_cons, List.any_nil, beq_self_eq_true, Bool.or_false, when_true, put_of_no_bursts hbursts']
  simp only [List.filter_cons, List.filter_nil, beq_self_eq_true, if_true, List.foldl_cons, List.foldl_nil, State.endSnoop]
  refine congrArg Host.Outcome.next ((put_of_no_bursts (by exact hbursts') _ _).trans ?_)
  simp only [State.setScl, State.setLine, hsnoops', List.filter_cons, List.filter_nil, beq_self_eq_true, Bool.not_true, Bool.false_eq_true, if_false]

/-! ## Remount (R295) -/

@[simp] theorem sendRecs_scl (s : State) (l : LinkId) (rs : List LinkRec) : (s.sendRecs l rs).scl = s.scl := rfl
theorem raiseAll_scl (s : State) (ps : List PartId) (c : BitVec 16) (l : BitVec 3) (u : BitVec 24) (d : BitVec 88) :
    (s.raiseAll ps c l u d).scl = s.scl := foldl_keeps State.scl _ _ _ fun _ _ => rfl
theorem raiseAll_out (s : State) (ps : List PartId) (c : BitVec 16) (l : BitVec 3) (u : BitVec 24) (d : BitVec 88) :
    (s.raiseAll ps c l u d).out = s.out := foldl_keeps State.out _ _ _ fun _ _ => rfl
theorem remounted_scl (s : State) (r : RemountRec) : (s.remounted r).scl = { s.scl with remounts := inc s.scl.remounts } := raiseAll_scl _ _ _ _ _ _
theorem remounted_out (s : State) (r : RemountRec) : (s.remounted r).out = s.out := raiseAll_out _ _ _ _ _ _

/-- The transmitter's switch: its SWITCH leaves, and its map is the new one (R295 step 3). -/
theorem switchTx_moves (s : State) (r : RemountRec) : (s.switchTx r).out = (s.sendRecs sclLink [.remount 4 r]).out ∧
    (s.switchTx r).scl.mapTx = laneMove s.scl.mapTx r ∧ (s.switchTx r).scl.remountTx = none ∧ (s.switchTx r).scl.remounts = inc s.scl.remounts := by
  rw [State.switchTx, remounted_out, remounted_scl]
  exact ⟨rfl, rfl, rfl, rfl⟩

/-- A REQ leaves the failed lanes as they are. -/
theorem openRemount_excluded (s : State) (d : SclDir) (i p q : Nat) (c : BitVec 4) :
    ((s.openRemount d i p q c).link sclLink).excluded = (s.link sclLink).excluded := by
  have hsent (t : State) (rs : List LinkRec) : ((t.sendRecs sclLink rs).link sclLink).excluded = (t.link sclLink).excluded := by
    refine (congrArg LinkState.excluded (link_setLink_same t sclLink _)).trans ?_
    split <;> rfl
  refine (hsent _ []).trans ?_
  rw [link_setLink_same]

/-! ## The lanes of a window (R295, R296) -/

section
variable {s : State} {counts : List Nat}

/-- The failed lanes of the receive direction in a window. -/
def failedLanes (s : State) (counts : List Nat) : List Nat :=
  ((List.range s.scl.widthRx.toNat).map (laneAt s.scl.mapRx)).filter fun p => decide (3 ≤ tGet 0 (overLanes (s.link sclLink) counts) p)
/-- Sceolink's link after a window with some failed lanes. -/
def windowed (s : State) (counts bad : List Nat) : LinkState :=
  let x := s.link sclLink
  { x with
    laneOver := bad.foldl tDel (overLanes x counts), excluded := bad.foldl (fun m p => putBit m p true) x.excluded
    counters := { x.counters with fecCorr := satAdd x.counters.fecCorr counts.sum } }

theorem execSceolinkLaneWindow_eq (hup : (s.link sclLink).isUp = true) (hauto : (s.link sclLink).cfg.autoExclude = true) :
    execSceolinkLaneWindow .rx counts s = .next ((s.setLink sclLink (windowed s counts (failedLanes s counts))).fixLanes) := by
  simp only [execSceolinkLaneWindow, decide_true, hup, Bool.and_self, when_true]
  rw [if_pos hauto]
  rfl

theorem rxSwitch_of_not_changing {x : LinkState} (h : x.changing = false) : x.rxSwitch = none := by
  simp only [LinkState.changing, Bool.or_eq_false_iff, Option.isSome_eq_false_iff, Option.isNone_iff_eq_none] at h
  exact h.2

section
variable {u : State} (hup : (u.link sclLink).isUp = true) (hrx : u.scl.remountRx = none) (hch : (u.link sclLink).changing = false)
include hup hrx hch

/-- No lane in use has failed. -/
theorem fixLanes_rests (h : ((List.range u.scl.widthRx.toNat).find? fun i => (u.link sclLink).excluded.getLsbD (laneAt u.scl.mapRx i)) = none) :
    u.fixLanes = u := by
  simp only [State.fixLanes, hup, hrx, hch, rxSwitch_of_not_changing hch, h, Bool.not_true, Option.isSome_none, Bool.or_self, Bool.false_eq_true, if_false]
/-- A failed lane moves to a spare. -/
theorem fixLanes_moves {i j : Nat}
    (h : ((List.range u.scl.widthRx.toNat).find? fun i => (u.link sclLink).excluded.getLsbD (laneAt u.scl.mapRx i)) = some i)
    (hspare : (u.spareLanesOf .rx).head? = some j) : u.fixLanes = u.openRemount .rx i (laneAt u.scl.mapRx i) j 1 := by
  simp only [State.fixLanes, hup, hrx, hch, rxSwitch_of_not_changing hch, h, hspare, Bool.not_true, Option.isSome_none, Bool.or_self,
    Bool.false_eq_true, if_false]
end

/-- Where only the lane of logical lane 0 is over its limit for the third time, it alone fails. -/
theorem failedLanes_first (hw : 0 < s.scl.widthRx.toNat) (hover : 3 ≤ tGet 0 (overLanes (s.link sclLink) counts) (laneAt s.scl.mapRx 0))
    (hrest : ∀ i, i < s.scl.widthRx.toNat → i ≠ 0 → tGet 0 (overLanes (s.link sclLink) counts) (laneAt s.scl.mapRx i) < 3) :
    failedLanes s counts = [laneAt s.scl.mapRx 0] := by
  obtain ⟨n, hn⟩ : ∃ n, s.scl.widthRx.toNat = n + 1 := ⟨_, (Nat.succ_pred_eq_of_pos hw).symm⟩
  rw [failedLanes, hn, List.range_succ_eq_map, List.map_cons, List.filter_cons, if_pos (by simpa using hover), List.cons_eq_cons]
  refine ⟨rfl, List.filter_eq_nil_iff.mpr fun p hp => ?_⟩
  simp only [List.map_map, List.mem_map, List.mem_range, Function.comp_apply] at hp
  obtain ⟨i, hi, rfl⟩ := hp
  have := hrest (i + 1) (by omega) (Nat.succ_ne_zero i)
  simpa using this
theorem failedLanes_none (hrest : ∀ i, i < s.scl.widthRx.toNat → tGet 0 (overLanes (s.link sclLink) counts) (laneAt s.scl.mapRx i) < 3) :
    failedLanes s counts = [] := by
  refine List.filter_eq_nil_iff.mpr fun p hp => ?_
  simp only [List.mem_map, List.mem_range] at hp
  obtain ⟨i, hi, rfl⟩ := hp
  simpa using hrest i hi
end

/-! ## Answers to device requests (R297, R301) -/

/-- RD_DATA for an LD hands it its data. -/
theorem rdData_ld {s : State} {r : RdDataMsg} {q : CompanionReq} {b : BlockId} (hfind : s.scl.reqs.find? (isRead r.stream r.tag) = some q)
    (huse : q.use = .ld b) (hok : r.status = .ok) (hlen : r.data.length = q.len) (hexports : s.fl.exports = []) :
    execRdData r s = .next (((s.fromScl .response 0x18).setScl fun t => { t with reqs := answered r.stream r.tag t.reqs }).setBlock b
      { s.block b with ldData := r.data }) := by
  obtain ⟨l, hl⟩ := fromScl_eq s .response 0x18
  have hsettle (t : State) (h : t.fl.exports = []) : t.settleShards = t := by rw [State.settleShards, h, List.foldl_nil]
  rw [execRdData, hl]
  simp only [hfind, hlen, beq_self_eq_true, Bool.or_true, when_true, State.takeData, hok, if_true, State.deliverData, huse]
  rw [hsettle]
  · rfl
  · exact hexports

/-- Settles O41. That a command takes its packet off the Sceolink buffer is log 136. -/
theorem companionAccesses : Obligations.CompanionAccesses := by
  refine ⟨fun s tag off hoff hal => ⟨?_, fun data hlen => ?_⟩, fun s a tag hal => ⟨fun hin => ⟨?_, fun data hlen hclean => ?_⟩, fun hout => ?_⟩,
    fun s a w hin => ⟨fun hline hclean => ?_, sharedWindowAccess_waits hin⟩, fun s a bs ds hsnoops hbursts => snpAck_writes hsnoops hbursts,
    fun s l => rfl, fun s r q b hfind huse hok hlen hexports => rdData_ld hfind huse hok hlen hexports,
    fun s q rest p hreqs hstream hdata huse => ?_, fun s k tag hk => ?_, fun s ack r => ?_, fun s ack m => ?_,
    fun s d m hm hacc => ⟨fun hatt => ?_, fun hatt => ?_⟩, fun s counts => ?_⟩
  · refine ⟨?_, fun p => ?_⟩
    · rw [show ∀ a, exec (.cRd a 8 tag) s = execCRd a 8 tag s from fun _ => rfl, execCRd_window (by omega) hal, if_pos hoff]
    · obtain ⟨hge, hp, hrest⟩ := partWindow (p := p) hoff
      rw [show ∀ a, exec (.cRd a 8 tag) s = execCRd a 8 tag s from fun _ => rfl, Nat.add_assoc, execCRd_window (by omega) (by omega), if_neg hge, hp, hrest]
  · refine ⟨?_, fun p => ?_⟩
    · rw [show ∀ a, exec (.cWr a data) s = execCWr a data s from fun _ => rfl, execCWr_window (by omega) hal _ hlen, if_pos hoff]
    · obtain ⟨hge, hp, hrest⟩ := partWindow (p := p) hoff
      rw [show ∀ a, exec (.cWr a data) s = execCWr a data s from fun _ => rfl, Nat.add_assoc, execCWr_window (by omega) (by omega) _ hlen, if_neg hge, hp,
        hrest]
  · rw [show exec (.cRd a 64 tag) s = execCRd a 64 tag s from rfl, execCRd]
    simp only [show (64 : BitVec 12).toNat = 64 from rfl, badLimits_line hal, windowReg_line, fromScl_inShared, hin, hal, fromScl_mem, beq_self_eq_true,
      Bool.false_eq_true, if_false]
    rfl
  · intro u
    have hput : u.put a.toNat data = { u with mem := memWrite s.mem a.toNat data } := by
      rw [← fromScl_mem s .request 0x21]
      exact put_clean _ _ _ (by rw [fromScl_errorsIn, hlen]; exact hclean)
    rw [show exec (.cWr a data) s = execCWr a data s from rfl, execCWr]
    simp only [hlen, badLimits_line hal, windowReg_line, fromScl_inShared, hin, hal, beq_self_eq_true, Bool.and_self, Bool.false_eq_true, if_false, if_true]
    rw [← hput]
  · rw [show exec (.cRd a 64 tag) s = execCRd a 64 tag s from rfl, execCRd]
    simp only [show (64 : BitVec 12).toNat = 64 from rfl, badLimits_line hal, windowReg_line, fromScl_inShared, hout, Bool.false_and, Bool.false_eq_true,
      if_false]
    rfl
  · rw [show exec (.sharedWindowAccess a w) s = execSharedWindowAccess a w s from rfl, sharedWindowAccess_proceeds hin hline hclean]
    cases w <;> rfl
  · have hne : q.data.isEmpty = false := List.isEmpty_eq_false_iff.mpr hdata
    rw [show exec (.wrAck q.tag) s = execWrAck q.tag s from rfl, execWrAck]
    simp only [fromScl_scl, hreqs, List.find?_cons, hstream, hne, beq_self_eq_true, Bool.not_false, Bool.and_self, huse]
    simp only [State.setScl, fromScl_scl, hreqs, delFirst, hstream, hne, beq_self_eq_true, Bool.not_false, Bool.and_self, if_true]
  · exact congrArg Host.Outcome.next (if_neg hk)
  · intro u hdir hnone
    have hexec : exec (.remountReq ack r) s = .next (u.remountReq r) := rfl
    refine ⟨fun hgood hup => ?_, fun hbad => ?_⟩
    · rw [hexec]
      simp only [State.remountReq, hdir, hnone, hgood, hup, Bool.and_self, if_true]
    · rw [hexec]
      simp only [State.remountReq, hdir, hnone, hbad, Bool.false_eq_true, if_false]
  · intro u
    refine ⟨fun hm hup => ?_, fun hm hup => ⟨?_, fun hacc => ?_⟩, fun d hm => ?_⟩
    · have hexec : exec (.remountAccept .tx ⟨ack, m.msg.cmd⟩) s = .next (u.remountAccept .tx m.msg.cmd) := rfl
      have hswitch : u.remountAccept .tx m.msg.cmd = u.switchTx m.msg := by
        simp only [State.remountAccept, SclState.remount, hm, hup, beq_self_eq_true, Bool.and_self, if_true]
      rw [hswitch] at hexec
      exact ⟨_, hexec, switchTx_moves u m.msg⟩
    · have hexec : exec (.remountAccept .rx ⟨ack, m.msg.cmd⟩) s = .next (u.remountAccept .rx m.msg.cmd) := rfl
      rw [hexec]
      simp only [State.remountAccept, SclState.remount, hm, hup, beq_self_eq_true, Bool.and_self, if_true]
    · have hexec : exec (.remountSwitch .rx ⟨ack, m.msg.cmd⟩) s = .next (u.remountSwitch .rx m.msg.cmd) := rfl
      rw [hexec]
      simp only [State.remountSwitch, hm, hup, hacc, beq_self_eq_true, Bool.and_self, if_true]
      rfl
    · have hexec : exec (.remountRefuse d ⟨ack, m.msg.cmd⟩) s = .next (u.remountRefuse d m.msg.cmd) := rfl
      rw [hexec]
      simp only [State.remountRefuse, hm, if_true]
  · rw [show exec (.remountTimeout d) s = execRemountTimeout d s from rfl, execRemountTimeout]
    simp only [hm, hacc, Bool.not_false, when_true, hatt, if_true]
  · rw [show exec (.remountTimeout d) s = execRemountTimeout d s from rfl, execRemountTimeout]
    simp only [hm, hacc, Bool.not_false, when_true, Nat.not_lt.mpr hatt, if_false]
  · intro x over_ hup hauto
    have hexec := execSceolinkLaneWindow_eq (counts := counts) hup hauto
    refine ⟨fun hex hrx hch hrest => ?_, fun hw hover hrx hch => ?_⟩
    · rw [failedLanes_none hrest, fixLanes_rests] at hexec
      · exact hexec
      · rw [link_setLink_same]
        exact hup
      · exact hrx
      · rw [link_setLink_same]
        exact hch
      · rw [link_setLink_same]
        have hnone : (s.link sclLink).excluded = 0 := hex
        simp [windowed, hnone]
    · intro c hrest hlane hspare
      obtain ⟨j, hj⟩ : ∃ j, (spareLanes (x.trainedLanes &&& ~~~c) s.scl.mapRx s.scl.widthRx.toNat).head? = some j :=
        ⟨_, List.head?_eq_some_head hspare⟩
      obtain ⟨n, hn⟩ : ∃ n, s.scl.widthRx.toNat = n + 1 := ⟨_, (Nat.succ_pred_eq_of_pos hw).symm⟩
      have hlink : ((s.setLink sclLink (windowed s counts [laneAt s.scl.mapRx 0])).link sclLink) = windowed s counts [laneAt s.scl.mapRx 0] :=
        link_setLink_same _ _ _
      have hfirst : ((List.range s.scl.widthRx.toNat).find? fun i => c.getLsbD (laneAt s.scl.mapRx i)) = some 0 := by
        rw [hn, List.range_succ_eq_map]
        exact List.find?_cons_of_pos (by simp [c, getLsbD_putBit_true, hlane])
      rw [failedLanes_first hw hover hrest, fixLanes_moves (u := s.setLink sclLink (windowed s counts [laneAt s.scl.mapRx 0])) (by rw [hlink]; exact hup) hrx
        (by rw [hlink]; exact hch) (i := 0) (j := j) (by rw [hlink]; exact hfirst) (by rw [State.spareLanesOf, hlink]; exact hj)] at hexec
      refine ⟨_, _, hexec, rfl, rfl, rfl, rfl, rfl, ?_⟩
      rw [openRemount_excluded, hlink]
      rfl
end Sys2Proof.Laws

namespace Sys2Proof.Laws

/-! SUPPORT for O42. What an attach does to the session and to the rings and drafts of the partitions, the flush of a session, and the boot image's reads. -/

open Sys2Proof.Machine

/-! ## What an attach leaves as it is -/

/-- The session's registers, and each partition's parking and draft. -/
def attachView (s : State) : (SessionMode × BitVec 32 × Bool × Bool) × (PartId → BitVec 2 × List DraftCmd) :=
  ((s.scl.mode, s.scl.number, s.scl.attachErr, s.scl.heldByHeartbeat), fun p => ((s.part p).park, (s.part p).draft))

theorem setPart_view {s : State} {p : PartId} {x : Partition} (hpark : x.park = (s.part p).park) (hdraft : x.draft = (s.part p).draft) :
    attachView (s.setPart p x) = attachView s := by
  refine Prod.ext rfl (funext fun q => ?_)
  by_cases hq : q = p
  · simp only [attachView, hq, part_setPart_same, hpark, hdraft]
  · simp only [attachView, part_setPart_other _ _ _ _ hq]

theorem toScl_view (s : State) (o : Output) : attachView (s.toScl o) = attachView s := by
  unfold State.toScl
  split <;> rfl
theorem sendReq_view (s : State) (r : CompanionReq) : attachView (s.sendReq r) = attachView s := by
  unfold State.sendReq
  split
  case h_3 | h_4 => split <;> exact toScl_view _ _
  all_goals exact toScl_view _ _
theorem writeLines_view (s : State) (p : PartId) (event : Bool) (a : Nat) (bs : List Byte) : attachView (s.writeLines p event a bs) = attachView s :=
  foldl_keeps attachView _ _ _ fun _ _ => sendReq_view _ _
theorem writeRing_view (s : State) (p : PartId) (event : Bool) (r : RingRegs) (units : Nat) (f : BitVec 32 → List Byte) :
    attachView (s.writeRing p event r units f) = attachView s := by
  unfold State.writeRing
  refine (writeLines_view _ _ _ _ _).trans ?_
  split
  · rfl
  · exact writeLines_view _ _ _ _ _
theorem emitRecord_view (s : State) (p : PartId) (r : CplRecord) : attachView (s.emitRecord p r) = attachView s := by
  unfold State.emitRecord
  refine (writeRing_view _ _ _ _ _ _).trans ?_
  split
  · split
    · exact writeLines_view _ _ _ _ _
    · rfl
  · rfl
theorem pumpCpl_view (s : State) (p : PartId) : attachView (s.pumpCpl p) = attachView s := by
  unfold State.pumpCpl
  dsimp only
  split
  · split
    · exact (emitRecord_view _ _ _).trans (setPart_view rfl rfl)
    · rfl
  · rfl
theorem pumpMbox_view (s : State) (p : PartId) : attachView (s.pumpMbox p) = attachView s := by
  unfold State.pumpMbox
  dsimp only
  split
  · split
    · exact (writeRing_view _ _ _ _ _ _).trans (setPart_view rfl rfl)
    · rfl
  · rfl
theorem pumpEvt_view (s : State) (p : PartId) : attachView (s.pumpEvt p) = attachView s := by
  unfold State.pumpEvt
  dsimp only
  split
  · split
    · exact (writeRing_view _ _ _ _ _ _).trans (setPart_view rfl rfl)
    · rfl
  · exact pumpMbox_view _ _
theorem rewriteRecords_view (s : State) (p : PartId) : attachView (s.rewriteRecords p) = attachView s := by
  unfold State.rewriteRecords
  extract_lets x s1 y s2
  have h1 : attachView s1 = attachView s := by
    unfold s1
    split
    · split
      · exact emitRecord_view _ _ _
      · rfl
    · rfl
  have h2 : attachView s2 = attachView s1 := by
    unfold s2
    split
    · exact writeRing_view _ _ _ _ _ _
    · exact setPart_view rfl rfl
  rw [pumpEvt_view, pumpCpl_view, h2, h1]
/-- The session is ATTACHED, and rings and drafts are as they were (R311). -/
theorem attach_view (s : State) : attachView s.attach = ((.attached, s.scl.number, false, false), (attachView s).2) := by
  unfold State.attach
  extract_lets ws s1 s2
  rw [foldl_keeps attachView _ _ _ rewriteRecords_view]
  exact foldl_keeps attachView _ ws s1 sendReq_view
theorem requeueTasks_view (s : State) (pick : TaskEntry → Bool → Bool) : attachView (s.requeueTasks pick) = attachView s :=
  foldl_keeps attachView _ _ _ fun _ _ => rfl

/-! ## A new session (R314) -/

theorem newSession_part (s : State) (p q : PartId) :
    (s.newSession p).part q = (s.setPart p { s.part p with park := 0, rereads := 0, draft := [] }).part q := rfl
/-- Every partition of a list has its ring unparked and its draft discarded. -/
theorem newSessions_fresh (s : State) (ps : List PartId) :
    ∀ p ∈ ps, ((ps.foldl State.newSession s).part p).park = 0 ∧ ((ps.foldl State.newSession s).part p).draft = [] := by
  refine foldl_establishes (fun p t => (t.part p).park = 0 ∧ (t.part p).draft = []) _ (fun t p => ?_) (fun t p q h => ?_) ps s
  · simp only [newSession_part, part_setPart_same, and_self]
  · by_cases hq : q = p
    · simp only [newSession_part, hq, part_setPart_same, and_self]
    · simp only [newSession_part, part_setPart_other _ _ _ _ hq, h, and_self]
theorem mem_parts_of_exists {s : State} {p : PartId} (h : s.partExists p = true) : p ∈ s.parts_ :=
  List.mem_filter.mpr ⟨List.mem_map.mpr ⟨p.toNat, List.mem_range.mpr p.isLt, by simp⟩, h⟩

/-- An attach with the next number (R314). -/
theorem attachNew_attaches {s : State} (hmode : s.scl.mode = .none ∨ s.scl.mode = .detached) :
    let u := s.attachNew (s.scl.number + 1)
    (u.scl.mode = .attached ∧ u.scl.number = s.scl.number + 1 ∧ u.scl.attachErr = false) ∧
      ∀ p, s.partExists p = true → (u.part p).park = 0 ∧ (u.part p).draft = [] := by
  let s1 := s.setScl fun t => { t with number := s.scl.number + 1 }
  let s2 := s1.parts_.foldl State.newSession s1
  have hnew : s.attachNew (s.scl.number + 1) = s2.attach.requeueTasks fun _ slow => slow := if_pos ⟨hmode, rfl⟩
  have hscl : s2.scl = s1.scl := foldl_keeps State.scl _ _ _ fun _ _ => rfl
  have hview : attachView (s.attachNew (s.scl.number + 1)) = ((.attached, s.scl.number + 1, false, false), (attachView s2).2) := by
    rw [hnew, requeueTasks_view, attach_view, hscl]
    rfl
  obtain ⟨hsession, hparts⟩ := Prod.mk.inj hview
  simp only [Prod.mk.injEq] at hsession
  obtain ⟨ha, hn, he, -⟩ := hsession
  refine ⟨⟨ha, hn, he⟩, fun p hp => ?_⟩
  have hpart := Prod.mk.inj (congrFun hparts p)
  rw [hpart.1, hpart.2]
  exact newSessions_fresh s1 s1.parts_ p (mem_parts_of_exists (s := s1) hp)

/-! ## The boot image (R423) -/

/-- The read of one piece of the boot image. -/
def bootRead (t : State) (p : Nat × Nat) : State :=
  ({ t with scl := { t.scl with nextTag := t.scl.nextTag + 1 } } : State).sendReq ⟨t.scl.nextTag, 269, BitVec.ofNat 48 p.1, p.2, .bootImage, []⟩
theorem bootRead_sentOver (t : State) (p : Nat × Nat) : SentOver t (bootRead t p) :=
  SentOver.trans (t := { t with scl := { t.scl with nextTag := t.scl.nextTag + 1 } }) ⟨_, _, _, rfl⟩ (sendReq_sentOver _ _)
/-- Each read is one more request. -/
theorem bootReads_reqs (ps : List (Nat × Nat)) (s : State) : (ps.foldl bootRead s).scl.reqs.length = s.scl.reqs.length + ps.length := by
  induction ps generalizing s with
  | nil => rfl
  | cons p ps ih =>
    rw [List.foldl_cons, ih, bootRead, sendReq_reqs _ _ (by simp), List.length_append, List.length_cons]
    simp only [List.length_cons, List.length_nil]
    omega

/-! ## The end of a session (R310, R311) -/

/-- A DETACH at once where nothing is unsent or unacknowledged (R310). -/
theorem detach_ends {s : State} (hmode : s.scl.mode = .attached) (hreplay : (s.link sclLink).replayBuf = []) (hbyp : (s.link sclLink).txBypass = [])
    (hreq : (s.link sclLink).txRequest = []) (hrsp : (s.link sclLink).txResponse = []) :
    s.detach = s.setScl fun t => { t with mode := .detached, detaching := false } := by
  have hidle : ((s.setScl fun t => { t with detaching := true }).scl.detaching &&
      (s.link sclLink).replayBuf.isEmpty && (s.link sclLink).txBypass.isEmpty && (s.link sclLink).txRequest.isEmpty &&
      (s.link sclLink).txResponse.isEmpty) = true := by
    rw [hreplay, hbyp, hreq, hrsp]
    rfl
  rw [State.detach, if_pos hmode]
  exact (if_pos hidle).trans rfl
/-- Else it waits. -/
theorem detach_waits {s : State} (hmode : s.scl.mode = .attached) (hreplay : (s.link sclLink).replayBuf ≠ []) :
    s.detach = s.setScl fun t => { t with detaching := true } := by
  have hbusy : ¬((s.setScl fun t => { t with detaching := true }).scl.detaching &&
      (s.link sclLink).replayBuf.isEmpty && (s.link sclLink).txBypass.isEmpty && (s.link sclLink).txRequest.isEmpty &&
      (s.link sclLink).txResponse.isEmpty) = true := by
    simp [hreplay]
  rw [State.detach, if_pos hmode]
  exact if_neg hbusy

/-- The flush of a session leaves nothing of it (R311). -/
theorem sessionFlush_ends (s : State) (n : Nat) : (s.sessionFlush n).scl.mode = .detached ∧ (s.sessionFlush n).scl.lineCache = [] ∧
    (s.sessionFlush n).scl.directory = [] ∧ (s.sessionFlush n).scl.snoops = [] ∧ (s.sessionFlush n).scl.remountTx = none ∧
    (s.sessionFlush n).scl.remountRx = none := by
  unfold State.sessionFlush
  extract_lets rs s1 lines s2 s3
  rw [raiseAll_scl]
  exact ⟨rfl, rfl, rfl, rfl, rfl, rfl⟩

/-- Settles O42. That SCL_REMOUNT opens the exchange of the transmit direction too is log 47, the words of SCL_QUERY are log 24. -/
theorem sessionsAttach : Obligations.SessionsAttach := by
  refine ⟨fun s n => ⟨?_, fun hn => ?_, fun hmode hbeat hup hn => ?_⟩, fun s => ?_, fun s v => rfl, fun s hms hmode => ?_, fun s hmode => ?_,
    fun s v hactive hstage hstrap hv => ?_, fun s r => ⟨fun d i j h hi hj hnone hup => ?_, fun h => ?_⟩⟩
  · rintro hmode rfl
    obtain ⟨⟨ha, hn, he⟩, hparts⟩ := attachNew_attaches hmode
    exact ⟨_, rfl, ha, hn, he, hparts⟩
  · exact congrArg Host.Outcome.next (if_neg fun h => hn h.2)
  · have hresume : s.attachResume n = s.attach := if_pos ⟨hmode, hbeat, hup, hn⟩
    have hsession := (Prod.mk.inj (attach_view s)).1
    simp only [Prod.mk.injEq] at hsession
    obtain ⟨ha, hnum, -, hheld⟩ := hsession
    exact ⟨s.attach, congrArg Host.Outcome.next hresume, ha, hnum.trans hn.symm, hheld⟩
  · intro x hmode
    exact ⟨fun hreplay hbyp hreq hrsp => congrArg Host.Outcome.next (detach_ends hmode hreplay hbyp hreq hrsp),
      fun hreplay => congrArg Host.Outcome.next (detach_waits hmode hreplay)⟩
  · have hon : (s.scl.heartbeatMs != 0#16 && decide (s.scl.mode = .attached)) = true := by
      have hset : (s.scl.heartbeatMs != 0#16) = true := bne_iff_ne.mpr hms
      rw [hset, decide_eq_true hmode]
      rfl
    rw [show exec .heartbeatExpiry s = execHeartbeatExpiry s from rfl, execHeartbeatExpiry, hon, when_true]
    exact congrArg Host.Outcome.next (if_pos hmode)
  · intro x
    refine ⟨?_, fun i htrains htrained hresuming hfresh => ?_⟩
    · rw [show exec (.sessionFlush none) s = execSessionFlush none s from rfl, execSessionFlush]
      simp only [hmode, decide_true, when_true]
      exact ⟨_, rfl, sessionFlush_ends _ _⟩
    · have hfl : (decide (s.scl.mode = .held) && x.trains && x.trained && !x.resuming && (x.mode != .held || x.asksFresh i)) = true := by
        rw [decide_eq_true hmode, htrains, htrained, hresuming, hfresh, Bool.or_true]
        rfl
      exact congrArg (when_ · s (s.startFresh sclLink i)) hfl
  · have hgo : (v.getLsbD 63 && s.reset_.active && s.reset_.bootStage == 0x04#8 && !s.reset_.strap.getLsbD 3) = true := by
      rw [hv, hactive, hstage, hstrap]
      rfl
    have hwrite : s.writeBootImage v = (pieces ((v.extractLsb' 12 36).toNat * 4096) ((v.extractLsb' 48 10).toNat * 4096)).foldl bootRead
        { s with reset_ := { s.reset_ with bootImage := v } } := if_pos hgo
    have hsent := SentOver.foldl (pieces ((v.extractLsb' 12 36).toNat * 4096) ((v.extractLsb' 48 10).toNat * 4096))
      { s with reset_ := { s.reset_ with bootImage := v } } bootRead_sentOver
    refine ⟨_, congrArg Host.Outcome.next hwrite, hsent.reset_, ?_, bootReads_reqs _ _⟩
    obtain ⟨_, _, _, h⟩ := hsent
    rw [h]
  · have hfield : decide (s.taken.scl.width d ≤ i.toNat) = false := decide_eq_false (Nat.not_le.mpr hi)
    have hj' : (s.taken.spareLanesOf d).head? = some j := hj
    have hopen : ((s.taken.scl.remount d).isNone && (s.taken.link sclLink).isUp) = true := by
      rw [show s.taken.scl.remount d = none from hnone, show (s.taken.link sclLink).isUp = true from hup]
      rfl
    rw [show exec (.sclRemount d i) s = execSclRemount d i s from rfl, execSclRemount, cmd_of_carries s r _ _ _ h]
    simp only [firstReason, hfield, hj', hopen, Bool.false_eq_true, if_false, if_true, State.unless]
    rfl
  · rw [show exec .sclQuery s = execSclQuery s from rfl, execSclQuery, cmd_of_carries s r _ _ _ h]
    exact ⟨_, rfl, rfl⟩
end Sys2Proof.Laws

namespace Sys2Proof.Laws

/-! SUPPORT for O52. The commands of the security engine and the steps of Flapino's self-update; what signatures and hashes return is free (log 21). -/

open Sys2Proof.Machine

/-! ## ATTEST, life cycle, preserve tokens -/

theorem attest_answers {s : State} {r : Running} (h : s.carries r 0x0701 .all = true) (hblank : s.lc.state ≠ 0) (hretired : s.lc.state ≠ 3)
    (nonce : BitVec 256) (fl : BitVec 8) : exec (.attest nonce fl) s = .next (s.taken.okData r
      (byteWords (s.reportBody nonce ++ s.reportSignature nonce ++ if fl.getLsbD 0 then s.lc.certificateOf else []))) := by
  have hl : ∀ c ∈ [(s.lc.state == 0#4 || s.lc.state == 3#4, rsState)], c.1 = false := by
    simpa using ⟨hblank, hretired⟩
  simp only [exec, execAttest]
  exact cmd_of_unrefused h rfl hl

theorem lcTransition_writes {s : State} {r : Running} {p : LcP} {y : LifeCycle} (h : s.carries r opLcTransition .package = true)
    (hrefusal : s.lcRefusal p = none) (hto : s.lc.transitionTo p = some y) :
    exec (.lcTransition p true) s = .next (({ s.taken with
      lc := { y with transition := true }, reset_ := { s.reset_ with pendingReset := some .lifeCycle } } : State).ok r) ∧
    exec (.lcTransition p false) s = .next (({ s.taken with lc := s.lc.partWritten p } : State).failed r rsState) := by
  have hnone : s.taken.lcRefusal p = none := hrefusal
  have htaken : s.taken.lc.transitionTo p = some y := hto
  constructor
  all_goals
    simp only [exec, execLcTransition]
    rw [cmd_of_carries s r _ _ _ h, hnone, State.unless, htaken]
    rfl

theorem transitionTo_enrols {s : State} {p : LcP} (hstate : s.lc.state = 2) (htarget : p.target = 2) (haction : p.action = 1)
    (hfree : s.lc.ownerKeys.getLsbD p.slot.toNat = false) : s.lc.transitionTo p = some { s.lc with
      ownerKeys := putBit s.lc.ownerKeys p.slot.toNat true, ownerKey := tSet s.lc.ownerKey p.slot.toNat p.ownerKey } := by
  have hfrom : s.lc.state.toNat = 2 := congrArg BitVec.toNat hstate
  have hto : p.target.toNat = 2 := congrArg BitVec.toNat htarget
  simp only [LifeCycle.transitionTo, hfrom, hto, haction, hfree, Bool.false_eq_true, if_false]
  exact if_pos rfl

theorem preserveArm_answers {s : State} {r : Running} (h : s.carries r 0x0703 .package = true) :
    exec (.preserveArm none) s = .next (({ s.taken with lc := { s.lc with armed := false } } : State).ok r) ∧
    ∀ t : Token, exec (.preserveArm (some t)) s = .next (if s.preserveOk t then ({ s.taken with lc := { s.lc with armed := true } } : State).ok r
      else s.taken.rejected r rsImage) := by
  simp only [exec, execPreserveArm]
  refine ⟨cmd_of_carries s r _ _ _ h, fun t => ?_⟩
  rw [cmd_of_carries s r _ _ _ h]
  have htaken : s.taken.preserveOk t = s.preserveOk t := rfl
  simp only [htaken]
  cases s.preserveOk t <;> rfl

theorem deviceReset_pends {s : State} {r : Running} {k : BitVec 8} (h : s.carries r 0x0704 .package = true) (hlc : s.lc.transition = false)
    (hpending : s.reset_.pendingReset = none) (hk : k = 0 ∨ k = 1 ∨ (k = 2 ∧ s.preserveAllowed = true)) : exec (.deviceReset k) s =
      .next (({ s.taken with reset_ := { s.reset_ with pendingReset := some (deviceResetKind k) } } : State).ok r) := by
  have hl : ∀ c ∈ [(decide (2 < k.toNat), rsField), (s.taken.lc.transition, rsState), (k == 2#8 && !s.taken.preserveAllowed, rsState)], c.1 = false := by
    have htaken : s.taken.lc.transition = false := hlc
    have hallowed : s.taken.preserveAllowed = s.preserveAllowed := rfl
    rw [htaken, hallowed]
    rcases hk with rfl | rfl | ⟨rfl, hp⟩
    · simp
    · simp
    · simp [hp]
  simp only [exec, execDeviceReset]
  rw [cmd_of_unrefused h rfl hl]
  have hnone : s.taken.reset_.pendingReset = none := hpending
  rw [hnone]
  rfl

/-! ## The self-update (R346, R347) -/

theorem fwUpdate_starts {s : State} {r : Running} {a : Addr} {n : BitVec 32} {i : Image} (h : s.carries r opFwUpdate .package = true)
    (hcut : s.fl.cut = none) (hwaits : s.fl.waitingCinch = []) (hpos : 0 < n.toNat) (hmax : n.toNat ≤ 0x200000)
    (hrange : s.updateRange a.toNat n.toNat = true) (hlc : s.lc.transition = false) (hidle : s.fl.fw = .idle) (hstandby : s.fl.standbyHealthy = true) :
    exec (.fwUpdate a n i true) s = .next (if s.lc.imageOk false i then
      { s.taken.startBg r with fl := { (s.taken.startBg r).fl with fw := .started r i, standbyVersion := i.imageVersion } }
      else s.taken.rejected r rsImage) := by
  have hfree : (s.fl.cut.isSome || !s.fl.waitingCinch.isEmpty) = false := by simp [hcut, hwaits]
  simp only [exec, execFwUpdate, hfree, Bool.false_eq_true, if_false]
  rw [cmd_of_carries s r _ _ _ h]
  have hn0 : ¬n.toNat = 0 := by omega
  have hrange' : s.taken.updateRange a.toNat n.toNat = true := hrange
  have hlc' : s.taken.lc.transition = false := hlc
  have hidle' : s.taken.fl.fw = .idle := hidle
  have hstandby' : s.taken.fl.standbyHealthy = true := hstandby
  have himage : s.taken.lc.imageOk false i = s.lc.imageOk false i := rfl
  simp only [hn0, Nat.not_lt.mpr hmax, hrange', hlc', hidle', hstandby', himage]
  cases s.lc.imageOk false i <;> rfl

theorem fwHandover_switches {s : State} {r : Running} {i : Image} (hfw : s.fl.fw = .started r i) (hidle : s.fl.current = none)
    (hup : s.flapinoUp = true) : ∃ t, exec .fwHandover s = .next t ∧
    t.fl.activePair = !s.fl.activePair ∧ t.fl.imageVersion = i.imageVersion ∧ t.fl.standbyVersion = s.fl.imageVersion ∧
    t.fl.fw = .health r i s.fl.imageVersion ∧ tFind t.lc.measurements 2 = some (Config.sha256 (imageBytes i)) ∧ t.parts = s.parts := by
  simp only [exec, execFwHandover, hfw, hidle, hup]
  exact ⟨_, rfl, rfl, rfl, rfl, rfl, tFind_tSet_same _ _ _, rfl⟩

/-- A command's completion leaves the fuses and measurements alone. -/
theorem cmdDone_lc (s : State) (r : Running) (status reason flags : BitVec 8) (data : List Word) : (s.cmdDone r status reason flags data).lc = s.lc := by
  obtain ⟨_, _, _, _, h⟩ := cmdDone_sentOver s r status reason flags data
  rw [h]
  rfl

theorem healthWindowEnd_completes {s : State} {r : Running} {i : Image} {old : BitVec 32} (hfw : s.fl.fw = .health r i old) :
    ∃ t, exec (.healthWindowEnd true) s = .next t ∧ t.fl.fw = .idle ∧ t.fl.standbyVersion = i.imageVersion ∧ t.lc.runningKey = i.key ∧
      t.lc.rollback = max s.lc.rollback (min i.secVersion.toNat 64) ∧ t.fl.activePair = s.fl.activePair := by
  simp only [exec, execHealthWindowEnd, hfw, if_true]
  exact ⟨_, rfl, by rw [State.ok, cmdDone_fl]; rfl, by rw [State.ok, cmdDone_fl]; rfl, by rw [State.ok, cmdDone_lc]; rfl,
    by rw [State.ok, cmdDone_lc]; rfl, by rw [State.ok, cmdDone_fl]; rfl⟩

theorem healthWindowEnd_handsBack {s : State} {r : Running} {i : Image} {old : BitVec 32} (hfw : s.fl.fw = .health r i old)
    (hstandby : s.fl.standbyHealthy = true) : ∃ t, exec (.healthWindowEnd false) s = .next t ∧ t.fl.fw = .idle ∧
      t.fl.activePair = !s.fl.activePair ∧ t.fl.imageVersion = old ∧ t.lc.rollback = s.lc.rollback := by
  simp only [exec, execHealthWindowEnd, hfw, hstandby, Bool.false_eq_true, if_false, if_true, State.takeBack, State.failed]
  exact ⟨_, rfl, by rw [cmdDone_fl]; rfl, by rw [cmdDone_fl]; rfl, by rw [cmdDone_fl]; rfl, by rw [cmdDone_lc]; rfl⟩

theorem fwQuery_answers {s : State} {r : Running} (h : s.carries r 0x0706 .all = true) : exec .fwQuery s = .next (s.taken.okData r
    [s.fl.imageVersion.setWidth 64, s.fl.standbyVersion.setWidth 64, BitVec.ofNat 64 s.fl.activePair.toNat, BitVec.ofNat 64 s.lc.rollback,
      s.fl.lastUpdate.setWidth 64]) := by
  simp only [exec, execFwQuery]
  exact cmd_of_carries s r _ _ _ h

/-- Settles O52, command by command. The words of FW_QUERY are the model's choice (log 24), the fuses after a failed read-back those of log 68, the
corners of DEVICE_RESET and FW_UPDATE those of log 89, and signatures and hashes free functions (log 21). -/
theorem securityCommandsAct : Obligations.SecurityCommandsAct := by
  unfold Obligations.SecurityCommandsAct
  exact ⟨fun _ _ h hblank hretired nonce fl => attest_answers h hblank hretired nonce fl, fun _ _ _ _ h hrefusal hto => lcTransition_writes h hrefusal hto,
    fun _ _ hstate htarget haction hfree => transitionTo_enrols hstate htarget haction hfree, fun _ _ h => preserveArm_answers h,
    fun _ _ _ h hlc hpending hk => deviceReset_pends h hlc hpending hk,
    fun _ _ _ _ _ h hcut hwaits hpos hmax hrange hlc hidle hstandby => fwUpdate_starts h hcut hwaits hpos hmax hrange hlc hidle hstandby,
    fun _ _ _ hfw hidle hup => fwHandover_switches hfw hidle hup,
    fun _ _ _ _ hfw => ⟨healthWindowEnd_completes hfw, healthWindowEnd_handsBack hfw⟩, fun _ _ h => fwQuery_answers h⟩

end Sys2Proof.Laws

namespace Sys2Proof.Laws

/-! SUPPORT for O51. The power controller, the dips with the kills they cause over all blocks, and the watchdog. -/

open Sys2Proof.Machine

/-! ## A fold of steps that each act on one block -/

theorem allBlocks_nodup : allBlocks.Nodup := List.Nodup.of_map BlockId.idx (allBlocks_map_idx ▸ List.nodup_range)

/-- Where each step leaves the other blocks alone and keeps `I`, the fold leaves a block as its own step does, taken from a state with `I` that has
the block as it was. -/
theorem foldl_block {f : State → BlockId → State} (I : State → Prop) (hkeeps : ∀ t a, I t → I (f t a))
    (hother : ∀ t a c, c ≠ a → (f t a).block c = t.block c) {l : List BlockId} (hnodup : l.Nodup) {b : BlockId} (hb : b ∈ l) {s : State} (hs : I s) :
    ∃ t, I t ∧ t.block b = s.block b ∧ (l.foldl f s).block b = (f t b).block b := by
  have hrest {l : List BlockId} (hl : b ∉ l) (t : State) : (l.foldl f t).block b = t.block b :=
    List.foldlRecOn (motive := fun u => u.block b = t.block b) l f rfl fun u hu a ha => (hother u a b fun e => hl (e ▸ ha)).trans hu
  obtain ⟨l₁, l₂, rfl⟩ := List.append_of_mem hb
  obtain ⟨_, hnodup₂, hdisjoint⟩ := List.nodup_append.mp hnodup
  have hl₁ : b ∉ l₁ := fun h => hdisjoint b h b (List.mem_cons_self ..) rfl
  rw [List.foldl_append, List.foldl_cons]
  exact ⟨l₁.foldl f s, List.foldlRecOn (motive := I) l₁ f hs fun t ht a _ => hkeeps t a ht, hrest hl₁ s, hrest (List.nodup_cons.mp hnodup₂).1 _⟩

/-- Events are all that reporting them changes. -/
theorem raiseAll_eq (s : State) (ps : List PartId) (c : BitVec 16) (l : BitVec 3) (u : BitVec 24) (d : BitVec 88) :
    ∃ es, s.raiseAll ps c l u d = { s with events := es } :=
  List.foldlRecOn (motive := fun t : State => ∃ es, t = { s with events := es }) _ _ ⟨_, rfl⟩ fun _ ht _ _ => ht.elim fun _ ht => ht ▸ ⟨_, rfl⟩

/-- A condition that holds lets the command act. -/
theorem when_of {c : Bool} {s t : State} (h : c = true) : when_ c s t = .next t := h ▸ rfl

/-! ## The controller (R412, R413) -/

/-- The clock a step lower. -/
theorem lower_slewMhz {p : PowerState} (h : 550 < p.slewMhz.toNat) : p.lower.slewMhz = BitVec.ofNat 12 (clockStep (stepOf p.slewMhz.toNat + 1)) := by
  rw [PowerState.lower, if_neg (by omega)]
/-- Neither a lower nor a higher clock moves the count of intervals. -/
theorem lower_ticks (p : PowerState) : p.lower.ticks = p.ticks := by
  unfold PowerState.lower
  split
  · split <;> rfl
  · rfl
theorem higher_ticks (p : PowerState) : p.higher.ticks = p.ticks := by
  unfold PowerState.higher
  split <;> rfl
theorem control_ticks (p : PowerState) (x : PowerSample) : (p.control x).ticks = p.ticks := by
  unfold PowerState.control
  extract_lets hot excess under q
  change q.ticks = p.ticks
  unfold q
  split
  · exact lower_ticks p
  · split
    · exact higher_ticks p
    · rfl
/-- Heat or power over a limit lowers the clock. -/
theorem control_slewMhz {p : PowerState} {x : PowerSample} (hover : 103 < x.dieTemp.toInt ∨ 3400 < x.power1ms.toNat ∨ p.limit1s < 100 * x.power1s.toNat)
    (hslew : 550 < p.slewMhz.toNat) : (p.control x).slewMhz = BitVec.ofNat 12 (clockStep (stepOf p.slewMhz.toNat + 1)) := by
  unfold PowerState.control
  extract_lets hot excess under q
  have hacts : (excess || hot) = true := by
    rcases hover with h | h | h
    · simp [hot, h]
    · simp [excess, h]
    · simp [excess, h]
  change q.slewMhz = _
  unfold q
  rw [if_pos hacts]
  exact lower_slewMhz hslew
theorem control_hot {p : PowerState} {x : PowerSample} (h : 103 < x.dieTemp.toInt) : (p.control x).thermal = true := if_pos h
theorem control_cool {p : PowerState} {x : PowerSample} (h : x.dieTemp.toInt ≤ 101) : (p.control x).thermal = false :=
  (if_neg (by omega)).trans (if_pos h)

section
variable {s : State} {x : PowerSample} (hreleased : s.reset_.released.contains .telemetry = true) (hworks : s.power.telemetryFault = false)
include hreleased hworks

theorem telemetry_runs : (s.reset_.released.contains .telemetry && !s.power.telemetryFault) = true := by simp only [hreleased, hworks, Bool.not_false, Bool.and_self]

theorem powerControlInterval_trips (h : 110 ≤ x.dieTemp.toInt) : exec (.powerControlInterval x) s = .next s.trip := by
  simp only [exec, execPowerControlInterval]
  rw [when_of (telemetry_runs hreleased hworks), if_pos h]

theorem powerControlInterval_next (h : x.dieTemp.toInt < 110) : ∃ ds, exec (.powerControlInterval x) s =
    .next { s with power := { s.power.control x with ticks := s.power.ticks + 1, dipTimes := ds } } := by
  simp only [exec, execPowerControlInterval]
  rw [when_of (telemetry_runs hreleased hworks), if_neg (by omega), control_ticks]
  exact ⟨_, rfl⟩
theorem powerControlInterval_takes (h : x.dieTemp.toInt < 110) : ∃ t, exec (.powerControlInterval x) s = .next t ∧
    t.power.dieTemp = x.dieTemp ∧ t.power.power1ms = x.power1ms ∧
    t.power.power1s = x.power1s ∧ t.power.ticks = s.power.ticks + 1 ∧ t.mem = s.mem ∧ t.blocks = s.blocks ∧
    ((103 < x.dieTemp.toInt ∨ 3400 < x.power1ms.toNat ∨ s.power.limit1s < 100 * x.power1s.toNat) → 550 < s.power.slewMhz.toNat →
      t.power.slewMhz = BitVec.ofNat 12 (clockStep (stepOf s.power.slewMhz.toNat + 1))) ∧
    (103 < x.dieTemp.toInt → t.power.thermal = true) ∧ (x.dieTemp.toInt ≤ 101 → t.power.thermal = false) := by
  obtain ⟨_, hnext⟩ := powerControlInterval_next hreleased hworks h
  exact ⟨_, hnext, rfl, rfl, rfl, rfl, rfl, rfl, control_slewMhz, control_hot, control_cool⟩

theorem pmbusPoll_takes (y : PmbusReading) : exec (.pmbusPoll y) s = .next { s with power := { s.power with reading := y } } := by
  simp only [exec, execPmbusPoll]
  exact when_of (telemetry_runs hreleased hworks)
end

theorem clockSlew_reaches {s : State} (hdiffers : s.power.slewMhz ≠ s.power.blockMhz) (hruns : s.power.stretched = false)
    (hworks : s.power.telemetryFault = false) : exec (.clockSlew s.power.slewMhz) s = .next (({ s with power := { s.power with
      blockMhz := s.power.slewMhz, setpointMv := setpointOf s.power.slewMhz.toNat } } : State).emit (.avs (setpointOf s.power.slewMhz.toNat))) := by
  simp only [exec, execClockSlew]
  exact when_of (by simpa [hruns, hworks] using hdiffers)

/-! ## Supply dips (R408, R415 to R417) -/

theorem killGroup_dip_block_other (s : State) {b c : BlockId} (h : c ≠ b) : (s.killGroup b .dip).block c = s.block c := by
  unfold State.killGroup
  dsimp only
  split
  · rfl
  · exact (block_setBlock_other _ _ _ _ h).trans (dropGroup_block_other _ _ _ h)
theorem killGroup_dip_stretched (s : State) (b : BlockId) : (s.killGroup b .dip).power.stretched = s.power.stretched := by
  unfold State.killGroup
  dsimp only
  split <;> rfl

theorem coreDroopStart_stretches {s : State} (h : s.power.stretched = false) : ∃ t, exec .coreDroopStart s = .next t ∧ t.power.stretched = true ∧
    ∀ b, s.dipKills b = true → (t.block b).group = none ∧ (t.block b).dipRerun = true ∧ (t.block b).rerunHeld = true ∧
      (t.block b).kills = inc (s.block b).kills := by
  simp only [exec, execCoreDroopStart]
  refine ⟨_, when_of (by rw [h]; rfl), foldl_keeps (fun t => t.power.stretched) _ _ _ fun t a => killGroup_dip_stretched t a, fun b hb => ?_⟩
  have hlisted : b ∈ allBlocks.filter fun b => s.dipKills b := List.mem_filter.mpr ⟨mem_allBlocks b, hb⟩
  obtain ⟨t, hstretched, hblock, hlast⟩ := foldl_block (fun t => t.power.stretched = true) (fun t a ht => (killGroup_dip_stretched t a).trans ht)
    (fun t _ _ hne => killGroup_dip_block_other t hne) (allBlocks_nodup.filter _) hlisted
    (s := { s with power := { s.power with stretched := true, dipKilled := [] } }) rfl
  have hgroup : (t.block b).group.isSome = true := by
    rw [hblock]
    simp only [State.dipKills, Bool.and_eq_true] at hb
    exact hb.1.1.1.1.1.2
  obtain ⟨g, hg⟩ := Option.isSome_iff_exists.mp hgroup
  rw [hlast, killGroup_dip_block t b g hg]
  exact ⟨dropGroup_group _, rfl, hstretched, congrArg (fun y => inc y.kills) hblock⟩

theorem coreDroopEnd_ends {s : State} (mv d : BitVec 16) (h : s.power.stretched = true) : ∃ t, exec (.coreDroopEnd mv d) s = .next t ∧
    t.power.stretched = false ∧ t.power.dipTimes = s.power.recent ++ [s.power.ticks] ∧
    t.power.dipLimit = (s.power.dipLimit || decide (9 ≤ (s.power.recent ++ [s.power.ticks]).length)) ∧
    (∀ b, (t.block b).rerunHeld = false) ∧ t.mem = s.mem := by
  have hraise {t : State} (low dur : Nat) (set : Bool) (l : List PartId) :
      ∃ es, l.foldl (fun t q => t.raiseDip low dur set q) t = { t with events := es } :=
    List.foldlRecOn (motive := fun u : State => ∃ es, u = { t with events := es }) _ _ ⟨_, rfl⟩ fun _ hu _ _ => hu.elim fun _ hu => hu ▸ ⟨_, rfl⟩
  simp only [exec, execCoreDroopEnd]
  refine ⟨_, when_of h, ?_⟩
  obtain ⟨_, hend⟩ := hraise (t := { s with
      power := { s.power with
        stretched := false, dipTimes := s.power.recent ++ [s.power.ticks]
        dipLimit := s.power.dipLimit || (decide (9 ≤ (s.power.recent ++ [s.power.ticks]).length) && !s.power.dipLimit) }
      blocks := s.blocks.map fun e => (e.1, { e.2 with rerunHeld := false }) })
    mv.toNat d.toNat (decide (9 ≤ (s.power.recent ++ [s.power.ticks]).length) && !s.power.dipLimit) _
  rw [hend]
  refine ⟨rfl, rfl, ?_, fun b => ?_, rfl⟩
  · cases s.power.dipLimit <;> simp
  · change (tGet BlockState.reset (s.blocks.map fun e => (e.1, { e.2 with rerunHeld := false })) b.idx).rerunHeld = false
    rw [tGet, tFind_mapVals (fun y : BlockState => { y with rerunHeld := false })]
    cases tFind s.blocks b.idx <;> rfl

/-! ## The watchdog (R418) -/

/-- The count of boots rises unless it is at its end, for a reset that clears nothing of Table 16.1. -/
theorem nextCount_of_keeps (x : ResetState) {k : ResetKind} (h : resetClears k = false) :
    x.nextCount k = if x.bootCount = 0xFFFFFFFF then 0xFFFFFFFF else x.bootCount + 1 := by
  rw [ResetState.nextCount, h, if_neg Bool.false_ne_true]
  split
  · next heq => exact heq.trans (if_pos heq).symm
  · next hne => exact (if_neg hne).symm

/-- A command's completion leaves the resets alone. -/
theorem dropCurrent_reset (s : State) : s.dropCurrent.reset_ = s.reset_ := by
  unfold State.dropCurrent
  split
  · obtain ⟨_, hsent⟩ := cmdDone_sentOver _ _ cdFailed rsState 0 []
    exact hsent.reset_
  · rfl
theorem dropCurrent_pairs (s : State) : s.dropCurrent.fl.activePair = s.fl.activePair ∧ s.dropCurrent.fl.standbyHealthy = s.fl.standbyHealthy := by
  unfold State.dropCurrent
  split
  · rw [State.failed, cmdDone_fl]
    exact ⟨rfl, rfl⟩
  · exact ⟨rfl, rfl⟩
/-- The standby pair is active, and none is left. -/
theorem takeOver_pairs (s : State) : s.takeOver.fl.activePair = !s.fl.activePair ∧ s.takeOver.fl.standbyHealthy = false ∧ s.takeOver.reset_ = s.reset_ := by
  unfold State.takeOver
  extract_lets f s1
  rw [raiseAll_fl, raiseAll_reset]
  obtain ⟨hactive, hstandby⟩ := dropCurrent_pairs s1
  exact ⟨hactive, hstandby, dropCurrent_reset s1⟩
/-- Without a standby Flapino stops, and FAULT_N is asserted. -/
theorem controlStops_ends (s : State) : s.controlStops.reset_ = { s.reset_ with faultN := true } ∧ s.controlStops.flapinoUp = false ∧
    s.controlStops.fl = s.fl := by
  refine ⟨rfl, ?_, rfl⟩
  simp only [State.flapinoUp, State.controlStops, State.fatalFault, State.setFault, State.assertFault, Bool.not_eq_false']
  rw [getLsbD_putBit_true, getLsbD_putBit_true, getLsbD_putBit_true]
  simp

section
variable {s : State} (hstarted : s.reset_.active = false) (hup : s.flapinoUp = true) (hidle : s.fl.fw = .idle)
include hstarted hup hidle

theorem watchdogExpiry_next : exec .watchdogExpiry s = .next
    (if !s.fl.standbyHealthy && s.power.limit.wdtReset then (if s.fl.standbyHealthy then s.takeOver else s.controlStops).assertReset .warm 7
      else if s.fl.standbyHealthy then s.takeOver else s.controlStops) := by
  simp only [exec, execWatchdogExpiry]
  rw [when_of (by rw [hstarted, hup]; rfl), State.controlFails, hidle]
theorem watchdogExpiry_handsOver (hstandby : s.fl.standbyHealthy = true) : ∃ t, exec .watchdogExpiry s = .next t ∧
    t.fl.activePair = !s.fl.activePair ∧ t.fl.standbyHealthy = false ∧ t.reset_.active = false := by
  obtain ⟨hactive, hnone, hreset⟩ := takeOver_pairs s
  rw [watchdogExpiry_next hstarted hup hidle, hstandby]
  exact ⟨_, rfl, hactive, hnone, (congrArg ResetState.active hreset).trans hstarted⟩
theorem watchdogExpiry_stops (hstandby : s.fl.standbyHealthy = false) (hwarm : s.power.limit.wdtReset = false) :
    ∃ t, exec .watchdogExpiry s = .next t ∧ t.reset_.faultN = true ∧ t.flapinoUp = false ∧ t.fl = s.fl := by
  obtain ⟨hreset, hdown, hfl⟩ := controlStops_ends s
  rw [watchdogExpiry_next hstarted hup hidle, hstandby, hwarm]
  exact ⟨_, rfl, congrArg ResetState.faultN hreset, hdown, hfl⟩
theorem watchdogExpiry_resets (hstandby : s.fl.standbyHealthy = false) (hwarm : s.power.limit.wdtReset = true) :
    ∃ t, exec .watchdogExpiry s = .next t ∧ t.reset_.kind = .warm ∧ t.reset_.sources = bitMask 10 7 ∧
      (t.reset_.bootCount = if s.reset_.bootCount = 0xFFFFFFFF then 0xFFFFFFFF else s.reset_.bootCount + 1) := by
  have hidleReset : s.controlStops.reset_.busy = false := by
    rw [(controlStops_ends s).1, ResetState.busy, hstarted]
    rfl
  rw [watchdogExpiry_next hstarted hup hidle, hstandby, hwarm]
  refine ⟨_, rfl, ?_⟩
  simp only [Bool.false_eq_true, if_false, State.assertReset, hidleReset, Bool.false_and]
  refine ⟨rfl, rfl, ?_⟩
  change s.reset_.nextCount .warm = _
  exact nextCount_of_keeps s.reset_ rfl
end

theorem telemetryQuery_answers {s : State} {r : Running} (h : s.carries r 0x0605 .all = true) : ∃ rest : List Word, exec .telemetryQuery s =
    .next (s.taken.okData r (s.pwrStatus :: powerLimitWord s.power.limit :: s.reset_.causeWord :: rest)) := by
  simp only [exec, execTelemetryQuery]
  exact ⟨_, cmd_of_carries s r _ _ _ h⟩

/-- Settles O51, event by event. The words of TELEMETRY_QUERY are the model's choice (log 24), the second is counted in intervals of 10 microseconds
(log 64), the clock in MHz is rounded down (log 87), and the pair that failed is no standby (log 61). -/
theorem powerIsControlled : Obligations.PowerIsControlled := by
  unfold Obligations.PowerIsControlled
  exact ⟨fun _ _ hreleased hworks => ⟨powerControlInterval_trips hreleased hworks, powerControlInterval_takes hreleased hworks⟩,
    fun _ hdiffers hruns hworks => clockSlew_reaches hdiffers hruns hworks, fun _ y hreleased hworks => pmbusPoll_takes hreleased hworks y,
    fun _ h => coreDroopStart_stretches h, fun _ mv d h => coreDroopEnd_ends mv d h, fun _ => rfl, fun _ => rfl,
    fun _ hstarted hup hidle => ⟨watchdogExpiry_handsOver hstarted hup hidle, watchdogExpiry_stops hstarted hup hidle,
      watchdogExpiry_resets hstarted hup hidle⟩, fun _ _ h => telemetryQuery_answers h⟩

end Sys2Proof.Laws

namespace Sys2Proof.Laws

/-! SUPPORT for O47, O48 and O50: what an access or a loss leaves as it is, whatever it does to the operation that meets it (`bystanders`): the resets,
Flapino, the commands that wait, a stack's class map, each partition's state, quads and draft, and each block's fence, reset and open group. -/

open Sys2Proof.Machine

/-- The resets, Flapino, the commands that wait, stack k's class map, and each partition's state, quads and draft. -/
def hubView (k : Nat) (s : State) : (ResetState × Flapino × List Instr × BitVec 432) × (PartId → BitVec 4 × BitVec 64 × List DraftCmd) :=
  ((s.reset_, s.fl, s.pending, (s.stack k).classMap), fun p => ((s.part p).mode, (s.part p).quads, (s.part p).draft))
/-- What a block keeps while its scratchpad locks and its completions change. -/
def blockView (s : State) : BlockId → Bool × Bool × Option Group := fun b => ((s.block b).fenced, (s.block b).inReset, (s.block b).group)
/-- Both. -/
def bystanders (k : Nat) (s : State) :
    ((ResetState × Flapino × List Instr × BitVec 432) × (PartId → BitVec 4 × BitVec 64 × List DraftCmd)) × (BlockId → Bool × Bool × Option Group) :=
  (hubView k s, blockView s)

/-! ## Writes to the state -/

theorem setPart_hubView (k : Nat) {s : State} {p : PartId} {x : Partition} (hmode : x.mode = (s.part p).mode) (hquads : x.quads = (s.part p).quads)
    (hdraft : x.draft = (s.part p).draft) : hubView k (s.setPart p x) = hubView k s := by
  refine Prod.ext rfl (funext fun q => ?_)
  by_cases hq : q = p
  · simp only [hubView, hq, part_setPart_same, hmode, hquads, hdraft]
  · simp only [hubView, part_setPart_other _ _ _ _ hq]
theorem setStack_hubView (k : Nat) {s : State} {i : Nat} {x : StackState} (h : x.classMap = (s.stack i).classMap) :
    hubView k (s.setStack i x) = hubView k s := by
  have hclass : ((s.setStack i x).stack k).classMap = (s.stack k).classMap := by
    by_cases hi : k = i
    · rw [hi, stack_setStack_same, h]
    · exact congrArg StackState.classMap (tGet_tSet_other _ _ _ _ _ hi)
  simp only [hubView, hclass]
  rfl
theorem setBlock_blockView {s : State} {b : BlockId} {x : BlockState} (hfenced : x.fenced = (s.block b).fenced) (hreset : x.inReset = (s.block b).inReset)
    (hgroup : x.group = (s.block b).group) : blockView (s.setBlock b x) = blockView s := by
  funext c
  by_cases hc : c = b
  · simp only [blockView, hc, block_setBlock_same, hfenced, hreset, hgroup]
  · simp only [blockView, block_setBlock_other _ _ _ _ hc]
theorem bystanders_of_hub {k : Nat} {s t : State} (h : hubView k t = hubView k s) (hb : t.blocks = s.blocks := by rfl) :
    bystanders k t = bystanders k s := by
  have hblock (b : BlockId) : t.block b = s.block b := congrArg (tGet BlockState.reset · b.idx) hb
  exact Prod.ext h (funext fun b => by simp only [bystanders, blockView, hblock])
theorem bystanders_of_block {k : Nat} {s t : State} (h : blockView t = blockView s) (hhub : hubView k t = hubView k s := by rfl) :
    bystanders k t = bystanders k s := Prod.ext hhub h

variable {k : Nat}

/-! ## What the stack controllers count and raise -/

theorem countStack_bystanders (s : State) (a : Nat) {f : StackState → StackState} (hf : ∀ x, (f x).classMap = x.classMap := by exact fun _ => rfl) :
    bystanders k (s.countStack a f) = bystanders k s := bystanders_of_hub (setStack_hubView k (hf _))
theorem raiseStack_bystanders (s : State) (a : Nat) (code : BitVec 16) (more : BitVec 88) : bystanders k (s.raiseStack a code more) = bystanders k s := rfl
theorem countBus_bystanders (s : State) (a : Nat) (bus : BusCheck) (onDie : Bool) : bystanders k (s.countBus a bus onDie) = bystanders k s :=
  countStack_bystanders s a
theorem served_bystanders (s : State) (a n : Nat) : bystanders k (s.served a n) = bystanders k s :=
  bystanders_of_hub ((setStack_hubView (s := s.setPart (s.memOwner a) _) k (i := stackOf a) (x := { s.stack (stackOf a) with selfRefresh := false }) rfl).trans
    (setPart_hubView k rfl rfl rfl))
theorem busFails_bystanders (s : State) (a : Nat) : bystanders k (s.busFails a) = bystanders k s :=
  (raiseStack_bystanders _ _ _ _).trans (countStack_bystanders s a)
theorem readBurst_bystanders (s : State) (a : Nat) (tr : BurstErr) : bystanders k (s.readBurst a tr).1 = bystanders k s := by
  unfold State.readBurst
  split
  · unfold State.burstFails
    split
    · exact countStack_bystanders s a
    · exact (raiseStack_bystanders _ _ _ _).trans (countStack_bystanders s a)
  · unfold State.burstOk
    split
    · exact (raiseStack_bystanders _ _ _ _).trans (countStack_bystanders s a)
    · exact (raiseStack_bystanders _ _ _ _).trans (countStack_bystanders s a)
    · rfl
theorem readRanges_bystanders (s : State) (rs : List Range) : bystanders k (s.readRanges rs).1 = bystanders k s :=
  List.foldlRecOn (motive := fun p : State × Option Nat => bystanders k p.1 = bystanders k s) _ _ rfl
    fun p hp a _ => (readBurst_bystanders p.1 a errZero).trans hp
theorem withMem_bystanders (s : State) (m : Memory) : bystanders k { s with mem := m } = bystanders k s := rfl
theorem wroteBurst_bystanders (s : State) (old : Memory) (rs : List Range) (a : Nat) : bystanders k (s.wroteBurst old rs a) = bystanders k s := by
  unfold State.wroteBurst
  split
  · rfl
  · extract_lets r read t
    have hread : bystanders k r.1 = bystanders k s := readBurst_bystanders s a errZero
    have ht : bystanders k t = bystanders k s := (withMem_bystanders read _).trans hread
    split
    · exact hread
    · split
      · exact (raiseStack_bystanders t _ _ _).trans ht
      · exact ht
theorem put_bystanders (s : State) (a : Nat) (bs : List Byte) : bystanders k (s.put a bs) = bystanders k s := by
  unfold State.put State.wrote
  exact (foldl_keeps (bystanders k) _ _ _ fun t b => wroteBurst_bystanders t s.mem _ b).trans (withMem_bystanders s _)
theorem putNorm_bystanders (s : State) (job : BitVec 16) (step sumsq : BitVec 32) (state : Byte) :
    bystanders k (s.putNorm job step sumsq state) = bystanders k s := by
  unfold State.putNorm
  extract_lets a
  split
  · rfl
  · exact put_bystanders s _ _
theorem undefine_bystanders (s : State) (a n : Nat) : bystanders k (s.undefine a n) = bystanders k s := foldl_keeps (bystanders k) _ _ _ fun _ _ => rfl

/-! ## Instances, updates and messages that are lost or refused -/

theorem unlockRead_bystanders (s : State) (i : Instance) : bystanders k (s.unlockRead i) = bystanders k s := by
  unfold State.unlockRead
  extract_lets b x own
  split
  · exact bystanders_of_block (setBlock_blockView rfl rfl rfl)
  · rfl
theorem failInstance_bystanders (s : State) (i : Instance) (cause : Nat) (notify : Bool) :
    bystanders k (s.failInstance i cause notify) = bystanders k s := by
  unfold State.failInstance
  extract_lets p s2 s3 s4
  have h2 : bystanders k s2 = bystanders k s :=
    (unlockRead_bystanders _ i).trans ((undefine_bystanders _ _ _).trans (put_bystanders (s.dropInstance i) _ _))
  have h3 : bystanders k s3 = bystanders k s2 := by
    unfold s3
    split
    · exact putNorm_bystanders s2.free.2 _ _ _ _
    · rfl
  have h4 : bystanders k s4 = bystanders k s3 := by
    unfold s4
    split <;> rfl
  exact h4.trans (h3.trans h2)
theorem readEntry_bystanders (s : State) (p : PartId) (a : Nat) : bystanders k (s.readEntry p a).1 = bystanders k s := by
  unfold State.readEntry State.engineRead
  extract_lets r
  have hread : bystanders k r.1 = bystanders k s := readRanges_bystanders s _
  split
  · exact hread
  · dsimp only
    split <;> exact hread
theorem freeBuilding_bystanders (s : State) (p : PartId) (a : Nat) : bystanders k (s.freeBuilding p a) = bystanders k s := by
  unfold State.freeBuilding
  extract_lets r e
  have hread : bystanders k r.1 = bystanders k s := readEntry_bystanders s p a
  split
  · exact (put_bystanders r.1 _ _).trans hread
  · exact hread
theorem export_bystanders (s : State) (p : PartId) (e : ExportRec) : bystanders k (s.export_ p e) = bystanders k s := by
  unfold State.export_
  extract_lets x
  split
  · exact bystanders_of_hub (setPart_hubView k rfl rfl rfl)
  · rfl
theorem updateCrimson_bystanders (s : State) (r : RegionId) (t : RunTask) (c : UpdCause) : bystanders k (s.updateCrimson r t c) = bystanders k s := by
  cases c <;> rfl
theorem interruptUpdate_bystanders (s : State) (r : RegionId) (c : UpdCause) : bystanders k (s.interruptUpdate r c) = bystanders k s := by
  unfold State.interruptUpdate
  extract_lets u again
  split
  · rfl
  · extract_lets te s1 s2 upd s3
    have h1 : bystanders k s1 = bystanders k s := freeBuilding_bystanders s _ _
    have h2 : bystanders k s2 = bystanders k s1 := by
      unfold s2
      split
      · exact export_bystanders _ _ _
      · rfl
    exact (updateCrimson_bystanders s3 r _ c).trans (h2.trans h1)
theorem endRelay_bystanders (s : State) (r : RelayTx) : bystanders k (s.endRelay r) = bystanders k s :=
  bystanders_of_block (setBlock_blockView (s := s) rfl rfl rfl)
theorem cancelRelay_bystanders (s : State) (r : RelayTx) : bystanders k (s.cancelRelay r) = bystanders k s :=
  endRelay_bystanders (s.count fun h => { h with relayCancel := inc h.relayCancel }) r
theorem pumpGuest_bystanders (s : State) : bystanders k s.pumpGuest = bystanders k s := rfl
theorem msoDone_bystanders (s : State) (m : MemSideOp) : bystanders k (s.msoDone m) = bystanders k s := by
  unfold State.msoDone
  extract_lets s1
  split
  · refine bystanders_of_block (s := s) (setBlock_blockView (s := s1) ?_ ?_ ?_)
    all_goals split <;> rfl
  · rfl
  · rfl
theorem msoNext_bystanders (s : State) (m : MemSideOp) (u : Nat) : bystanders k (s.msoNext m u) = bystanders k s := by
  unfold State.msoNext
  split
  · rfl
  · exact msoDone_bystanders s m
theorem amaxLost_bystanders (s : State) (m : MemSideOp) : bystanders k (s.amaxLost m) = bystanders k s := by
  unfold State.amaxLost
  split
  · exact bystanders_of_block (setBlock_blockView rfl rfl rfl)
  · rfl
theorem msoDrop_bystanders (s : State) (m : MemSideOp) (classA : Bool) : bystanders k (s.msoDrop m classA) = bystanders k s := by
  unfold State.msoDrop
  extract_lets a s1
  have h1 : bystanders k s1 = bystanders k s := (amaxLost_bystanders _ m).trans (countStack_bystanders s a)
  split <;> exact h1

/-! ## Accesses that a stack has held (R237): the group of the requester may be killed, the hub is as it was -/

theorem hubView_of_bystanders {s t : State} (h : bystanders k t = bystanders k s) : hubView k t = hubView k s := congrArg Prod.fst h

theorem killLost_hubView (s : State) (b : BlockId) (g : Group) {raise : State → State} (h : ∀ t, hubView k (raise t) = hubView k t) :
    hubView k (s.killLost b g raise) = hubView k s := by
  unfold State.killLost
  split
  · rfl
  · exact h _
theorem killGroup_hubView (s : State) (b : BlockId) (cause : KillCause) : hubView k (s.killGroup b cause) = hubView k s := by
  unfold State.killGroup
  extract_lets x
  split
  · rfl
  · cases cause with
    | check c => dsimp only; split <;> rfl
    | memA a => exact killLost_hubView s b _ fun _ => rfl
    | relayAbandoned num => exact killLost_hubView s b _ fun _ => rfl
    | _ => rfl
theorem killPair_hubView (s : State) (b : BlockId) (cause : KillCause) : hubView k (s.killPair b cause) = hubView k s := by
  unfold State.killPair
  extract_lets s1
  split
  · exact (killGroup_hubView _ _ _).trans (killGroup_hubView _ _ _)
  · exact killGroup_hubView _ _ _
theorem ldError_hubView (s : State) (b : BlockId) (a : Nat) (classA : Bool) : hubView k (s.ldError b a classA) = hubView k s := by
  unfold State.ldError
  split
  · exact killGroup_hubView _ _ _
  · cases classA <;> rfl
theorem reqFails_hubView (s : State) (a : Nat) (classA : Bool) (req : Requester) : hubView k (s.reqFails a classA req) = hubView k s := by
  cases req with
  | engine b => exact killPair_hubView _ _ _
  | ld b => exact ldError_hubView _ _ _ _
  | relay num =>
    dsimp only [State.reqFails]
    split
    · exact hubView_of_bystanders (cancelRelay_bystanders s _)
    · rfl
  | lane b tag =>
    dsimp only [State.reqFails]
    split
    · next m _ _ => exact hubView_of_bystanders ((msoNext_bystanders _ m _).trans (msoDrop_bystanders s m classA))
    · rfl
  | collective p =>
    dsimp only [State.reqFails]
    split
    · exact hubView_of_bystanders (failInstance_bystanders s _ _ _)
    · rfl
  | update r => exact hubView_of_bystanders (interruptUpdate_bystanders s r .memory)
  | versionEntry e => cases classA <;> rfl
  | scrub => rfl
theorem serve_hubView (s : State) (m : MemAccess) : hubView k (s.serve m) = hubView k s := by
  cases m with
  | read a req f =>
    dsimp only [State.serve]
    unfold State.serveRead
    extract_lets t r
    have ht : hubView k t = hubView k s := hubView_of_bystanders ((countBus_bystanders _ _ _ _).trans (served_bystanders s _ 32))
    have hr : hubView k r.1 = hubView k t := hubView_of_bystanders (readBurst_bystanders (t.upset _ f.upset) _ f.transient)
    split
    · exact (reqFails_hubView _ _ _ _).trans ((hubView_of_bystanders (busFails_bystanders t _)).trans ht)
    · split
      · exact hr.trans ht
      · exact (reqFails_hubView _ _ _ _).trans (hr.trans ht)
  | write a bs req bus =>
    dsimp only [State.serve]
    unfold State.serveWrite
    extract_lets t
    have ht : hubView k t = hubView k s := hubView_of_bystanders ((countBus_bystanders _ _ _ _).trans (served_bystanders s _ _))
    split
    · exact (reqFails_hubView _ _ _ _).trans ((hubView_of_bystanders (busFails_bystanders t _)).trans ht)
    · exact (hubView_of_bystanders (put_bystanders t _ bs)).trans ht
theorem serveHeld_hubView (s : State) (i : Nat) : hubView k (s.serveHeld i) = hubView k s :=
  (foldl_keeps (hubView k) _ _ _ serve_hubView).trans (setStack_hubView k rfl)

end Sys2Proof.Laws

namespace Sys2Proof.Laws

/-! SUPPORT for O50. The resets of Table 16.1, what each island's release leaves of its unit, and the steps of the boot (R398). -/

open Sys2Proof.Machine

/-! ## Resets (R394, R397, R414) -/

theorem assertReset_restarts {s : State} {k : ResetKind} (source : Nat)
    (h : (s.reset_.busy && decide ((resetCode s.reset_.kind).toNat ≤ (resetCode k).toNat)) = false) :
    s.assertReset k source = s.restartHub k (bitMask 10 source) (s.reset_.nextCount k) (resetStage k) := if_neg (by rw [h]; exact Bool.false_ne_true)
/-- A reset of the same or lower precedence is recorded. -/
theorem assertReset_absorbed {s : State} {k : ResetKind} (source : Nat)
    (h : (s.reset_.busy && decide ((resetCode s.reset_.kind).toNat ≤ (resetCode k).toNat)) = true) :
    s.assertReset k source = { s with reset_ := { s.reset_ with sources := putBit s.reset_.sources source true } } := if_pos h
/-- Nothing but another power-on reset has the precedence of a power-on reset. -/
theorem precedes_powerOn (x : ResetState) :
    (x.busy && decide ((resetCode x.kind).toNat ≤ (resetCode .powerOn).toNat)) = (x.busy && x.kind == .powerOn) := by
  cases x.kind <;> rfl

theorem porstNAssert_restarts {s : State} (supply : Bool) (h : (s.reset_.busy && s.reset_.kind == .powerOn) = false) :
    ∃ t, exec (.porstNAssert supply) s = .next t ∧ t.reset_.active = true ∧
      t.reset_.bootStage = 0 ∧ t.reset_.bootCount = 1 ∧ t.reset_.kind = .powerOn ∧ t.reset_.sources = bitMask 10 (if supply then 1 else 0) ∧
      t.reset_.tripped = (s.reset_.tripped && supply) ∧ t.mem = [] ∧ t.blocks = [] ∧ t.parts = [] ∧ t.pending = s.pending ∧
      t.lc.state = s.lc.state ∧ t.lc.rollback = s.lc.rollback := by
  have hfirst := (precedes_powerOn { s.reset_ with tripped := s.reset_.tripped && supply }).trans h
  simp only [exec, execPorstNAssert]
  rw [assertReset_restarts _ (by exact hfirst)]
  exact ⟨_, rfl, rfl, rfl, rfl, rfl, rfl, rfl, rfl, rfl, rfl, rfl, rfl, rfl⟩
theorem porstNAssert_absorbed {s : State} (supply : Bool) (hbusy : s.reset_.busy = true) (hkind : s.reset_.kind = .powerOn) :
    exec (.porstNAssert supply) s = .next { s with reset_ := { s.reset_ with
      tripped := s.reset_.tripped && supply, sources := putBit s.reset_.sources (if supply then 1 else 0) true } } := by
  have hagain := (precedes_powerOn { s.reset_ with tripped := s.reset_.tripped && supply }).trans
    (show (s.reset_.busy && s.reset_.kind == .powerOn) = true by rw [hbusy, hkind]; rfl)
  simp only [exec, execPorstNAssert]
  rw [assertReset_absorbed _ (by exact hagain)]
theorem porstNRelease_straps {s : State} (strap : BitVec 4) (hactive : s.reset_.active = true) (hstage : s.reset_.bootStage = 0)
    (hcool : s.reset_.tripped = false) :
    exec (.porstNRelease strap) s = .next { s with reset_ := { s.reset_ with bootStage := 0x02, strapValid := true, strap := strap } } := by
  simp only [exec, execPorstNRelease]
  exact when_of (by rw [hactive, hstage, hcool]; rfl)
theorem sysrstNAssert_restarts {s : State} (h : s.reset_.active = false) : ∃ t, exec .sysrstNAssert s = .next t ∧ t.reset_.kind = .warm ∧
      (t.reset_.bootCount = if s.reset_.bootCount = 0xFFFFFFFF then 0xFFFFFFFF else s.reset_.bootCount + 1) ∧
      t.reset_.bootStage = 0x02 ∧ t.reset_.strap = s.reset_.strap ∧ t.mem = [] ∧ t.classMap = s.classMap ∧ t.parts = [] ∧
      t.faults.status = 0 ∧ t.faults.last = s.faults.status ∧ t.lc.fwRevoked = s.lc.fwRevoked := by
  have hidle : s.reset_.busy = false := by rw [ResetState.busy, h]; rfl
  simp only [exec, execSysrstNAssert, hidle, Bool.false_and, Bool.false_eq_true, if_false]
  rw [assertReset_restarts 5 (by rw [hidle]; rfl)]
  exact ⟨_, rfl, rfl, nextCount_of_keeps (k := .warm) s.reset_ rfl, rfl, rfl, rfl, rfl, rfl, rfl, rfl, rfl⟩
theorem sysrstNAssert_wipes {s : State} (hbusy : s.reset_.busy = true) (hkind : s.reset_.kind = .warmPreserve) :
    ∃ t, exec .sysrstNAssert s = .next t ∧ t.reset_.kind = .warm ∧ t.reset_.bootCount = s.reset_.bootCount ∧ t.mem = [] := by
  have hturns : (s.reset_.busy && s.reset_.kind == .warmPreserve) = true := by rw [hbusy, hkind]; rfl
  simp only [exec, execSysrstNAssert, hturns, if_true]
  exact ⟨_, rfl, rfl, rfl, rfl⟩
theorem thermalTrip_restarts (s : State) : ∃ t, exec .thermalTrip s = .next t ∧ t.reset_.tripped = true ∧ t.reset_.active = true ∧
    t.reset_.bootStage = 0 ∧ t.reset_.sources.getLsbD 3 = true ∧ t.mem = [] ∧ t.blocks = [] := by
  refine ⟨s.trip, rfl, rfl, rfl, rfl, ?_, rfl, rfl⟩
  change (if s.reset_.busy && s.reset_.kind == .powerOn then putBit s.reset_.sources 3 true else bitMask 10 3).getLsbD 3 = true
  split
  · rw [getLsbD_putBit_true]
    simp
  · decide
theorem jtagTestTransition_tests {s : State} (secret : BitVec 256) (cert : List Byte) (h : s.lc.state = 0) :
    ∃ t, exec (.jtagTestTransition secret cert) s = .next t ∧
      t.lc.state = 1 ∧ t.lc.secret = some secret ∧ t.lc.certificate = cert ∧ t.reset_.active = true := by
  simp only [exec, execJtagTestTransition]
  refine ⟨_, when_of (by rw [h]; rfl), ?_⟩
  by_cases hfirst : (s.reset_.busy && decide ((resetCode s.reset_.kind).toNat ≤ (resetCode .lifeCycle).toNat)) = true
  · rw [assertReset_absorbed 2 (by exact hfirst)]
    simp only [ResetState.busy, Bool.and_eq_true] at hfirst
    exact ⟨rfl, rfl, rfl, hfirst.1.1⟩
  · rw [assertReset_restarts 2 (by exact Bool.eq_false_iff.mpr hfirst)]
    exact ⟨rfl, rfl, rfl, rfl⟩

/-! ## What the end of a start leaves as it is -/

/-- What neither a completion nor a boot stage touches. -/
def bootView (s : State) : (Tab RegionState × Tab BlockState × Tab StackState) × (List Island × PowerState × Memory) :=
  ((s.regions, s.blocks, s.stackCtl), (s.reset_.released, s.power, s.mem))

theorem cmdDone_bootView (s : State) (r : Running) (status reason flags : BitVec 8) (data : List Word) :
    bootView (s.cmdDone r status reason flags data) = bootView s := by
  obtain ⟨_, _, _, _, h⟩ := cmdDone_sentOver s r status reason flags data
  rw [h]
  rfl
theorem endBg_ok_bootView (s : State) (p : PartId) (op : BitVec 16) : bootView (s.endBg p op fun t r => t.ok r) = bootView s := by
  unfold State.endBg
  split
  · exact cmdDone_bootView _ _ _ _ _ _
  · rfl
/-- The stages that follow. -/
theorem advance_eq (n : Nat) (s : State) : ∃ stage keep, State.advance n s = { s with reset_ := { s.reset_ with bootStage := stage }, preserved := keep } := by
  induction n generalizing s with
  | zero => exact ⟨_, _, rfl⟩
  | succ n ih =>
    unfold State.advance
    split
    · next stage _ =>
      obtain ⟨_, _, h⟩ := ih { s with
        reset_ := { s.reset_ with bootStage := stage }, preserved := s.preserved || (stage == 0x08#8 && s.reset_.kind == .warmPreserve) }
      rw [h]
      exact ⟨_, _, rfl⟩
    · exact ⟨_, _, rfl⟩
theorem regionBack_bootView (s : State) (r : RegionId) : bootView (s.regionBack r) = bootView s := by
  unfold State.regionBack
  split
  · exact endBg_ok_bootView _ _ _
  · rfl
theorem settleBoot_bootView (s : State) : bootView s.settleBoot = bootView s := by
  unfold State.settleBoot
  split
  · obtain ⟨_, _, h⟩ := advance_eq 4 s
    rw [h]
    rfl
  · exact foldl_keeps bootView _ _ _ regionBack_bootView
theorem settleReset_bootView (s : State) (p : PartId) : bootView (s.settleReset p) = bootView s := by
  unfold State.settleReset
  split
  · exact endBg_ok_bootView (s.setPartMode p pCreated) _ _
  · rfl
theorem region_of_bootView {s t : State} (h : bootView t = bootView s) (r : RegionId) : t.region r = s.region r :=
  congrArg (fun v : (Tab RegionState × _) × _ => tGet RegionState.reset v.1.1 r.toNat) h
theorem block_of_bootView {s t : State} (h : bootView t = bootView s) (b : BlockId) : t.block b = s.block b :=
  congrArg (fun v : (_ × Tab BlockState × _) × _ => tGet BlockState.reset v.1.2.1 b.idx) h
theorem stack_of_bootView {s t : State} (h : bootView t = bootView s) (k : Nat) : t.stack k = s.stack k :=
  congrArg (fun v : (_ × _ × Tab StackState) × _ => tGet StackState.reset v.1.2.2 k) h
theorem released_of_bootView {s t : State} (h : bootView t = bootView s) : t.reset_.released = s.reset_.released :=
  congrArg (fun v : _ × List Island × _ => v.2.1) h

/-! ## The release order (R395, R398, Table 16.3) -/

/-- The package has the island. -/
def hasIsland : Island → Bool
  | .memSide k => decide (k < 12)
  | .port p => decide (p < 24)
  | _ => true
theorem resetRelease_eq (s : State) (i : Island) : exec (.resetRelease i) s = whenHere (hasIsland i) s (when_ (s.mayRelease i) s (s.release i)) := by
  cases i <;> rfl
theorem resetRelease_of {s : State} {i : Island} (hmay : s.mayRelease i = true) (hhere : hasIsland i = true := by rfl) :
    exec (.resetRelease i) s = .next (s.release i) := by
  rw [resetRelease_eq, hhere, hmay]
  rfl
theorem markReleased_held {s : State} {i : Island} (h : s.reset_.released.contains i = false) :
    (s.markReleased i).reset_.released = s.reset_.released ++ [i] := by
  change (if s.reset_.released.contains i then _ else _) = _
  rw [h, if_neg Bool.false_ne_true]
theorem markReleased_contains (s : State) (i : Island) : (s.markReleased i).reset_.released.contains i = true := by
  change (if s.reset_.released.contains i then s.reset_.released else s.reset_.released ++ [i]).contains i = true
  split
  · next h => exact h
  · exact List.contains_iff_mem.mpr (List.mem_append_right _ (List.mem_singleton_self i))

theorem startBundle_inReset (s : State) (q : RegionId) (b : Nat) (r : RegionId) : ((s.startBundle q b).region r).inReset = (s.region r).inReset := by
  unfold State.startBundle State.setBundle
  split
  · split
    · by_cases h : r = q
      · rw [h, region_setRegion_same]
      · rw [region_setRegion_other _ _ _ _ h]
    · rfl
  · rfl
theorem startBundles_inReset (s : State) (q r : RegionId) : ((s.startBundles q).region r).inReset = (s.region r).inReset :=
  foldl_keeps (fun t : State => (t.region r).inReset) _ _ _ fun t e => startBundle_inReset t e.1 e.2 r

section
variable {s : State}

theorem release_telemetry (h : s.mayRelease .telemetry = true) : ∃ t, exec (.resetRelease .telemetry) s = .next t ∧
    t.power.setpointMv = setpointOf 1100 ∧ t.reset_.released = s.reset_.released ++ [.telemetry] ∧ t.out = s.out ++ [.avs (setpointOf 1100)] := by
  refine ⟨_, resetRelease_of h, rfl, ?_, rfl⟩
  simp only [State.mayRelease, Bool.and_eq_true, Bool.not_eq_true'] at h
  exact markReleased_held h.2
theorem release_sceolink (h : s.mayRelease .sceolink = true) : ∃ t, exec (.resetRelease .sceolink) s = .next t ∧ t.reset_.bootStage = 0x04 ∧
    (t.link sclLink).mode = .training ∧ t.scl.widthTx = if s.reset_.strap.getLsbD 2 then 16 else 8 :=
  ⟨_, resetRelease_of h, rfl, congrArg LinkState.mode (link_setLink_same _ _ _), rfl⟩
theorem release_regionFabric {r : RegionId} (h : s.mayRelease (.regionFabric r) = true) :
    ∃ t, exec (.resetRelease (.regionFabric r)) s = .next t ∧ (t.region r).inReset = false := by
  refine ⟨_, resetRelease_of h, ?_⟩
  dsimp only [State.release]
  rw [region_of_bootView (settleBoot_bootView _), startBundles_inReset, region_setRegion_same]
theorem release_block {b : BlockId} (h : s.mayRelease (.block b) = true) : ∃ t, exec (.resetRelease (.block b)) s = .next t ∧ (t.block b).inReset = false := by
  have hloaded : ∀ x : BlockState, x.inReset = false → (((s.setBlock b x).loadBlock b).block b).inReset = false := by
    intro x hx
    rw [State.loadBlock, block_setBlock_same, block_setBlock_same]
    exact hx
  refine ⟨_, resetRelease_of h, ?_⟩
  dsimp only [State.release, State.releaseBlock]
  rw [block_of_bootView (settleBoot_bootView _)]
  split
  · rw [block_of_bootView (settleReset_bootView _ _)]
    exact hloaded _ rfl
  · exact hloaded _ rfl
theorem release_memSide {k : Nat} (h : s.mayRelease (.memSide k) = true) (hk : k < 12) : ∃ t, exec (.resetRelease (.memSide k)) s = .next t ∧
    (t.stack k).classMap = s.classMap ∧ t.reset_.released.contains (.memSide k) = true := by
  refine ⟨_, resetRelease_of h (decide_eq_true hk), ?_⟩
  dsimp only [State.release]
  generalize hset : State.markReleased (s.setStack k _) _ = t
  have hclass : (t.stack k).classMap = s.classMap := hset ▸ congrArg StackState.classMap (stack_setStack_same s k _)
  have hout : t.reset_.released.contains (.memSide k) = true := hset ▸ markReleased_contains _ _
  rw [stack_of_bootView (settleBoot_bootView _), released_of_bootView (settleBoot_bootView _)]
  split
  · have hheld := serveHeld_hubView (k := k) t k
    simp only [hubView, Prod.mk.injEq] at hheld
    obtain ⟨⟨hreset, _, _, hmap⟩, _⟩ := hheld
    exact ⟨hmap.trans hclass, hreset ▸ hout⟩
  · exact ⟨hclass, hout⟩
theorem release_port {p : Nat} (h : s.mayRelease (.port p) = true) (hp : p < 24) :
    ∃ t, exec (.resetRelease (.port p)) s = .next t ∧ (t.link p).cfg.enable = s.reset_.strap.getLsbD 0 := by
  have hactive : s.reset_.active = true := by
    simp only [State.mayRelease, Bool.and_eq_true] at h
    exact h.1.1
  refine ⟨_, resetRelease_of h (decide_eq_true hp), ?_⟩
  dsimp only [State.release]
  unfold State.settleBoot
  rw [if_pos (by exact hactive)]
  obtain ⟨_, _, hend⟩ := advance_eq 4 _
  rw [hend]
  exact congrArg (fun x : LinkState => x.cfg.enable) (link_setLink_same _ _ _)
end

/-! ## The steps of the boot -/

theorem regulatorAck_goesOn {s : State} (hactive : s.reset_.active = true) (hstage : s.reset_.bootStage = 0x02)
    (htelemetry : s.reset_.released.contains .telemetry = true) :
    exec (.regulatorAck true) s = .next { s with reset_ := { s.reset_ with bootStage := 0x03 } } ∧
      ∃ t, exec (.regulatorAck false) s = .next t ∧ t.reset_.bootStage = 0xE3 ∧ t.reset_.faultN = true := by
  have hwaits : (s.reset_.active && s.reset_.bootStage == 0x02#8 && s.reset_.released.contains .telemetry) = true := by
    rw [hactive, hstage, htelemetry]
    rfl
  simp only [exec, execRegulatorAck]
  exact ⟨when_of hwaits, _, when_of hwaits, rfl, rfl⟩

theorem putPart_part (s : State) (p : PartId) (x : Partition) : (s.putPart p x).part p = x := by
  unfold State.putPart
  dsimp only
  split <;> exact part_setPart_same _ _ _
theorem putPart_reset (s : State) (p : PartId) (x : Partition) : (s.putPart p x).reset_ = s.reset_ := by
  unfold State.putPart
  dsimp only
  split <;> rfl
/-- A domain that is switched off takes its blocks with it, and nothing of partitions, resets or Flapino. -/
theorem settleDomains_keeps (s : State) : (s.settleDomains.parts, s.settleDomains.reset_, s.settleDomains.fl) = (s.parts, s.reset_, s.fl) := by
  refine foldl_keeps (fun t : State => (t.parts, t.reset_, t.fl)) _ _ _ fun t d => ?_
  unfold State.settleDomain
  split
  · rfl
  · exact foldl_keeps (fun t : State => (t.parts, t.reset_, t.fl)) _ _ _ fun _ _ => rfl
theorem bootComplete_starts {s : State} (hactive : s.reset_.active = true) (hstage : s.reset_.bootStage = 0x0A) :
    ∃ t, exec .bootComplete s = .next t ∧ t.reset_.active = false ∧ t.reset_.rstoutN = true ∧ t.reset_.bootStage = 0x0B ∧ (t.part 0).mode = pCreated := by
  simp only [exec, execBootComplete]
  refine ⟨_, when_of (by rw [hactive, hstage]; rfl), ?_⟩
  generalize hput : State.putPart _ _ _ = t
  have hkeeps := settleDomains_keeps t
  simp only [Prod.mk.injEq] at hkeeps
  obtain ⟨hparts, hreset, _⟩ := hkeeps
  have hpart : t.settleDomains.part 0 = t.part 0 := congrArg (fun l => tGet Partition.reset l 0) hparts
  rw [hreset, hpart, ← hput, putPart_reset, putPart_part]
  exact ⟨rfl, rfl, rfl, rfl⟩

theorem bootImageVerify_judges {s : State} (image : Image) (hready : s.imageReady = true) : let recovery := !s.reset_.strap.getLsbD 1
    let slot := s.reset_.strap.getLsbD 3 && recovery
    exec (.bootImageVerify true image slot true) s =
      .next (if s.lc.imageOk slot image then s.bootImage image recovery else s.bootStop 0xE1) ∧
    exec (.bootImageVerify false image slot true) s = .next (s.bootStop 0xE0) ∧
    exec (.bootImageVerify true image slot false) s = .next (s.bootStop (if s.lc.imageOk slot image then 0xE2 else 0xE1)) := by
  intro recovery slot
  have hwaits : (s.imageReady && slot == (s.reset_.strap.getLsbD 3 && recovery)) = true := by rw [hready, Bool.true_and]; exact beq_self_eq_true slot
  simp only [exec, execBootImageVerify]
  rw [when_of hwaits, when_of hwaits, when_of hwaits]
  cases s.lc.imageOk slot image <;> exact ⟨rfl, rfl, rfl⟩

theorem releaseBlock_keeps (s : State) (b : BlockId) : ((s.releaseBlock b).power, (s.releaseBlock b).mem) = (s.power, s.mem) := by
  unfold State.releaseBlock
  dsimp only
  split
  · exact congrArg (fun v : _ × List Island × PowerState × Memory => v.2.2) (settleReset_bootView _ _)
  · rfl
theorem domainPowerOn_ramps {s : State} {d : Nat} (hd : d < 80) (hoff : s.power.domainsOff.getLsbD d = true) (hused : s.domainUsed d = true) :
    ∃ t, exec (.domainPowerOn d) s = .next t ∧ t.power.domainsOff = putBit s.power.domainsOff d false ∧ t.mem = s.mem := by
  simp only [exec, execDomainPowerOn]
  rw [decide_eq_true hd, whenHere_true]
  refine ⟨_, when_of (by rw [hoff, hused]; rfl), ?_⟩
  generalize hramp : ({ s with power := _ } : State) = s1
  have hkeeps : (fun t : State => (t.power, t.mem)) _ = (s1.power, s1.mem) := foldl_keeps (fun t : State => (t.power, t.mem))
    (fun t b => if t.blockOpen b then t.releaseBlock b else t) (s1.domainBlocks d) s1 fun t b => by
      split
      · exact releaseBlock_keeps t b
      · rfl
  simp only [Prod.mk.injEq] at hkeeps
  obtain ⟨hpower, hmem⟩ := hkeeps
  rw [hpower, hmem, ← hramp]
  exact ⟨rfl, rfl⟩

/-- Settles O50: the resets, then the releases, then the boot. The memory is empty from the reset's assertion on and the strap is kept (log 60), partition
0 exists from BOOT_COMPLETE only (log 26), a Preserve reset that turns into a wipe counts once (log 81), and a stopped boot is no reset in progress
(log 82). -/
theorem resetsAssertAndRelease : Obligations.ResetsAssertAndRelease := by
  unfold Obligations.ResetsAssertAndRelease
  refine ⟨fun s supply => ⟨porstNAssert_restarts supply, porstNAssert_absorbed supply, fun strap => porstNRelease_straps strap, sysrstNAssert_restarts,
      sysrstNAssert_wipes, thermalTrip_restarts s⟩, fun s i hmay => ⟨?_, ?_, ?_, ?_, ?_, ?_, ?_, ?_⟩,
    fun s hactive => ⟨regulatorAck_goesOn hactive, bootComplete_starts hactive⟩, fun s image => bootImageVerify_judges image,
    fun s d => domainPowerOn_ramps, fun s secret cert => jtagTestTransition_tests secret cert, fun s c hstage => ?_⟩
  · rintro (rfl | rfl | rfl)
    · exact resetRelease_of hmay
    · exact resetRelease_of hmay
    · exact resetRelease_of hmay
  · rintro rfl
    exact resetRelease_of hmay
  · rintro rfl
    exact release_telemetry hmay
  · rintro rfl
    exact release_sceolink hmay
  · rintro r rfl
    exact release_regionFabric hmay
  · rintro k rfl
    exact release_memSide hmay
  · rintro b rfl
    exact release_block hmay
  · rintro p rfl
    exact release_port hmay
  · simp only [exec, execMgtBlockRead]
    exact when_of (by simpa using hstage)

end Sys2Proof.Laws

namespace Sys2Proof.Laws

/-! SUPPORT for O47. The cut's own record and the fences of the blocks: no switch of an island without blocks and no flush of a link touches them
(`cutView`), and no fence ends another (`KeepsFences`). -/

open Sys2Proof.Machine

/-! ## What leaves the cut and the fences as they are -/

/-- The cut in progress, and which blocks are fenced. -/
def cutView (s : State) : Option Cut × (BlockId → Bool) := (s.fl.cut, fun b => (s.block b).fenced)

theorem cutView_of_bystanders {s t : State} (h : bystanders 0 t = bystanders 0 s) : cutView t = cutView s :=
  congrArg (fun v : ((ResetState × Flapino × List Instr × BitVec 432) × (PartId → BitVec 4 × BitVec 64 × List DraftCmd)) ×
    (BlockId → Bool × Bool × Option Group) => (v.1.1.2.1.cut, fun b => (v.2 b).1)) h
theorem setBlock_cutView {s : State} {b : BlockId} {x : BlockState} (h : x.fenced = (s.block b).fenced) : cutView (s.setBlock b x) = cutView s := by
  refine Prod.ext rfl (funext fun c => ?_)
  by_cases hc : c = b
  · simp only [cutView, hc, block_setBlock_same, h]
  · simp only [cutView, block_setBlock_other _ _ _ _ hc]
theorem cmdDone_cutView (s : State) (r : Running) (status reason flags : BitVec 8) (data : List Word) :
    cutView (s.cmdDone r status reason flags data) = cutView s := by
  obtain ⟨_, _, _, _, h⟩ := cmdDone_sentOver s r status reason flags data
  rw [h]
  rfl
theorem endBg_cutView (s : State) (p : PartId) (op : BitVec 16) {go : State → Running → State} (hgo : ∀ t r, cutView (go t r) = cutView t) :
    cutView (s.endBg p op go) = cutView s := by
  unfold State.endBg
  split
  · exact hgo _ _
  · rfl
theorem raiseAll_cutView (s : State) (ps : List PartId) (c : BitVec 16) (l : BitVec 3) (u : BitVec 24) (d : BitVec 88) :
    cutView (s.raiseAll ps c l u d) = cutView s := by
  obtain ⟨_, h⟩ := raiseAll_eq s ps c l u d
  rw [h]
  rfl

/-! ## What is lost with a link (R258) -/

theorem put_cutView (s : State) (a : Nat) (bs : List Byte) : cutView (s.put a bs) = cutView s := cutView_of_bystanders (put_bystanders s a bs)
theorem undefine_cutView (s : State) (a n : Nat) : cutView (s.undefine a n) = cutView s := cutView_of_bystanders (undefine_bystanders s a n)
theorem readRanges_cutView (s : State) (rs : List Range) : cutView (s.readRanges rs).1 = cutView s := cutView_of_bystanders (readRanges_bystanders s rs)
theorem failNorm_cutView (s : State) (job : BitVec 16) (step : BitVec 32) : cutView (s.failNorm job step) = cutView s :=
  cutView_of_bystanders (putNorm_bystanders s.free.2 job step (s.free.1.setWidth 32) 0x03)
theorem collFailed_cutView (s : State) (p : PartId) (idx : Nat) (step : BitVec 32) (planId : BitVec 16) (cause : Nat) :
    cutView (s.collFailed p idx step planId cause) = cutView s := rfl
theorem failScalar_cutView (s : State) (x : Scalar) : cutView (s.failScalar x) = cutView s := by
  unfold State.failScalar
  extract_lets s1
  split
  · exact (collFailed_cutView _ _ _ _ _ _).trans (failNorm_cutView s1 _ _)
  · exact collFailed_cutView s1 _ _ _ _ _
  · exact (cmdDone_cutView _ _ _ _ _ _).trans (collFailed_cutView s1 _ _ _ _ _)
  · rfl
theorem failCycle_cutView (s : State) (x : Permute) (cycle : BitVec 32) : cutView (s.failCycle x cycle).1 = cutView s := by
  refine foldl_keeps cutView _ (x.entries.filter fun e => e.1.cycle == cycle) s fun t e => ?_
  have hsrc : cutView (if e.1.srcDev = s.deviceId then t.undefine e.1.srcAddr.toNat e.1.length.toNat else t) = cutView t := by
    split
    · exact undefine_cutView _ _ _
    · rfl
  dsimp only
  split
  · exact (undefine_cutView _ _ _).trans hsrc
  · exact hsrc
theorem landEarly_cutView (s : State) (x : Permute) : cutView (s.landEarly x).1 = cutView s :=
  List.foldlRecOn (motive := fun t : State × Permute => cutView t.1 = cutView s) _ _ rfl fun t ht d _ => by
    dsimp only
    split
    · exact (put_cutView _ _ _).trans ht
    · exact ht
theorem startMove_cutView (s : State) (x : Permute) (e : PermEntry) : cutView (s.startMove x e).1 = cutView s := by
  unfold State.startMove
  extract_lets r
  have hread : cutView r.1 = cutView s := readRanges_cutView s _
  split
  · exact (failCycle_cutView _ _ _).trans hread
  · dsimp only
    split <;> exact hread
theorem storePermute_cutView (s : State) (x : Permute) : cutView (s.storePermute x) = cutView s := by
  unfold State.storePermute
  extract_lets rest ended t
  split
  · refine endBg_cutView t _ _ fun u c => ?_
    split <;> exact cmdDone_cutView _ _ _ _ _ _
  · rfl
theorem putPermute_cutView (s : State) (x : Permute) : cutView (s.putPermute x) = cutView s := by
  unfold State.putPermute
  extract_lets a r
  have hr : cutView r.1 = cutView a.1 :=
    List.foldlRecOn (motive := fun t : State × Permute => cutView t.1 = cutView a.1) _ _ rfl fun t ht e _ => (startMove_cutView t.1 t.2 e.1).trans ht
  exact (storePermute_cutView _ _).trans (hr.trans (landEarly_cutView _ _))
theorem noticeLoss_cutView (s : State) (i : InFlight) : cutView (s.noticeLoss i) = cutView s := by
  unfold State.noticeLoss
  extract_lets relay instance_ cycle
  have hrelay (num : BitVec 32) : cutView (relay num) = cutView s := by
    unfold relay
    split
    · exact cutView_of_bystanders (cancelRelay_bystanders s _)
    · rfl
  have hinstance (planId : BitVec 16) (step : BitVec 32) : cutView (instance_ planId step) = cutView s := by
    unfold instance_
    split
    · exact cutView_of_bystanders (failInstance_bystanders s _ _ _)
    · rfl
  have hcycle (c : BitVec 32) : cutView (cycle c) = cutView s := by
    unfold cycle
    split
    · exact (putPermute_cutView _ _).trans (failCycle_cutView s _ c)
    · rfl
  split
  · exact hrelay _
  · split
    · exact hrelay _
    · rfl
  · exact hinstance _ _
  · exact hinstance _ _
  · exact hinstance _ _
  · split
    · exact failScalar_cutView _ _
    · rfl
  · exact hcycle _
  · exact hcycle _
  · rfl
theorem flushLink_cutView (s : State) (l : LinkId) : cutView (s.flushLink l) = cutView s := by
  unfold State.flushLink
  dsimp only
  split
  · exact raiseAll_cutView _ _ _ _ _ _
  · exact (foldl_keeps cutView _ _ _ noticeLoss_cutView).trans (raiseAll_cutView _ _ _ _ _ _)

/-! ## Banks switched (Table 13.15, order 4) -/

theorem askWidth_cutView (s : State) (l : LinkId) (mask : BitVec 8) (cause : BitVec 4) : cutView (s.askWidth l mask cause) = cutView s := by
  unfold State.askWidth
  dsimp only
  split <;> rfl
theorem wantWidth_cutView (s : State) (l : LinkId) : cutView (s.wantWidth l) = cutView s := by
  unfold State.wantWidth
  dsimp only
  split
  · rfl
  · split
    · exact askWidth_cutView _ _ _ _
    · split
      · exact askWidth_cutView _ _ _ _
      · rfl
theorem portSet_cutView (s : State) (c : LinkConfigP) (l : LinkId) : cutView (s.portSet c l) = cutView s := by
  unfold State.portSet
  split
  · rfl
  · extract_lets cfg s1 y
    have h1 : cutView s1 = cutView s := by
      unfold s1
      split
      · exact flushLink_cutView s l
      · rfl
    split
    · exact h1
    · exact (wantWidth_cutView _ _).trans h1
theorem updSet_cutView (r : RegionId) (c : DraftCmd) (s : State) : cutView (updSet r c s) = cutView s := by
  unfold updSet
  dsimp only
  split
  · split <;> rfl
  · split <;> rfl
  · split <;> rfl
  · split <;> rfl
  · rfl
theorem telemetrySet_cutView (c : DraftCmd) (s : State) : cutView (telemetrySet c s) = cutView s := by
  unfold telemetrySet
  split <;> rfl
theorem putPart_cutView (s : State) (p : PartId) (x : Partition) : cutView (s.putPart p x) = cutView s := by
  unfold State.putPart
  dsimp only
  split <;> rfl
theorem idleQuads_cutView (s : State) (mask : BitVec 64) : cutView (s.idleQuads mask) = cutView s :=
  foldl_keeps cutView _ _ _ fun _ _ => setBlock_cutView rfl
theorem settlePages_cutView (s : State) (p : PartId) : cutView (s.settlePages p) = cutView s := by
  unfold State.settlePages
  split
  · rfl
  · next bt _ =>
    extract_lets s1
    have h1 : cutView s1 = cutView s := foldl_keeps cutView _ _ _ fun t i => by
      dsimp only
      split <;> rfl
    split <;> exact h1
theorem hubSet_cutView (c : DraftCmd) (s : State) : cutView (hubSet c s) = cutView s := by
  unfold hubSet
  split
  case h_1 => exact (idleQuads_cutView _ _).trans (putPart_cutView s _ _)
  case h_2 => exact (idleQuads_cutView _ _).trans (putPart_cutView s _ _)
  case h_3 => exact idleQuads_cutView _ _
  case h_20 => exact settlePages_cutView _ _
  all_goals rfl
theorem syncJobs_cutView (s : State) : cutView s.syncJobs = cutView s := by
  refine foldl_keeps cutView _ _ _ fun t b => ?_
  dsimp only
  split
  · rfl
  · exact setBlock_cutView rfl
theorem hubSwitch_cutView (s : State) (cs : List DraftCmd) (e : Epoch) : cutView (s.hubSwitch cs e) = cutView s := by
  unfold State.hubSwitch
  extract_lets s1 s2
  have h1 : cutView s1 = cutView s := foldl_keeps cutView _ _ _ fun t c => hubSet_cutView c t
  have h2 : cutView s2 = cutView s1 := foldl_keeps cutView _ _ _ fun t p => by
    split <;> rfl
  exact (syncJobs_cutView _).trans (h2.trans h1)
theorem measureFw_cutView (s : State) (cs : List DraftCmd) : cutView (s.measureFw cs) = cutView s := by
  unfold State.measureFw
  split <;> rfl
/-- An island other than a block that switches its bank. -/
theorem switchBank_cutView (s : State) (cs : List DraftCmd) (e : Epoch) {i : Island} (hi : ∀ b, i ≠ .block b) : cutView (s.switchBank cs e i) = cutView s := by
  cases i with
  | block b => exact absurd rfl (hi b)
  | memSide k =>
    dsimp only [State.switchBank]
    split
    · exact foldl_keeps cutView _ _ _ fun t c => updSet_cutView _ c t
    · rfl
  | port p =>
    refine foldl_keeps cutView _ _ _ fun t c => ?_
    split
    · exact portSet_cutView t _ p
    · rfl
  | sceolink =>
    refine foldl_keeps cutView _ _ _ fun t c => ?_
    split <;> rfl
  | hubCrossbar => exact (measureFw_cutView _ _).trans (hubSwitch_cutView s cs e)
  | telemetry => exact foldl_keeps cutView _ _ _ fun t c => telemetrySet_cutView c t
  | _ => rfl
theorem switchIdle_cutView (s : State) (cs : List DraftCmd) (e : Epoch) : cutView (s.switchIdle cs e) = cutView s :=
  List.foldlRecOn (motive := fun t => cutView t = cutView s) _ _ rfl fun t ht i hi =>
    (switchBank_cutView t cs e fun b h => by simp [h] at hi).trans ht

end Sys2Proof.Laws

namespace Sys2Proof.Laws

/-! SUPPORT for O47. The order of CINCHes, the cut from its prepare to its end, and the fences of a cut that times out. -/

open Sys2Proof.Machine

/-! ## CINCH and CUT_START (R340) -/

section
variable {s go : State} {r : Running}

theorem tryCinch_stale (hstale : staleHdr r.hdr.epoch (s.part r.part).epoch = true) : s.tryCinch r go = s.cmdDone r cdStale 0 0 [] := if_pos hstale
variable (hfresh : staleHdr r.hdr.epoch (s.part r.part).epoch = false)
include hfresh
theorem tryCinch_rejected (hks : s.conflicts (s.part r.part).draft ≠ []) : s.tryCinch r go =
    s.cmdDone r cdRejected rsDraftCheck 0 (byteWords ((s.conflicts (s.part r.part).draft).flatMap conflictBytes)) := by
  unfold State.tryCinch
  dsimp only
  rw [hfresh, if_neg Bool.false_ne_true]
  split
  · next hnone => exact absurd hnone hks
  · rfl
theorem tryCinch_accepts (hks : s.conflicts (s.part r.part).draft = []) : s.tryCinch r go = if (s.part r.part).draft.isEmpty then s.ok r else go := by
  unfold State.tryCinch
  dsimp only
  rw [hfresh, if_neg Bool.false_ne_true, hks]
end

/-- The CINCH in progress goes behind those that wait. -/
def cinchWaiting (s : State) (r : Running) : State :=
  { s with fl := { s.fl with current := none, waitingCinch := s.fl.waitingCinch ++ [⟨r.part, r.hdr, r.seq⟩] } }
theorem cinch_next {s : State} {r : Running} (hcurrent : s.fl.current = some r) (hop : r.hdr.opcode = 0x0502) :
    exec .cinch s = .next (if s.cinchWaits then cinchWaiting s r else s.taken.tryCinch r (cinchWaiting s r)) := by
  simp only [exec, execCinch, hcurrent, hop]
  rfl

/-- The cut waits for the islands that prepare. -/
theorem sendCut_waits {s : State} {c : Cut} (h : c.prepared ≠ []) : s.sendCut c = s.putCut c :=
  if_neg fun hnone => h (List.isEmpty_iff.mp (Bool.and_eq_true_iff.mp hnone).1)
/-- The last PREPARED fixes the new epoch, and every running island must switch. -/
theorem sendCut_cuts {s : State} {c : Cut} (h : c.prepared = []) (hsent : c.cutSent = false) : (s.sendCut c).fl.cut =
    some { c with newEpoch := s.epoch + 1, cutSent := true, unswitched := s.runningIslands, unacked := s.runningIslands } := by
  rw [State.sendCut, if_pos (by rw [h, hsent]; rfl)]
  exact congrArg Prod.fst (switchIdle_cutView _ _ _)
theorem cutStart_prepares {s : State} {w : WaitingCinch} {rest : List WaitingCinch} (hwaits : s.fl.waitingCinch = w :: rest) (hcut : s.fl.cut = none)
    (hfw : s.fl.fw = .idle) (hup : s.flapinoUp = true) (hfresh : staleHdr w.hdr.epoch (s.part w.part).epoch = false)
    (hks : ({ s with fl := { s.fl with waitingCinch := rest } } : State).conflicts (s.part w.part).draft = []) (hdraft : (s.part w.part).draft ≠ [])
    (hislands : s.preparing (s.part w.part).draft ≠ []) :
    exec .cutStart s = .next { s with fl := { s.fl with
      waitingCinch := rest, cut := some ⟨w.part, w.hdr, w.seq, 0, s.preparing (s.part w.part).draft, false, [], [], []⟩ } } := by
  have hready : (s.fl.cut.isNone && decide (s.fl.fw = .idle) && s.flapinoUp) = true := by rw [hcut, hup, decide_eq_true hfw]; rfl
  simp only [exec, execCutStart, hwaits]
  rw [when_of hready]
  rw [tryCinch_accepts (by exact hfresh) (by exact hks), if_neg (by exact fun h => hdraft (List.isEmpty_iff.mp h)), State.startCut,
    sendCut_waits (by exact hislands)]
  rfl

/-! ## Island by island (R341) -/

theorem putCut_cut (s : State) (c : Cut) : (s.putCut c).fl.cut = some c := rfl
/-- Whether or not the island has still to switch, it is not to switch after. -/
theorem switchIsland_cut (s : State) (c : Cut) (i : Island) :
    (s.switchIsland c i).fl.cut = some { c with unswitched := c.unswitched.filter fun j => j != i } := by
  unfold State.switchIsland
  split
  · exact putCut_cut _ _
  · next hdone =>
    have hsame : c.unswitched.filter (fun j => j != i) = c.unswitched :=
      List.filter_eq_self.mpr fun j hj => bne_iff_ne.mpr fun h => hdone (List.contains_iff_mem.mpr (h ▸ hj))
    rw [hsame]
    exact putCut_cut _ _
theorem switchIsland_of_unswitched {s : State} {c : Cut} {i : Island} (h : c.unswitched.contains i = true) : s.switchIsland c i =
    (s.switchBank (s.cutDraft c) c.newEpoch i).putCut { c with unswitched := c.unswitched.filter fun j => j != i } := if_pos h
theorem syncJobs_epoch (s : State) : s.syncJobs.epoch = s.epoch := by
  refine foldl_keeps State.epoch _ _ _ fun t b => ?_
  dsimp only
  split <;> rfl
theorem hubSwitch_epoch (s : State) (cs : List DraftCmd) (e : Epoch) : (s.hubSwitch cs e).epoch = e := by
  unfold State.hubSwitch
  exact syncJobs_epoch _
theorem measureFw_epoch (s : State) (cs : List DraftCmd) : (s.measureFw cs).epoch = s.epoch := by
  unfold State.measureFw
  split <;> rfl
theorem settleDomains_fl (s : State) : s.settleDomains.fl = s.fl := (Prod.mk.inj (Prod.mk.inj (settleDomains_keeps s)).2).2
theorem settleDomains_part (s : State) (p : PartId) : s.settleDomains.part p = s.part p := by
  rw [State.part, (Prod.mk.inj (settleDomains_keeps s)).1, State.part]
theorem endCut_ends (t : State) (c : Cut) (flags : BitVec 8) : (t.endCut c flags).fl.cut = none ∧ ((t.endCut c flags).part c.part).draft = [] := by
  unfold State.endCut
  dsimp only
  generalize hempty : State.setPart _ c.part _ = u
  obtain ⟨rs, hsent⟩ := cmdDone_sentOver u ⟨c.part, c.hdr, c.seq⟩ cdOk 0 flags []
  constructor
  · rw [settleDomains_fl, cmdDone_fl, ← hempty]
    rfl
  · rw [settleDomains_part, hsent.part, part_setPart_same, ← hempty]
    exact congrArg Partition.draft (part_setPart_same _ _ _)

section
variable {s : State} {c : Cut} (hcut : s.fl.cut = some c)
include hcut

theorem prepared_waits {i : Island} (hi : c.prepared.contains i = true) (hmore : c.prepared.filter (fun j => j != i) ≠ []) :
    exec (.prepared i) s = .next (s.putCut { c with prepared := c.prepared.filter fun j => j != i }) := by
  simp only [exec, execPrepared, hcut]
  rw [when_of hi, sendCut_waits (by exact hmore)]
theorem prepared_cuts {i : Island} (hi : c.prepared.contains i = true) (hsent : c.cutSent = false)
    (hlast : c.prepared.filter (fun j => j != i) = []) : ∃ t, exec (.prepared i) s = .next t ∧ t.fl.cut =
      some { c with prepared := [], newEpoch := s.epoch + 1, cutSent := true, unswitched := s.runningIslands, unacked := s.runningIslands } := by
  simp only [exec, execPrepared, hcut]
  rw [when_of hi, hlast]
  exact ⟨_, rfl, sendCut_cuts rfl hsent⟩

theorem cutReceived_switches {i : Island} (hsent : c.cutSent = true) (hi : c.unswitched.contains i = true) :
    ∃ t, exec (.cutReceived i) s = .next t ∧ t.fl.cut = some { c with unswitched := c.unswitched.filter fun j => j != i } ∧
      (i = .hubCrossbar → t.epoch = c.newEpoch) ∧ (∀ b, i = .block b → (t.block b).epoch = c.newEpoch ∧ t.epoch = s.epoch) := by
  simp only [exec, execCutReceived, hcut]
  refine ⟨_, when_of (by rw [hsent, hi]; rfl), switchIsland_cut s c i, ?_, ?_⟩
  all_goals rw [switchIsland_of_unswitched hi]
  · rintro rfl
    exact (measureFw_epoch (s.hubSwitch _ _) _).trans (hubSwitch_epoch s _ _)
  · rintro b rfl
    exact ⟨congrArg BlockState.epoch (block_setBlock_same s b _), rfl⟩
theorem markerReceived_switches {i source : Island} (hsent : c.cutSent = true) (hi : c.unacked.contains i = true)
    (hsource : c.unswitched.contains source = false) (hnew : c.markers.contains (i, source) = false) :
    ∃ t, exec (.markerReceived i source) s = .next t ∧ t.fl.cut = some { c with
        markers := c.markers ++ [(i, source)], unswitched := c.unswitched.filter fun j => j != i } := by
  simp only [exec, execMarkerReceived, hcut]
  exact ⟨_, when_of (by rw [hsent, hi, hsource, hnew]; rfl), switchIsland_cut s { c with markers := c.markers ++ [(i, source)] } i⟩
theorem cutAck_waits {i : Island} (hsent : c.cutSent = true) (hi : c.unacked.contains i = true) (hdone : c.unswitched.contains i = false)
    (hmore : c.unacked.filter (fun j => j != i) ≠ []) :
    exec (.cutAck i) s = .next (s.putCut { c with unacked := c.unacked.filter fun j => j != i }) := by
  simp only [exec, execCutAck, hcut]
  rw [when_of (by rw [hsent, hi, hdone]; rfl), if_neg (by simpa using hmore)]
theorem cutAck_ends {i : Island} (hsent : c.cutSent = true) (hi : c.unacked.contains i = true) (hdone : c.unswitched.contains i = false)
    (hlast : c.unacked.filter (fun j => j != i) = []) : ∃ t, exec (.cutAck i) s = .next t ∧ t.fl.cut = none ∧ (t.part c.part).draft = [] := by
  simp only [exec, execCutAck, hcut]
  rw [when_of (by rw [hsent, hi, hdone]; rfl), hlast]
  exact ⟨_, congrArg _ (if_pos rfl), endCut_ends s { c with unacked := [] } 0⟩
end

/-! ## An island that does not acknowledge (R343) -/

/-- No block that is fenced in s is free in t. -/
def KeepsFences (s t : State) : Prop := ∀ b, (s.block b).fenced = true → (t.block b).fenced = true

theorem KeepsFences.trans {s t u : State} (h : KeepsFences s t) (g : KeepsFences t u) : KeepsFences s u := fun b hb => g b (h b hb)
theorem KeepsFences.of_cutView {s t : State} (h : cutView t = cutView s) : KeepsFences s t := fun b hb => (congrFun (congrArg Prod.snd h) b).trans hb
theorem KeepsFences.foldl {α : Type} {f : State → α → State} (h : ∀ t a, KeepsFences t (f t a)) (l : List α) (s : State) :
    KeepsFences s (l.foldl f s) :=
  List.foldlRecOn (motive := KeepsFences s) l f (fun _ hb => hb) fun t ht a _ => ht.trans (h t a)
theorem KeepsFences.setBlock {s : State} {b : BlockId} {x : BlockState} (h : (s.block b).fenced = true → x.fenced = true) :
    KeepsFences s (s.setBlock b x) := fun c hc => by
  by_cases hcb : c = b
  · subst hcb
    rw [block_setBlock_same]
    exact h hc
  · rwa [block_setBlock_other _ _ _ _ hcb]

theorem fenceCore_keepsFences (s : State) (b : BlockId) (swap : Bool) : KeepsFences s (s.fenceCore b swap) := fun c hc => by
  by_cases hcb : c = b
  · subst hcb
    rwa [fenceCore_of_fenced s c swap hc]
  · rwa [fenceCore_block_other s b c swap hcb]
theorem raise_keepsFences (s : State) (p : PartId) (c : BitVec 16) (l : BitVec 3) (u : BitVec 24) (d : BitVec 88) : KeepsFences s (s.raise p c l u d) :=
  fun _ hb => hb
theorem stateLost_keepsFences (s : State) (b : BlockId) : KeepsFences s (s.stateLost b) := fun c hc => by rwa [stateLost_block]
theorem fenceQuad_keepsFences (s : State) (r : RegionId) (q : Nat) : KeepsFences s (s.fenceQuad r q) := by
  unfold State.fenceQuad
  split
  · exact fun _ hb => hb
  · extract_lets s1 b x
    have h1 : KeepsFences s s1 := .foldl (fun t b =>
      (fenceCore_keepsFences t b false).trans (.setBlock (s := t.fenceCore b false) (x := { (t.fenceCore b false).block b with swapping := false }) fun hb => hb)) _ _
    have hset : KeepsFences s1 (s1.setRegion r { x with fencedQuads := putBit x.fencedQuads q true }) := fun _ hb => hb
    exact (h1.trans hset).trans ((raise_keepsFences _ _ _ _ _ _).trans (stateLost_keepsFences _ b))
theorem swapEnded_cutView (s : State) (b : BlockId) (spare : Nat) : cutView (s.swapEnded b spare) = cutView s := by
  unfold State.swapEnded
  extract_lets f s1
  have h1 : cutView s1 = cutView s := by
    unfold s1
    split
    · refine endBg_cutView _ _ _ fun t r => ?_
      split <;> exact cmdDone_cutView _ _ _ _ _ _
    · rfl
  split
  · exact h1
  · split <;> exact h1
theorem nextSpare_keepsFences (r : RegionId) (n : Nat) (s : State) : KeepsFences s (State.nextSpare r n s) := by
  induction n generalizing s with
  | zero => exact fun _ hb => hb
  | succ n ih =>
    unfold State.nextSpare
    extract_lets x
    split
    · exact fun _ hb => hb
    · split
      · exact fun _ hb => hb
      · split
        · exact fun _ hb => hb
        · exact (fenceQuad_keepsFences s r _).trans (.trans (.of_cutView (swapEnded_cutView _ _ _)) (ih _))
theorem fenceBlock_keepsFences (s : State) (b : BlockId) : KeepsFences s (s.fenceBlock b) := by
  unfold State.fenceBlock
  split
  · exact fun _ hb => hb
  · exact (fenceCore_keepsFences s b true).trans (nextSpare_keepsFences _ _ _)
/-- The block itself is fenced. -/
theorem fenceBlock_fences (s : State) (b : BlockId) : ((s.fenceBlock b).block b).fenced = true := by
  unfold State.fenceBlock
  split
  · next h => exact h
  · next h => exact nextSpare_keepsFences _ _ _ b (fenceCore_block_same s b true (Bool.eq_false_iff.mpr h)).1
theorem fenceRegion_keepsFences (s : State) (r : RegionId) : KeepsFences s (s.fenceRegion r) := by
  unfold State.fenceRegion
  split
  · exact fun _ hb => hb
  · extract_lets others x s1 s2
    have h1 : KeepsFences s s1 := .of_cutView (cutView_of_bystanders (interruptUpdate_bystanders s r .fence))
    have h2 : KeepsFences s1 s2 := .foldl (fun t q => fenceQuad_keepsFences t r q) _ _
    exact (h1.trans h2).trans (.foldl (fun t p => raise_keepsFences t p _ _ _ _) _ _)

theorem unitFails_fences (s : State) (bit unit : Nat) (b : BlockId) : ((s.unitFails bit unit).block b).fenced = (s.block b).fenced :=
  congrFun (congrArg Prod.snd (raiseAll_cutView _ _ _ _ _ _)) b
theorem unitDegraded_cutView (s : State) (bit unit : Nat) : cutView (s.unitDegraded bit unit) = cutView s :=
  (raiseAll_cutView (s.setFault bit) _ _ _ _ _).trans rfl
theorem failed_blocks (s : State) (r : Running) (reason : BitVec 8) : (s.failed r reason).blocks = s.blocks :=
  congrArg (fun v : (_ × Tab BlockState × _) × _ => v.1.2.1) (cmdDone_bootView s r cdFailed reason 0 [])
theorem dropCurrent_blocks (s : State) : s.dropCurrent.blocks = s.blocks := by
  unfold State.dropCurrent
  split
  · exact failed_blocks _ _ _
  · rfl
theorem takeOver_blocks (s : State) : s.takeOver.blocks = s.blocks := by
  unfold State.takeOver
  dsimp only
  generalize hactive : ({ s with fl := _ } : State) = s1
  obtain ⟨_, h⟩ := raiseAll_eq ((s1.dropCurrent.setFault 6).setFault 7) s.parts_ evControlFailover 3 (unitHub 0x02 0)
    (det 168 (if s.fl.activePair then 0 else 1))
  rw [h]
  exact (dropCurrent_blocks s1).trans (hactive ▸ rfl)
theorem controlStops_blocks (s : State) : s.controlStops.blocks = s.blocks := rfl
theorem controlFails_blocks (s : State) : s.controlFails.blocks = s.blocks := by
  unfold State.controlFails
  split
  · split
    · exact (failed_blocks _ _ _).trans (dropCurrent_blocks s)
    · rfl
  · dsimp only
    split
    · exact (takeOver_blocks _).trans (failed_blocks _ _ _)
    · exact (controlStops_blocks _).trans (failed_blocks _ _ _)
  · split
    · exact takeOver_blocks s
    · rfl
theorem fenceIsland_keepsFences (s : State) (i : Island) : KeepsFences s (s.fenceIsland i) := by
  cases i with
  | block b => exact fenceBlock_keepsFences s b
  | regionFabric r => exact fenceRegion_keepsFences s r
  | memSide k => exact fenceRegion_keepsFences s _
  | port p => exact .of_cutView (flushLink_cutView s p)
  | sceolink => exact .of_cutView (flushLink_cutView s sclLink)
  | hubCrossbar | collector | alwaysOn => exact fun b hb => (unitFails_fences s _ _ b).trans hb
  | security => exact .of_cutView (unitDegraded_cutView { s with lc := { s.lc with securityFault := true } } 5 0x03)
  | telemetry =>
    unfold State.fenceIsland State.telemetryDegraded
    exact .of_cutView (unitDegraded_cutView _ _ _)
  | control => exact fun b hb => by rwa [State.fenceIsland, State.block, controlFails_blocks]
  | spare r k => exact fun _ hb => hb
theorem cinchFence_keepsFences (s : State) (e : Epoch) (i : Island) : KeepsFences s (s.cinchFence e i) := by
  unfold State.cinchFence
  exact .trans (.of_cutView (raiseAll_cutView _ _ _ _ _ _)) (fenceIsland_keepsFences _ i)
theorem cinchFence_fences (s : State) (e : Epoch) (b : BlockId) : ((s.cinchFence e (.block b)).block b).fenced = true := fenceBlock_fences _ b

theorem tFind_tDel_other {α : Type} (t : Tab α) {i j : Nat} (h : j ≠ i) : tFind (tDel t i) j = tFind t j := by
  induction t with
  | nil => rfl
  | cons e t ih =>
    obtain ⟨k, v⟩ := e
    by_cases hk : k = i
    · rw [tDel, if_pos hk, tFind, if_neg fun hj => h (hj.symm.trans hk)]
    · rw [tDel, if_neg hk, tFind, tFind, ih]
theorem blockOff_keepsFences (s : State) (b : BlockId) : KeepsFences s (s.blockOff b) := fun c hc => by
  unfold State.blockOff
  extract_lets x y z
  change (tGet BlockState.reset (if z = BlockState.reset then tDel s.blocks b.idx else tSet s.blocks b.idx z) c.idx).fenced = true
  by_cases hcb : c = b
  · subst hcb
    have hz : z.fenced = true := hc
    rw [if_neg fun h => by rw [h] at hz; exact absurd hz (by decide), tGet_tSet_same]
    exact hz
  · have hidx : c.idx ≠ b.idx := fun h => hcb (blockId_ext _ _ h)
    split
    · rw [tGet, tFind_tDel_other _ hidx]
      exact hc
    · rw [tGet_tSet_other _ _ _ _ _ hidx]
      exact hc
theorem settleDomains_keepsFences (s : State) : KeepsFences s s.settleDomains := by
  refine .foldl (fun t d => ?_) _ _
  unfold State.settleDomain
  split
  · exact fun _ hb => hb
  · dsimp only
    refine KeepsFences.trans ?_ (.foldl (fun t b => blockOff_keepsFences t b) _ _)
    exact fun _ hb => hb
theorem cmdDone_keepsFences (s : State) (r : Running) (status reason flags : BitVec 8) (data : List Word) :
    KeepsFences s (s.cmdDone r status reason flags data) := .of_cutView (cmdDone_cutView s r status reason flags data)
theorem endCut_keepsFences (s : State) (c : Cut) (flags : BitVec 8) : KeepsFences s (s.endCut c flags) := by
  unfold State.endCut
  dsimp only
  refine KeepsFences.trans ?_ ((cmdDone_keepsFences _ _ _ _ _ _).trans (settleDomains_keepsFences _))
  exact fun _ hb => hb

theorem cutTimeout_fences {s : State} {c : Cut} (hcut : s.fl.cut = some c) (hsent : c.cutSent = true) (hmissing : c.unacked ≠ []) :
    ∃ t, exec .cutTimeout s = .next t ∧ t.fl.cut = none ∧ (t.part c.part).draft = [] ∧
      (∀ b, c.unacked.contains (.block b) = true → (t.block b).fenced = true) := by
  simp only [exec, execCutTimeout, hcut]
  refine ⟨_, when_of (by rw [hsent, List.isEmpty_eq_false_iff.mpr hmissing]; rfl), ?_⟩
  generalize hswitched : List.foldl _ s _ = s1
  obtain ⟨hnone, hdraft⟩ := endCut_ends (c.unacked.foldl (fun t i => t.cinchFence c.newEpoch i) s1) c flFenced
  refine ⟨hnone, hdraft, fun b hb => ?_⟩
  obtain ⟨l₁, l₂, hl⟩ := List.append_of_mem (List.contains_iff_mem.mp hb)
  refine endCut_keepsFences _ c flFenced b ?_
  rw [hl, List.foldl_append, List.foldl_cons]
  exact KeepsFences.foldl (fun t i => cinchFence_keepsFences t c.newEpoch i) l₂ _ b (cinchFence_fences _ _ b)

/-- Settles O47: the order of CINCHes, the cut's start, then island by island to its end or its timeout. The device epoch moves at the hub crossbar's
switch (log 17), and a CINCH that is refused returns the list of conflicts (log 75), which names objects by their number in their family (log 15). -/
theorem cinchSwitchesEveryIsland : Obligations.CinchSwitchesEveryIsland := by
  unfold Obligations.CinchSwitchesEveryIsland
  refine ⟨fun s r hcurrent hop => ?_, fun s w rest => cutStart_prepares, fun s c hcut => ⟨fun i hi hsent => ⟨prepared_waits hcut hi, prepared_cuts hcut hi hsent⟩,
    fun i hsent hi => cutReceived_switches hcut hsent hi, fun i source hsent hi hsource hnew => markerReceived_switches hcut hsent hi hsource hnew,
    fun i hsent hi hdone => ⟨cutAck_waits hcut hsent hi hdone, cutAck_ends hcut hsent hi hdone⟩, cutTimeout_fences hcut⟩⟩
  intro ks wait
  rw [cinch_next hcurrent hop]
  refine ⟨fun hwaits => congrArg _ (if_pos hwaits), fun hfree hstale => ?_, fun hfree hfresh => ⟨fun hks => ?_, fun hks hdraft => ?_, fun hks hdraft => ?_⟩⟩
  all_goals rw [hfree, if_neg Bool.false_ne_true]
  · rw [tryCinch_stale (by exact hstale)]
  · rw [tryCinch_rejected (by exact hfresh) (by exact hks)]
    rfl
  · rw [tryCinch_accepts (by exact hfresh) (by exact hks), if_pos (by exact List.isEmpty_iff.mpr hdraft)]
  · rw [tryCinch_accepts (by exact hfresh) (by exact hks), if_neg (by exact fun h => hdraft (List.isEmpty_iff.mp h))]
    rfl

end Sys2Proof.Laws

namespace Sys2Proof.Laws

/-! SUPPORT for O48. Programs that start, resume, drain and are aborted: each command acts on a partition's blocks one by one (`foldl_block`), and
its answer leaves blocks, Flapino and the partition's state alone. -/

open Sys2Proof.Machine

/-! ## Folds over blocks, and what an answer keeps -/

/-- Where one element of the list brings `P` about from `I`, and every step keeps both, the fold has `P`. -/
theorem foldl_reaches {σ α : Type} {f : σ → α → σ} (I P : σ → Prop) {b : α} (hkeepsI : ∀ t a, I t → I (f t a)) (hset : ∀ t, I t → P (f t b))
    (hkeepsP : ∀ t a, I t → P t → P (f t a)) {l : List α} (hb : b ∈ l) {s : σ} (hs : I s) : P (l.foldl f s) := by
  obtain ⟨l₁, l₂, rfl⟩ := List.append_of_mem hb
  have h₁ : I (l₁.foldl f s) := List.foldlRecOn (motive := I) l₁ f hs fun t ht a _ => hkeepsI t a ht
  rw [List.foldl_append, List.foldl_cons]
  exact (List.foldlRecOn (motive := fun t => I t ∧ P t) l₂ f ⟨hkeepsI _ b h₁, hset _ h₁⟩
    fun t ht a _ => ⟨hkeepsI t a ht.1, hkeepsP t a ht.1 ht.2⟩).2

theorem cmdDone_block (s : State) (r : Running) (status reason flags : BitVec 8) (data : List Word) (b : BlockId) :
    (s.cmdDone r status reason flags data).block b = s.block b := block_of_bootView (cmdDone_bootView s r status reason flags data) b
theorem ok_block (s : State) (r : Running) (b : BlockId) : (s.ok r).block b = s.block b := cmdDone_block s r _ _ _ _ b
theorem cmdDone_mode (s : State) (r : Running) (status reason flags : BitVec 8) (data : List Word) :
    ((s.cmdDone r status reason flags data).part r.part).mode = (s.part r.part).mode := by
  obtain ⟨_, h⟩ := cmdDone_part s r status reason flags data
  rw [h]
theorem ok_mode (s : State) (r : Running) : ((s.ok r).part r.part).mode = (s.part r.part).mode := cmdDone_mode s r _ _ _ _
theorem setPartMode_mode (s : State) (p : PartId) (m : BitVec 4) : ((s.setPartMode p m).part p).mode = m := congrArg Partition.mode (part_setPart_same s p _)
theorem mem_partBlocks {s : State} {p : PartId} {b : BlockId} : b ∈ s.partBlocks p ↔ s.partHas p b = true := by
  rw [State.partBlocks, List.mem_filter, and_iff_right (mem_allBlocks b)]
theorem partBlocks_nodup (s : State) (p : PartId) : (s.partBlocks p).Nodup := allBlocks_nodup.filter _

/-! ## PROGRAM_START (R354) -/

theorem tFind_eq_none {α : Type} {t : Tab α} {i : Nat} (h : ∀ e ∈ t, e.1 ≠ i) : tFind t i = none := by
  induction t with
  | nil => rfl
  | cons e t ih =>
    rw [tFind, if_neg (h e List.mem_cons_self)]
    exact ih fun d hd => h d (List.mem_cons_of_mem e hd)
/-- A start keeps s1. -/
theorem startRegs_s1 (old : Tab Word) (vals : List Word) : tFind (startRegs old vals) 1 = tFind old 1 := by
  unfold startRegs
  split
  · next v hv => rw [List.singleton_append, tFind, if_pos rfl, hv]
  · next hnone =>
    rw [List.nil_append, hnone]
    exact tFind_eq_none fun e he => by
      obtain ⟨_, _, rfl⟩ := List.mem_map.mp he
      dsimp only
      omega
/-- A second start with the same payload leaves the registers of the first. -/
theorem startRegs_again (old : Tab Word) (vals : List Word) : startRegs (startRegs old vals) vals = startRegs old vals := by
  conv_lhs => rw [startRegs, startRegs_s1]
  rfl

/-- A block that has started. -/
def Started (pc : Addr) (regs : Tab Word) (x : BlockState) : Prop := x.pc = pc ∧ x.running = true ∧ x.core = .openState ∧ x.regs = regs

section
variable {s : State} {pc : Addr} {vals : List Word} {b : BlockId}

theorem startBlock_starts (h : (s.block b).fenced = false) : Started pc (startRegs (s.block b).regs vals) ((s.startBlock pc vals b).block b) := by
  unfold State.startBlock
  dsimp only
  rw [h, if_neg Bool.false_ne_true, block_setBlock_same]
  exact ⟨rfl, rfl, rfl, rfl⟩
theorem startBlock_fenced (s : State) (pc : Addr) (vals : List Word) (a b : BlockId) : ((s.startBlock pc vals a).block b).fenced = (s.block b).fenced := by
  unfold State.startBlock
  dsimp only
  split
  · rfl
  · by_cases h : b = a
    · rw [h, block_setBlock_same]
      rfl
    · rw [block_setBlock_other _ _ _ _ h]
theorem startBlock_other {a : BlockId} (h : b ≠ a) : (s.startBlock pc vals a).block b = s.block b := by
  unfold State.startBlock
  dsimp only
  split
  · rfl
  · exact block_setBlock_other _ _ _ _ h
/-- Every block of a list starts, however often the list names it. -/
theorem startBlocks_start {l : List BlockId} (hb : b ∈ l) (hfree : (s.block b).fenced = false) :
    Started pc (startRegs (s.block b).regs vals) ((l.foldl (fun t b => t.startBlock pc vals b) s).block b) := by
  have hstep (t : State) (ht : (t.block b).fenced = false ∧ startRegs (t.block b).regs vals = startRegs (s.block b).regs vals) :
      Started pc (startRegs (s.block b).regs vals) ((t.startBlock pc vals b).block b) := ht.2 ▸ startBlock_starts ht.1
  refine foldl_reaches (f := fun t b => State.startBlock t pc vals b)
    (fun t => (t.block b).fenced = false ∧ startRegs (t.block b).regs vals = startRegs (s.block b).regs vals)
    (fun t => Started pc (startRegs (s.block b).regs vals) (t.block b)) (fun t a ht => ⟨(startBlock_fenced t pc vals a b).trans ht.1, ?_⟩)
    hstep (fun t a ht hstarted => ?_) hb ⟨hfree, rfl⟩
  · by_cases h : b = a
    · subst h
      obtain ⟨-, -, -, hregs⟩ := hstep t ht
      rw [hregs, startRegs_again]
    · rw [startBlock_other h, ht.2]
  · by_cases h : b = a
    · subst h
      exact hstep t ht
    · rwa [startBlock_other h]
end

section
variable {s : State} {r : Running}

theorem programStart_runs {mask : BitVec 64} {pc : Addr} {vals : List Word} (h : s.carries r 0x010B .own = true)
    (hmode : (s.part r.part).mode = pCreated ∨ (s.part r.part).mode = pDrained) (hpc : pc.toNat % 32 = 0)
    (hallowed : s.allowed r.part pc.toNat 32 = true) (hstacked : inCompanion pc.toNat 32 = false) :
    ∃ t, exec (.programStart mask pc vals) s = .next t ∧
        (t.part r.part).mode = pRunning ∧ t.mem = s.mem ∧ ∀ b ∈ s.maskBlocks r.part mask, (s.block b).fenced = false →
          (t.block b).pc = pc ∧ (t.block b).running = true ∧ (t.block b).core = .openState ∧ (t.block b).regs = startRegs (s.block b).regs vals := by
  have hstate : (!((s.part r.part).mode == pCreated || (s.part r.part).mode == pDrained)) = false := by rcases hmode with h | h <;> rw [h] <;> rfl
  have hl : ∀ c ∈ [(!((s.taken.part r.part).mode == pCreated || (s.taken.part r.part).mode == pDrained), rsState), (decide (pc.toNat % 32 ≠ 0), rsField),
      (!s.taken.allowed r.part pc.toNat 32 || inCompanion pc.toNat 32, rsAddress)], c.1 = false := by
    have htaken : s.taken.allowed r.part pc.toNat 32 = true := hallowed
    simp only [taken_part, hstate, hpc, htaken, hstacked, List.mem_cons, List.not_mem_nil, or_false]
    rintro _ (rfl | rfl | rfl) <;> rfl
  have hmem (l : List BlockId) (t : State) : (l.foldl (fun t b => t.startBlock pc vals b) t).mem = t.mem :=
    foldl_keeps State.mem _ l t fun t b => by
      unfold State.startBlock
      dsimp only
      split <;> rfl
  simp only [exec, execProgramStart]
  refine ⟨_, cmd_of_unrefused h rfl hl, (ok_mode _ r).trans (setPartMode_mode _ _ _), (ok_mem _ r).trans (hmem _ _), fun b hb hfree => ?_⟩
  rw [ok_block]
  exact startBlocks_start (s := s.taken) hb hfree

theorem blockResume_resumes {b : BlockId} (pc : Addr) (h : s.carries r 0x010C .own = true) (hhas : s.partHas r.part b = true)
    (hparked : (s.block b).core = .parked) :
    exec (.blockResume b pc) s = .next ((s.taken.resumeAt b (if pc = 0 then (s.block b).ghdrPc else pc)).ok r) := by
  have hl : ∀ c ∈ [(!s.partHas r.part b, rsScope), ((s.block b).core != .parked, rsState)], c.1 = false := by
    rw [hhas, hparked]
    simp
  simp only [exec, execBlockResume]
  exact cmd_of_unrefused h rfl hl
theorem staleBlockResume_resumes {b : BlockId} {p : PartId} (howner : s.owner b = some p) (hmode : (s.part p).mode = pRunning)
    (hup : s.flapinoUp = true) (hparked : (s.block b).core = .parked) (hstale : (s.block b).lastStatus = stStaleConfig)
    (hpc : (s.block b).pc = (s.block b).ghdrPc) : exec (.staleBlockResume b) s = .next (s.resumeAt b (s.block b).pc) := by
  simp only [exec, execStaleBlockResume, howner]
  exact when_of (by simp only [hmode, hup, hparked, hstale, hpc]; simp)

/-! ## PART_DRAIN, DRAIN_TIMEOUT, PARTITION_DRAINED (R356, R357) -/

theorem drainBlock_other {a b : BlockId} (s : State) (h : b ≠ a) : (s.drainBlock a).block b = s.block b := by
  unfold State.drainBlock
  dsimp only
  split
  · exact block_setBlock_other _ _ _ _ h
  · split
    · exact block_setBlock_other _ _ _ _ h
    · rfl
  · exact block_setBlock_other _ _ _ _ h
  · exact block_setBlock_other _ _ _ _ h
  · rfl
theorem drainBlock_inGroup {b : BlockId} (h : (s.block b).core = .inGroup) : ((s.drainBlock b).block b).stopAtGhdr = true := by
  simp only [State.drainBlock, h, block_setBlock_same]
theorem drainBlock_recv {b : BlockId} {i : BitVec 7} {q : Reg} {d : Bool} (h : (s.block b).core = .openState) (hstall : (s.block b).stall = .recv i q d) :
    ((s.drainBlock b).block b).core = .stopped := by
  simp only [State.drainBlock, h, hstall, block_setBlock_same]
/-- Only blocks change in a drain. -/
theorem drainBlock_eq (s : State) (b : BlockId) : ∃ bs, s.drainBlock b = { s with blocks := bs } := by
  unfold State.drainBlock
  dsimp only
  split
  · exact ⟨_, rfl⟩
  · split
    · exact ⟨_, rfl⟩
    · exact ⟨_, rfl⟩
  · exact ⟨_, rfl⟩
  · exact ⟨_, rfl⟩
  · exact ⟨_, rfl⟩

theorem partDrain_drains {ms : BitVec 32} (h : s.carries r opPartDrain .own = true) (hms : ms.toNat ≤ 60000) (hmode : (s.part r.part).mode = pRunning) :
    ∃ t, exec (.partDrain ms) s = .next t ∧
      (t.part r.part).mode = pDraining ∧ (t.part r.part).drainTimeout = (ms != 0) ∧ t.fl.bg = s.fl.bg ++ [r] ∧
      ∀ b ∈ s.partBlocks r.part, ((s.block b).core = .inGroup → (t.block b).stopAtGhdr = true) ∧
        (∀ i q d, (s.block b).core = .openState → (s.block b).stall = .recv i q d → (t.block b).core = .stopped) := by
  have hl : ∀ c ∈ [(decide (60000 < ms.toNat), rsField), ((s.taken.part r.part).mode != pRunning, rsState)], c.1 = false := by
    rw [taken_part, hmode]
    simp [hms]
  simp only [exec, execPartDrain]
  refine ⟨_, cmd_of_unrefused h rfl hl, setPartMode_mode _ _ _, ?_, ?_, fun b hb => ?_⟩
  · exact (congrArg Partition.drainTimeout (part_setPart_same _ _ _)).trans (congrArg Partition.drainTimeout (part_setPart_same _ _ _))
  · exact congrArg Flapino.bg (foldl_keeps State.fl _ (s.partBlocks r.part) (s.taken.startBg r) fun t b => by
      obtain ⟨_, ht⟩ := drainBlock_eq t b
      rw [ht])
  · obtain ⟨t, -, hblock, hlast⟩ := foldl_block (f := fun t b => State.drainBlock t b) (fun _ => True) (fun _ _ _ => trivial)
      (fun t a c hne => drainBlock_other t hne) (partBlocks_nodup s r.part) hb (s := s.taken.startBg r) trivial
    have hend : ((s.partBlocks r.part).foldl (fun t b => t.drainBlock b) (s.taken.startBg r)).block b = (t.drainBlock b).block b := hlast
    have hsame : t.block b = s.block b := hblock
    refine ⟨fun hcore => ?_, fun i q d hcore hstall => ?_⟩
    · exact (congrArg BlockState.stopAtGhdr hend).trans (drainBlock_inGroup (hsame ▸ hcore))
    · exact (congrArg BlockState.core hend).trans (drainBlock_recv (hsame ▸ hcore) (hsame ▸ hstall))

theorem abortBlock_parts (s : State) (b : BlockId) : (s.abortBlock b).parts = s.parts := by
  unfold State.abortBlock
  dsimp only
  split
  · split <;> rfl
  · unfold State.killGroup
    dsimp only
    split <;> rfl
  · split
    · rfl
    · split <;> rfl
  · rfl
  · rfl
theorem killComplete_other {a b : BlockId} (s : State) (g : Group) (status : BitVec 8) (core : CoreState) (h : b ≠ a) :
    (s.killComplete a g status core).block b = s.block b :=
  (block_setBlock_other _ _ _ _ h).trans ((block_setBlock_other _ _ _ _ h).trans (dropGroup_block_other _ _ _ h))
theorem abortBlock_other {a b : BlockId} (s : State) (h : b ≠ a) : (s.abortBlock a).block b = s.block b := by
  unfold State.abortBlock
  dsimp only
  split
  · split <;> exact block_setBlock_other _ _ _ _ h
  · unfold State.killGroup
    dsimp only
    split
    · rfl
    · exact killComplete_other s _ _ _ h
  · split
    · exact block_setBlock_other _ _ _ _ h
    · split <;> exact block_setBlock_other _ _ _ _ h
  · rfl
  · rfl
theorem abortBlock_ends {b : BlockId} (hcore : (s.block b).core = .inGroup) (hgroup : (s.block b).group.isSome = true) :
    ((s.abortBlock b).block b).group = none := by
  obtain ⟨g, hg⟩ := Option.isSome_iff_exists.mp hgroup
  rw [abortBlock_inGroup s b g hcore hg, killComplete_block]
  exact dropGroup_group _
/-- A group that is open in a listed block is killed. -/
theorem abortBlocks_end {l : List BlockId} (hl : l.Nodup) {b : BlockId} (hb : b ∈ l) (hcore : (s.block b).core = .inGroup)
    (hgroup : (s.block b).group.isSome = true) : ((l.foldl (fun t b => t.abortBlock b) s).block b).group = none := by
  obtain ⟨t, -, hblock, hlast⟩ := foldl_block (f := fun t b => State.abortBlock t b) (fun _ => True) (fun _ _ _ => trivial)
    (fun t a c hne => abortBlock_other t hne) hl hb (s := s) trivial
  have hend : (l.foldl (fun t b => t.abortBlock b) s).block b = (t.abortBlock b).block b := hlast
  rw [hend]
  exact abortBlock_ends (hblock ▸ hcore) (hblock ▸ hgroup)
theorem abortBlocks_part (l : List BlockId) (s : State) (p : PartId) : (l.foldl (fun t b => t.abortBlock b) s).part p = s.part p :=
  congrArg (fun ps => tGet Partition.reset ps p.toNat) (foldl_keeps State.parts _ l s abortBlock_parts)

theorem drainTimeout_kills {p : PartId} (hmode : (s.part p).mode = pDraining) (htimeout : (s.part p).drainTimeout = true) :
    ∃ t, exec (.drainTimeout p) s = .next t ∧ (t.part p).drainTimeout = false ∧ (t.part p).mode = pDraining ∧
      ∀ b ∈ s.partBlocks p, (s.block b).core = .inGroup → (s.block b).group.isSome = true → (t.block b).group = none := by
  simp only [exec, execDrainTimeout]
  refine ⟨_, when_of (by rw [hmode, htimeout]; rfl), ?_, ?_, fun b hb hcore hgroup => ?_⟩
  · rw [abortBlocks_part, part_setPart_same]
  · rw [abortBlocks_part, part_setPart_same]
    exact hmode
  · exact abortBlocks_end (s := s.setPart p { s.part p with drainTimeout := false }) ((partBlocks_nodup s p).filter _) (List.mem_filter.mpr ⟨hb, hgroup⟩) hcore hgroup

theorem partitionDrained_completes {p : PartId} {c : Running} (hmode : (s.part p).mode = pDraining) (hdrained : s.isDrained p = true)
    (hbg : s.bgOf p opPartDrain = some c) : exec (.partitionDrained p) s =
      .next ((((s.setPart p { s.part p with drainTimeout := false }).setPartMode p pDrained).dropBg p opPartDrain).ok c) := by
  simp only [exec, execPartitionDrained]
  rw [when_of (by rw [hmode, hdrained]; rfl)]
  generalize hdone : State.setPartMode _ p pDrained = t
  have hbg' : t.bgOf p opPartDrain = some c := hdone ▸ hbg
  rw [State.endBg, hbg']

/-! ## PART_RESUME and PART_ABORT (R356, R358) -/

/-- The lack of pages is judged in sequences and one mark of the partition. -/
theorem settlePages_keeps (s : State) (p q : PartId) : (s.settlePages p).blocks = s.blocks ∧ ((s.settlePages p).part q).mode = (s.part q).mode := by
  have hset (t : State) (x : Partition) (hx : x.mode = (t.part p).mode) : ((t.setPart p x).part q).mode = (t.part q).mode := by
    by_cases hq : q = p
    · subst hq
      rw [part_setPart_same, hx]
    · rw [part_setPart_other _ _ _ _ hq]
  unfold State.settlePages
  split
  · exact ⟨rfl, rfl⟩
  · next bt _ =>
    dsimp only
    generalize hjudged : List.foldl _ s _ = s1
    have h1 : (s1.blocks, s1.parts) = (s.blocks, s.parts) := by
      rw [← hjudged]
      refine foldl_keeps (fun t : State => (t.blocks, t.parts)) _ _ _ fun t i => ?_
      split <;> rfl
    obtain ⟨hblocks, hparts⟩ := Prod.mk.inj h1
    have hmode : (s1.part q).mode = (s.part q).mode := congrArg (fun ps => (tGet Partition.reset ps q.toNat).mode) hparts
    split
    · exact ⟨hblocks, (hset s1 { s1.part p with wlDeadline := false } rfl).trans hmode⟩
    · exact ⟨hblocks, hmode⟩
theorem requeueTasks_blocks (s : State) (pick : TaskEntry → Bool → Bool) : (s.requeueTasks pick).blocks = s.blocks :=
  foldl_keeps State.blocks _ _ _ fun _ _ => rfl

theorem partResume_runs (h : s.carries r 0x0107 .own = true) (hmode : (s.part r.part).mode = pDrained) :
    ∃ t, exec .partResume s = .next t ∧ (t.part r.part).mode = pRunning ∧
      ∀ b ∈ s.partBlocks r.part, (s.block b).running = true → (s.block b).core = .stopped → (s.block b).fenced = false → (s.block b).inReset = false →
        (t.block b).core = .openState ∧ (t.block b).pc = (s.block b).pc := by
  have hl : ∀ c ∈ [((s.taken.part r.part).mode != pDrained, rsState)], c.1 = false := by
    rw [taken_part, hmode]
    simp
  simp only [exec, execPartResume]
  refine ⟨_, cmd_of_unrefused h rfl hl, ?_, fun b hb hrunning hstopped hfree hout => ?_⟩
  · rw [ok_mode, (settlePages_keeps _ _ _).2, setPartMode_mode]
  · have hlisted : b ∈ (s.partBlocks r.part).filter fun b =>
        (s.block b).running && (s.block b).core == .stopped && !(s.block b).fenced && !(s.block b).inReset :=
      List.mem_filter.mpr ⟨hb, by rw [hrunning, hstopped, hfree, hout]; rfl⟩
    obtain ⟨t, -, hblock, hlast⟩ := foldl_block (f := fun t b => State.resumeAt t b (t.block b).pc) (fun _ => True) (fun _ _ _ => trivial)
      (fun t a c hne => block_setBlock_other _ _ _ _ hne) ((partBlocks_nodup s r.part).filter _) hlisted (s := s.taken) trivial
    rw [ok_block, State.block, (settlePages_keeps _ _ 0).1]
    generalize hresumed : List.foldl _ s.taken _ = u
    have hu : u.block b = (t.resumeAt b (t.block b).pc).block b := hresumed ▸ hlast
    have hrequeued : (u.requeueTasks fun e slow => e.partition == r.part && !slow).block b = u.block b :=
      congrArg (fun l => tGet BlockState.reset l b.idx) (requeueTasks_blocks u _)
    have hend : tGet BlockState.reset ((u.requeueTasks fun e slow => e.partition == r.part && !slow).setPartMode r.part pRunning).blocks b.idx =
        (t.resumeAt b (t.block b).pc).block b := hrequeued.trans hu
    rw [hend, State.resumeAt, block_setBlock_same]
    have hpc : (t.block b).pc = (s.block b).pc := congrArg BlockState.pc hblock
    exact ⟨rfl, hpc⟩

/-- The blocks' groups and the partition's state after an abort of a partition. -/
theorem abortPart_keeps (s : State) (p : PartId) : ((s.abortPart p).part p).mode = (s.part p).mode ∧
    ∀ b ∈ s.partBlocks p, (s.block b).core = .inGroup → (s.block b).group.isSome = true → ((s.abortPart p).block b).group = none := by
  unfold State.abortPart
  dsimp only
  generalize haborted : List.foldl _ s (s.partBlocks p) = s1
  have hregions (l : List RegionId) : bystanders 0 (l.foldl (fun t r => match (t.region r).upd.run with
      | some k => if k.entry.partition = p then t.interruptUpdate r .abort else t
      | none => t) s1) = bystanders 0 s1 := foldl_keeps (bystanders 0) _ _ _ fun t r => by
    split
    · split
      · exact interruptUpdate_bystanders t r .abort
      · rfl
    · rfl
  obtain ⟨hhub, hblocks⟩ := Prod.mk.inj (hregions allRegions)
  refine ⟨?_, fun b hb hcore hgroup => ?_⟩
  · have hpart : s1.part p = s.part p := haborted ▸ abortBlocks_part _ _ _
    exact (congrArg (fun v : _ × (PartId → BitVec 4 × BitVec 64 × List DraftCmd) => (v.2 p).1) hhub).trans (congrArg Partition.mode hpart)
  · have hended : (s1.block b).group = none := haborted ▸ abortBlocks_end (partBlocks_nodup s p) hb hcore hgroup
    exact (congrArg (fun v : BlockId → Bool × Bool × Option Group => (v b).2.2) hblocks).trans hended
theorem partAbort_kills (h : s.carries r 0x0108 .own = true) (hmode : (s.part r.part).mode = pRunning ∨ (s.part r.part).mode = pDraining) :
    ∃ t, exec .partAbort s = .next t ∧ (t.part r.part).mode = pDraining ∧
      ∀ b ∈ s.partBlocks r.part, (s.block b).core = .inGroup → (s.block b).group.isSome = true → (t.block b).group = none := by
  have hl : ∀ c ∈ [(!((s.taken.part r.part).mode == pRunning || (s.taken.part r.part).mode == pDraining), rsState)], c.1 = false := by
    rw [taken_part]
    rcases hmode with hm | hm <;> rw [hm] <;> simp
  obtain ⟨hkept, hkilled⟩ := abortPart_keeps s.taken r.part
  simp only [exec, execPartAbort]
  refine ⟨_, cmd_of_unrefused h rfl hl, ?_⟩
  rw [taken_part] at hkept ⊢
  generalize s.taken.abortPart r.part = u at hkept hkilled ⊢
  refine ⟨?_, fun b hb hcore hgroup => ?_⟩
  · rw [ok_mode]
    split
    · exact setPartMode_mode _ _ _
    · next hm =>
      rw [hkept]
      exact hmode.resolve_left hm
  · rw [ok_block]
    split <;> exact hkilled b hb hcore hgroup

theorem partQuery_answers (h : s.carries r 0x0109 .own = true) : ∃ rest : List Word,
    exec .partQuery s = .next (s.taken.okData r ((s.part r.part).mode.setWidth 64 :: (s.part r.part).quads :: rest)) := by
  simp only [exec, execPartQuery]
  exact ⟨_, cmd_of_carries s r _ _ _ h⟩
end

end Sys2Proof.Laws

namespace Sys2Proof.Laws

/-! SUPPORT for O48. PART_RESET and REGION_RESET: blocks held in reset, memory wiped, and what stands beside them. -/

open Sys2Proof.Machine

/-! ## A block put in reset (R404, R405) -/

theorem endRelay_other (s : State) (r : RelayTx) {b : BlockId} (h : b ≠ r.block) : (s.endRelay r).block b = s.block b := block_setBlock_other _ _ _ _ h
theorem resetBlock_other (s : State) {a b : BlockId} (h : b ≠ a) : (s.resetBlock a).block b = s.block b :=
  (loadBlock_block_other _ _ _ h).trans (block_setBlock_other _ _ _ _ h)
theorem holdBlock_other (s : State) {a b : BlockId} (h : b ≠ a) : (s.holdBlock a).block b = s.block b := by
  unfold State.holdBlock
  split
  · rfl
  · extract_lets s1 s2
    have h1 : s1.block b = s.block b := List.foldlRecOn (motive := fun t => State.block t b = s.block b) _ _ rfl fun t ht l hl => by
      have hl' : l.block = a := by simpa using (List.mem_filter.mp hl).2 |> fun h => (Bool.and_eq_true_iff.mp h).1
      exact (endRelay_other t l (hl' ▸ h)).trans ht
    exact (block_setBlock_other _ _ _ _ h).trans ((resetBlock_other s1 h).trans h1)
theorem endRelays_fenced (l : List RelayTx) (s : State) (b : BlockId) : ((l.foldl (fun t r => t.endRelay r) s).block b).fenced = (s.block b).fenced :=
  congrArg (fun v : _ × (BlockId → Bool × Bool × Option Group) => (v.2 b).1) (foldl_keeps (bystanders 0) _ l s endRelay_bystanders)
/-- A block that is not fenced is in reset, and still not fenced. -/
theorem holdBlock_holds {s : State} {b : BlockId} (h : (s.block b).fenced = false) :
    ((s.holdBlock b).block b).inReset = true ∧ ((s.holdBlock b).block b).fenced = false := by
  unfold State.holdBlock
  rw [h, if_neg Bool.false_ne_true]
  extract_lets s1 s2
  have h1 : (s1.block b).fenced = false := (endRelays_fenced _ s b).trans h
  have h2 : (s2.block b).fenced = false := by
    unfold s2 State.resetBlock
    rw [(loadBlock_block_same _ b).2.1, block_setBlock_same]
    exact h1
  rw [block_setBlock_same]
  exact ⟨rfl, h2⟩

/-- What a block that is put in reset leaves of its package. -/
def holdView (s : State) : (Tab RegionState × Tab Partition) × (Flapino × ResetState) := ((s.regions, s.parts), (s.fl, s.reset_))

theorem holdBlock_holdView (s : State) (b : BlockId) : holdView (s.holdBlock b) = holdView s := by
  unfold State.holdBlock
  split
  · rfl
  · exact foldl_keeps holdView (fun t l => t.endRelay l) _ s fun _ _ => rfl
theorem memByte_memClear_zero {m : Memory} {a : Nat} (base len : Nat) (h : memByte m a = 0) : memByte (memClear m base len) a = 0 := by
  by_cases hin : base ≤ a ∧ a < base + len
  · exact memByte_memClear_inside m base len a hin.1 hin.2
  · induction m with
    | nil => rfl
    | cons e m ih =>
      obtain ⟨k, v⟩ := e
      by_cases hk : k < base ∨ base + len ≤ k
      · rw [memClear, List.filter_cons_of_pos (by simpa using hk), memByte]
        rw [memByte] at h
        split
        · next hka => rwa [if_pos hka] at h
        · next hka =>
          rw [if_neg hka] at h
          exact ih h
      · rw [memClear, List.filter_cons_of_neg (by simpa using hk)]
        rw [memByte, if_neg (by omega)] at h
        exact ih h
/-- A byte that is zero stays zero. -/
theorem holdBlock_zero {s : State} {a : Nat} (b : BlockId) (h : memByte s.mem a = 0) : memByte (s.holdBlock b).mem a = 0 := by
  unfold State.holdBlock
  split
  · exact h
  · extract_lets s1 s2
    have h1 : s1.mem = s.mem := foldl_keeps State.mem _ _ _ fun _ _ => rfl
    change memByte (memClear s1.mem (spadBase b) slotBytes) a = 0
    exact memByte_memClear_zero _ _ (h1 ▸ h)

/-! ## PART_RESET (R405) -/

theorem dropInstances_bystanders (k : Nat) (s : State) (p : PartId) : bystanders k (s.dropInstances p) = bystanders k s := by
  unfold State.dropInstances
  exact foldl_keeps (bystanders k) _ _ _ fun t i => failInstance_bystanders t i causeAbort true
theorem dropTasks_bystanders (k : Nat) (s : State) (p : PartId) (l : List RegionId) :
    bystanders k (l.foldl (fun t q => t.dropTasks p q) s) = bystanders k s := foldl_keeps (bystanders k) _ _ _ fun _ _ => rfl
theorem syncJobs_bystanders (k : Nat) (s : State) : bystanders k s.syncJobs = bystanders k s := by
  refine foldl_keeps (bystanders k) _ _ _ fun t b => ?_
  dsimp only
  split
  · rfl
  · exact bystanders_of_block (setBlock_blockView rfl rfl rfl)

/-- The blocks of a partition whose state and quads are known to stand. -/
theorem partHas_of_hubView {k : Nat} {s t : State} (h : hubView k t = hubView k s) (p : PartId) (b : BlockId) : t.partHas p b = s.partHas p b := by
  have hpart := congrArg (fun v : _ × (PartId → BitVec 4 × BitVec 64 × List DraftCmd) => v.2 p) h
  obtain ⟨hmode, hrest⟩ := Prod.mk.inj hpart
  simp only [State.partHas, State.partExists, hmode, (Prod.mk.inj hrest).1]

/-- The partition's work lists dropped. -/
def clearLists (s : State) (p : PartId) : State := s.setPart p { s.part p with lists := [], wlDeadline := false }
theorem clearLists_bystanders (s : State) (p : PartId) : bystanders 0 (clearLists s p) = bystanders 0 s := bystanders_of_hub (setPart_hubView 0 rfl rfl rfl)
theorem clearLists_mem (s : State) (p : PartId) : (clearLists s p).mem = s.mem := rfl
/-- The partition's state while its memory and its units are cleared. -/
def clearedPart (s : State) (p : PartId) (wipe : Bool) : State :=
  let x := s.part p
  let s2 := allRegions.foldl (fun t q => t.dropTasks p q) ((s.setPartMode p pResetting).dropInstances p)
  let s3 : State := { s2 with
    seqs := s2.seqs.filter fun e => !(decide (x.seqBase ≤ e.1) && decide (e.1 < x.seqBase + x.seqCount))
    stages := s2.stages.map fun e => if e.2.partition == p then (e.1, { e.2 with admitEn := false, inflight := 0, jobVersion := 0 }) else e
    mem := if wipe then x.stacked.foldl (fun m g => memClear m g.base g.len) s2.mem else s2.mem
    bursts := if wipe then s2.bursts.filter fun e => !x.stacked.any fun g => inRange (32 * e.1) 32 g.base g.len else s2.bursts }
  clearLists s3.syncJobs p

theorem clearedPart_bystanders (s : State) (p : PartId) (wipe : Bool) : bystanders 0 (clearedPart s p wipe) = bystanders 0 (s.setPartMode p pResetting) := by
  unfold clearedPart
  extract_lets x s2 s3
  have h2 : bystanders 0 s2 = bystanders 0 (s.setPartMode p pResetting) := (dropTasks_bystanders 0 _ p allRegions).trans (dropInstances_bystanders 0 _ p)
  have h3 : bystanders 0 s3 = bystanders 0 s2 := rfl
  exact (clearLists_bystanders _ p).trans ((syncJobs_bystanders 0 s3).trans (h3.trans h2))
theorem memByte_wiped {l : List Range} {g : Range} (hg : g ∈ l) {a : Nat} (h1 : g.base ≤ a) (h2 : a < g.base + g.len) (m : Memory) :
    memByte (l.foldl (fun m g => memClear m g.base g.len) m) a = 0 :=
  foldl_reaches (f := fun m (g : Range) => memClear m g.base g.len) (fun _ => True) (fun m => memByte m a = 0) (fun _ _ _ => trivial)
    (fun m _ => memByte_memClear_inside m _ _ a h1 h2) (fun _ _ _ hm => memByte_memClear_zero _ _ hm) hg trivial
theorem clearedPart_zero {s : State} {p : PartId} {g : Range} (hg : g ∈ (s.part p).stacked) {a : Nat} (h1 : g.base ≤ a) (h2 : a < g.base + g.len) :
    memByte (clearedPart s p true).mem a = 0 := by
  unfold clearedPart
  extract_lets x s2 s3
  rw [clearLists_mem, syncJobs_mem]
  exact memByte_wiped hg h1 h2 s2.mem

section
variable {s : State} {r : Running}

theorem partReset_eq {w : Bool} (h : s.carries r opPartReset .own = true) (hmode : (s.part r.part).mode = pDrained ∨ (s.part r.part).mode = pFailed) :
    exec (.partReset w) s = .next ((((clearedPart (s.taken.startBg r) r.part w).partBlocks r.part).foldl (fun t b => t.holdBlock b)
      (clearedPart (s.taken.startBg r) r.part w)).settleReset r.part) := by
  have hl : ∀ c ∈ [(!((s.taken.part r.part).mode == pDrained || (s.taken.part r.part).mode == pFailed), rsState)], c.1 = false := by
    rw [taken_part]
    rcases hmode with hm | hm <;> rw [hm] <;> simp
  simp only [exec, execPartReset]
  exact cmd_of_unrefused h rfl hl

/-- A partition that holds a block in reset is not back. -/
theorem settleReset_waits {t : State} {p : PartId} {b : BlockId} (hhas : t.partHas p b = true) (hheld : (t.block b).inReset = true)
    (hfree : (t.block b).fenced = false) : t.settleReset p = t := by
  refine if_neg fun h => ?_
  have hb := List.all_eq_true.mp h.2 b (mem_partBlocks.mpr hhas)
  rw [hheld, hfree] at hb
  exact Bool.false_ne_true hb

theorem partReset_resets {w : Bool} (h : s.carries r opPartReset .own = true) (hmode : (s.part r.part).mode = pDrained ∨ (s.part r.part).mode = pFailed) :
    ∃ t, exec (.partReset w) s = .next t ∧
      (∀ b ∈ s.partBlocks r.part, (s.block b).fenced = false → (t.block b).inReset = true ∧ (t.part r.part).mode = pResetting) ∧
      (w = true → ∀ g ∈ (s.part r.part).stacked, ∀ a : Nat, g.base ≤ a → a < g.base + g.len → memByte t.mem a = 0) := by
  refine ⟨_, partReset_eq h hmode, fun b hb hfree => ?_, ?_⟩
  · generalize hcleared : clearedPart (s.taken.startBg r) r.part w = u
    have hkeeps : bystanders 0 u = bystanders 0 ((s.taken.startBg r).setPartMode r.part pResetting) := hcleared ▸ clearedPart_bystanders _ _ _
    obtain ⟨hhub, hblocks⟩ := Prod.mk.inj hkeeps
    have hhas : u.partHas r.part b = true := by
      have hquads := (Bool.and_eq_true_iff.mp (mem_partBlocks.mp hb)).2
      rw [partHas_of_hubView hhub, State.partHas, State.partExists, setPartMode_mode]
      exact Bool.and_eq_true_iff.mpr ⟨rfl, (congrArg (fun x : Partition => x.quads.getLsbD b.quadBit) (part_setPart_same _ _ _)).trans hquads⟩
    have hmodeU : (u.part r.part).mode = pResetting :=
      (congrArg (fun v : _ × (PartId → BitVec 4 × BitVec 64 × List DraftCmd) => (v.2 r.part).1) hhub).trans (setPartMode_mode _ _ _)
    have hfreeU : (u.block b).fenced = false := (congrArg (fun v : BlockId → Bool × Bool × Option Group => (v b).1) hblocks).trans hfree
    obtain ⟨t, -, hblock, hlast⟩ := foldl_block (f := fun t b => State.holdBlock t b) (fun _ => True) (fun _ _ _ => trivial)
      (fun t a c hne => holdBlock_other t hne) (partBlocks_nodup u r.part) (mem_partBlocks.mpr hhas) (s := u) trivial
    generalize hheld : List.foldl (fun t b => State.holdBlock t b) u (u.partBlocks r.part) = v at hlast ⊢
    have hparts : v.parts = u.parts := hheld ▸ congrArg (fun x : (_ × Tab Partition) × _ => x.1.2) (foldl_keeps holdView _ _ u holdBlock_holdView)
    have hpart : v.part r.part = u.part r.part := congrArg (fun l => tGet Partition.reset l r.part.toNat) hparts
    obtain ⟨hin, hout⟩ := holdBlock_holds (s := t) (b := b) (hblock ▸ hfreeU)
    have hhasV : v.partHas r.part b = true := by
      rw [State.partHas, State.partExists, hpart]
      exact hhas
    rw [settleReset_waits hhasV (hlast ▸ hin) (hlast ▸ hout), hlast, hpart]
    exact ⟨hin, hmodeU⟩
  · rintro rfl g hg a h1 h2
    have hmem : ∀ t : State, memByte t.mem a = 0 → memByte (t.settleReset r.part).mem a = 0 := fun t ht => by
      have hsame : (t.settleReset r.part).mem = t.mem :=
        congrArg (fun v : _ × List Island × PowerState × Memory => v.2.2.2) (settleReset_bootView t r.part)
      rwa [hsame]
    exact hmem _ (List.foldlRecOn (motive := fun t : State => memByte t.mem a = 0) _ _
      (clearedPart_zero (s := s.taken.startBg r) hg h1 h2) fun t ht b _ => holdBlock_zero b ht)

/-! ## REGION_RESET (R404) -/

/-- A region's reset and its fences, while bundles close and blocks are held. -/
def regionView (q : RegionId) (s : State) : (Bool × BitVec 16) × (Flapino × ResetState) :=
  (((s.region q).inReset, (s.region q).fencedQuads), (s.fl, s.reset_))

theorem closeBundles_regionView (q : RegionId) (s : State) (p : RegionId) (first : Nat) : regionView q (s.closeBundles p first) = regionView q s := by
  unfold State.closeBundles
  dsimp only
  by_cases h : q = p
  · simp only [regionView, h, region_setRegion_same]
    rfl
  · simp only [regionView, region_setRegion_other _ _ _ _ h]
    rfl
theorem holdBlock_regionView (q : RegionId) (s : State) (b : BlockId) : regionView q (s.holdBlock b) = regionView q s :=
  congrArg (fun v : (Tab RegionState × _) × (Flapino × ResetState) =>
    (((tGet RegionState.reset v.1.1 q.toNat).inReset, (tGet RegionState.reset v.1.1 q.toNat).fencedQuads), v.2)) (holdBlock_holdView s b)
theorem holdRegion_holds (s : State) (q : RegionId) : ((s.holdRegion q).region q).inReset = true ∧
    ((s.holdRegion q).region q).fencedQuads = (s.region q).fencedQuads ∧ (s.holdRegion q).fl = s.fl ∧
    tGet false (s.holdRegion q).reset_.regionBooting q.toNat = true := by
  unfold State.holdRegion
  extract_lets x mine y s1 z s2 w s3 s4
  have h2 : regionView q s2 = regionView q s1 := foldl_keeps (regionView q) _ _ _ fun _ _ => rfl
  have h4 : regionView q s4 = regionView q s3 := (closeBundles_regionView q _ _ _).trans (closeBundles_regionView q _ _ _)
  have hend := (foldl_keeps (regionView q) (fun t b => State.holdBlock t b) (allBlocks.filter fun b => b.region == q) s4
    (holdBlock_regionView q)).trans h4
  obtain ⟨hregion, hrest⟩ := Prod.mk.inj hend
  obtain ⟨hreset, hfenced⟩ := Prod.mk.inj hregion
  obtain ⟨hfl, hboot⟩ := Prod.mk.inj hrest
  obtain ⟨hregion2, hrest2⟩ := Prod.mk.inj h2
  have h1 : (s1.region q).inReset = true ∧ (s1.region q).fencedQuads = (s.region q).fencedQuads := by
    unfold s1
    rw [region_setRegion_same]
    exact ⟨rfl, rfl⟩
  refine ⟨hreset.trans ((Prod.mk.inj hregion2).1.trans h1.1),
    hfenced.trans ((Prod.mk.inj hregion2).2.trans h1.2), hfl.trans (Prod.mk.inj hrest2).1, ?_⟩
  rw [hboot]
  exact tGet_tSet_same _ _ _ _
theorem regionReset_holds {q : RegionId} (h : s.carries r opRegionReset .package = true) (hrun : (s.region q).upd.run = none)
    (hqueue : (s.region q).upd.queue = []) (hidle : ∀ k ∈ s.partsOfRegion q, (s.part k).mode ≠ pRunning ∧ (s.part k).mode ≠ pDraining) :
    ∃ t, exec (.regionReset q) s = .next t ∧ (t.region q).inReset = true ∧ t.fl.bg = s.fl.bg ++ [r] ∧
      tGet false t.reset_.regionBooting q.toNat = true ∧ (t.region q).fencedQuads = (s.region q).fencedQuads := by
  have hbusy : ((s.partsOfRegion q).any fun p => (s.part p).mode == pRunning || (s.part p).mode == pDraining) = false :=
    List.any_eq_false.mpr fun k hk => by
      obtain ⟨hrunning, hdraining⟩ := hidle k hk
      rw [Bool.or_eq_true, not_or, beq_iff_eq, beq_iff_eq]
      exact ⟨hrunning, hdraining⟩
  have hl : ∀ c ∈ [((s.taken.partsOfRegion q).any (fun p => (s.taken.part p).mode == pRunning || (s.taken.part p).mode == pDraining) ||
      (s.taken.region q).upd.run.isSome || !(s.taken.region q).upd.queue.isEmpty, rsState)], c.1 = false := by
    have hbusy' : ((s.taken.partsOfRegion q).any fun p => (s.taken.part p).mode == pRunning || (s.taken.part p).mode == pDraining) = false := hbusy
    have hregion : s.taken.region q = s.region q := rfl
    rw [hbusy', hregion, hrun, hqueue]
    simp
  obtain ⟨hreset, hfenced, hfl, hboot⟩ := holdRegion_holds (s.taken.startBg r) q
  simp only [exec, execRegionReset]
  exact ⟨_, cmd_of_unrefused h rfl hl, hreset, congrArg Flapino.bg hfl, hboot, hfenced⟩
end

/-- Settles O48, command by command and event by event. The words of PART_QUERY are the model's choice (log 24), and the GHDR that BLOCK_RESUME with
program counter 0 names is that of log 78. -/
theorem partitionsRunAndDrain : Obligations.PartitionsRunAndDrain := by
  unfold Obligations.PartitionsRunAndDrain
  intro s r p x
  exact ⟨fun mask pc vals h hmode hpc hallowed hstacked => programStart_runs h hmode hpc hallowed hstacked,
    fun b pc h hhas hparked => blockResume_resumes pc h hhas hparked,
    fun b howner hmode hup hparked hstale hpc => staleBlockResume_resumes howner hmode hup hparked hstale hpc,
    fun ms h hms hmode => partDrain_drains h hms hmode, fun hmode htimeout => drainTimeout_kills hmode htimeout,
    fun c hmode hdrained hbg => partitionDrained_completes hmode hdrained hbg, fun h hmode => partResume_runs h hmode,
    fun h hmode => partAbort_kills h hmode, fun h => partQuery_answers h, fun w h hmode => partReset_resets h hmode,
    fun q h hrun hqueue hidle => regionReset_holds h hrun hqueue hidle⟩

end Sys2Proof.Laws

namespace Sys2Proof.Laws

/-! SUPPORT for O54. FIFO_REOPEN does not ask whether the package has the crossing that it opens. -/

open Sys2Proof.Machine

/-- The hub crossbar and a port 24, which the package lacks, are listed as released, and the crossing of that port as closed. No run reaches it. -/
def port24Closed : State := { State.reset with
  reset_ := { State.reset.reset_ with released := [.hubCrossbar, .port 24] }
  power := { State.reset.power with domainsOff := 0 }
  closed := [.port 24] }

theorem port24_lacks : (Sys2Proof.Instr.fifoReopen (.port 24)).unitsExist = false := rfl

/-- The crossing reopens as any other whose islands run (R275). -/
theorem port24Closed_reopens : exec (.fifoReopen (.port 24)) port24Closed = .next { port24Closed with closed := [] } :=
  rfl

/-- Refutes O54: its second clause says that a command for a unit which the package lacks changes nothing (the model's choice, log 3), in every
state, also in `port24Closed`, where FIFO_REOPEN takes the crossing of port 24 off the list of closed crossings. -/
theorem not_everyCommandAnswers : ¬ Obligations.EveryCommandAnswers := by
  intro ⟨_, hlacks⟩
  have hexec := port24Closed_reopens.symm.trans (hlacks (.fifoReopen (.port 24)) port24Closed port24_lacks)
  have hclosed := congrArg State.closed (Host.Outcome.next.inj hexec)
  exact absurd hclosed (by decide)

end Sys2Proof.Laws
